-- ==== Sys2Proof/Word.lean ====
section
/-! DEFINITION. The words of the IGN2048 and their plainest arithmetic (R9, R10, R40). -/
namespace Sys2Proof

/-- A 32-bit register, field or instruction word (R40, R44). -/
abbrev Word := BitVec 32
/-- One byte of memory (R9). -/
abbrev Byte := BitVec 8
/-- One of the 80-bit accumulators acc0 to acc7 (R40). -/
abbrev Acc := BitVec 80
/-- A five-bit register number (R40). -/
abbrev Reg := BitVec 5
/-- A three-bit predicate number (R40). -/
abbrev PReg := BitVec 3

/-- Bits [lo + len - 1 : lo] of a word as a number. -/
def Word.field (w : Word) (lo len : Nat) : Nat := (w.toNat / 2 ^ lo) % 2 ^ len

/-- The word that holds the number `n` modulo 2^32. -/
def Word.ofN (n : Nat) : Word := BitVec.ofNat 32 n

/-- 1 for true and 0 for false, as status bits and predicates are counted. -/
def bit (b : Bool) : Nat := if b then 1 else 0

end Sys2Proof
end

