-- ==== Sys2Proof/Syntax.lean ====
section
/-! DEFINITION. The commands of the block: one constructor for each row of spec/opcode_table.json. -/
namespace Sys2Proof

/-- An engine that executes Veleb instructions (R40, R88, R112). -/
inductive Eng where
  /-- MGT's main program. -/
  | mgt
  /-- MGT in the RUN job it serves (R112, R115). -/
  | mgtJob
  /-- The safety core. -/
  | saf
  /-- The front stage. -/
  | asm
  /-- Physical cycle core n (R313). -/
  | cyc (n : Fin 8)
  /-- Law engine k of the closed-loop engine (R381). -/
  | cle (k : Fin 8)
  /-- Acquisition plan sequencer n (R120). -/
  | afe (n : Fin 16)
deriving DecidableEq, Repr

/-- A frame as a field port receives it, without its payload (R429, R434). -/
structure RxHdr where
  /-- the port -/
  port : Fin 4
  /-- its FCS is correct -/
  fcsOk : Bool
  /-- its length in bytes -/
  len : Nat
  /-- destination MAC address, byte 0 in [7:0] -/
  dst : BitVec 48
  /-- source MAC address, byte 0 in [7:0] -/
  src : BitVec 48
  /-- number of IEEE 802.1Q tags -/
  tags : Nat
  /-- VLAN ID, 0 when untagged -/
  vlan : BitVec 12
  /-- EtherType -/
  ethertype : BitVec 16
  /-- the sequence number of its redundancy control trailer and whether the trailer names LAN B, none without one -/
  trailer : Option (BitVec 16 × Bool)
deriving DecidableEq, Repr

/-- Where a frame of the management path arrives (R435). -/
inductive MgtPath where
  /-- MGT_ETH. -/
  | mgtEth
  /-- The management VLAN of a field port. -/
  | field (r : RxHdr)
deriving DecidableEq, Repr

/-- The data set of an Announce message (IEEE 1588-2019 clause 9.3, R444). -/
structure Announce where
  priority1 : Byte
  clockClass : Byte
  accuracy : Byte
  variance : BitVec 16
  priority2 : Byte
  grandmaster : BitVec 64
  stepsRemoved : BitVec 16
  sender : BitVec 64
  senderPort : BitVec 16
  /-- logMessageInterval: the interval is 2 to this power in seconds -/
  logInterval : Int
  utcOffset : BitVec 16
  utcValid : Bool
  leap61 : Bool
  leap59 : Bool
  ptpTimescale : Bool
deriving DecidableEq, Repr

/-- A CAN frame without its data (R459). -/
structure CanFrame where
  id : BitVec 29
  ide : Bool
  rtr : Bool
  fdf : Bool
  brs : Bool
  esi : Bool
  dlc : BitVec 4
deriving DecidableEq, Repr

/-- What an error does to a controller's counters under ISO 11898-1 (R470). -/
inductive CanInc where
  | none | rec1 | rec8 | tec8
deriving DecidableEq, Repr

/-- A frame of the twin link whose CRC passed (R478, R479). -/
structure LinkFrame where
  /-- type of R479 -/
  ty : Nat
  last : Bool := false
  complete : Bool := false
  /-- sender's ep -/
  ep : Word := 0
  /-- Meridian count of the copy -/
  count : Word := 0
  /-- DELTA: REF_CLK periods from step 1 of that Meridian to the frame -/
  delta : Word := 0
  /-- area of R481 and index of the first line -/
  area : Nat := 0
  first : Nat := 0
  /-- HELLO: state and critical period in ticks -/
  state : Nat := 0
  period : Nat := 0
  /-- HELLO: echo of the twin's DELTA -/
  echo : Word := 0
  /-- the lines, sixteen words each -/
  lines : List (List Word) := []
deriving DecidableEq, Repr

/-- A witness frame whose CRC passed (R485), without its type. -/
structure WitFrame where
  reason : Nat := 0
  seq : Nat := 0
  /-- bytes 4 to 7 -/
  ep : Word := 0
  /-- bytes 8 to 11 -/
  arg : Word := 0
  /-- identity of the unit that sent the heartbeat or request -/
  id : BitVec 128 := 0
deriving DecidableEq, Repr

/-- How a station's frame arrives (R364). -/
inductive StnPath where
  /-- In a CAN FD frame of controller c. -/
  | can (c : Fin 8) (f : CanFrame)
  /-- In an Ethernet frame; NET's control-plane quota is full or not (R433). -/
  | eth (r : RxHdr) (quotaFull : Bool)
deriving DecidableEq, Repr

/-- The twin lanes (R477). -/
inductive Lane where
  | a | b
deriving DecidableEq, Repr

/-- A request frame of the management link without its command byte (R111). -/
structure MgtReq where
  /-- byte 1 -/
  b1 : Byte
  /-- sequence number -/
  seq : BitVec 16
  /-- payload length -/
  len : Word
  /-- 40-bit address -/
  addr : BitVec 40
  /-- byte 13: the job entry of RUN -/
  b13 : Byte
  /-- bytes 14 and 15: the timeout of RUN in ms -/
  b14 : BitVec 16
  payload : List Byte
  /-- CRC-32C as the frame carries it -/
  crc : Word
deriving DecidableEq, Repr

/-- Who waits for a gate read (R94): a transport's READ, or MGT's program or RUN job in a load. -/
inductive GateReader where
  | link (t : Fin 4)
  | program (job : Bool)
deriving DecidableEq, Repr

/-- What every instruction command carries beside its operands: the engine that executes it, the predicate selector in
[25:23], the reserved bits of its first word that are set, and, for a first word whose major opcode is a reserved one, that
opcode (R44, R45, R47, R50). -/
structure Hdr where
  eng : Eng
  pr : PReg
  rsv : Word
  op : Option (BitVec 6) := none
deriving DecidableEq, Repr

/-- The commands (spec/opcode_table.json). -/
inductive Instr where
  /-- ADD (R53). Sets rd to ra plus rb modulo 2^32. -/
  | add (h : Hdr) (rd ra rb : Reg)
  /-- SUB (R53). Sets rd to ra minus rb modulo 2^32. -/
  | sub (h : Hdr) (rd ra rb : Reg)
  /-- AND (R53). Sets rd to the bitwise AND of ra and rb. -/
  | and (h : Hdr) (rd ra rb : Reg)
  /-- OR (R53). Sets rd to the bitwise OR of ra and rb. -/
  | or (h : Hdr) (rd ra rb : Reg)
  /-- XOR (R53). Sets rd to the bitwise XOR of ra and rb. -/
  | xor (h : Hdr) (rd ra rb : Reg)
  /-- ANDN (R53). Sets rd to ra AND NOT rb. -/
  | andn (h : Hdr) (rd ra rb : Reg)
  /-- NOR (R53). Sets rd to NOT (ra OR rb). -/
  | nor (h : Hdr) (rd ra rb : Reg)
  /-- ADDSAT (R53). Sets rd to the signed sum of ra and rb, saturated to 32 bits. -/
  | addsat (h : Hdr) (rd ra rb : Reg)
  /-- SUBSAT (R53). Sets rd to the signed difference of ra and rb, saturated to 32 bits. -/
  | subsat (h : Hdr) (rd ra rb : Reg)
  /-- SLL (R53). Shifts ra left by rb[4:0]. -/
  | sll (h : Hdr) (rd ra rb : Reg)
  /-- SRL (R53). Shifts ra right logically by rb[4:0]. -/
  | srl (h : Hdr) (rd ra rb : Reg)
  /-- SRA (R53). Shifts ra right arithmetically by rb[4:0]. -/
  | sra (h : Hdr) (rd ra rb : Reg)
  /-- ROL (R53). Rotates ra left by rb[4:0]. -/
  | rol (h : Hdr) (rd ra rb : Reg)
  /-- SLLI (R53). Shifts ra left by the rb field value. -/
  | slli (h : Hdr) (rd ra sh : Reg)
  /-- SRLI (R53). Shifts ra right logically by the rb field value. -/
  | srli (h : Hdr) (rd ra sh : Reg)
  /-- SRAI (R53). Shifts ra right arithmetically by the rb field value. -/
  | srai (h : Hdr) (rd ra sh : Reg)
  /-- MUL (R53). Sets rd to the low 32 bits of ra times rb. -/
  | mul (h : Hdr) (rd ra rb : Reg)
  /-- MULH (R53). Sets rd to the high 32 bits of the signed 64-bit product. -/
  | mulh (h : Hdr) (rd ra rb : Reg)
  /-- MULHU (R53). Sets rd to the high 32 bits of the unsigned 64-bit product. -/
  | mulhu (h : Hdr) (rd ra rb : Reg)
  /-- DIV (R54). Signed division truncated towards zero, with fixed results for division by zero and overflow. -/
  | div (h : Hdr) (rd ra rb : Reg)
  /-- DIVU (R54). Unsigned division, giving 0xFFFF_FFFF on division by zero. -/
  | divu (h : Hdr) (rd ra rb : Reg)
  /-- REM (R54). Signed remainder with the sign of ra, and fixed boundary results. -/
  | rem (h : Hdr) (rd ra rb : Reg)
  /-- REMU (R54). Unsigned remainder, giving ra on division by zero. -/
  | remu (h : Hdr) (rd ra rb : Reg)
  /-- MIN (R53). Sets rd to the signed minimum of ra and rb. -/
  | min (h : Hdr) (rd ra rb : Reg)
  /-- MAX (R53). Sets rd to the signed maximum of ra and rb. -/
  | max (h : Hdr) (rd ra rb : Reg)
  /-- MINU (R53). Sets rd to the unsigned minimum of ra and rb. -/
  | minu (h : Hdr) (rd ra rb : Reg)
  /-- MAXU (R53). Sets rd to the unsigned maximum of ra and rb. -/
  | maxu (h : Hdr) (rd ra rb : Reg)
  /-- ABS (R54). Sets rd to the saturated absolute value of ra. -/
  | abs (h : Hdr) (rd ra : Reg)
  /-- FMUL_Q (R57). Fixed-point multiply with shift, rounding mode and saturation, optionally trapping FXP_SAT. -/
  | fmulQ (h : Hdr) (rd ra rb : Reg) (mode : BitVec 2) (t : Bool) (sh : BitVec 5)
  /-- FMAC (R59). Adds the signed product of ra and rb to an 80-bit accumulator, saturating. -/
  | fmac (h : Hdr) (acc : BitVec 3) (ra rb : Reg)
  /-- FMSC (R59). Subtracts the signed product of ra and rb from an accumulator, saturating. -/
  | fmsc (h : Hdr) (acc : BitVec 3) (ra rb : Reg)
  /-- ACC_CLR (R59). Clears an accumulator. -/
  | accClr (h : Hdr) (acc : BitVec 3)
  /-- ACC_LD (R59). Loads an accumulator with ra sign-extended and shifted left. -/
  | accLd (h : Hdr) (acc : BitVec 3) (ra : Reg) (sh : BitVec 5)
  /-- ACC_RD (R59). Reads an accumulator shifted, rounded and saturated to 32 bits into rd. -/
  | accRd (h : Hdr) (rd : Reg) (acc : BitVec 3) (sh : BitVec 5) (mode : BitVec 2) (t : Bool)
  /-- ACC_RDW (R59). Reads a raw word of an accumulator into rd. -/
  | accRdw (h : Hdr) (rd : Reg) (acc : BitVec 3) (k : BitVec 2)
  /-- ACC_WRW (R59). Writes a raw word of an accumulator from ra. -/
  | accWrw (h : Hdr) (acc : BitVec 3) (ra : Reg) (k : BitVec 2)
  /-- CMP (R61). Compares ra with rb and combines the condition into predicate pd. -/
  | cmp (h : Hdr) (pd : PReg) (comb : BitVec 2) (ra rb : Reg) (cond : BitVec 8)
  /-- CMPI (R61). Compares ra with a 32-bit immediate and combines the condition into pd. -/
  | cmpi (h : Hdr) (pd : PReg) (comb : BitVec 2) (ra : Reg) (imm : Word) (cond : BitVec 8)
  /-- BEXT (R56). Extracts a bit field of ra, zero-extended. -/
  | bext (h : Hdr) (rd ra pos wm1 : Reg)
  /-- BEXTS (R56). Extracts a bit field of ra, sign-extended. -/
  | bexts (h : Hdr) (rd ra pos wm1 : Reg)
  /-- BINS (R56). Inserts the low bits of ra into a field of rd. -/
  | bins (h : Hdr) (rd ra pos wm1 : Reg)
  /-- CLZ (R56). Counts the leading zeros of ra. -/
  | clz (h : Hdr) (rd ra : Reg)
  /-- CTZ (R56). Counts the trailing zeros of ra. -/
  | ctz (h : Hdr) (rd ra : Reg)
  /-- POPC (R56). Counts the ones in ra. -/
  | popc (h : Hdr) (rd ra : Reg)
  /-- BREV (R56). Reverses the bit order of ra. -/
  | brev (h : Hdr) (rd ra : Reg)
  /-- BSWAP (R56). Reverses the byte order of ra. -/
  | bswap (h : Hdr) (rd ra : Reg)
  /-- ADDI (R55). Adds a sign-extended 14-bit immediate to ra. -/
  | addi (h : Hdr) (rd ra : Reg) (imm : BitVec 14)
  /-- ANDI (R55). ANDs ra with a zero-extended 14-bit immediate. -/
  | andi (h : Hdr) (rd ra : Reg) (imm : BitVec 14)
  /-- ORI (R55). ORs ra with a zero-extended 14-bit immediate. -/
  | ori (h : Hdr) (rd ra : Reg) (imm : BitVec 14)
  /-- XORI (R55). XORs ra with a zero-extended 14-bit immediate. -/
  | xori (h : Hdr) (rd ra : Reg) (imm : BitVec 14)
  /-- LI (R55). Sets rd to a sign-extended 20-bit immediate. -/
  | li (h : Hdr) (rd : Reg) (imm : BitVec 20)
  /-- LUI (R55). Sets rd to a 20-bit immediate shifted left by 12. -/
  | lui (h : Hdr) (rd : Reg) (imm : BitVec 20)
  /-- LI32 (R55). Sets rd to a 32-bit immediate from the second word. -/
  | li32 (h : Hdr) (rd : Reg) (imm : Word)
  /-- ADDI32 (R55). Adds a 32-bit immediate to ra. -/
  | addi32 (h : Hdr) (rd ra : Reg) (imm : Word)
  /-- ANDI32 (R55). ANDs ra with a 32-bit immediate. -/
  | andi32 (h : Hdr) (rd ra : Reg) (imm : Word)
  /-- ORI32 (R55). ORs ra with a 32-bit immediate. -/
  | ori32 (h : Hdr) (rd ra : Reg) (imm : Word)
  /-- XORI32 (R55). XORs ra with a 32-bit immediate. -/
  | xori32 (h : Hdr) (rd ra : Reg) (imm : Word)
  /-- BR (R62). Branches by a signed word offset, conditionally when predicated. -/
  | br (h : Hdr) (off : BitVec 20)
  /-- CALL (R62). Writes the return offset to g31 and branches by a signed word offset. -/
  | call (h : Hdr) (off : BitVec 20)
  /-- JR (R62). Jumps to the home-relative offset in ra. -/
  | jr (h : Hdr) (ra : Reg)
  /-- JALR (R62). Jumps to the offset in ra and writes the return offset to rd. -/
  | jalr (h : Hdr) (rd ra : Reg)
  /-- LD_B (R63). Loads a byte from the home region, zero- or sign-extended. -/
  | ldB (h : Hdr) (rd rb : Reg) (x : Bool) (off : BitVec 12)
  /-- LD_H (R63). Loads a halfword from the home region, zero- or sign-extended. -/
  | ldH (h : Hdr) (rd rb : Reg) (x : Bool) (off : BitVec 12)
  /-- LD_W (R63). Loads a word from the home region. -/
  | ldW (h : Hdr) (rd rb : Reg) (off : BitVec 12)
  /-- LD_D (R64). Loads a doubleword into the pair rd, rd+1. -/
  | ldD (h : Hdr) (rd rb : Reg) (off : BitVec 12)
  /-- ST_B (R63). Stores a byte to the home region by read, merge and write. -/
  | stB (h : Hdr) (rd rb : Reg) (off : BitVec 12)
  /-- ST_H (R63). Stores a halfword to the home region. -/
  | stH (h : Hdr) (rd rb : Reg) (off : BitVec 12)
  /-- ST_W (R63). Stores a word to the home region. -/
  | stW (h : Hdr) (rd rb : Reg) (off : BitVec 12)
  /-- ST_D (R64). Stores the pair rd, rd+1 as one full word with a fresh code. -/
  | stD (h : Hdr) (rd rb : Reg) (off : BitVec 12)
  /-- PI_RD (R68). Reads a process-image word or pair by plane rules, with forces applied. -/
  | piRd (h : Hdr) (rd rb : Reg) (x : Bool) (off : BitVec 12)
  /-- PI_WR (R68). Writes a process-image word or pair by plane rules. -/
  | piWr (h : Hdr) (rd rb : Reg) (x : Bool) (off : BitVec 12)
  /-- LD_F (R65). Loads a word from a 40-bit far address. -/
  | ldF (h : Hdr) (rd ra : Reg)
  /-- ST_F (R65). Stores a word to a 40-bit far address. -/
  | stF (h : Hdr) (rb ra : Reg)
  /-- LD_FD (R65). Loads a pair from a 40-bit far address. -/
  | ldFd (h : Hdr) (rd ra : Reg)
  /-- ST_FD (R65). Stores a pair to a 40-bit far address. -/
  | stFd (h : Hdr) (rb ra : Reg)
  /-- AMO_SWAP (R66). Atomically swaps a home word with rb and returns the old word. -/
  | amoSwap (h : Hdr) (rd ra rb : Reg)
  /-- AMO_ADD (R66). Atomically adds rb to a home word. -/
  | amoAdd (h : Hdr) (rd ra rb : Reg)
  /-- AMO_AND (R66). Atomically ANDs rb into a home word. -/
  | amoAnd (h : Hdr) (rd ra rb : Reg)
  /-- AMO_OR (R66). Atomically ORs rb into a home word. -/
  | amoOr (h : Hdr) (rd ra rb : Reg)
  /-- AMO_MAX (R66). Atomically sets a home word to the signed maximum with rb. -/
  | amoMax (h : Hdr) (rd ra rb : Reg)
  /-- AMO_MIN (R66). Atomically sets a home word to the signed minimum with rb. -/
  | amoMin (h : Hdr) (rd ra rb : Reg)
  /-- AMO_CAS (R66). Atomically compares a home word with rd and swaps in rb on equality. -/
  | amoCas (h : Hdr) (rd ra rb : Reg)
  /-- EDG_R (R72). Detects a rising edge of ra using an edge slot. -/
  | edgR (h : Hdr) (pd : PReg) (ra : Reg) (slot : BitVec 14)
  /-- EDG_F (R72). Detects a falling edge of ra using an edge slot. -/
  | edgF (h : Hdr) (pd : PReg) (ra : Reg) (slot : BitVec 14)
  /-- TON (R73). Evaluates an on-delay timer slot against the release tick. -/
  | ton (h : Hdr) (pd pin : PReg) (src : Bool) (slot : BitVec 13) (w2 : Word)
  /-- TOF (R73). Evaluates an off-delay timer slot against the release tick. -/
  | tof (h : Hdr) (pd pin : PReg) (src : Bool) (slot : BitVec 13) (w2 : Word)
  /-- TP (R73). Evaluates a pulse timer slot against the release tick. -/
  | tp (h : Hdr) (pd pin : PReg) (src : Bool) (slot : BitVec 13) (w2 : Word)
  /-- CTU (R74). Evaluates an up-counter slot. -/
  | ctu (h : Hdr) (pd cu r : PReg) (slot : BitVec 12) (pv : Word)
  /-- CTD (R74). Evaluates a down-counter slot. -/
  | ctd (h : Hdr) (pd cd ld : PReg) (slot : BitVec 12) (pv : Word)
  /-- SLOT_RD (R75). Reads the state of a timer, counter or edge slot. -/
  | slotRd (h : Hdr) (rd : Reg) (kind : BitVec 2) (slot : BitVec 14)
  /-- SLOT_WR (R75). Writes the state of a timer, counter or edge slot. -/
  | slotWr (h : Hdr) (rd : Reg) (kind : BitVec 2) (slot : BitVec 14)
  /-- SIG (R78). Raises a software event of the executing plane's block. -/
  | sig (h : Hdr) (n : BitVec 10)
  /-- WAIT (R78). Suspends until an event is pending or a timeout passes. -/
  | wait (h : Hdr) (pd : PReg) (n : BitVec 10) (rt : Reg)
  /-- WAITANY (R78). Suspends until any masked event of a group is pending or a timeout passes. -/
  | waitany (h : Hdr) (pd : PReg) (g rm rt : Reg)
  /-- WAIT_RESUME (R78). A suspended engine resumes when its event becomes pending or its timeout passes, consuming events and setting pd. -/
  | waitResume (eng : Eng) (task : BitVec 4)
  /-- EVT_CLR (R78). Clears the engine's pending bit for an event. -/
  | evtClr (h : Hdr) (n : BitVec 10)
  /-- MSG_SEND (R79). Queues a message record to a mailbox or CAN buffer without waiting. -/
  | msgSend (h : Hdr) (pd : PReg) (ra : Reg) (target : BitVec 11)
  /-- MSG_RECV (R79). Copies a message record from a mailbox or CAN buffer without waiting. -/
  | msgRecv (h : Hdr) (pd : PReg) (ra : Reg) (target : BitVec 11)
  /-- JOB_POST (R80). Posts a solver job descriptor by the engine's path and returns a handle. -/
  | jobPost (h : Hdr) (rd ra : Reg)
  /-- JOB_POLL (R81). Returns the status word of a job handle. -/
  | jobPoll (h : Hdr) (rd ra : Reg)
  /-- JOB_CANCEL (R81). Requests cancellation of a job, effective only before it runs. -/
  | jobCancel (h : Hdr) (ra : Reg)
  /-- TIME_RD (R82). Reads network time atomically and latches the high seconds. -/
  | timeRd (h : Hdr) (rd : Reg)
  /-- TIME_RDH (R82). Reads the latched seconds [47:32]. -/
  | timeRdh (h : Hdr) (rd : Reg)
  /-- SR_RD (R43). Reads a special register, latching high halves of tk and op. -/
  | srRd (h : Hdr) (rd : Reg) (sel : BitVec 3)
  /-- CFG_R (R83). Reads the active value of a configuration field. -/
  | cfgR (h : Hdr) (r : Reg) (fid : BitVec 16)
  /-- CFG_W (R13). Writes a configuration field by its access class, for fields without a row of their own. -/
  | cfgW (h : Hdr) (r : Reg) (fid : BitVec 16)
  /-- CFG_COMMIT (R84). Captures a unit's shadow into a pending set for its boundary. -/
  | cfgCommit (h : Hdr) (r : Reg) (fid : BitVec 16)
  /-- CFG_RS (R83). Reads the shadow value of a class C field. -/
  | cfgRs (h : Hdr) (r : Reg) (fid : BitVec 16)
  /-- COMMIT_APPLY (R106). At a unit's boundary the pending set is checked between fields and applied whole or refused. -/
  | commitApply (unit : BitVec 6)
  /-- HELD_LIVE_WRITE_APPLY (R85). A class L write by MGT to another plane takes effect at the unit's next boundary. -/
  | heldLiveWriteApply (unit : BitVec 6)
  /-- NOP (R86). Does nothing. -/
  | nop (h : Hdr)
  /-- MER (R25). Ends the task's cycle; on the critical task it starts a Meridian, on SAF it ends the safety cycle. -/
  | mer (h : Hdr) (ns : Fin 10000) (busy : Bool)
  /-- SLEEP (R579). MGT requests device sleep, refused with a code or entered after the Twilight window. -/
  | sleep (h : Hdr) (rd : Reg)
  /-- HALT (R86). Stops the engine and posts a fault record. -/
  | halt (h : Hdr)
  /-- TRAP (R86). Traps with cause SOFT and a 10-bit code. -/
  | trap (h : Hdr) (code : BitVec 10)
  /-- TRET (R86). Returns from a trap handler to or after the recorded pc. -/
  | tret (h : Hdr) (skips : Bool)
  /-- PI_SB (R70). Begins a process-image set, abandoning any open one. -/
  | piSb (h : Hdr)
  /-- PI_SE (R70). Ends a process-image set so that it enters the next freeze. -/
  | piSe (h : Hdr)
  /-- P_RD (R86). Reads all predicates into rd. -/
  | pRd (h : Hdr) (rd : Reg)
  /-- P_WR (R86). Writes predicates p1 to p7 from ra. -/
  | pWr (h : Hdr) (ra : Reg)
  /-- DESCRIBE (R539). key.use operation returning a slot record. -/
  | describe (h : Hdr) (rd ra : Reg) (struck : Option (Fin 8))
  /-- GCM_ENC (R539). key.use operation opening a GCM encryption stream. -/
  | gcmEnc (h : Hdr) (rd ra : Reg) (struck : Option (Fin 8))
  /-- GCM_DEC (R539). key.use operation opening a GCM decryption stream. -/
  | gcmDec (h : Hdr) (rd ra : Reg) (struck : Option (Fin 8))
  /-- CMAC (R539). key.use operation opening a CMAC stream. -/
  | cmac (h : Hdr) (rd ra : Reg) (struck : Option (Fin 8))
  /-- CHUNK (R541). key.use operation processing one chunk of an open stream. -/
  | chunk (h : Hdr) (rd ra : Reg) (struck : Option (Fin 8))
  /-- FINISH (R539). key.use operation closing a stream and releasing or checking its tag. -/
  | finishStream (h : Hdr) (rd ra : Reg) (struck : Option (Fin 8))
  /-- ABORT (R539). key.use operation closing a stream with nothing released. -/
  | abortStream (h : Hdr) (rd ra : Reg) (struck : Option (Fin 8))
  /-- SIGN (R539). key.use operation signing a digest with ECDSA P-384. -/
  | sign (h : Hdr) (rd ra : Reg) (struck : Option (Fin 8))
  /-- VERIFY (R539). key.use operation verifying an ECDSA signature. -/
  | verify (h : Hdr) (rd ra : Reg) (struck : Option (Fin 8))
  /-- HASH (R539). key.use operation computing SHA-384. -/
  | hash (h : Hdr) (rd ra : Reg) (struck : Option (Fin 8))
  /-- DERIVE (R535). key.use operation deriving a key into a free slot by HKDF. -/
  | deriveKey (h : Hdr) (rd ra : Reg) (struck : Option (Fin 8))
  /-- GENERATE (R535). key.use operation generating a key from the DRBG into a free slot. -/
  | generate (h : Hdr) (rd ra : Reg) (struck : Option (Fin 8))
  /-- INVALIDATE (R533). key.use operation emptying a slot and orphaning its descendants. -/
  | invalidate (h : Hdr) (rd ra : Reg) (struck : Option (Fin 8))
  /-- ATTEST (R543). key.use operation writing a signed attestation statement. -/
  | attest (h : Hdr) (rd ra : Reg) (struck : Option (Fin 8))
  /-- RANDOM (R539). key.use operation returning random bytes. -/
  | random (h : Hdr) (rd ra : Reg) (struck : Option (Fin 8))
  /-- PUBLIC (R539). key.use operation returning the public key of a slot. -/
  | publicKey (h : Hdr) (rd ra : Reg) (struck : Option (Fin 8))
  /-- KEY_BAD_OP (R540). key.use with an unlisted op returns BAD_OP. -/
  | keyBadOp (h : Hdr) (rd ra : Reg) (op : BitVec 8)
  /-- CNV (R122). Queues one conversion, waiting for room when both places are full. -/
  | cnv (h : Hdr) (rd : Reg) (ch : BitVec 7) (prof : BitVec 2) (ow : Bool) (pri : BitVec 2)
  /-- TRG_WAIT (R123). Ends the plan sequence and suspends until a trigger or timeout. -/
  | trgWait (h : Hdr) (pd : PReg) (rt : Reg)
  /-- OW_SET (R124). Sets the open-wire pull current of a field channel. -/
  | owSet (h : Hdr) (ch : BitVec 7) (pull : BitVec 3)
  /-- SAR_TRIGGER (R125). A tick or PWM trigger of a converter becomes pending or resumes the sequencer, or is lost. -/
  | sarTrigger (n : Fin 16)
  /-- TRG_WAIT_TIMEOUT (R123). The timeout of trg.wait passes and the sequencer resumes with pd false. -/
  | trgWaitTimeout (n : Fin 16)
  /-- CONVERSION_DONE (R122). A plan conversion completes and delivers its result word and hold instant; `nv` is the input in nV to AGND. -/
  | conversionDone (n : Fin 16) (nv : Int) (late : Bool) (ns : Word)
  /-- URGENT_CONVERSION_DUE (R130). An urgent conversion becomes due and aborts a running plan conversion of lower priority. -/
  | urgentConversionDue (n : Fin 16) (started : Bool)
  /-- URGENT_CONVERSION_DONE (R130). An urgent conversion completes and delivers its result to the requesting slot; `nv` is the input in nV to
  AGND. -/
  | urgentConversionDone (n : Fin 16) (nv : Int) (late : Bool)
  /-- AFE_RUN (R139). Writing RUN stops or releases a converter's sequencer. -/
  | afeRun (h : Hdr) (r : Reg) (n : Fin 16)
  /-- SAMPLE_INSTANT (R143). A metering sample falls due at a network-time multiple of 125,000 ns. -/
  | sampleInstant (codes : List (BitVec 24))
  /-- ACC_BOUNDARY (R147). At an accumulation boundary EQC transfers energy, applies changes, drives pulses, publishes and saves. -/
  | accBoundary (temp : Word)
  /-- THERMAL_SAMPLE (R161). A thermal calculator evaluates Tf, Tr and flow and accumulates heat, cold and mass. -/
  | thermalSample
  /-- HARMONIC_WINDOW_END (R152). A harmonic window completes and its group magnitudes and THD are computed. -/
  | harmonicWindowEnd (g : Fin 4)
  /-- ZX_TIMEOUT (R157). All phases of a group pass the timeout and the group enters the lost state. -/
  | zxTimeout (g : Fin 4)
  /-- MTR_RUN (R148). Writing MTR.RUN stops sampling with a closing boundary or resumes it. -/
  | mtrRun (h : Hdr) (r : Reg)
  /-- SAVE_NOW (R169). Writing SAVE_NOW requests an accumulator save at the next boundary. -/
  | saveNow (h : Hdr) (r : Reg)
  /-- SAVE_DONE (R170). A save write completes and its read-back passes or fails. -/
  | saveDone (ok : Bool)
  /-- PULSE_IN_EDGE (R172). A stable selected edge on a pulse input is counted forward or reverse. -/
  | pulseInEdge (n : Fin 32) (rising dir : Bool) (ns : Fin 1000000000)
  /-- PULSE_OUT_START (R173). A pulse output starts its next pulse from the backlog. -/
  | pulseOutStart (n : Fin 16)
  /-- PULSE_OUT_END (R173). A pulse output ends its active width. -/
  | pulseOutEnd (n : Fin 16)
  /-- SNAP_NOW (R202). Takes a snapshot at once unless the area is locked. -/
  | snapNow (h : Hdr) (rd : Reg)
  /-- SNAP_REL (R202). Abandons open blocks and releases the snapshot lock. -/
  | snapRel (h : Hdr) (rd : Reg)
  /-- BLK_OPEN (R204). Opens an assembly block from its header. -/
  | blkOpen (h : Hdr) (rd ra : Reg)
  /-- BLK_CLOSE (R213). Closes a block, scales it and writes its certificate and arrays to solver memory. -/
  | blkClose (h : Hdr) (rd ra : Reg)
  /-- HYD_BR (R206). Appends the hydraulic entries of a branch. -/
  | hydBr (h : Hdr) (rd ra : Reg)
  /-- TH_BR (R207). Appends the thermal entries of a branch, waiting for a running advance. -/
  | thBr (h : Hdr) (rd ra : Reg)
  /-- INJ_ROW (R208). Appends the entries of a sub-station, plant or tank injection. -/
  | injRow (h : Hdr) (rd ra rb : Reg)
  /-- MEAS_ROW (R209). Appends the row of a measurement descriptor. -/
  | measRow (h : Hdr) (rd ra : Reg)
  /-- ENT_W (R210). Appends a program-supplied entry record after checks. -/
  | entW (h : Hdr) (rd ra : Reg)
  /-- TRN_GO (R216). Starts a Transit advance or refuses it. -/
  | trnGo (h : Hdr) (rd ra : Reg)
  /-- TRN_ST (R202). Returns TRN.STATUS. -/
  | trnSt (h : Hdr) (rd : Reg)
  /-- SNAPSHOT_DUE (R196). A periodic snapshot falls due and is taken or skipped. -/
  | snapshotDue
  /-- SNAPSHOT_COPY_END (R197). The snapshot copy completes and event 320 is raised. -/
  | snapshotCopyEnd
  /-- TRN_ADVANCE_END (R217). A Transit advance completes its three phases and writes its results. -/
  | trnAdvanceEnd
  /-- TRN_REINIT (R186). TRN reinitialises the plug store after a model image. -/
  | trnReinit
  /-- ASM_RUN (R201). Writing ASM.RUN releases or stops the ASM program. -/
  | asmRun (h : Hdr) (r : Reg)
  /-- TRN_RUN (R222). Writing TRN.RUN allows or stops advances. -/
  | trnRun (h : Hdr) (r : Reg)
  /-- PATCH_GO (R184). MGT submits a parameter patch without an envelope to the gate. -/
  | patchGo (h : Hdr) (r : Reg)
  /-- EST_RUN (R269). Library entry running one state estimate and writing the estimate set. -/
  | estRun
  /-- CAL_KEEP (R278). Library entry keeping the snapshot for calibration. -/
  | calKeep
  /-- CAL_STEP (R282). Library entry doing one unit of calibration work. -/
  | calStep
  /-- DSP_RUN (R302). Library entry running one dispatch and writing the proposal set. -/
  | dspRun
  /-- JOB_START (R247). SOLV takes the oldest highest-priority queued job and starts it. -/
  | jobStart
  /-- FACT_LDL (R239). Macro-op factoring a sparse symmetric matrix as LDLᵀ with pivot policy. -/
  | factLdl
  /-- FACT_CHOL (R239). Macro-op computing a dense Cholesky factor. -/
  | factChol
  /-- FACT_QR (R239). Macro-op computing a Householder QR factor. -/
  | factQr
  /-- SOLVE_TRI (R239). Macro-op solving with a factor, fully or in part. -/
  | solveTri
  /-- SCHUR (R239). Macro-op forming a Schur complement update. -/
  | schur
  /-- GEMM (R239). Macro-op dense matrix multiply-accumulate. -/
  | gemm
  /-- SPMV (R239). Macro-op sparse matrix-vector product. -/
  | spmv
  /-- AXPY (R239). Macro-op scaled vector sum. -/
  | axpy
  /-- CLIP (R239). Macro-op clipping a vector to bounds and counting changes. -/
  | clip
  /-- NORM (R239). Macro-op computing a norm or dot product into a scalar. -/
  | norm
  /-- PIV_POL (R241). Macro-op setting the pivot policy for the rest of the job. -/
  | pivPol
  /-- SC (R240). Macro-op scalar arithmetic. -/
  | sc
  /-- SEQ_BR (R239). Macro-op conditional branch within the program. -/
  | seqBr
  /-- SEQ_END (R252). Macro-op ending the job DONE, publishing and storing Afterglow records. -/
  | seqEnd
  /-- AG_LD (R250). Macro-op loading a warm start from Afterglow. -/
  | agLd
  /-- AG_ST (R251). Macro-op storing an Afterglow record, committed at DONE. -/
  | agSt
  /-- LANE_FAIL (R226). A residue mismatch fails a lane, which is spared or its group taken out. -/
  | laneFail (group : Fin 64) (lane : Fin 17)
  /-- BIST_STEP (R225). The next lane of a group hands its work to the spare for a pattern test. -/
  | bistStep (group : Fin 64)
  /-- BIST_PATTERN_DONE (R225). A lane's pattern test ends; it takes its work back or is marked failed. -/
  | bistPatternDone (group : Fin 64) (pass : Bool)
  /-- SOLV_RUN (R247). Writing SOLV.RUN runs jobs or holds the queue after the running job. -/
  | solvRun (h : Hdr) (r : Reg)
  /-- FREE_MERIDIAN (R318). With no critical task running, a Meridian starts at every 25th tick. -/
  | freeMeridian (busy : Bool)
  /-- DEFERRED_MERIDIAN_START (R28). A Meridian requested during a running one begins when its step 6 completes. -/
  | deferredMeridianStart (ns : Fin 10000)
  /-- RESTART_COMPLETE (R340). A core restart finishes initialisation and restore; tasks take first releases. -/
  | restartComplete (core : Fin 8)
  /-- RET_COMMIT_DONE (R336). The MRAM write of a retained commit completes. -/
  | retCommitDone (core : Fin 8)
  /-- GATE_APPLY (R23). The update gate applies a pending change at the target's natural boundary. -/
  | gateApply (target : BitVec 12)
  /-- GATE_READ (R94). A gate read by MGT copies up to 4 KiB at the owner's boundary. -/
  | gateRead (g : GateReader)
  /-- TASK_RELEASE (R315). A periodic task is released at its tick, pinning inputs, or its release is skipped on overrun. -/
  | taskRelease (core : Fin 8) (task : Fin 16)
  /-- EVENT_TASK_RELEASE (R315). An event task is released at its event once MIN_INT has passed. -/
  | eventTaskRelease (core : Fin 8) (task : Fin 16)
  /-- IDLE_WINDOW_END (R330). An idle measurement window ends and IDLE_LAST is written. -/
  | idleWindowEnd (core : Fin 8)
  /-- CYC_RUN (R341). Writing CYC_n.RUN stops the core at the next Meridian or resumes it. -/
  | cycRun (h : Hdr) (r : Reg) (core : Fin 8)
  /-- STATION_RESPONSE (R366). A station response is accepted or discarded and the input set is written. -/
  | stationResponse (path : StnPath) (data : List Byte) (ns : Word)
  /-- STATION_REJECTION (R367). A rejection with a higher epoch counts as a miss and informs TWIN. -/
  | stationRejection (path : StnPath) (data : List Byte)
  /-- STATION_RESP_TIMEOUT (R366). No response arrives in time and the exchange misses. -/
  | stationRespTimeout (station : Fin 256)
  /-- STN_RUN (R376). Writing STN.RUN runs or stops the exchanges. -/
  | stnRun (h : Hdr) (r : Reg)
  /-- SLOT_TRIGGER (R381). A loop slot trigger stamps, samples sources, raises urgent requests and starts the deadline. -/
  | slotTrigger (slot : Fin 512) (period : Fin 250) (ns : Word)
  /-- LAW_RUN_START (R381). A free law engine takes the earliest-deadline ready run. -/
  | lawRunStart (eng : Fin 8)
  /-- LP_SRC (R395). Reads a slot source into rd. -/
  | lpSrc (h : Hdr) (rd kf : Reg)
  /-- LP_LAW (R386). Evaluates the slot's law up to v without committing. -/
  | lpLaw (h : Hdr) (rd : Reg)
  /-- LP_OUT (R392). Commits the run: limits, states, output write. -/
  | lpOut (h : Hdr) (ra : Reg)
  /-- LP_HOLD (R395). Ends the run with nothing committed. -/
  | lpHold (h : Hdr)
  /-- SLOT_DEADLINE (R390). A slot deadline passes before commit and the run is abandoned as a miss. -/
  | slotDeadline (slot : Fin 512)
  /-- PWM_EVENT (R393). A PWM channel reaches counter zero, period end, compare A or compare B, loading compare A as configured. -/
  | pwmEvent (c : Fin 32) (ev : BitVec 2)
  /-- CLE_RUN (R401). Writing CLE.RUN accepts or refuses triggers. -/
  | cleRun (h : Hdr) (r : Reg)
  /-- SAFETY_RELEASE (R403). SAF releases a safety cycle, or enters the safe state on overrun. -/
  | safetyRelease (codeFault checkerFault : Bool)
  /-- SAFETY_MONITOR_EXPIRY (R408). The safety-time monitor expires and SAF enters the safe state. -/
  | safetyMonitorExpiry
  /-- SI_FILTER_CHANGE (R415). A safety input's filtered state changes after its filter time. -/
  | siFilterChange (si : Fin 16) (level : Bool)
  /-- TEST_PULSE (R416). A test-pulse output pulses low and assigned inputs are checked. -/
  | testPulse (p : Fin 4)
  /-- PAIR_DISCREPANCY (R417). A pair disagrees beyond its discrepancy time and both inputs fault. -/
  | pairDiscrepancy (k : Fin 8)
  /-- READBACK_MISMATCH (R418). Two consecutive checked readback mismatches force the safe state. -/
  | readbackMismatch (n : Fin 8) (level : Bool)
  /-- OFF_PULSE_START (R419). An enabled on output receives its off-pulse. -/
  | offPulseStart (n : Fin 8)
  /-- OFF_PULSE_END (R419). An off-pulse ends and the pin returns to its commanded state. -/
  | offPulseEnd (n : Fin 8)
  /-- SAF_RUN (R414). MGT writing SAF.RUN = 0 enters the safe state with STOPPED. -/
  | safRun (h : Hdr) (r : Reg)
  /-- SAF_RESTART (R414). MGT requests a SAF restart, refused or performed at the next release. -/
  | safRestart (h : Hdr) (r : Reg)
  /-- REF_CLK_LOSS (R36). REF_CLK edges are absent for 1 µs and every deadline is treated as passed. -/
  | refClkLoss
  /-- REF_CLK_RETURN (R36). REF_CLK returns and the tick resumes. -/
  | refClkReturn
  /-- SCRUB_STEP (R99). MEM reads, corrects and writes back one word atomically. -/
  | scrubStep (word : BitVec 40) (bits : Fin 4)
  /-- VLOG_CLEAR (R116). Writing VLOG_CLEAR empties the violation log. -/
  | vlogClear (h : Hdr) (r : Reg)
  /-- IDENT (R112). Management command returning identity, revision, tamper and boot state. -/
  | ident (t : Fin 4) (q : MgtReq)
  /-- READ (R112). Management command reading bytes by MGT's access rules. -/
  | read (t : Fin 4) (q : MgtReq)
  /-- WRITE (R112). Management command writing the host window or update staging. -/
  | write (t : Fin 4) (q : MgtReq)
  /-- RUN (R112). Management command queuing a RUN job of the MGT image. -/
  | run (t : Fin 4) (q : MgtReq)
  /-- UPDATE (R115). Management command submitting an envelope for verification and the gate. -/
  | update (t : Fin 4) (q : MgtReq)
  /-- MGT_BAD_COMMAND (R113). A frame with an unlisted command value is answered BAD_CMD. -/
  | mgtBadCommand (t : Fin 4) (cmd : Byte) (q : MgtReq)
  /-- RUN_JOB_DONE (R112). A RUN job finishes and its result is sent. -/
  | runJobDone (result : Word)
  /-- RUN_JOB_TIMEOUT (R113). A RUN job exceeds its timeout and TIMEOUT is answered. -/
  | runJobTimeout (job : Fin 5)
  /-- ALM_RECORD_WRITE (R500). ALM writes the next queued record in two phases into a chosen slot. -/
  | almRecordWrite
  /-- COUNTER_SAVE (R503). Every 60 s of operating time ALM saves the counters to MRAM with read-back. -/
  | counterSave (ok : Bool)
  /-- OP_SAVE (R503). Writing OP_SAVE saves the counters now. -/
  | opSave (h : Hdr) (r : Reg)
  /-- WIN_CTRL (R506). Writing WIN_CTRL freezes or unfreezes the read window. -/
  | winCtrl (h : Hdr) (r : Reg)
  /-- LINK_UP (R430). A field port's link comes up. -/
  | linkUp (port : Fin 4)
  /-- LINK_DOWN (R430). A field port's link goes down and queued frames are discarded. -/
  | linkDown (port : Fin 4)
  /-- PORT_TRANSMIT (R432). A port serves its plane queues by deficit round robin and sends a frame. -/
  | portTransmit (port : Fin 4) (plane : Fin 3)
  /-- RX_FRAME_DISCARD (R429). A received frame failing acceptance or routing is discarded and counted. -/
  | rxFrameDiscard (r : RxHdr) (kind : Byte) (quotaFull : Bool)
  /-- PRP_SUPERVISION_RX (R434). A PRP supervision frame is consumed. -/
  | prpSupervisionRx (r : RxHdr)
  /-- PRP_SUPERVISION_TX (R434). A PRP supervision frame is sent every PRP_LIFE_MS. -/
  | prpSupervisionTx
  /-- SUBSTATION_REPORT (R438). A sub-station report is accepted into its slot or discarded. -/
  | substationReport (r : RxHdr) (data : List Byte) (quotaFull : Bool)
  /-- SLOT_STALE (R439). A sub-station slot ages past AGE_MS and becomes STALE. -/
  | slotStale (slot : Fin 2048)
  /-- ARP_REQUEST (R435). An ARP request for MGT_IP is answered. -/
  | arpRequest (path : MgtPath) (senderMac : BitVec 48) (senderIp target : Word)
  /-- ICMP_ECHO (R435). An ICMP echo request is answered. -/
  | icmpEcho (path : MgtPath) (senderMac : BitVec 48) (senderIp target : Word) (data : List Byte)
  /-- IP_FRAGMENT (R435). An IPv4 fragment is reassembled, passing a complete datagram on. -/
  | ipFragment (path : MgtPath) (senderIp target : Word) (ident : BitVec 16) (proto : Byte) (hdrLen offset : Nat) (more : Bool) (data : List Byte)
  /-- REASSEMBLY_TIMEOUT (R435). A reassembly not finished within 1 s is dropped. -/
  | reassemblyTimeout (idx : Fin 4)
  /-- SYNC_RX (R446). A Sync with its Follow_Up yields an offset and a servo update. -/
  | syncRx (r : RxHdr) (domain : Byte) (sender : BitVec 64) (t1 t2 corr : Int)
  /-- DELAY_REQ_TX (R444). TIME sends a Delay_Req at the randomised interval. -/
  | delayReqTx (t3 : Int)
  /-- DELAY_RESP_RX (R446). A Delay_Resp updates the filtered path delay. -/
  | delayRespRx (r : RxHdr) (domain : Byte) (sender : BitVec 64) (seq : BitVec 16) (t4 corr : Int)
  /-- PDELAY_REQ_TX (R444). TIME sends a Pdelay_Req at the PTP_OPT interval. -/
  | pdelayReqTx (t1 : Int)
  /-- PDELAY_REQ_RX (R444). TIME answers a Pdelay_Req on its port. -/
  | pdelayReqRx (r : RxHdr) (seq : BitVec 16)
  /-- PDELAY_RESP_RX (R446). A Pdelay response updates the path delay. -/
  | pdelayRespRx (r : RxHdr) (seq : BitVec 16) (turn t4 corr : Int)
  /-- ANNOUNCE_RX (R444). An Announce enters the BMCA and may select or change the master. -/
  | announceRx (r : RxHdr) (domain : Byte) (ds : Announce)
  /-- ANNOUNCE_RECEIPT_TIMEOUT (R448). The master is lost after the announce receipt timeout. -/
  | announceReceiptTimeout
  /-- SET_GO (R443). Writing SET_GO sets network time at the next tick. -/
  | setGo (h : Hdr) (r : Reg)
  /-- TIME_RUN (R452). Writing TIME.RUN runs PTP and the servo or gives FREE. -/
  | timeRun (h : Hdr) (r : Reg)
  /-- CAN_RX_FRAME (R463). A received CAN frame goes to STN, a FIFO, the urgent buffer or is discarded. -/
  | canRxFrame (c : Fin 8) (f : CanFrame) (data : List Byte) (stamp : Word)
  /-- CAN_TX_START (R466). Before a start of frame the controller selects the pending frame to send. -/
  | canTxStart (c : Fin 8)
  /-- CAN_TX_DONE (R466). A transmitted frame finishes with an outcome. -/
  | canTxDone (c : Fin 8) (won : Bool) (stamp : Word) (loopDly : Nat)
  /-- CAN_ERROR (R470). A bus error updates TEC and REC and may enter passive or bus-off. -/
  | canError (c : Fin 8) (lec : BitVec 3) (inc : CanInc)
  /-- BUSOFF_RECOVERY_DONE (R470). Bus-off recovery completes after 128 idle sequences. -/
  | busoffRecoveryDone (c : Fin 8)
  /-- CAN_BUS_JOIN (R468). An integrating controller joins after 11 recessive bits. -/
  | canBusJoin (c : Fin 8)
  /-- CAN_RUN (R468). Writing CAN_c.RUN starts integration or stops after the frame. -/
  | canRun (h : Hdr) (r : Reg) (c : Fin 8)
  /-- RECOVER (R470). Writing RECOVER starts bus-off recovery. -/
  | recover (h : Hdr) (r : Reg) (c : Fin 8)
  /-- TX_CANCEL (R467). Writing TX_CANCEL requests cancellation of a buffer's frame. -/
  | txCancel (h : Hdr) (r : Reg) (c : Fin 8) (k : Fin 4)
  /-- HELLO_TX (R479). TWIN sends a HELLO on both lanes every tick. -/
  | helloTx
  /-- HELLO_RX (R479). A HELLO updates the twin's state, link delay and may start sync. -/
  | helloRx (lane : Lane) (f : LinkFrame) (rttNs : Nat)
  /-- COPY_RX (R482). The standby gathers a COPY frame. -/
  | copyRx (f : LinkFrame) (whole : Bool)
  /-- COPY_ACK_RX (R483). A COPY_ACK renews the lease. -/
  | copyAckRx (f : LinkFrame)
  /-- BULK_RX (R482). A BULK frame delivers sync or background lines. -/
  | bulkRx (f : LinkFrame)
  /-- ABDICATE_RX (R488). A STANDBY receiving ABDICATE promotes at once. -/
  | abdicateRx (f : LinkFrame)
  /-- LEASE_EXPIRY (R483). The lease deadline passes and the active demotes. -/
  | leaseExpiry
  /-- LANE_LOSS (R477). No valid frame on a twin lane for 30 µs loses the lane. -/
  | laneLoss (lane : Lane)
  /-- LANE_REGAINED (R477). A valid frame arrives again on a lost lane. -/
  | laneRegained (lane : Lane)
  /-- STANDBY_WATCH_EXPIRY (R487). The standby's watch expires and it asks the witness or promotes. -/
  | standbyWatchExpiry
  /-- WITNESS_ANSWER_TIMEOUT (R487). No witness answer within WIT_TMO_US is recorded as a refusal. -/
  | witnessAnswerTimeout
  /-- GRANT_RX (R487). A GRANT makes the requesting unit promote. -/
  | grantRx (r : RxHdr) (w : WitFrame)
  /-- REFUSE_RX (R487). A REFUSE severs the standby or is recorded for a later request. -/
  | refuseRx (r : RxHdr) (w : WitFrame)
  /-- HB_ACK_RX (R483). An HB_ACK from the witness renews the lease. -/
  | hbAckRx (r : RxHdr) (w : WitFrame)
  /-- BEACON_RX (R487). A BEACON from the active restarts the standby's no-witness watch. -/
  | beaconRx (r : RxHdr) (w : WitFrame)
  /-- HEARTBEAT_RX (R486). A witness answers a heartbeat with HB_ACK or REFUSE. -/
  | heartbeatRx (r : RxHdr) (w : WitFrame)
  /-- GRANT_REQ_RX (R486). A witness refuses or holds a grant request. -/
  | grantReqRx (r : RxHdr) (w : WitFrame)
  /-- WITNESS_GAP_EXPIRY (R486). The gap G passes for a held request and the witness grants it. -/
  | witnessGapExpiry
  /-- START_WAIT_EXPIRY (R491). START_WAIT_MS passes in STARTING and the unit decides its role. -/
  | startWaitExpiry
  /-- ZENITH_IN_RISE (R475). ZENITH_IN rises while asserting ZENITH_OUT. -/
  | zenithInRise
  /-- ZENITH_IN_LOW (R475). ZENITH_IN low for 1 µs lets a Zenith holder assert ZENITH_OUT. -/
  | zenithInLow
  /-- ABDICATE (R488). MGT writing ABDICATE makes the active abdicate. -/
  | abdicate (h : Hdr) (r : Reg)
  /-- TWIN_RUN (R496). Writing TWIN.RUN runs the role, abdicating first when ACTIVE. -/
  | twinRun (h : Hdr) (r : Reg)
  /-- RTC_SECOND (R516). The prescaler completes a second and the calendar steps. -/
  | rtcSecond
  /-- OSC_STOP (R514). No crystal edge for 1 ms sets OSC_STOP. -/
  | oscStop
  /-- BACKUP_DOMAIN_RESET (R513). VBAT applied or recovered resets the backup domain. -/
  | backupDomainReset
  /-- WAKE_BTN_PRESS (R525). A debounced press sets the WAKE latch and may assert PWR_ON. -/
  | wakeBtnPress
  /-- PWR_CTRL (R524). Writing PWR_CTRL asserts or deasserts PWR_ON. -/
  | pwrCtrl (h : Hdr) (r : Reg)
  /-- KEY_INTEGRITY_SWEEP (R534). Every 60 s KEY tests every slot's check. -/
  | keyIntegritySweep (bad : BitVec 256)
  /-- ENTROPY_RETEST (R536). The entropy source repeats its start-up tests every 1 s. -/
  | entropyRetest (pass : Bool)
  /-- TAMPER_FIRE (R552). A tamper source fires and its response acts. -/
  | tamperFire (src : Fin 8) (levels : BitVec 8)
  /-- FRAME_BOUNDARY (R561). An LCD frame boundary draws from FRAME_SEL and applies HMI commits. -/
  | frameBoundary
  /-- UPD_REQ (R566). Writing UPD_REQ submits a bistable rectangle update. -/
  | updReq (h : Hdr) (r : Reg) (ok : Bool)
  /-- BISTABLE_FRAME (R564). A bistable drive frame completes, journalled, possibly ending an update. -/
  | bistableFrame (ok : Bool)
  /-- HMI_RECOVERY (R570). A bistable HMI balances and redraws interrupted updates. -/
  | hmiRecovery
  /-- HMI_RUN (R573). Writing HMI.RUN starts or stops panel drive. -/
  | hmiRun (h : Hdr) (r : Reg)
  /-- HALO_MEASURE (R572). Every HALO_PERIOD_MS HMI requests a Halo conversion. -/
  | haloMeasure
  /-- HALO_RESULT (R572). A Halo conversion result updates HALO_LAST and CRACK; `nv` is the input in nV to AGND. -/
  | haloResult (nv : Int)
  /-- DOMAIN_SWITCH_DONE (R578). A domain or core switch-on or switch-off completes. -/
  | domainSwitchDone
  /-- WAKE (R582). An enabled wake source wakes the device from sleep. -/
  | wake (ext : BitVec 11)
  /-- AVS_STEP (R585). An AVSBus voltage step is sent and read back. -/
  | avsStep (ok : Bool) (mv : BitVec 10)
  /-- SYS_RESET (R593). Writing 0xA5C3 resets the device. -/
  | sysReset (h : Hdr) (r : Reg)
  /-- RELEASE (R590). MGT writing RELEASE starts SAF and the cycle cores. -/
  | release (h : Hdr) (r : Reg)
  /-- RESET_N (R587). RESET_N held low resets the device. -/
  | resetN
  /-- SUPPLY_MONITOR_RESET (R587). A supply below its monitor threshold holds the device in reset. -/
  | supplyMonitorReset (core : Bool)
  /-- BOOT (R590). The boot sequence runs from reset to the release of MGT. -/
  | boot (flash : List (Nat × List Byte))
  /-- WAKE_BTN_RELEASE (R525). A low level on WAKE_BTN stays stable for WAKE_DEB periods, clearing the debounced level and re-arming press detection. -/
  | wakeBtnRelease
  /-- TEST_PULSE_END (R416). A test pulse ends after TP_WIDTH, TP_n returns high and each assigned input is checked at the last tick of the pulse. -/
  | testPulseEnd (p : Fin 4) (high : BitVec 16)
  /-- CHARGE_PUMP_READY (R562). The internal charge pump reaches its level, CP_READY is set and LCD drive may start. -/
  | chargePumpReady
  /-- DEMOTED_WITNESS_REQUEST (R492). A unit demoted by lease lapse with WITNESS_EN = 1 sends a GRANT_REQ every 2P. -/
  | demotedWitnessRequest
  /-- ENTROPY_HEALTH_TEST_FAIL (R536). A continuous health test of the entropy source fails, setting ENTROPY_FAIL, raising event 614 and posting a critical record. -/
  | entropyHealthTestFail
  /-- BULK_TX (R482). The active sends sync and background lines in BULK frames in link time that the Meridian copies leave free, up to BG_SHARE. -/
  | bulkTx (n : Fin 33)
deriving DecidableEq, Repr

end Sys2Proof
end

