-- ==== Sys2Proof/Decode.lean ====
section
/-! DEFINITION. What the major opcode of a first word identifies (R46 to R48), and the commands spelled by words:
spec/opcode_table.json gives no row any bits, so no word spells a command. -/
namespace Sys2Proof

/-- The formats of R45 and R47; `own` is a layout that the instruction gives itself (R46). -/
inductive Format where
  | a | i | l | m | b | x | e | own
deriving DecidableEq, Repr

/-- The format and the identifying bits of a major opcode, none where it is reserved or an engine extension: bits [31:26],
without bit [26] in I format and without bits [27:26] in L format (R46, R47). -/
def identify (op : Nat) : Option (Format × Nat) :=
  if 1 ≤ op ∧ op ≤ 6 then some (.a, op)
  else if 8 ≤ op ∧ op ≤ 15 then some (.i, op / 2)
  else if 16 ≤ op ∧ op ≤ 23 then some (.l, op / 4)
  else if 24 ≤ op ∧ op ≤ 25 then some (.b, op)
  else if 32 ≤ op ∧ op ≤ 41 then some (.m, op)
  else if 42 ≤ op ∧ op ≤ 43 then some (.a, op)
  else if 44 ≤ op ∧ op ≤ 45 then some (.own, op)
  else if 48 ≤ op ∧ op ≤ 49 then some (.own, op)
  else if 50 ≤ op ∧ op ≤ 51 then some (.a, op)
  else if op = 52 then some (.e, op)
  else if 53 ≤ op ∧ op ≤ 54 then some (.a, op)
  else if 56 ≤ op ∧ op ≤ 59 then some (.x, op)
  else none

/-- The extension opcodes that an engine has (R48, R121, R202, R395). -/
def extension : Eng → Nat → Bool
  | .afe _, op => 60 ≤ op && op ≤ 62
  | .asm, op => op == 60
  | .cle _, op => op == 60
  | _, _ => false

/-- The opcode is no reserved one on the engine (R47, R48): a reserved opcode, 0 among them, traps ILLEGAL (R51). -/
def opcodeListed (e : Eng) (op : Nat) : Bool := (identify op).isSome || extension e op

/-- A word with this major opcode is followed by a second word (R44, R47). -/
def opcodeX (op : Nat) : Bool := match identify op with | some (.x, _) => true | _ => false

/-- The command that a word of `nbits` bits spells by the table's bits: none, since no row of the table has bits. -/
def decodeTableWord (_nbits _w : Nat) : Option Instr := none

end Sys2Proof
end

