-- ==== Sys2Proof/Config.lean ====
section
/-! DEFINITION. What one device fixes or the spec leaves open: constants without a body, the free values of the model.
Nothing in Lean can evaluate one, so a statement about one holds for every value of it. -/
namespace Sys2Proof.Config

/-- The 128-bit identity fixed at manufacture (R15), assumption 1. -/
opaque identity : BitVec 128
/-- The bytes of the boot ROM, whose contents the spec does not give (R93), assumption 2. -/
opaque romByte : Nat → Byte
/-- The bytes of the network and dispatch libraries in the ASM home (R261, R287), assumption 2. -/
opaque libByte : Nat → Byte
/-- The metering filters, whose coefficients the spec does not give (R150, R158): the next value of a channel's filter state, the
filtered sample, and the filtered sample shifted by 90°, each from the channel's delay in 1/655,360 ps, the filter state and the sample,
assumption 44. -/
opaque filterNext : Int → Int → Int → Int
opaque filterOut : Int → Int → Int → Int
opaque filterQuad : Int → Int → Int → Int
/-- The MAC address of MGT_ETH, for which the spec gives no field (R435, R450), assumption 22. -/
opaque mgtMac : BitVec 48
/-- The keys that slots 0 to 3 hold at delivery (R532), byte by byte, assumption 1. -/
opaque factoryKey : Nat → Nat → Byte
/-- A free 32-bit value; the argument is the state's free-value counter, assumption 3. -/
opaque freeWord : Nat → Word
/-- A free Boolean; the argument is the state's free-value counter, assumption 3. -/
opaque freeBool : Nat → Bool
/-- A free integer (the result of an arithmetic that the spec bounds but does not fix), assumption 3. -/
opaque freeInt : Nat → Int
/-- Whether lane `l` of group `g` fails the test of the whole array (R228), by the free-value counter, assumption 197. -/
opaque laneBad : Nat → Nat → Nat → Bool
/-- The word that hardware takes from an uncorrectable one, of which no data is delivered (R96), by the free-value counter and the
address, assumption 194. -/
opaque noData : Nat → Nat → Word
/-- 32-byte units that a library keeps for itself at the start of its work region, by the size of what it keeps there otherwise: its
layout is its own (R264, R268, R289); less than 2 MiB, assumption 200. -/
opaque workMore : Nat → BitVec 16

end Sys2Proof.Config
end

