-- ==== Sys2Proof/Machine/State.lean ====
section
/-! DEFINITION. The state of the IGN2048 as plain data: every register, field, memory, queue, buffer, counter, mode and
pin the spec names, with its value at power-on reset as the default of its field. Each field's comment cites its rule. -/
namespace Sys2Proof.Machine

/-- A sparse table: (key, entry) pairs, keys strictly rising, no entry equal to what an unlisted key reads as. -/
abbrev Tbl (α : Type) := List (Nat × α)

/-! ## Engines and their contexts (chapter 02) -/

/-- Why a context does not execute although its engine is released (R78, R86, R123). -/
inductive Wait where
  /-- The context executes. -/
  | none
  /-- `wait`: suspended until event `n` is pending or the deadline tick has come; `pd` takes the outcome (R78). -/
  | event (pd n : Nat) (deadline : Option Nat)
  /-- `waitany`: suspended until a masked event of group `g` is pending; `rm` takes the bits (R78). -/
  | group (pd g rm : Nat) (mask : Word) (deadline : Option Nat)
  /-- `trg.wait`: the sequencer waits for its converter's trigger until the deadline tick (R123). -/
  | trigger (pd : Nat) (deadline : Option Nat)
  /-- a load of MGT from another plane: the gate read waits for the owner's boundary; register, address, bytes, and the
  instruction's first word (R94). -/
  | gate (rd addr n : Nat) (word : Word)
  /-- `sleep`: MGT waits for the wake, which writes 0 to `rd` (R86, R579). -/
  | asleep (rd : Nat)
deriving DecidableEq, Repr

/-- The registers of one engine context (R40 to R43, R82). -/
structure Ctx where
  /-- g1 to g31, 32 bits each, unlisted = 0; g0 is never listed and reads as zero (R40, R41); reset 0 (R42) -/
  g : Tbl Word := []
  /-- acc0 to acc7, 80 bits each, unlisted = 0 (R40); reset 0 (R42) -/
  acc : Tbl Acc := []
  /-- p1 to p7 in bits 1 to 7; bit 0 is kept 0, and p0 reads as true (R40, R41); reset 0 (R42) -/
  p : BitVec 8 := 0
  /-- pc, 32 bits, byte offset from the home base (R40); reset 0, set at release -/
  pc : Word := 0
  /-- tk.hi latch, 16 bits: ticks [47:32] of the last tk read (R43); reset 0 (R42) -/
  tkHi : BitVec 16 := 0
  /-- op.hi latch, 16 bits: operating time [47:32] of the last op read (R43); reset 0 (R42) -/
  opHi : BitVec 16 := 0
  /-- time latch, 32 bits: seconds [47:16] of the last `time.rd` (R82); reset 0 (R42) -/
  secHi : Word := 0
  /-- true while a trap handler runs (R86, R92); reset false -/
  inHandler : Bool := false
  /-- what suspends the context (R78, R123, R579); reset none -/
  wait : Wait := .none
  /-- the context executes: a program is released on it, or its task is in its cycle (R42, R319); reset false -/
  live : Bool := false
deriving DecidableEq, Repr

/-! ## Timebase (chapter 01) -/

/-- The timebase and the counters of AON (R32, R33, R36, R503, R505). -/
structure Clk where
  /-- the 48-bit tick count; its low half is tk (R33, R43); reset 0 -/
  tick : BitVec 48 := 0
  /-- REF_CLK edges are present (R36); reset true (R587) -/
  refClk : Bool := true
  /-- operating time in ms, 48 bits (R43, R503); reset 0, restored at boot (R504) -/
  opMs : BitVec 48 := 0
  /-- ticks counted within the current millisecond of operating time, 0 to 99 (R503); reset 0 -/
  opSub : Nat := 0
  /-- power-cycle count, 32 bits (R43, R503); reset 0, restored at boot (R504) -/
  pcc : Word := 0
deriving DecidableEq, Repr

/-! ## Configuration (chapter 03) -/

/-- The configuration fields of all units: active copies, shadows and pending sets (R13, R84, R103 to R107). -/
structure Cfg where
  /-- active value of every field, keyed by the 16-bit field ID; unlisted = the reset value of its field map (R13, R103) -/
  act : Tbl Word := []
  /-- shadow value of a class C field written since it last equalled the active one; unlisted = active (R13, R84) -/
  shadow : Tbl Word := []
  /-- field IDs whose shadow a `cfg.w` wrote after the unit's last `cfg.commit` (R84) -/
  rewritten : List Nat := []
  /-- the pending set of a unit, keyed by unit number: (field ID, value) pairs captured by `cfg.commit` (R84, R106) -/
  pend : Tbl (Tbl Word) := []
deriving DecidableEq, Repr

/-! ## Memory (chapter 03) -/

/-- Memory, the state of its code, and the scrubber (R93 to R102). -/
structure Mem where
  /-- every byte of the 40-bit map, keyed by address; canonical, unlisted = 0 (R93, R95, R590); shadow banks and the
  input line store have no address and lie above 2^40 (R322, R349) -/
  cells : List Host.Cell := []
  /-- bits in error of a stored word, keyed by address / 8: 1, 2, or 3 for uncorrectable, 4 for uncorrectable and already
  reported once; unlisted = 0 (R96, R98) -/
  ecc : Tbl Nat := []
  /-- where the scrubber stands in each region, by region index: the offset of the next word of this pass; unlisted = 0 (R99);
  reset empty -/
  scrubAt : Tbl Nat := []
  /-- corrected errors of this pass per region, keyed by region index; unlisted = 0 (R100) -/
  passCe : Tbl Nat := []
  /-- regions whose count has been reported in this pass (R100); reset empty -/
  passTold : List Nat := []
deriving DecidableEq, Repr

/-! ## Almanac (chapter 17) -/

/-- One record, as posted (R498). -/
structure Rec where
  /-- sequence, 32 bits; 0 until stamped (R498) -/
  seq : Word := 0
  /-- severity 0 to 3 (R498) -/
  sev : Nat := 0
  /-- source unit, 6 bits (R498) -/
  src : Nat := 0
  /-- record code, 16 bits (R499) -/
  code : Nat := 0
  /-- operating time at posting, 48 bits (R498) -/
  opMs : Nat := 0
  /-- power-cycle count at posting (R498) -/
  pcc : Word := 0
  /-- network time at posting, (seconds [31:0], nanoseconds), when PTV is 1 (R498) -/
  ptv : Option (Word × Word) := none
  /-- false while the record waits for the restored counters (R498, R504) -/
  stamped : Bool := true
  /-- payload words, at most eight; missing words are zero (R498, R499) -/
  payload : List Word := []
deriving DecidableEq, Repr

/-- ALM beside its fields and its MRAM area (R498 to R511). -/
structure Alm where
  /-- records waiting to be written, oldest first, at most 64 (R22, R500); reset empty -/
  queue : List Rec := []
  /-- most records queued at once since reset (R510); reset 0 -/
  qMax : Nat := 0
  /-- sequence of the next record posted, 32 bits, from 1 (R498, R510); reset 1 -/
  nextSeq : Word := 1
  /-- step 4 of the start-up restore is done (R504, R505); reset false -/
  restored : Bool := false
  /-- slots of the valid records, oldest first by the key of R502 (R502, R506); rebuilt at start-up -/
  order : List Nat := []
  /-- slots of valid records that are pinned (R501) -/
  pinned : List Nat := []
  /-- the order frozen by WIN_CTRL, or none while it is not frozen: (slot, sequence) pairs (R506); reset none -/
  frozen : Option (List (Nat × Word)) := none
  /-- a drop counter changed since the previous record was written (R498 LOST); reset false -/
  lost : Bool := false
  /-- rule 1 of R501 has found no slot since the last clear or start-up; reset false -/
  fullSeen : Bool := false
  /-- FILTERED at the latest record 0x0703 (R507); reset 0 -/
  filtAt : Word := 0
  /-- operating time, in ms, of the latest counter save (R503) -/
  lastSave : Nat := 0
  /-- the copy (false A, true B) that the next counter save writes (R503) -/
  nextCopy : Bool := false
  /-- sequence of the latest counter copy written (R503) -/
  copySeq : Word := 0
deriving DecidableEq, Repr

/-! ## Process image (chapters 01, 02, 10) -/

/-- One write waiting in a write buffer for its seal (R325, R407). -/
structure WEnt where
  /-- word index of the output area: byte offset / 4 (R68) -/
  idx : Nat := 0
  /-- the value -/
  val : Word := 0
  /-- the task that wrote it (R325) -/
  task : Nat := 0
  /-- order in which the writing task's `mer` executed, none before it (R326) -/
  sealedAt : Option Nat := none
deriving DecidableEq, Repr

/-- The process image (R20, R68, R321 to R326). Words are keyed by byte offset / 4. -/
structure Pi where
  /-- the live copy, as data-plane writers leave it; unlisted = 0 (R20, R68) -/
  live : Tbl Word := []
  /-- the live copy made of completed sets only, which the next freeze takes; unlisted = 0 (R20) -/
  done : Tbl Word := []
  /-- the open set of each writer, keyed by writer: the words written so far (R70) -/
  open_ : Tbl (Tbl Word) := []
  /-- generations of the frozen input copy that are current or still pinned, newest first, with their numbers (R321) -/
  gens : List (Nat × Tbl Word) := [(0, [])]
  /-- 64-byte lines of the input area that STN wrote last (R481) -/
  stnLines : List Nat := []
  /-- the published output area as the control plane wrote it, from which outputs are driven; unlisted = 0 (R21, R324, R326) -/
  pub : Tbl Word := []
  /-- words of the output area whose latest value a data-plane set brought: proposals, which drive no output (R21) -/
  prop : Tbl Word := []
  /-- Meridians since start-up, modulo 2^32 (R318, R336) -/
  merCount : Nat := 0
  /-- tick of the latest Meridian instant (R25) -/
  merTick : Nat := 0
  /-- network time (seconds, ns) of the latest Meridian instant (R25) -/
  merSec : Nat := 0
  /-- nanoseconds of the latest Meridian instant (R25) -/
  merNs : Nat := 0
  /-- tick of the latest free Meridian's due instant (R318); none before one -/
  lastFree : Option Nat := none
  /-- Meridians requested by the critical `mer` while an earlier one still ran (R28); reset 0 -/
  deferred : Nat := 0
  /-- the number that the next executed `mer` takes in the sealing order (R326) -/
  merOrder : Nat := 0
deriving DecidableEq, Repr
/-! ## Analogue acquisition (chapter 04) -/

/-- A plan conversion that a converter holds (R122, R128, R130). -/
structure Cnv where
  /-- register that takes the result word; the next one takes the hold instant -/
  rd : Nat := 0
  ch : Nat := 0
  prof : Nat := 0
  ow : Bool := false
  pri : Nat := 0
  /-- times aborted, saturating at 7 -/
  aborts : Nat := 0
  /-- something is known to have held the converter at its due start, or its trigger was consumed late -/
  late : Bool := false
  /-- RUN was cleared after it was issued: its result is discarded (R139) -/
  drop : Bool := false
  /-- for the first one after a consumed trigger, the latest instant in ns of the timebase at which its start can have been due (R128) -/
  due : Option Nat := none
  /-- acquisition time of its profile when it started, ns (R119, R140) -/
  acq : Nat := 0
  /-- earliest instant in ns of the timebase at which its conversion phase can end (R119) -/
  ready : Nat := 0
  /-- a pull was set on its channel while it ran (R127) -/
  pulled : Bool := false
  /-- a Halo conversion holds the converter before it (R572) -/
  halo : Bool := false
deriving DecidableEq, Repr

/-- An accepted urgent request (R129 to R132). -/
structure Urg where
  slot : Nat := 0
  /-- its source number in the slot -/
  src : Nat := 0
  ch : Nat := 0
  /-- number of the slot's trigger that raised it -/
  tag : Nat := 0
  /-- another conversion held the converter when it became due (R128) -/
  late : Bool := false
  /-- the request's instant in REF_CLK periods (R131, R381) -/
  at_ : Nat := 0
  /-- a pull was set on its channel while it ran (R127) -/
  pulled : Bool := false
deriving DecidableEq, Repr

/-- One converter beside its fields and its sequencer's context (R118 to R139). -/
structure Conv where
  /-- a trigger is pending (R126) -/
  trig : Bool := false
  /-- the next `cnv` is the first after a consumed trigger; true inside when that trigger was consumed late (R123, R128) -/
  first : Option Bool := none
  /-- tick of the latest trigger, pending or consumed (R123, R128) -/
  trigAt : Nat := 0
  /-- the running plan conversion and the queued one (R122) -/
  run : Option Cnv := none
  next : Option Cnv := none
  /-- accepted urgent requests that have not become due, and those that have, in order; the converter serves the due ones
  first (R130, R131) -/
  urg : List Urg := []
  urgDue : List Urg := []
  /-- the converter serves the due urgent requests -/
  urgRun : Bool := false
  /-- earliest instant in ns of the timebase at which the urgent conversion in progress can end -/
  urgReady : Nat := 0
  /-- the selected PWM event has occurred and SAR_TRIGGER has not taken it yet (R125) -/
  due : Bool := false
  /-- tick of the latest tick trigger -/
  last : Option Nat := none
  /-- global fields that this converter has taken before the others at its sequence end (R138) -/
  glob : Tbl Word := []
  /-- tick of the budget's present period and requests accepted in it (R132) -/
  budTick : Nat := 0
  budN : Nat := 0
  /-- internal channels in the failed state (R134) -/
  failed : List Nat := []
  /-- conversions of channels 0 to 95 since a passing internal conversion (R135) -/
  gap : Nat := 0
  /-- pull code per channel (R124); unlisted = off -/
  pulls : Tbl Nat := []
deriving DecidableEq, Repr

/-! ## Energy metering (chapter 05) -/

/-- The zero-crossing detector of one voltage channel (R156, R157). Instants are network time in ns. -/
structure Zx where
  /-- the channel has been below the hysteresis since its latest crossing; reset false -/
  low : Bool := false
  /-- latest crossing, in ns of network time; reset none -/
  last : Option Nat := none
  /-- latest counted crossing; reset none -/
  counted : Option Nat := none
  /-- consecutive counted crossings; reset 0 -/
  run : Nat := 0
deriving DecidableEq, Repr

/-- One thermal calculator (R160 to R163). -/
structure Therm where
  /-- direction of the latest part not counted as zero, true reverse; none before one (R162) -/
  dir : Option Bool := none
  /-- pulse counts, forward and reverse, at the latest thermal sample (R160) -/
  fwd : Nat := 0
  rev : Nat := 0
  /-- a temperature lies outside the water table (R163) -/
  out : Bool := false
  /-- flags of the interval in progress: T_RANGE, REVERSAL, SRC_STALE (R168) -/
  fRange : Bool := false
  fRev : Bool := false
  fStale : Bool := false
  /-- samples of the interval in progress, and their sums: Tf, Tr, mass in g / (2^32 × 10^6), energy in 2^-32 mWh (R167) -/
  n : Nat := 0
  sTf : Int := 0
  sTr : Int := 0
  sM : Int := 0
  sE : Int := 0
deriving DecidableEq, Repr

/-- One pulse output (R173). -/
structure PulseOut where
  /-- residue in mWh or g, below PO_CONST; reset 0 -/
  residue : Nat := 0
  /-- pulses to send, at most 65,535; reset 0 -/
  backlog : Nat := 0
  /-- the output is active; reset false -/
  active : Bool := false
  /-- tick at which the output last became active or idle -/
  since : Nat := 0
deriving DecidableEq, Repr

/-- A save being written (R169, R170). -/
structure MtrSave where
  copyB : Bool := false
  seq : Word := 0
  /-- the record, 5,284 bytes -/
  bytes : List Byte := []
deriving DecidableEq, Repr

/-- MTR and EQC beside their fields (R142 to R178). -/
structure Mtr where
  /-- number of the latest sample instant, in units of 125,000 ns of network time; none before one -/
  sample : Option Nat := none
  /-- latest interval boundary and thermal sample, in ms of network time; none before one -/
  bound : Option Nat := none
  thLast : Option Nat := none
  /-- network time in ns at which sampling last began (R157) -/
  start : Nat := 0
  /-- time sampled in the interval in progress, ns (R145) -/
  w : Nat := 0
  /-- sums of the interval in progress, weighted by each sample's spacing: squares by channel, v·i by 100 + 3 f + p, v90·i by
  200 + 3 f + p (R150) -/
  sums : Tbl Int := []
  /-- the filters of the channels, 0 at rest (R150, R158; assumption 44) -/
  filt : Tbl Int := []
  /-- channels that clipped in the interval in progress (R143) -/
  clip : List Nat := []
  /-- detectors of the voltage channels (R156) -/
  zx : Tbl Zx := []
  /-- per group, the crossings of its reference phase in the interval and the sum of their frequencies in mHz (R156) -/
  freq : Tbl (Nat × Nat) := []
  /-- groups that were in the lost state during the interval in progress (R168) -/
  lostIn : List Nat := []
  /-- billing accumulators by quantity ID, 64 bits (R165); reset 0 -/
  acc : Tbl Nat := []
  /-- integrators by quantity ID, in 2^-32 mWh or g (R151); reset 0 -/
  integ : Tbl Nat := []
  /-- the thermal calculators -/
  th : Tbl Therm := []
  /-- latest completed harmonic window by channel: 50 groups, THD, flags (R152, R167) -/
  harm : Tbl (List Word) := []
  /-- per group, network time in ns at which the harmonic window in progress began; unlisted before the first sample (R152) -/
  harmAt : Tbl Nat := []
  /-- channels with a filtered sample other than 0 in the harmonic window in progress (R152) -/
  harmLive : List Nat := []
  /-- groups that were in the lost state during the harmonic window in progress (R152) -/
  harmLost : List Nat := []
  /-- active compensation table, (gain, delay) by channel × 17 + point; unlisted = gain 1.0, delay 0 (R159) -/
  comp : Tbl (Int × Int) := []
  /-- the temperature in use is outside the table (R158) -/
  compOut : Bool := false
  /-- active water table, (h, ρ) by °C; none = the default table of the boot ROM (R163) -/
  water : Option (Tbl (Nat × Nat)) := none
  /-- intervals since the unit last started (R167) -/
  interval : Word := 0
  /-- SAVE_NOW asked for a save (R169) -/
  saveReq : Bool := false
  /-- tick of the latest save's boundary (R169) -/
  lastSave : Nat := 0
  /-- the save being written -/
  saving : Option MtrSave := none
  /-- flags RESTORED and NO_SAVE (R168, R171) -/
  restored : Bool := false
  noSave : Bool := false
  /-- forward and reverse counts of the pulse inputs, 32 bits (R172); reset 0 -/
  pin : Tbl (Nat × Nat) := []
  /-- per pulse input, the level after its latest stable edge and that edge's network time in ns; unlisted before one (R172) -/
  edge : Tbl (Bool × Nat) := []
  /-- the pulse outputs (R173) -/
  po : Tbl PulseOut := []
deriving DecidableEq, Repr


/-! ## Front stage, Transit engine and the network library (chapters 06, 08, 09) -/

/-- What ASM holds of a snapshot between its instant and the end of its copy (R197, R199). -/
structure Snap where
  /-- network time of the instant: seconds and nanoseconds -/
  sec : Nat := 0
  ns : Nat := 0
  /-- operating time of the instant, ms -/
  opMs : Nat := 0
  /-- per descriptor, the raw word and whether its slot was not current, as they stood at the instant -/
  raw : List (Word × Bool) := []
deriving DecidableEq, Repr

/-- An open block (R204, R205, R213). -/
structure Block where
  /-- BLOCK_ID and KIND -/
  id : Nat := 0
  kind : Nat := 0
  rowBase : Nat := 0
  rows : Nat := 0
  colBase : Nat := 0
  cols : Nat := 0
  /-- destination in solver memory -/
  dest : Nat := 0
  /-- EXCL and CLAMP so far -/
  excl : Nat := 0
  clamp : Nat := 0
  /-- numbers of its staging records, in the order of appending -/
  recs : List Nat := []
deriving DecidableEq, Repr

/-- What the plug store must take from a model image at its reinitialisation (R186). -/
structure Reinit where
  /-- nodes below this index were in every image since the plugs were last consistent -/
  oldN : Nat := 0
  /-- branches that keep their plugs -/
  keep : List Nat := []
deriving DecidableEq, Repr

/-- A Transit advance in progress (R216). -/
structure Advance where
  /-- address of its state vector -/
  addr : Nat := 0
  /-- the state vector itself when the network library gives it (R269) -/
  vec : Option (List Int) := none
  /-- dt in units of 10 µs -/
  dt : Nat := 0
  /-- its sequence number -/
  seq : Word := 0
  /-- T_GROUND_0 to T_GROUND_15 as they stood when it began (R105) -/
  ground : List Word := []
deriving DecidableEq, Repr

/-- What the network and dispatch libraries know of a work region beside what they keep in it (R268, R289): it is theirs, and the spec gives
it no place. -/
structure LibWork where
  /-- status and snapshot of the accepted estimate (R278) -/
  accStatus : Nat := 0
  accSnap : Word := 0
  /-- descriptors that the accepted estimate used (R279) -/
  used : List Nat := []
  /-- model whose components word 29 counts (R266) -/
  compModel : Nat := 0
  /-- model of the kept snapshots (R278) -/
  keptModel : Nat := 0
  /-- model of the calibration (R284) -/
  calModel : Nat := 0
  /-- calibration parameters in 2^-16 of an LSB of what they set: of the active model at the first call, as linearised, and as the
  reduced solve leaves them (R281, R282) -/
  theta0 : List Int := []
  theta : List Int := []
  next : List Int := []
  /-- unobservable parameters of the latest reduced solve (R282) -/
  unobs : List Nat := []
  /-- next unit of work of the iteration: pass 1, the reduced solve, pass 2 (R282) -/
  unit : Nat := 0
  /-- the latest step of the parameters met EPS_CAL (R282) -/
  small : Bool := false
  /-- J of the iteration in progress as a fraction, and J at the first and at the latest iteration, Q23.8 (R285) -/
  jNum : Int := 0
  jDen : Nat := 1
  firstJ : Word := 0
  lastJ : Word := 0
  /-- df summed over the snapshots of the iteration (R285) -/
  dfSum : Int := 0
  /-- energies of step 0 of the accepted proposal by store, in Wh as numerator and denominator (R297) -/
  energy : List (Nat × Int × Nat) := []
  /-- the KKT block's CRC and the exponent of ρ that the kept factor belongs to, and which of two factor objects holds it (R305) -/
  kkt : Option (Word × Int × Bool) := none
deriving DecidableEq, Repr

/-- ASM and TRN beside their fields, the model region and the plug store (R179 to R223). -/
structure AsmU where
  /-- the copy in progress (R196, R197); reset none -/
  copying : Option Snap := none
  /-- 48-bit tick count of the latest snapshot's instant (R216) -/
  tick : Nat := 0
  /-- the latest snapshot's instant, seconds and nanoseconds (R199) -/
  sec : Nat := 0
  ns : Nat := 0
  /-- instant of the latest periodic snapshot that fell due, in ms of network time, none before one (R196) -/
  lastDue : Option Nat := none
  /-- `snap.rel` has been executed while an advance on the snapshot runs (R196); reset false -/
  released : Bool := false
  /-- the open matrix block and the open vector block (R204); reset none -/
  mat : Option Block := none
  vec : Option Block := none
  /-- records in the staging area (R205); reset 0 -/
  staged : Nat := 0
  /-- the advance in progress (R216); reset none -/
  adv : Option Advance := none
  /-- sequence number of the latest advance (R216, R219); reset 0 -/
  advSeq : Word := 0
  /-- tick count of the previous advance's snapshot, none since a start or a reinitialisation (R216) -/
  prevTick : Option Nat := none
  /-- carry_b of each branch in units of 2^-32 of a plug unit (R217); reset 0 -/
  carry : Tbl Nat := []
  /-- temperature of each injection in the previous advance, keyed by kind × 65,536 + index (R217) -/
  lastTi : Tbl Word := []
  /-- the reinitialisation that waits, none when none is pending (R186) -/
  reinit : Option Reinit := none
  /-- branches and nodes that the latest reinitialisation initialised, until an advance has run (R186, R187, R219) -/
  initBr : List Nat := []
  initNd : List Nat := []
  /-- entries of the offset table in the active model (R181, R183); reset 0 -/
  offs : Nat := 0
  /-- the snapshot area holds a snapshot of the active model (R186); reset false -/
  snapOk : Bool := false
  /-- measurement [31:0] of the active model image (R185, R542) -/
  meas : Word := 0
  /-- the libraries have been copied into the ASM home; a stored byte there is kept as its difference (R261, R287) -/
  lib : Bool := false
  /-- what the libraries keep in their work regions, by object address (R268, R289) -/
  work : Tbl LibWork := []
deriving DecidableEq, Repr

/-! ## Solver array (chapter 07) -/

/-- A job as its handle shows it (R80, R81, R246, R247). -/
structure Job where
  /-- state of R81: 1 REQUESTED, 2 QUEUED, 3 RUNNING, 4 DONE, 5 FAILED, 6 REFUSED, 7 CANCELLED -/
  state : Nat := 0
  /-- result code of R254 -/
  code : Nat := 0
  /-- unit number of its poster -/
  poster : Nat := 0
  /-- its descriptor, 48 bytes (R246) -/
  desc : List Byte := []
  /-- address at which a request of a cycle core has its descriptor until the delivering Meridian (R80, R246) -/
  addr : Nat := 0
  /-- order of entering the queue -/
  order : Nat := 0
deriving DecidableEq, Repr

/-- A scalar register: mantissa × 2^exponent (R238). -/
structure Scalar where
  m : Int := 0
  x : Int := 0
deriving DecidableEq, Repr

/-- A record that `ag.st` has prepared for the job's end (R251). -/
structure AgRec where
  cls : Nat := 0
  fp : Nat := 0
  /-- record bytes 16 to 27 and 32 on, in order, without sequence, time and CRC -/
  head : List Byte := []
  body : List Byte := []
deriving DecidableEq, Repr

/-- The running job (R237 to R253). -/
structure JobRun where
  handle : Nat := 0
  /-- index of the next macro-op -/
  pc : Nat := 0
  /-- macro-ops executed -/
  steps : Nat := 0
  /-- s0 to s15; unlisted = 0 -/
  sreg : Tbl Scalar := []
  /-- τ and δ, Q1.30 (R241) -/
  tau : Nat := 0
  delta : Nat := 0
  /-- ZERO and TINY counts (R243) -/
  zero : Nat := 0
  tiny : Nat := 0
  /-- row and macro-op of the first flagged pivot -/
  firstRow : Option Nat := none
  firstOp : Nat := 0
  /-- row of the RANGE event -/
  rangeRow : Option Nat := none
  /-- outcome, matched, cold and saturated entries and store sequence of the last `ag.ld` (R250) -/
  ag : Nat := 0
  matched : Nat := 0
  cold : Nat := 0
  sat : Nat := 0
  agSeq : Nat := 0
  /-- tk at start -/
  tk : Word := 0
  /-- objects whose CRC has been verified or that the job has written (R235) -/
  seen : List Nat := []
  /-- what `ag.st` has prepared (R251) -/
  stores : List AgRec := []
deriving DecidableEq, Repr

/-- SOLV beside its fields and its memory (R224 to R259). -/
structure Solv where
  /-- jobs by handle; unlisted = UNKNOWN (R81, R247) -/
  jobs : Tbl Job := []
  /-- free entry numbers in the order in which they were freed (R247) -/
  free : List Nat := List.range 64
  /-- last generation used per entry (R247) -/
  gen : Tbl Nat := []
  /-- order of the next job that enters the queue -/
  next : Nat := 0
  /-- requests of cycle cores that wait for a Meridian, in order (R80) -/
  reqs : List Nat := []
  /-- the running job -/
  run : Option JobRun := none
  /-- the lane mapped out in each group whose spare is in use (R226) -/
  lane : Tbl Nat := []
  /-- the lane under pattern test per group, plus 1 (R225); unlisted = none -/
  test : Tbl Nat := []
  /-- next lane of the rotation per group (R225) -/
  rot : Tbl Nat := []
  /-- tick of the latest rotation step per group, and of the latest test of the whole array, from which a group without one counts
  (R225, R228) -/
  bistAt : Tbl Nat := []
  bistBase : Nat := 0
  /-- store sequence of the latest Afterglow record (R256) -/
  agSeq : Nat := 0
deriving DecidableEq, Repr

/-! ## Cycle cores, slots, forces, images and stations (chapters 10 and 11) -/

/-- A timer slot (R73). -/
structure Timer where
  /-- output q -/
  q : Bool := false
  /-- running -/
  run : Bool := false
  /-- previous input -/
  prev : Bool := false
  /-- elapsed ticks ET, 32 bits -/
  et : Nat := 0
  /-- start stamp, 48 bits -/
  start : Nat := 0
  /-- the preset PT of its last execution, which `slot.rd`, `slot.wr` and the retained copy use (R75, R333) -/
  pt : Nat := 0
deriving DecidableEq, Repr

/-- A counter slot (R74). -/
structure Counter where
  /-- count CV, 32 bits signed -/
  cv : Word := 0
  /-- previous count input -/
  prev : Bool := false
deriving DecidableEq, Repr

/-- An edge slot (R72, R354). -/
structure Edge where
  /-- previous input -/
  prev : Bool := false
  /-- pending since an image switch: its first execution stores the input and gives no edge (R354) -/
  pending : Bool := false
deriving DecidableEq, Repr

/-- A pool of slots: the cluster's (R71) or SAF's own. -/
structure Slots where
  /-- edge slots by absolute number; unlisted = prev 0 -/
  edges : Tbl Edge := []
  /-- timer slots by absolute number; unlisted = idle -/
  timers : Tbl Timer := []
  /-- counter slots by absolute number; unlisted = CV 0 -/
  counters : Tbl Counter := []
deriving DecidableEq, Repr

/-- A symbol entry of a cycle image (R348, R349). -/
structure Sym where
  kind : Nat := 0
  ret : Bool := false
  initZero : Bool := false
  id : Nat := 0
  loc : Nat := 0
  size : Nat := 0
  ty : Word := 0
deriving DecidableEq, Repr

/-- A cycle image: its header, contents and symbols (R347). -/
structure CycImage where
  /-- Z, bytes of bank contents -/
  z : Nat := 0
  /-- retained pages needed -/
  retPages : Nat := 0
  /-- ENTRY_t and ERR_ENTRY_t of tasks 0 to 15 -/
  entries : List (Nat × Nat) := []
  /-- bank contents by home offset; unlisted = 0 -/
  content : List Host.Cell := []
  /-- symbol entries in the image's order -/
  syms : List Sym := []
  /-- low 32 bits of its measurement (R335, R542) -/
  meas : Word := 0
deriving DecidableEq, Repr

/-- What the bank holds beside its memory (R313, R349, R350). -/
structure Bank where
  /-- the running image, none when no image was loaded (R347) -/
  image : Option CycImage := none
  /-- contents of the shadow bank by home offset; unlisted = 0 (R350, R352) -/
  shadow : List Host.Cell := []
deriving DecidableEq, Repr

/-- One task of a cycle core (R315 to R329). Its registers are its `Ctx`; `Ctx.live` says that it is in its cycle. -/
structure Task where
  /-- release instant of the current or last cycle, the `now` of R73 (R316) -/
  relTick : Nat := 0
  /-- pinned generation of the frozen inputs while in its cycle (R321) -/
  gen : Nat := 0
  /-- start causes pending for the next release, with their detail (R320, R371, R372) -/
  causes : List (Nat × Nat) := []
  /-- releases skipped while the present cycle runs (R327) -/
  skipped : Nat := 0
  /-- release count, 32 bits wrapping, the special register cyc (R43) -/
  cyc : Word := 0
  /-- tick of its previous release, none before the first (R315 MIN_INT) -/
  prevRel : Option Nat := none
  /-- tick of its latest release instant, released or skipped -/
  lastInst : Option Nat := none
  /-- a write-buffer overflow was already recorded in this cycle (R325) -/
  ovfRec : Bool := false
deriving DecidableEq, Repr

/-- A retained commit being written to MRAM (R335, R336). -/
structure Commit where
  /-- the copy it goes to: false A, true B -/
  copyB : Bool := false
  /-- its commit sequence number -/
  seq : Word := 0
  /-- address of the target copy -/
  base : Nat := 0
  /-- length of the copy in bytes -/
  len : Nat := 0
  /-- the copy's bytes, by offset; unlisted = 0 -/
  bytes : List Host.Cell := []
  /-- it carries the measurement of the image that runs (R356) -/
  fresh : Bool := true
deriving DecidableEq, Repr

/-- A core is stopped, running or restarting (R338 to R341). -/
inductive CoreMode where
  | stopped | running | restarting
deriving DecidableEq, Repr

/-- One physical cycle core (R313 to R345). -/
structure Core where
  /-- stopped, running or restarting; reset stopped (R344) -/
  mode : CoreMode := .stopped
  /-- a warm restart is in progress, else a cold one (R340) -/
  warm : Bool := false
  /-- tasks 0 to 15 -/
  tasks : Tbl Task := []
  /-- the write buffer, at most 8,192 entries, in the order written (R325) -/
  wbuf : List WEnt := []
  /-- Meridians since the core last started (R336) -/
  merCount : Nat := 0
  /-- the retained commit in progress (R336) -/
  commit : Option Commit := none
  /-- an image was switched and no commit of it has completed yet: a restart waits (R356) -/
  needCommit : Bool := false
  /-- a restart committed for the switching Meridian waits for that commit (R356) -/
  restartWaits : Bool := false
deriving DecidableEq, Repr

/-- One entry of the force table (R357 to R360). -/
structure Force where
  /-- bank the symbol belongs to -/
  bank : Nat := 0
  /-- stable symbol ID, 20 bits -/
  id : Nat := 0
  /-- word index (byte offset / 4) of the forced address -/
  idx : Nat := 0
  /-- a pair of words -/
  pair : Bool := false
  lo : Word := 0
  hi : Word := 0
deriving DecidableEq, Repr

/-- A remote I/O station as STN holds it beside its table in memory, whose status words are the exchange's counters, sequence
and state (R361 to R373). -/
structure Station where
  /-- EN was 1 at the last Meridian and its descriptor was accepted (R363) -/
  on : Bool := false
  /-- the sixteen descriptor words read at enabling (R363) -/
  desc : List Word := []
  /-- the latest command still waits for its response: the epoch it carried (R366) -/
  awaiting : Option Word := none
  /-- cause that the station's latest set gives its users at the next freeze: 0 none, 0x10, 0x11 (R371, R372) -/
  cause : Nat := 0
deriving DecidableEq, Repr

/-- The cycle core cluster (R313). -/
structure Cyc where
  /-- the eight cores by physical number -/
  cores : Tbl Core := []
  /-- the bank that each physical core runs; reset core n bank n (R313) -/
  bankOf : List Nat := [0, 1, 2, 3, 4, 5, 6, 7]
  /-- the eight banks -/
  banks : Tbl Bank := []
  /-- the cluster's slot pools (R71, R331) -/
  slots : Slots := {}
  /-- the force table, at most 1,024 entries (R357) -/
  forces : List Force := []
  /-- mailbox FIFOs by bank × 16 + channel, each at most 8 records of 16 bytes, oldest first (R79) -/
  mail : Tbl (List (List Byte)) := []
deriving DecidableEq, Repr

/-- A frame waiting in or passed to a unit, with its addressing (R364, R432, R485). -/
structure Frame where
  /-- kind, as the sending chapter numbers it: EtherType or frame type -/
  kind : Nat := 0
  /-- ports or lanes it goes to, bit p -/
  ports : Nat := 0
  /-- plane queue: 0 data, 1 control, 2 management (R18) -/
  plane : Nat := 0
  /-- VLAN, 0 untagged -/
  vlan : Nat := 0
  /-- destination address -/
  dst : Nat := 0
  /-- payload bytes -/
  data : List Byte := []
deriving DecidableEq, Repr

/-! ## The management link, MGT and the update gate (chapters 01 and 03) -/

/-- One transport of the management link (R111, R114). -/
structure Link where
  /-- sequence and CRC of the previous request, none before one -/
  last : Option (Nat × Word) := none
  /-- the previous request is still being executed (R114) -/
  busy : Bool := false
  /-- the kept response (R114) -/
  resp : List Byte := []
  /-- the frame that the latest response or resend put on the transport; with CRC, HOLD of an older request or a resend it may
  differ from the kept one (R114) -/
  out : List Byte := []
  /-- responses sent so far, modulo 2^32: a resend counts (R114) -/
  sent : Nat := 0
  /-- a READ of another plane that waits for the owner's boundary: address, length, the request's header and its sequence and CRC
  (R94, R112) -/
  gateRead : Option (Nat × Nat × List Byte × Nat × Word) := none
deriving DecidableEq, Repr

/-- A RUN job, waiting or running (R112, R113, R115). -/
structure RunJob where
  /-- the transport it came on -/
  link : Nat := 0
  /-- job entry 0 to 255 -/
  entry : Nat := 0
  /-- address of its argument block -/
  arg : Nat := 0
  /-- timeout in ms -/
  timeout : Nat := 0
  /-- bytes 0 to 15 of its request, echoed in the response -/
  header : List Byte := []
  /-- sequence and CRC of its request (R114) -/
  key : Nat × Word := (0, 0)
  /-- tick at which it was accepted (R113) -/
  since : Nat := 0
  /-- TIMEOUT was already answered (R113) -/
  timedOut : Bool := false
deriving DecidableEq, Repr

/-- MGT and its links (R111 to R115, R546, R590). -/
structure Mgt where
  /-- transports: 0 MGT_ETH, 1 management VLAN, 2 SPI_T, 3 service UART -/
  links : Tbl Link := []
  /-- RUN jobs waiting, at most four, oldest first (R115) -/
  runQ : List RunJob := []
  /-- the RUN job in execution -/
  running : Option RunJob := none
  /-- job entries of the loaded MGT image: (entry, home offset) pairs (R546) -/
  entries : List (Nat × Nat) := []
deriving DecidableEq, Repr

/-- A change that the update gate holds until its target's boundary (R23, R24, R85). -/
inductive Change where
  /-- a class L write by MGT to a unit of another plane (R85) -/
  | live (fid : Nat) (v : Word)
  /-- a cycle image, with the Meridians it has waited (R350, R351) -/
  | image (img : CycImage) (waited : Nat)
  /-- the payload of any other accepted envelope: its type and bytes (R546, R550) -/
  | payload (ty : Nat) (data : List Byte)
  /-- a store by MGT to memory of another plane that it may write by gate: address and bytes (R85, R93, R378) -/
  | store (a : Nat) (bytes : List Byte)
  /-- a parameter patch that MGT submitted from memory (R184) -/
  | patch (data : List Byte)
  /-- a job descriptor that MGT posted, with its handle (R80) -/
  | job (desc : List Byte) (handle : Nat)
deriving DecidableEq, Repr

/-- What an accepted envelope leaves to be done when its change is applied (R549). -/
structure EnvInfo where
  /-- payload type and target (R544) -/
  ty : Nat := 0
  target : Nat := 0
  /-- its counter -/
  ctr : Nat := 0
  /-- SHA-384 of its payload (R542) -/
  digest : List Byte := []
  /-- the envelope, stored whole for a type with a floor -/
  bytes : List Byte := []
deriving DecidableEq, Repr

/-- One pending change (R24). -/
structure GateItem where
  /-- the target engine: unit number × 64 + converter or core index -/
  target : Nat := 0
  /-- the envelope that brought it, if one did -/
  env : Option EnvInfo := none
  change : Change
deriving DecidableEq, Repr
/-! ## Closed-loop engine (chapter 12) -/

/-- What a law has evaluated, to be committed by `lp.out` (R386, R387, R395). -/
structure LawRun where
  /-- v before limits, Q15.16 -/
  v : Int := 0
  /-- new states i and d, Q31.32 -/
  i : Int := 0
  d : Int := 0
  /-- new y1, yf1 and r1 -/
  y : Int := 0
  yf : Int := 0
  r : Int := 0
  /-- the error that the repetitive controller learns from -/
  e : Int := 0
  /-- new states of a state-space law, Q31.32 -/
  x : List Int := []
  /-- a signal or state saturated -/
  sat : Bool := false
deriving DecidableEq, Repr

/-- Where the slot's run stands (R381). -/
inductive SlotPhase where
  | idle | waiting | ready | running (eng : Nat)
deriving DecidableEq, Repr

/-- A loop slot beside its record in memory (R379 to R399). Whether it is enabled, and its STATUS, live in the record. -/
structure Slot where
  /-- enabled at its latest boundary (R399) -/
  on : Bool := false
  /-- trigger kind, index, PWM event, DIV and PHASE of the active block as of the latest boundary (R379, R382) -/
  kind : Nat := 0
  index : Nat := 0
  ev : Nat := 0
  div : Nat := 0
  phase : Nat := 0
  /-- occurrences of the trigger source since the slot was enabled (R382) -/
  occ : Nat := 0
  /-- a trigger has occurred and SLOT_TRIGGER has not taken it yet -/
  due : Bool := false
  /-- the run -/
  run : SlotPhase := .idle
  /-- tick of the latest trigger, none before one since enabling (R382) -/
  tick : Option Nat := none
  /-- REF_CLK period count at the deadline (R390) -/
  dl : Nat := 0
  /-- values of sources 0 to 3, saturated, and whether each was flagged (R383) -/
  src : List (Int × Bool) := []
  /-- sources whose urgent result is awaited (R381) -/
  urg : List Nat := []
  /-- a source of this run saturated (R380 SAT) -/
  srcSat : Bool := false
  /-- repetitive index of the run (R389) -/
  k : Nat := 0
  /-- injection of this trigger, none when no injection is active (R397) -/
  inj : Option Int := none
  /-- what `lp.law` has evaluated -/
  law : Option LawRun := none
  /-- generation of the frozen inputs at the trigger (R391) -/
  gen : Nat := 0
  /-- triggers since the slot was enabled, modulo 65,536 in a sample (R398) -/
  trigs : Nat := 0
  /-- BUMPLESS acts on the next run that commits (R388) -/
  bump : Bool := false
  /-- the latest committed run tracked source 3 (R388) -/
  tracked : Bool := false
  /-- the latest run was held or missed (R383) -/
  bad : Bool := false
  /-- rising edges of each PLS_IN source at the previous trigger (R383) -/
  pls : List Nat := []
  /-- the latest trigger's sample is recorded by these capture units (R398) -/
  caps : List Nat := []
deriving DecidableEq, Repr

/-- CLE's own counter of one PLS_IN pin (R383). -/
structure PlsCount where
  /-- rising edges -/
  n : Nat := 0
  /-- ns of the latest rising edge, none before one -/
  last : Option Nat := none
  /-- ns between the two latest, none before two -/
  gap : Option Nat := none
deriving DecidableEq, Repr

/-- The closed-loop engine beside its fields and its memory (R378 to R402). -/
structure Cle where
  /-- output-area words that slots wrote and no Meridian has sealed yet, at most 1,024 (R392) -/
  wbuf : List WEnt := []
  /-- the loop slots -/
  slots : Tbl Slot := []
  /-- compare A that the channel's next counter zero loads, none when none waits (R392, R401) -/
  cmpa : Tbl (Option Nat) := []
  /-- counters of the PLS_IN pins (R383) -/
  pls : Tbl PlsCount := []
  /-- per PWM channel with ALIGN, network time in ns of its latest counter zero; unlisted before one and after a step (R34, R393) -/
  zeroAt : Tbl Nat := []
deriving DecidableEq, Repr

/-! ## Safety channel (chapter 13) -/

/-- A safety image (R422). -/
structure SafImage where
  z : Nat := 0
  ver : Word := 0
  entry : Nat := 0
  /-- CYCLE_MS -/
  cycle : Nat := 2
  /-- TP_WIDTH in 10 µs, TP_PERIOD_MS -/
  tpWidth : Nat := 10
  tpPeriod : Nat := 10
  opWidth : Nat := 100
  opInt : Nat := 1
  opLag : Nat := 10
  /-- SO enable mask -/
  mask : BitVec 8 := 0
  /-- SI_CFG of SI_0 to SI_15 -/
  si : List Nat := []
  /-- the pair bytes -/
  pairs : List Nat := []
  /-- home contents by offset; unlisted = 0 -/
  content : List Host.Cell := []
  /-- low word of its measurement -/
  meas : Word := 0
deriving DecidableEq, Repr

/-- The safety channel (R403 to R425). -/
structure Saf where
  /-- the active safety image, none when none is loaded (R424); reset none -/
  image : Option SafImage := none
  /-- the safe state holds (R412); reset true (R426 STATE) -/
  safe : Bool := true
  /-- cause of the latest entry (R413); reset 0x0A STOPPED -/
  cause : Nat := 0x0A
  /-- its detail (R413); reset 0 -/
  detail : Nat := 0
  /-- OUT_OVF: SAF's write buffer was full (R407); reset false -/
  ovf : Bool := false
  /-- commanded state of SO_0 to SO_7, within the enable mask (R406); reset 0, off -/
  cmd : BitVec 8 := 0
  /-- a safety cycle is in progress (R403); reset false -/
  inCycle : Bool := false
  /-- start of the present safety cycle, the `now` of SAF's slots (R403) -/
  relTick : Nat := 0
  /-- tick at which SAFETY_RELEASE last acted, none before -/
  lastRel : Option Nat := none
  /-- pinned generation of the frozen inputs while in a cycle (R403) -/
  gen : Nat := 0
  /-- safety-cycle count, 32 bits, the special register cyc on SAF (R43, R403) -/
  cyc : Word := 0
  /-- an overflow of the write buffer was already recorded in this cycle (R407) -/
  ovfRec : Bool := false
  /-- SAF's own slot pools: 1,024 edge, 512 timer and 256 counter slots (R71) -/
  slots : Slots := {}
  /-- SAF's write buffer of output-area words (R407) -/
  wbuf : List WEnt := []
  /-- tick at which the safety-time monitor expires, none while it is disarmed (R408); reset none -/
  monitor : Option Nat := none
  /-- filtered states of SI_0 to SI_15 (R415); reset 0 -/
  filt : BitVec 16 := 0
  /-- inputs faulted by a test pulse, and by a discrepancy (R415) -/
  fTest : BitVec 16 := 0
  fPair : BitVec 16 := 0
  /-- inputs that passed their latest test pulse; reset all, none tested yet (R415, R416) -/
  passed : BitVec 16 := 0xFFFF
  /-- TP_n is low in its test pulse (R416); reset 0 -/
  tpLow : BitVec 4 := 0
  /-- an off-pulse drives SO_n off (R419); reset 0 -/
  pulse : BitVec 8 := 0
  /-- per output, the OP_INT interval of its latest off-pulse, plus 1 (R419) -/
  pulsed : Tbl Nat := []
  /-- outputs whose readback was last reported to disagree with the pin (R418); reset 0 -/
  fbBad : BitVec 8 := 0
deriving DecidableEq, Repr


/-! ## Field network and network time (chapter 14) -/

/-- One entry of the duplicate table of the PRP pair (R434). -/
structure PrpEnt where
  /-- source MAC address -/
  src : Nat := 0
  /-- sequence number of the redundancy control trailer -/
  seq : Nat := 0
  /-- tick of its reception -/
  tick : Nat := 0
deriving DecidableEq, Repr

/-- A reassembly of the management path in progress (R435). -/
structure Reasm where
  /-- path it arrives on: 4 for MGT_ETH, else the field port -/
  path : Nat := 0
  /-- source address, identification and protocol, which the fragments share -/
  src : Nat := 0
  ident : Nat := 0
  proto : Nat := 0
  /-- tick of its first fragment -/
  start : Nat := 0
  /-- fragments by byte offset in the datagram's payload -/
  parts : List (Nat × List Byte) := []
  /-- payload length, known once the last fragment is there -/
  total : Option Nat := none
  /-- longest IPv4 header seen -/
  hdr : Nat := 20
deriving DecidableEq, Repr

/-- What NET holds for a sub-station slot beside the slot's words (R439). -/
structure SlotSt where
  /-- state of R439: 0 UNBOUND, 1 NEVER, 2 CURRENT, 3 STALE -/
  state : Nat := 0
  /-- tick at the end of reception of the latest accepted report -/
  tick : Nat := 0
deriving DecidableEq, Repr

/-- NET beside its fields and the slots' words (R428 to R440). -/
structure Net where
  /-- transmit queues by port × 3 + plane (0 data, 1 control, 2 management), at most 256 frames each, oldest first (R432) -/
  txq : Tbl (List Frame) := []
  /-- by 3 × port + plane, how far a queue that waits lies behind its share of the line, in hundredths of a byte (R432); reset 0 -/
  owed : Tbl Nat := []
  /-- sequence of the next frame sent on the PRP pair, modulo 65,536 (R434); reset 0 -/
  prpSeq : Nat := 0
  /-- the duplicate table, at most 1,024 entries, oldest first (R434); reset empty -/
  prp : List PrpEnt := []
  /-- reassemblies in progress, at most four (R435); reset empty -/
  reasm : List Reasm := []
  /-- the UDP payload last passed to the management link (R435) -/
  toMgt : List Byte := []
  /-- frames sent on MGT_ETH by the latest command (R435) -/
  mgtOut : List Frame := []
  /-- the frame that the latest PORT_TRANSMIT sent, with its port (R432) -/
  sent : Option Frame := none
  /-- the sub-station slots; unlisted = UNBOUND (R439) -/
  slots : Tbl SlotSt := []
deriving DecidableEq, Repr

/-- A number n / 2^e, exactly. -/
structure Dy where
  n : Int := 0
  e : Nat := 0
deriving DecidableEq, Repr

/-- A foreign master in the table of R444. -/
structure Master where
  /-- the data set of its latest Announce message -/
  ds : Announce
  /-- Announce messages received within the qualification window -/
  count : Nat := 0
  /-- tick of the latest one -/
  tick : Nat := 0
deriving DecidableEq, Repr

/-- TIME beside its fields (R441 to R452). -/
structure TimeU where
  /-- NTC seconds, 48 bits (R441); reset 0 -/
  sec : Nat := 0
  /-- NTC nanoseconds, 0 to 999,999,999 (R441); reset 0 -/
  ns : Nat := 0
  /-- the 48 bits below the nanosecond (R441); reset 0 -/
  frac : Nat := 0
  /-- the servo's rate in 0.001 ppb (R441, R447); reset 0 (R443) -/
  rate : Int := 0
  /-- the servo's integral term i in ppb (R447); reset 0 -/
  integ : Dy := {}
  /-- the filtered mean path delay d in ns, none before the first after a selection (R446); reset none -/
  delay : Option Dy := none
  /-- the latest d_raw was below 0, so its Sync yields no offset (R446); reset false -/
  badDelay : Bool := false
  /-- t2 - t1 - correction of the latest Sync, in ns (R446); reset none -/
  syncDiff : Option Dy := none
  /-- corrected transmit stamp t3 of the pending Delay_Req, or t1 of the pending Pdelay_Req, with its sequence (R445, R446) -/
  reqStamp : Option (Nat × Dy) := none
  /-- sequence of the next Delay_Req or Pdelay_Req, modulo 65,536 (R444); reset 0 -/
  reqSeq : Nat := 0
  /-- the foreign-master table, at most eight (R444); reset empty -/
  masters : List Master := []
  /-- clockIdentity of the selected master (R444, R452); reset none -/
  master : Option Nat := none
  /-- consecutive offsets within LOCK_THR_NS while not LOCKED, beyond it while LOCKED (R448); reset 0 -/
  run : Nat := 0
  /-- state (R448): 0 FREE, 1 TRACKING, 2 LOCKED, 3 HOLDOVER; reset 0 -/
  state : Nat := 0
  /-- sum of the steps since the latest metering sample, in 2^-48 ns (R145, R449); reset 0 -/
  stepAcc : Int := 0
  /-- NTC to which the tick in progress stepped network time, in 2^-48 ns; none without a step (R449) -/
  stepped : Option Nat := none
  /-- SET_GO was written and the next tick sets the time (R443); reset false -/
  setDue : Bool := false
  /-- SET_GO has set the time since reset (R443, R498); reset false -/
  setByGo : Bool := false
deriving DecidableEq, Repr

/-! ## Message bus controllers (chapter 15) -/

/-- What a controller has on the bus as a transmitter: a buffer, or the station command of a station (R466). -/
structure CanTx where
  /-- buffer number, none for a station command -/
  buf : Option Nat := none
  /-- station number of a station command -/
  station : Nat := 0
  /-- a cancellation was requested after the start of frame (R467) -/
  cancel : Bool := false
deriving DecidableEq, Repr

/-- A controller beside its fields and its buffers in memory (R458 to R471). -/
structure Can where
  /-- the transmit frame in progress (R466); reset none -/
  active : Option CanTx := none
  /-- transmit buffers with an outcome to collect (R461); reset empty -/
  outcome : List Nat := []
  /-- per FIFO, by its first buffer: the buffers with unread frames, oldest first (R463, R464) -/
  fifo : Tbl (List Nat) := []
  /-- FIFOs whose next frame read carries OVR (R464); reset empty -/
  ovr : List Nat := []
  /-- transmit error counter (R470); reset 0 -/
  tec : Nat := 0
  /-- receive error counter (R470); reset 0 -/
  rec_ : Nat := 0
  /-- the station queue: station number and frame record of 20 words (R466); reset empty -/
  stq : List (Nat × List Word) := []
deriving DecidableEq, Repr

/-! ## Redundancy (chapter 16) -/

/-- The states of R474, in the order of their values. -/
inductive Role where
  | single | starting | unsynced | syncing | standby | active | demoted | severed | witness
deriving DecidableEq, Repr

/-- A Meridian whose acknowledgement may renew the lease (R483). -/
structure LeaseMark where
  /-- its count since the unit became active (R478) -/
  count : Nat := 0
  /-- sequence of its heartbeat (R485) -/
  seq : Nat := 0
  /-- t_k: µs of its step 1 on the timebase -/
  us : Nat := 0
deriving DecidableEq, Repr

/-- A request that waits for the witness's answer (R487). -/
structure Ask where
  seq : Nat := 0
  /-- the requested epoch -/
  ep : Word := 0
  /-- µs at which it was sent -/
  us : Nat := 0
deriving DecidableEq, Repr

/-- An identity entry of a witness (R486). -/
structure WitId where
  id : BitVec 128 := 0
  /-- tick of the last frame heard from it -/
  tick : Nat := 0
deriving DecidableEq, Repr

/-- A grant request that a witness holds (R486). -/
structure Held where
  id : BitVec 128 := 0
  seq : Nat := 0
  ep : Word := 0
  /-- the gap G in µs -/
  gap : Nat := 0
  /-- where the answer goes: port, VLAN and MAC address -/
  port : Nat := 0
  vlan : Nat := 0
  mac : Nat := 0
deriving DecidableEq, Repr

/-- A gathered copy (R482). -/
structure Gather where
  /-- lines held by line key, sixteen words each, of a copy that is not complete yet -/
  lines : Tbl (List Word) := []
  /-- lines of the COMPLETE copy that waits for the next Meridian -/
  whole : Tbl (List Word) := []
  /-- a COMPLETE copy has arrived whole: its Meridian count and epoch -/
  ready : Option (Nat × Word) := none
deriving DecidableEq, Repr

/-- The redundancy unit (R474 to R496). Lines of the areas of R481 are keyed by area × 2^28 + index. -/
structure Twin where
  /-- state of R474; reset SINGLE -/
  role : Role := .single
  /-- ep, the Zenith epoch held, 32 bits (R43, R489); reset 0 -/
  ep : Word := 0
  /-- ep as stored in the backup domain (R489) -/
  epBkp : Word := 0
  /-- EPOCH_SEEN, the highest epoch held or seen (R496); reset 0 -/
  seen : Word := 0
  /-- ZENITH_OUT is asserted (R475); reset false -/
  zenithOut : Bool := false
  /-- ZENITH_IN has been low for at least 1 µs (R475); reset false -/
  zinLow : Bool := false
  /-- SOLO: holding without renewal (R492, R496); reset false -/
  solo : Bool := false
  /-- TWIN_A and TWIN_B are up (R477); reset false -/
  laneA : Bool := false
  laneB : Bool := false
  /-- LAGGING: the latest copy held lines back (R480); reset false -/
  lagging : Bool := false
  /-- the lease deadline in µs of the timebase, none without a lease (R483); reset none -/
  lease : Option Nat := none
  /-- Meridians that an acknowledgement may name, newest first (R483) -/
  marks : List LeaseMark := []
  /-- Meridians since the unit became active (R478); reset 0 -/
  count : Nat := 0
  /-- sequence of the next witness frame, modulo 65,536 (R485); reset 0 -/
  witSeq : Nat := 0
  /-- left ACTIVE by lease lapse, not by abdication or fencing (R493); reset false -/
  lapsed : Bool := false
  /-- s_k in ns on the own timebase, the standby's view of the latest copy's Meridian (R484); reset 0 -/
  sk : Nat := 0
  /-- the standby's watch or the next request of R487 and R492 in µs (R487); reset 0 -/
  watch : Nat := 0
  /-- µs of the last BEACON or station command with the active's ep (R487); reset 0 -/
  beaconUs : Nat := 0
  /-- ep of the active as last seen (R487); reset 0 -/
  activeEp : Word := 0
  /-- the outstanding request to the witness (R487); reset none -/
  ask : Option Ask := none
  /-- tick at which STARTING began (R491) -/
  startTick : Nat := 0
  /-- a HELLO or a BEACON was heard since STARTING began (R491); reset false -/
  heard : Bool := false
  /-- the lines as last captured (R480); unlisted = zero -/
  captured : Tbl (List Word) := []
  /-- keys of lines held back by an earlier copy, in order (R480) -/
  backlog : List Nat := []
  /-- ranges of lines that the active still sends in BULK frames: (first key, lines) (R482, R495) -/
  bulk : List (Nat × Nat) := []
  /-- lines of the sync in all, for its progress (R496) -/
  bulkTotal : Nat := 0
  /-- the twin was SYNCING in its latest HELLO (R495); reset false -/
  peerSync : Bool := false
  /-- the standby has received the end of the bulk copy (R495); reset false -/
  bulkEnd : Bool := false
  /-- the twin copy buffers (R482) -/
  gather : Gather := {}
  /-- background lines of Afterglow that wait until a record's lines are all held (R482) -/
  bgLines : Tbl (List Word) := []
  /-- E_w of the witness role, non-volatile (R486); starts at 0 -/
  ew : Word := 0
  /-- the two identity entries of the witness role (R486); reset empty -/
  ids : List WitId := []
  /-- µs of the last accepted heartbeat, none before one (R486) -/
  hbUs : Option Nat := none
  /-- requests that the witness holds (R486) -/
  held : List Held := []
  /-- the answer first given to the latest heartbeat or request of an identity: type of the question, its sequence, the
  answer's 32 bytes (R486) -/
  answers : List (BitVec 128 × Nat × Nat × List Byte) := []
  /-- the frames that the latest command handed to the twin lanes (R477) -/
  tx : List LinkFrame := []
deriving DecidableEq, Repr

/-! ## Real-time clock and backup domain (chapter 18) -/

/-- RTC and the backup domain beside RTC's fields, whose active values are the backup domain's contents (R512 to R526). -/
structure Rtc where
  /-- CAL_DATE as the latest read of CAL_TIME latched it (R520); reset 0x20000101 -/
  latchDate : Word := 0x20000101
  /-- SUBSEC of the same latch (R520); reset 0 -/
  latchSub : Nat := 0
  /-- the backup copy of the counters has been written since the backup domain's reset (R504, R513); reset false -/
  copyValid : Bool := false
  /-- a backup-domain reset has happened since the latest start-up (R513); reset true -/
  lostNew : Bool := true
deriving DecidableEq, Repr
/-! ## Keys (chapter 19) -/

/-- A slot (R529, R530). -/
structure KeySlot where
  /-- state of R530: 0 EMPTY, 1 VALID, 2 ORPHANED, 3 INTEGRITY, 4 EXPIRED, 5 EXHAUSTED -/
  st : Nat := 0
  /-- kind of R529 -/
  kind : Nat := 0
  /-- parent slot, 0xFF for none -/
  parent : Nat := 0xFF
  /-- depth of R533, 0 to 7 -/
  depth : Nat := 0
  /-- permissions of R531 -/
  perms : Nat := 0
  counted : Bool := false
  expire : Bool := false
  /-- origin of R530 -/
  origin : Nat := 0
  /-- uses remaining -/
  uses : Nat := 0
  /-- times written -/
  gen : Word := 0
  /-- counter of the envelope that wrote it -/
  ctr : Nat := 0
  /-- the key bytes; empty once zeroised -/
  key : List Byte := []
  /-- SHA-384 of the public key of an ECDSA kind, kept when the cells are zeroised; empty while `key` gives it (R530, R543) -/
  fp : List Byte := []
deriving DecidableEq, Repr

/-- An open stream of KEY (R539, R541). -/
structure KeyStream where
  /-- operation that opened it: 2 GCM_ENC, 3 GCM_DEC, 4 CMAC -/
  op : Nat := 0
  slot : Nat := 0
  iv : List Byte := []
  aad : List Byte := []
  /-- the ciphertext so far, or the message of CMAC -/
  data : List Byte := []
  /-- status that its next CHUNK or FINISH returns because its key was withdrawn, 0 for none -/
  broken : Nat := 0
deriving DecidableEq, Repr

/-- An entry of the measurement table (R542, R543). -/
structure Meas where
  /-- payload type and target of the envelope -/
  ty : Nat := 0
  target : Nat := 0
  /-- the envelope's counter -/
  ctr : Nat := 0
  /-- SHA-384 of the payload -/
  digest : List Byte := []
deriving DecidableEq, Repr

/-- The slots at delivery (R532): the four fixed ones. -/
def factorySlots : Tbl KeySlot :=
  [(0, { st := 1, kind := 2, perms := 0x20, gen := 1, key := (List.range 48).map (Config.factoryKey 0) }),
   (1, { st := 1, kind := 3, parent := 0, depth := 1, gen := 1, key := (List.range 48).map (Config.factoryKey 1) }),
   (2, { st := 1, kind := 4, perms := 0xC0, gen := 1, key := (List.range 96).map (Config.factoryKey 2) }),
   (3, { st := 1, kind := 5, perms := 0xC0, gen := 1, key := (List.range 1952).map (Config.factoryKey 3) })]

/-- KEY beside its fields: its non-volatile array and its working state (R528 to R556). -/
structure Key where
  /-- the 256 slots -/
  slots : Tbl KeySlot := factorySlots
  /-- open streams by handle, 1 to 8 -/
  streams : Tbl KeyStream := []
  /-- the monotonic counter, 64 bits; 0 at delivery -/
  mono : Nat := 0
  /-- rollback floors by envelope target; 0 at delivery -/
  floors : Tbl Nat := []
  /-- the measurement table, at most 32 entries, one per target -/
  meas : List Meas := []
  /-- envelopes stored whole in the images area of MRAM, by target (R549) -/
  stored : Tbl (List Byte) := []
  /-- the tamper latch byte, held in BKP and mirrored here (R551) -/
  latch : BitVec 8 := 0
  /-- sources that have fired since start-up (R556) -/
  fired : BitVec 8 := 0
  /-- sources active now, as last sensed (R556) -/
  active : BitVec 8 := 0
  /-- sources with response LOCK or ERASE that fired in sleep; they act at the wake (R553) -/
  slept : BitVec 8 := 0
  /-- KEY is locked until the next start-up (R552) -/
  locked : Bool := false
  /-- the entropy source has failed its health test (R536) -/
  entropyFail : Bool := false
  /-- root generation (R554); 0 at delivery -/
  rootGen : Nat := 0
  /-- TAMP_CFG, TAMP_FILT and TAMP_LOCK as the array holds them (R528) -/
  tampNv : List Word := [0x5500, 33, 0]
  /-- DRBG requests since its last reseed (R536) -/
  drbg : Nat := 0
  /-- the device is in tamper-hold (R553) -/
  hold : Bool := false
deriving DecidableEq, Repr


/-! ## Panel driver (chapter 20) -/

/-- A request for a rectangle of a bistable panel (R566). -/
structure HmiReq where
  /-- UPD_REQ [13:0]: first column [3:0], last column [7:4], first row [10:8], last row [13:11] -/
  rect : Nat := 0
  /-- the twelve target bytes as copied when the request was accepted -/
  target : List Byte := []
  /-- request sequence, 16 bits -/
  seq : Nat := 0
deriving DecidableEq, Repr

/-- A running update (R564, R567). -/
structure HmiUpd where
  req : HmiReq := {}
  /-- PHASE_N with which it began -/
  phaseN : Nat := 12
  /-- frames completed -/
  frame : Nat := 0
  /-- ring position of its BEGIN entry (R568) -/
  slot : Nat := 0
  /-- it drives in the frame in progress; one that begins inside a frame drives from the next -/
  drives : Bool := true
deriving DecidableEq, Repr

/-- An interrupted update that recovery has found (R570). -/
structure HmiOpen where
  /-- the BEGIN entry: its journal sequence, request, PHASE_N and progress -/
  jseq : Nat := 0
  req : HmiReq := {}
  phaseN : Nat := 12
  progress : Nat := 0
  /-- ring position of the BEGIN entry -/
  slot : Nat := 0
deriving DecidableEq, Repr

/-- The step of the recovery (R570). -/
inductive HmiRec where
  /-- no recovery -/
  | none
  /-- a start of the panel waits for the journal to be read (steps 1 to 3) -/
  | scan
  /-- the balancing waveform of the first open rectangle (step 4) -/
  | balance
  /-- its redraw runs on runner 0 (step 5) -/
  | redraw
deriving DecidableEq, Repr

/-- What a segment LCD shows in the frame in progress (R559 to R561). -/
structure LcdFrame where
  /-- the 96 bytes of the LCD frame drawn -/
  bits : List Byte := []
  /-- DUTY, bias and INV of PANEL_CFG -/
  duty : Nat := 3
  bias : Nat := 1
  inv : Nat := 0
  /-- the frame starts in positive polarity -/
  positive : Bool := true
deriving DecidableEq, Repr

/-- The panel driver (R558 to R575). -/
structure Hmi where
  /-- running updates by runner 0 to 3 -/
  running : Tbl HmiUpd := []
  /-- queued requests, oldest first, at most eight -/
  queue : List HmiReq := []
  /-- request sequence of the last accepted request; reset 0 -/
  reqSeq : Nat := 0
  /-- journal sequence of the latest entry; 0 before any -/
  jseq : Nat := 0
  /-- ring position of the next entry, 0 to 1019 -/
  ringPos : Nat := 0
  /-- sequence of the latest balance copy and the copy that the next save writes (R569): false A, true B -/
  balSeq : Nat := 0
  balNext : Bool := false
  /-- the journal has been read since the last start-up or switch-on (R570) -/
  recovered : Bool := false
  /-- the recovery's step and the rectangles still to recover -/
  rcv : HmiRec := .none
  opens : List HmiOpen := []
  /-- what the LCD frame in progress draws, none while the panel is not driven -/
  lcd : Option LcdFrame := none
  /-- a bistable panel is driven -/
  bistable : Bool := false
  /-- the Halo request in progress, open readings in a row, refused requests in a row (R572) -/
  haloReq : Bool := false
  haloOpen : Nat := 0
  haloRefused : Nat := 0
deriving DecidableEq, Repr

/-! ## Power (chapter 21) -/

/-- One switch that PWR carries out: a domain, or a core of CYC, and whether it is switched on (R577, R578). -/
structure PwrSwitch where
  core : Bool := false
  idx : Nat := 0
  on : Bool := false
deriving DecidableEq, Repr

/-- PWR beside its fields (R576 to R593). -/
structure Pwr where
  /-- the device sleeps (R579 to R582); reset false -/
  asleep : Bool := false
  /-- tick at which it went to sleep (R593) -/
  sleptAt : Nat := 0
  /-- switches in progress, the first one in transition, and then those of the set that follow (R577); reset none -/
  switches : List PwrSwitch := []
  /-- cores that are powered, a core in its transition not (R314); reset all -/
  cores : BitVec 8 := 0xFF
  /-- VDD_CORE as last commanded, in mV; reset 750, as TARGET_MV (R584, R585) -/
  mv : Nat := 750
  /-- AVSBus transactions that failed in a row (R585) -/
  avsFails : Nat := 0
deriving DecidableEq, Repr

/-! ## Pins (chapter 22) -/

/-- The pins that the safety channel, the redundancy unit and the meter drive, as they stand after a command (R173, R475, R586). -/
structure Pins where
  /-- SO_0 to SO_7 driven on (R406, R420); reset 0 -/
  so : BitVec 8 := 0
  /-- TP_0 to TP_3 driven high (R416); reset high -/
  tp : BitVec 4 := 0xF
  /-- ZENITH_OUT driven high (R475); reset false, Hi-Z -/
  zenithOut : Bool := false
  /-- PLS_OUT_0 to PLS_OUT_15 at their active level (R173, R586); reset 0 -/
  pls : BitVec 16 := 0
  /-- PLS_OUT_0 to PLS_OUT_15 high, while the MTR domain is on: an output with PO_CFG [30] is active low (R173, R177); reset 0 -/
  plsHigh : BitVec 16 := 0
deriving DecidableEq, Repr

/-! ## The whole machine -/

/-! ## Test access port (chapter 22) -/

/-- The instructions of the test access port (R605). -/
inductive TapOp where
  | bypass | idcode | sample | extest
  /-- a private debug instruction -/
  | debug
deriving DecidableEq, Repr

/-- The test access port (R605). -/
structure Tap where
  /-- the instruction in use; reset IDCODE, as IEEE 1149.1 has it (assumption 204) -/
  ir : TapOp := .idcode
  /-- the data register that the instruction selects, the bit next to TDO first; reset empty -/
  dr : List Bool := []
  /-- update latches of the boundary cells; reset none set -/
  cells : List Bool := []
deriving DecidableEq, Repr

/-- The state of the IGN2048. -/
structure State where
  /-- commands that wait, first in, first out; reset empty -/
  pending : List Instr := []
  /-- the model's own counter of free values drawn; reset 0 (assumption 3) -/
  free : Nat := 0
  clk : Clk := {}
  cfg : Cfg := {}
  mem : Mem := {}
  /-- engine contexts by context number: MGT main program 0, MGT RUN job 1, SAF 2, ASM 3, AFE sequencer n 16 + n, law
  engine k 32 + k, task t of bank L 64 + 16 L + t (R40, R112, R313) -/
  ctxs : Tbl Ctx := []
  /-- pending events: per event number, bit e set when it is pending in engine e (MGT 0, SAF 1, ASM 2, CLE 3, AFE n 8 + n,
  CYC_n 24 + n); unlisted = none (R77) -/
  evts : Tbl Word := []
  alm : Alm := {}
  pi : Pi := {}
  /-- changes that the update gate holds, in the order requested (R24) -/
  gate : List GateItem := []
  mgt : Mgt := {}
  cyc : Cyc := {}
  /-- the sixteen converters -/
  afe : Tbl Conv := []
  mtr : Mtr := {}
  asm : AsmU := {}
  cle : Cle := {}
  saf : Saf := {}
  /-- the eight CAN controllers -/
  can : Tbl Can := []
  /-- the remote I/O stations by number (R361) -/
  stn : Tbl Station := []
  solv : Solv := {}
  net : Net := {}
  time : TimeU := {}
  twin : Twin := {}
  rtc : Rtc := {}
  key : Key := {}
  hmi : Hmi := {}
  pwr : Pwr := {}
  /-- what the device drives on its pins after the last command -/
  pins : Pins := {}
  /-- the test access port (R605) -/
  tap : Tap := {}
deriving DecidableEq, Repr

/-- The machine right after power-on reset: every field at the default its comment names, the queue empty. -/
def State.reset : State := {}

/-- A step never stops this machine: every error of the device is a response, a trap or a record. The type is closed and
only `exec`'s contract needs it. -/
inductive Fault where
  /-- Raised by no meaning; reserved for a command outside the device. Safe: the model would stop where the device goes on. -/
  | none
deriving DecidableEq, Repr

/-- Why a command has no meaning in the model. -/
inductive Refusal where
  /-- Raised by an arm of `exec` for a command that is not modelled yet. Safe: the model stops. -/
  | notModelled (mnemonic : String)
deriving DecidableEq, Repr

end Sys2Proof.Machine
end

