-- ==== Sys2Proof/Machine/Fields.lean ====
section
/-! DEFINITION. The configuration field maps of all units (R13, R14, R29, R30, R103, R104): class, writable bits, reset
value and documented range of every field, transcribed from the field map of each chapter. -/
namespace Sys2Proof.Machine

/-- The access classes of R13. -/
inductive FClass where
  | c | l | s
deriving DecidableEq, Repr

/-- One line of a field map: `n` fields at `lo`, `lo + stride`, …; `mask` holds the bits that are not reserved;
`rng` holds (low bit, length, least, greatest) of each sub-field with a documented range. -/
structure FRow where
  lo : Nat
  n : Nat := 1
  stride : Nat := 1
  cls : FClass
  ro : Bool := false
  mask : Nat
  reset : Nat := 0
  rng : List (Nat × Nat × Nat × Nat) := []
deriving DecidableEq, Repr

/-- The row covers field number `f`. -/
def FRow.covers (r : FRow) (f : Nat) : Bool :=
  r.lo ≤ f && (f - r.lo) % r.stride == 0 && (f - r.lo) / r.stride < r.n

/-- A read-only field of class L. -/
def roRow (lo mask : Nat) (reset : Nat := 0) (n : Nat := 1) (stride : Nat := 1) : FRow :=
  { lo := lo, n := n, stride := stride, cls := .l, ro := true, mask := mask, reset := reset }

/-- A counter of class L that any write clears, or another 32-bit field without a range. -/
def rwRow (cls : FClass) (lo mask : Nat) (reset : Nat := 0) (rng : List (Nat × Nat × Nat × Nat) := [])
    (n : Nat := 1) (stride : Nat := 1) : FRow :=
  { lo := lo, n := n, stride := stride, cls := cls, mask := mask, reset := reset, rng := rng }

/-- All bits of a word. -/
def full : Nat := 0xFFFFFFFF

/-- MGT (R616). -/
def fieldsMgt : List FRow := [rwRow .c 0x001 0xFFFFF 115200 [(0, 20, 9600, 921600)]]

/-- MEM (R116). -/
def fieldsMem : List FRow :=
  [rwRow .c 0x001 0x1FFFF 3600 [(0, 17, 60, 86400)], rwRow .l 0x002 1 1, rwRow .l 0x003 full, rwRow .l 0x004 full,
   rwRow .l 0x005 full, rwRow .l 0x006 0xFFFF 16 [(0, 16, 1, 65535)], roRow 0x007 0xFFFFFF3F, rwRow .l 0x008 1,
   roRow 0x009 full, roRow 0x00A 0xFF]

/-- PWR (R593). -/
def fieldsPwr : List FRow :=
  [rwRow .c 0x001 0x3FF 0x3FF, roRow 0x002 0x03FF03FF 0x3FF, rwRow .c 0x003 0xFF 0xFF,
   rwRow .c 0x004 0x83FF03FF (650 * 2 ^ 16 + 750) [(16, 10, 650, 750), (0, 10, 650, 900)], roRow 0x005 0x003FF00F,
   rwRow .c 0x006 0x1FFF 3, rwRow .c 0x007 0xFFFF, roRow 0x008 0xFFFF3FFF, roRow 0x009 full, roRow 0x00A 0xF 1,
   rwRow .l 0x00B 0xFFFF 0 [(0, 16, 0xA5C3, 0xA5C3)], rwRow .l 0x00C 1, roRow 0x00D 0xFF00FFFF, roRow 0x00E 0xFFFF00FF]

/-- CYC_n (R344, R375). -/
def fieldsCyc (n : Nat) : List FRow :=
  [rwRow .l 0x001 1, rwRow .c 0x002 3 0 [(0, 2, 0, 2)], rwRow .l 0x003 3 0 [(0, 2, 0, 2)], rwRow .c 0x004 1,
   rwRow .s 0x005 0x7FFF3FFF (2048 * 2 ^ 16 + 2048 * n) [(16, 15, 0, 16384)],
   rwRow .s 0x006 0x3FFF1FFF (1024 * 2 ^ 16 + 1024 * n) [(16, 14, 0, 8192)],
   rwRow .s 0x007 0x1FFF0FFF (512 * 2 ^ 16 + 512 * n) [(16, 13, 0, 4096)],
   rwRow .s 0x008 0x3FFF1FFF (128 * 2 ^ 16 + 64), rwRow .s 0x009 0xFF7F (32 * n * 256 + 15),
   rwRow .c 0x00A 0xFFF 40 [(0, 12, 1, 4000)], roRow 0x00B full, rwRow .c 0x00C 0x80000007,
   roRow 0x00D 0x0700007F (n * 2 ^ 24 + 2), rwRow .l 0x00E 7, rwRow .c 0x00F 0xFFFFF 100 [(0, 20, 25, 1000000)],
   roRow 0x010 full, rwRow .l 0x011 full full, roRow 0x012 full,
   rwRow .c 0x020 0xFFFFF, rwRow .c 0x021 full, rwRow .c 0x022 full, rwRow .c 0x023 3, roRow 0x024 0x001FFCFF,
   rwRow .c 0x025 0xFF 16, roRow 0x026 0xFFFFFF03,
   rwRow .c 0x100 0xE0000000 0 [] 16 16, rwRow .c 0x101 full 100 [(0, 32, 10, 0xFFFFFFFF)] 16 16,
   rwRow .c 0x102 full 0 [] 16 16, rwRow .c 0x103 0xFFFFF 0x400 [] 16 16, rwRow .c 0x104 0xFFFFF 0 [] 16 16,
   rwRow .c 0x105 0xFFFF03FF 0 [] 16 16, roRow 0x106 0xFFFFFF1F 0 16 16, roRow 0x107 full 0 16 16,
   rwRow .l 0x108 full 0 [] 16 16, roRow 0x109 full 0 16 16, rwRow .l 0x10A 1 0 [] 16 16]

/-- SAF (R426). -/
def fieldsSaf : List FRow :=
  [rwRow .l 0x001 1, rwRow .l 0x002 1, roRow 0x003 0xFFFF001F 0x0A00000A, roRow 0x004 full, roRow 0x005 full,
   roRow 0x006 0xFFFF00FF, roRow 0x007 full, roRow 0x008 0x00FFFFFF, roRow 0x009 full, roRow 0x00A full, roRow 0x00B full,
   rwRow .l 0x00C full, roRow 0x00D full, roRow 0x010 full 0 8, roRow 0x018 full 0 2]

/-- CLE (R401). -/
def fieldsCle : List FRow :=
  [rwRow .l 0x001 1, rwRow .c 0x002 full 0 [] 16, roRow 0x012 0x00FFFFFF, rwRow .l 0x013 1, rwRow .l 0x014 full,
   rwRow .l 0x015 full, rwRow .c 0x020 0xC1FFFFFF 0 [] 16 2, roRow 0x021 0xC001FFFF 0 16 2,
   rwRow .c 0x100 0xFE07FFFF 0 [(25, 2, 0, 1)] 32 4, rwRow .c 0x101 0xFFFFF 50000 [(0, 20, 100, 1000000)] 32 4,
   rwRow .l 0x102 0xFFFFF 0 [] 32 4, roRow 0x103 0xFFFFF 0 32 4]

/-- AFE (R133, R140). -/
def fieldsAfe : List FRow :=
  [rwRow .c 0x001 0xFFFF 125 [(0, 16, 125, 65535)], rwRow .c 0x002 0xFFFF 500 [(0, 16, 125, 65535)],
   rwRow .c 0x003 0xFFFF 2000 [(0, 16, 125, 65535)], rwRow .c 0x004 0xFFFF 10000 [(0, 16, 125, 65535)],
   rwRow .c 0x005 0xFFFF 1024, rwRow .c 0x006 0xFFFF 64512,
   rwRow .c 0x007 full (31772 * 2 ^ 16 + 31142), rwRow .c 0x008 full (45416 * 2 ^ 16 + 41091),
   rwRow .c 0x009 full (23593 * 2 ^ 16 + 17039), rwRow .c 0x00A full (49408 * 2 ^ 16 + 27008),
   roRow 0x00B full 0 2, rwRow .l 0x100 1 0 [] 16 16, rwRow .c 0x101 0x00FFFFFF 10 [(0, 16, 1, 65535)] 16 16,
   rwRow .c 0x102 0xFFFF 0 [] 16 16, rwRow .c 0x103 0xFFFF 0 [] 16 16, rwRow .c 0x104 0xF 4 [] 16 16,
   rwRow .c 0x105 0xFFFF 64 [] 8 16, rwRow .c 0x185 0xFFFF 0 [(0, 16, 0, 0)] 8 16, roRow 0x106 0xFFFF001F 0 16 16]

/-- MTR (R175). -/
def fieldsMtr : List FRow :=
  [rwRow .l 0x001 1, rwRow .s 0x002 1, rwRow .c 0x003 0xFF 25 [(0, 8, 10, 100)], rwRow .c 0x004 0xFFFF 328 [(0, 16, 0, 6554)],
   rwRow .c 0x005 0xFFFFFF 0xFEA540, roRow 0x006 0xFFFF0001, roRow 0x007 0xFFF, roRow 0x008 full, roRow 0x009 0x0FFFFFFF,
   roRow 0x00A full 0 4, roRow 0x00E full, rwRow .c 0x100 0xF 8 [(0, 3, 0, 0)] 12, rwRow .c 0x10C 0xF 8 [(0, 3, 0, 4)] 48,
   rwRow .c 0x140 full 565685 [(0, 32, 1, 0xFFFFFFFF)] 12, rwRow .c 0x14C full 7071 [(0, 32, 1, 0xFFFFFFFF)] 48]

/-- EQC (R177). -/
def fieldsEqc : List FRow :=
  [rwRow .c 0x001 0xFFFF 1000 [(0, 16, 200, 60000)], rwRow .c 0x002 full 429497 [(0, 32, 107374, 1073742)],
   rwRow .c 0x003 0xFFF 60 [(0, 12, 1, 3600)], rwRow .l 0x004 1, roRow 0x005 full,
   rwRow .s 0x006 0x7FFFF 0x70000 [(0, 19, 0, 0x7A0A0)], rwRow .c 0x007 full 0xFFF, rwRow .c 0x008 0x0FFFFFFF,
   rwRow .c 0x009 0xFFFF 100 [(0, 16, 10, 1000)], rwRow .s 0x00A 0x77 0x33 [(4, 3, 0, 6), (0, 3, 0, 6)],
   roRow 0x00B 0xFFFF0000, rwRow .l 0x00C full,
   rwRow .c 0x100 0xFFFFFFC0 0 [(6, 7, 0, 127)] 48 4, rwRow .c 0x101 0xFFFFFFFF 0 [] 48 4, rwRow .c 0x102 0xFFFFFFFF 0 [] 48 4,
   rwRow .c 0x103 full (66 * 2 ^ 16 + 50) [] 48 4,
   rwRow .c 0x1C0 0xFFC0FFFF 1000 [] 32 2, rwRow .c 0x1C1 full 1000000 [(0, 32, 1, 0xFFFFFFFF)] 32 2,
   rwRow .c 0x200 0xCFFF03FF 100 [(16, 12, 0, 623), (0, 10, 1, 1000)] 16 2,
   rwRow .c 0x201 full 10000 [(0, 32, 1, 0xFFFFFFFF)] 16 2]

/-- ASM (R220). -/
def fieldsAsm : List FRow :=
  [rwRow .l 0x001 1, rwRow .c 0x002 0xFFFF 1000 [(0, 16, 0, 60000)], roRow 0x003 full, roRow 0x004 0xFFFFFFFF, roRow 0x005 full,
   roRow 0x006 0xFFFF, roRow 0x007 full, roRow 0x008 0xFFFF0001, rwRow .l 0x009 full, rwRow .l 0x00A 0xFF 8,
   rwRow .c 0x00B full, rwRow .c 0x00C 0xFF 8, rwRow .c 0x00D 0xFFFFF 65536 [(0, 20, 1, 524288)],
   rwRow .s 0x00E full 64028672 [(0, 32, 58982400, 68812800)], rwRow .s 0x00F full (2000 * 2 ^ 16 + 5) [(0, 16, 1, 65535)],
   rwRow .s 0x010 full, rwRow .s 0x011 full 409600000, rwRow .s 0x012 full, rwRow .s 0x013 full 11796480,
   rwRow .s 0x014 full 21474836 [(0, 32, 1, 0x7FFFFFFF)], rwRow .s 0x015 full 6553600, roRow 0x016 full, rwRow .l 0x017 full,
   rwRow .l 0x018 full, rwRow .l 0x019 0xFF, rwRow .l 0x01A 1, roRow 0x01B 0xFFFF0007]

/-- TRN (R222). -/
def fieldsTrn : List FRow :=
  [rwRow .l 0x001 1, rwRow .c 0x002 0xFFFF 4190 [(0, 16, 3500, 4500)], rwRow .c 0x003 0xFFFF 5000 [(0, 16, 100, 60000)],
   rwRow .c 0x004 full 66 [(0, 32, 0, 65536)], rwRow .c 0x005 full 3276800, rwRow .l 0x006 full 655360 [] 16,
   roRow 0x016 0xFFFF00F3, roRow 0x017 full, roRow 0x018 full, roRow 0x019 full]

/-- SOLV (R259). -/
def fieldsSolv : List FRow :=
  [rwRow .l 0x001 1, rwRow .c 0x002 full 1024 [(0, 32, 1, 1073741824)], rwRow .c 0x003 full 64 [(0, 32, 1, 1073741824)],
   rwRow .c 0x004 full 1000000 [(0, 32, 1, 0xFFFFFFFF)], rwRow .c 0x005 0xFFFF 1000, roRow 0x006 full,
   roRow 0x007 0x00FFFF00 (64 * 2 ^ 16 + 64 * 2 ^ 8), roRow 0x008 full 0 4, roRow 0x00C full, rwRow .l 0x00D full,
   roRow 0x00E 0x00FFFF00 (127 * 2 ^ 8), rwRow .c 0x00F 1]

/-- NET (R450). -/
def fieldsNet : List FRow :=
  [rwRow .l 0x001 1, rwRow .c 0x002 0xFFFFFF (20 * 2 ^ 16 + 30 * 2 ^ 8 + 50) [(0, 8, 5, 90), (8, 8, 5, 90), (16, 8, 5, 90)],
   rwRow .s 0x003 0xFFFFFF (16 * 2 ^ 16 + 16 * 2 ^ 8 + 64) [(0, 8, 1, 94), (8, 8, 1, 94), (16, 8, 1, 94)],
   rwRow .s 0x004 0x8000FFFF 2000 [(0, 16, 100, 60000)], rwRow .c 0x005 0xFFFF 400 [(0, 16, 10, 10000)],
   rwRow .s 0x006 0xC0000FFF 0x80000000, rwRow .s 0x007 full, rwRow .l 0x008 0xFFFF 3000 [(0, 16, 1, 65535)],
   rwRow .s 0x009 0x7FFFF 0x60000, rwRow .s 0x00A 0x0FFF003F 0 [(16, 12, 0, 2048), (0, 6, 0, 32)],
   roRow 0x00B full, rwRow .l 0x00C full, rwRow .l 0x00D full, roRow 0x00E full, rwRow .l 0x00F 1,
   rwRow .c 0x100 0xC0000000 0x40000000 [] 4 16, rwRow .s 0x101 full 0 [] 4 16, rwRow .s 0x102 0xFFFF 0 [] 4 16,
   roRow 0x103 7 0 4 16, rwRow .l 0x104 full 0 [] 4 16, rwRow .l 0x105 full 0 [] 4 16, rwRow .l 0x106 full 0 [] 4 16,
   rwRow .l 0x107 full 0 [] 4 16, rwRow .l 0x108 full 0 [] 4 16]

/-- TIME (R452). -/
def fieldsTime : List FRow :=
  [rwRow .l 0x001 1, rwRow .c 0x002 0xFF0303FF 3 [(8, 2, 0, 2), (0, 8, 2, 255)], rwRow .c 0x003 0x1FF,
   rwRow .c 0x004 full 0 [] 4, rwRow .c 0x008 full 32768 [(0, 32, 0, 1048576)], rwRow .c 0x009 full 3277 [(0, 32, 0, 1048576)],
   rwRow .c 0x00A full 1000000, rwRow .c 0x00B full 1000 [(0, 32, 1, 0xFFFFFFFF)],
   rwRow .c 0x00C 0xFFF (3 * 256 + 8) [(8, 4, 0, 8), (0, 8, 1, 255)], rwRow .c 0x00D 0x3FF 1000 [(0, 10, 1, 1000)],
   roRow 0x00E full, roRow 0x00F 0xFFFF, rwRow .l 0x010 full, rwRow .l 0x011 0xFFFF,
   rwRow .l 0x012 0x3FFFFFFF 0 [(0, 30, 0, 999999999)], rwRow .l 0x013 1, roRow 0x014 0xFF00FFFF, roRow 0x015 full,
   roRow 0x016 full, roRow 0x017 full 0 2, roRow 0x019 0x000FFFFF]

/-- CAN_c (R472). -/
def fieldsCan : List FRow :=
  [rwRow .l 0x001 1, rwRow .s 0x002 7 1, rwRow .s 0x003 0xFFFFFDFF (126 * 2 ^ 24 + 31 * 2 ^ 17 + 31 * 2 ^ 10),
   rwRow .s 0x004 0x1F0F0F1F (28 * 2 ^ 24 + 9 * 2 ^ 16 + 9 * 2 ^ 8), rwRow .s 0x005 0x80FFFF00 (30 * 2 ^ 16),
   roRow 0x006 0xFFFFFFFF, rwRow .l 0x007 1, rwRow .s 0x008 full 0 [] 4, roRow 0x00C full 0 4, rwRow .l 0x010 full 0 [] 4,
   roRow 0x014 full 0 4, rwRow .l 0x018 full, rwRow .l 0x019 full, rwRow .l 0x01A full,
   rwRow .c 0x100 0x9FFFFFFF 0 [] 64 4, rwRow .c 0x101 0x1FFFFFFF 0 [] 64 4,
   rwRow .c 0x102 0xF8003FFF 0 [(27, 2, 0, 2)] 64 4]

/-- STN (R376). -/
def fieldsStn : List FRow :=
  [rwRow .l 0x001 1, rwRow .c 0x002 full 0 [] 8, roRow 0x00A full 0 8, roRow 0x012 0xFFFF00FF, rwRow .l 0x013 full]

/-- TWIN (R496). -/
def fieldsTwin : List FRow :=
  [rwRow .l 0x001 1, rwRow .s 0x002 0x703 0x600 [(0, 2, 0, 2)], rwRow .s 0x003 0xFFFF 150 [(0, 16, 20, 10000)],
   rwRow .s 0x004 0xFFFF 5 [(0, 16, 2, 1000)], rwRow .s 0x005 0xFFFF 200 [(0, 16, 50, 10000)], rwRow .s 0x006 full,
   rwRow .s 0x007 0xFFFF, rwRow .s 0x008 0x0F000FFF 0x01000000, rwRow .s 0x009 0xFFFF 2000 [(0, 16, 100, 60000)],
   rwRow .c 0x00A 0xFFF 2048 [(0, 12, 64, 2048)], rwRow .c 0x00B 0x800000FF 0x80000019 [(0, 8, 1, 100)],
   rwRow .c 0x00C 0xFFFFFF, rwRow .c 0x00D 0xFFFFFF, roRow 0x00E full, roRow 0x00F full 0 2, roRow 0x011 full, roRow 0x012 full,
   roRow 0x013 full, roRow 0x014 0x800000FF, rwRow .l 0x015 1, rwRow .l 0x016 full, roRow 0x017 full,
   rwRow .s 0x018 0xFFFF 60 [(0, 16, 1, 65535)]]

/-- ALM (R510). -/
def fieldsAlm : List FRow :=
  [roRow 0x001 0xFFFF, roRow 0x002 0x1FF, roRow 0x003 full 1, roRow 0x004 full 0 4, roRow 0x008 full, roRow 0x009 0xFFFF,
   rwRow .l 0x00A 1, roRow 0x00B full, rwRow .l 0x00C 1, rwRow .c 0x00D 3, roRow 0x00E full, roRow 0x00F 3]

/-- RTC (R526). -/
def fieldsRtc : List FRow :=
  [rwRow .c 0x001 0xFFFFFF, rwRow .c 0x002 full 0x20000101, rwRow .c 0x003 1, roRow 0x004 0x7FFF, rwRow .c 0x005 0x1FFF,
   rwRow .c 0x006 full, rwRow .c 0x007 full 0x20000101, rwRow .c 0x008 7 2, rwRow .l 0x009 3,
   rwRow .c 0x00A 0x1FFFF (0x10000 + 1024) [(0, 16, 1, 65535)], roRow 0x00B 0xFF 0x90, rwRow .l 0x00C 0xF, roRow 0x00D full 0 2,
   roRow 0x00F 0xFFFF, roRow 0x010 full]

/-- KEY (R556). -/
def fieldsKey : List FRow :=
  [roRow 0x001 0xFFF0000F 4, rwRow .c 0x002 0xFFFF 0x5500, rwRow .c 0x003 0xFFFFF 33 [(0, 16, 1, 65535)], rwRow .c 0x004 1,
   roRow 0x005 0x00FFFFFF, roRow 0x006 full 0 2, roRow 0x008 0xFFFF00FF, roRow 0x009 full, roRow 0x00A 0x01FF01FF 4,
   roRow 0x00B full, roRow 0x00C full 0 4]

/-- HMI (R574). -/
def fieldsHmi : List FRow :=
  [rwRow .l 0x001 1, rwRow .s 0x002 0x3FF 0x16 [(6, 2, 0, 2), (4, 2, 0, 2), (1, 3, 0, 4)], rwRow .c 0x003 0x1FF 64 [(0, 9, 32, 256)],
   rwRow .c 0x004 0x7F 66 [(0, 7, 54, 110)], rwRow .c 0x005 1, rwRow .c 0x006 0x3FFFFF (12 * 2 ^ 16 + 20000) [(16, 6, 1, 63), (0, 16, 1000, 65535)],
   rwRow .l 0x007 0x3FFF, roRow 0x008 0xFFFFFFFF, rwRow .c 0x009 full, rwRow .c 0x00A 0xFFFF (16 * 256 + 8) [(8, 8, 2, 255), (0, 8, 1, 255)],
   rwRow .c 0x00B 0x80FFFFFF (3 * 2 ^ 16 + 26214) [(16, 8, 1, 255)], rwRow .c 0x00C 0xFFFF 100 [(0, 16, 10, 60000)],
   roRow 0x00D 0x8000FFFF, roRow 0x00E 0x3F, rwRow .l 0x00F 7, roRow 0x010 full]

/-- The unit numbers of R29 that exist; R30 lists the others. -/
def unitExists (u : Nat) : Bool :=
  u < 3 || (4 ≤ u && u ≤ 0x0C) || (0x10 ≤ u && u ≤ 0x16) || (0x18 ≤ u && u ≤ 0x27)

/-- The field map of a unit, without the fields every unit has. -/
def unitRows (u : Nat) : List FRow :=
  if u = 0 then fieldsMgt else if u = 1 then fieldsMem else if u = 2 then fieldsPwr
  else if 4 ≤ u ∧ u ≤ 0x0B then fieldsCyc (u - 4)
  else if u = 0x0C then fieldsSaf else if u = 0x10 then fieldsCle else if u = 0x11 then fieldsAfe
  else if u = 0x12 then fieldsMtr else if u = 0x13 then fieldsEqc else if u = 0x14 then fieldsAsm
  else if u = 0x15 then fieldsTrn else if u = 0x16 then fieldsSolv else if u = 0x18 then fieldsNet
  else if u = 0x19 then fieldsTime else if 0x1A ≤ u ∧ u ≤ 0x21 then fieldsCan
  else if u = 0x22 then fieldsStn else if u = 0x23 then fieldsTwin else if u = 0x24 then fieldsAlm
  else if u = 0x25 then fieldsRtc else if u = 0x26 then fieldsKey else if u = 0x27 then fieldsHmi else []

/-- UNIT_INFO and COMMIT_STATUS (R103). -/
def commonRows (u : Nat) : List FRow := [roRow 0x000 0xFFFF003F (0xA1010000 + u), roRow 0x3FF 0xFF03]

/-- The map line of a 16-bit field ID, none when the field is unmapped (R14, R30). -/
def fieldRow (fid : Nat) : Option FRow :=
  let u := fid / 1024
  if unitExists u then (commonRows u ++ unitRows u).find? (·.covers (fid % 1024)) else none

/-- The reset value of a field (R13); 0 for an unmapped one. KEY's identity fields hold the identity (R556). -/
def fieldReset (fid : Nat) : Word :=
  if 0x980C ≤ fid ∧ fid ≤ 0x980F then Config.identity.extractLsb' (32 * (fid - 0x980C)) 32
  else match fieldRow fid with
    | some r => Word.ofN r.reset
    | none => 0

/-- Is every digit of a BCD byte at most 9, and the byte within the two bounds (R516, R519). -/
def bcdIn (b lo hi : Nat) : Bool := b % 16 ≤ 9 && b / 16 ≤ 9 && lo ≤ b && b ≤ hi

end Sys2Proof.Machine
end

