-- ==== Sys2Proof/Machine/Base.lean ====
section
/-! DEFINITION. The named operations over tables, memory, configuration fields, events and Almanac records that every
family uses: one home for each piece of state, and one way to read and write it. -/
namespace Sys2Proof.Machine

/-- What a command's meaning answers. -/
abbrev Out := Host.Outcome State Fault Refusal

/-! ## Sparse tables -/

/-- The first entry listed under a key. -/
def Tbl.find {α : Type} : Tbl α → Nat → Option α
  | [], _ => none
  | (k', v) :: t, k => if k' = k then some v else Tbl.find t k

/-- The entry of a key, `d` when the key is not listed. -/
def Tbl.get {α : Type} (d : α) (t : Tbl α) (k : Nat) : α := (Tbl.find t k).getD d

/-- Lists a key at its place. -/
def Tbl.ins {α : Type} : Tbl α → Nat → α → Tbl α
  | [], k, v => [(k, v)]
  | (k', v') :: t, k, v =>
    if k < k' then (k, v) :: (k', v') :: t
    else if k = k' then (k, v) :: t
    else (k', v') :: Tbl.ins t k v

/-- Takes a key off the list. -/
def Tbl.del {α : Type} (t : Tbl α) (k : Nat) : Tbl α := t.filter (fun e => e.1 != k)

/-- Writes an entry: an entry equal to what an unlisted key reads as is not listed. -/
def Tbl.put {α : Type} [DecidableEq α] (d : α) (t : Tbl α) (k : Nat) (v : α) : Tbl α :=
  if v = d then Tbl.del t k else Tbl.ins t k v

/-- Takes every key from `lo` to `lo + len - 1` off the list. -/
def Tbl.clear {α : Type} (t : Tbl α) (lo len : Nat) : Tbl α := t.filter (fun e => e.1 < lo || lo + len ≤ e.1)

/-- The entries from `lo` to `lo + len - 1`, with keys counted from `lo`. -/
def Tbl.slice {α : Type} (t : Tbl α) (lo len : Nat) : Tbl α :=
  (t.filter (fun e => lo ≤ e.1 && e.1 < lo + len)).map (fun e => (e.1 - lo, e.2))

/-- Writes the entries of `u` over those of `t`, with keys counted from `lo`. -/
def Tbl.paste {α : Type} [DecidableEq α] (d : α) (t : Tbl α) (lo : Nat) (u : Tbl α) : Tbl α :=
  u.foldl (fun acc e => Tbl.put d acc (lo + e.1) e.2) t

/-- Replaces the entries from `lo` to `lo + len - 1` by those of `u`. -/
def Tbl.replace {α : Type} [DecidableEq α] (d : α) (t : Tbl α) (lo len : Nat) (u : Tbl α) : Tbl α :=
  Tbl.paste d (Tbl.clear t lo len) lo u

/-- The canonical form: keys strictly rising and no entry equal to `d`. -/
def Tbl.wf {α : Type} [DecidableEq α] (d : α) : Tbl α → Bool
  | [] => true
  | [(_, v)] => v != d
  | (k, v) :: (k', v') :: t => k < k' && v != d && Tbl.wf d ((k', v') :: t)

/-- Memory is canonical: addresses strictly rising, and no entry equal to 0, which an unlisted address holds. -/
def Memory.wf (m : List Host.Cell) : Bool := Tbl.wf 0 m

end Sys2Proof.Machine

namespace Sys2Proof

/-! ## Bits of words -/

/-- A word with bits [lo + len - 1 : lo] replaced. -/
def Word.setField (w : Word) (lo len v : Nat) : Word :=
  Word.ofN (w.toNat - w.field lo len * 2 ^ lo + v % 2 ^ len * 2 ^ lo)

/-- Bit `k` of a word. -/
def Word.tst (w : Word) (k : Nat) : Bool := w.getLsbD k

/-- A word with bit `k` set to `b`. -/
def Word.put (w : Word) (k : Nat) (b : Bool) : Word := w.setField k 1 (bit b)

end Sys2Proof

namespace Sys2Proof.Machine

/-- One more, saturating at 2^len - 1. -/
def satInc (len n : Nat) : Nat := if n + 1 < 2 ^ len then n + 1 else 2 ^ len - 1

/-! ## Fields -/

/-- The ID of field `f` of unit `u` (R13). -/
def fid (u f : Nat) : Nat := u * 1024 + f

/-- Stored value of a field. -/
def fGet (s : State) (u f : Nat) : Word := Tbl.get (fieldReset (fid u f)) s.cfg.act (fid u f)

/-- Sets the stored value of a field. -/
def fSet (s : State) (u f : Nat) (v : Word) : State :=
  { s with cfg := { s.cfg with act := Tbl.put (fieldReset (fid u f)) s.cfg.act (fid u f) v } }

/-- Part of a field. -/
def fPart (s : State) (u f lo len : Nat) : Nat := (fGet s u f).field lo len

/-- Sets part of a field. -/
def fSetPart (s : State) (u f lo len v : Nat) : State := fSet s u f ((fGet s u f).setField lo len v)

/-- One bit of a field. -/
def fBit (s : State) (u f k : Nat) : Bool := (fGet s u f).tst k

/-- Sets one bit of a field. -/
def fSetBit (s : State) (u f k : Nat) (b : Bool) : State := fSetPart s u f k 1 (bit b)

/-- Adds one to a counting part of a field, saturating. -/
def fInc (s : State) (u f lo len : Nat) : State := fSetPart s u f lo len (satInc len (fPart s u f lo len))

/-- Adds one to a counting part of a field, modulo its width. -/
def fIncMod (s : State) (u f lo len : Nat) : State := fSetPart s u f lo len (fPart s u f lo len + 1)

/-! ## Units, planes and domains -/

/-- The planes of R16. -/
inductive Plane where
  | control | data | management
deriving DecidableEq, Repr

/-- The plane of a unit (R16, R29). -/
def planeOf (u : Nat) : Plane :=
  if (4 ≤ u && u ≤ 0x10) || (0x1A ≤ u && u ≤ 0x22) then .control
  else if (0x11 ≤ u && u ≤ 0x19) then .data else .management

/-- The switched domain of a unit, none for MAIN, AON and BKP (R29, R576). -/
def domainOf (u : Nat) : Option Nat :=
  if u = 0x16 then some 0 else if u = 0x14 ∨ u = 0x15 then some 2 else if 4 ≤ u ∧ u ≤ 0x0B then some 3
  else if u = 0x10 then some 4 else if u = 0x11 then some 5 else if u = 0x12 ∨ u = 0x13 then some 6
  else if u = 0x18 then some 7 else if 0x1A ≤ u ∧ u ≤ 0x22 then some 8 else if u = 0x27 then some 9 else none

/-- Switched domain `d` is on and not in a transition (R576, R578): DOMAIN_STATUS of PWR. -/
def domainOn (s : State) (d : Nat) : Bool := fBit s 2 0x002 d && !fBit s 2 0x002 (16 + d)

/-- The unit's domain is on. -/
def unitOn (s : State) (u : Nat) : Bool := match domainOf u with | some d => domainOn s d | none => true

/-! ## Events -/

/-- The bank that a physical core runs, one of eight (R313). -/
def coreBank (s : State) (n : Nat) : Nat := s.cyc.bankOf.getD n n % 8

/-- Number of the engine that holds a pending bit (State.evts). -/
def evtOwner : Eng → Nat
  | .mgt => 0 | .mgtJob => 0 | .saf => 1 | .asm => 2 | .cle _ => 3 | .afe n => 8 + n.val | .cyc n => 24 + n.val

/-- Event `n` is pending in the engine numbered `e` (R77). -/
def evtPending (s : State) (e n : Nat) : Bool := (Tbl.get 0 s.evts n).tst e

/-- Clears one pending bit (R78). -/
def evtClear (s : State) (e n : Nat) : State :=
  { s with evts := Tbl.put 0 s.evts n ((Tbl.get 0 s.evts n).put e false) }

/-- Sets the pending bit of event `n` in every engine (R77). -/
def evtSetAll (s : State) (n : Nat) : State := { s with evts := Tbl.put 0 s.evts n (BitVec.allOnes 32) }

/-- Clears every pending bit of one engine (R338). -/
def evtClearAll (s : State) (e : Nat) : State :=
  { s with evts := (s.evts.map (fun p => (p.1, p.2.put e false))).filter (fun p => p.2 != 0) }

/-- Field number of field `k` of task `t` of a cycle core (R344). -/
def taskField (t k : Nat) : Nat := 0x100 + t * 0x10 + k

/-- All (core, task) numbers. -/
def coreTasks : List (Nat × Nat) := (List.range 128).map (fun i => (i / 16, i % 16))

/-- The enabled event tasks on which an occurrence of `n` collapses into a pending bit (R315). -/
def collapsed (s : State) (n : Nat) : List (Nat × Nat) :=
  coreTasks.filter (fun (c, t) =>
    fPart s (4 + c) (taskField t 0) 30 2 == 3 && fPart s (4 + c) (taskField t 5) 0 10 == n && evtPending s (24 + c) n)

/-- CLE takes triggers (R401, R579). -/
def cleTakes (s : State) : Bool := fBit s 0x10 1 0 && domainOn s 4 && !s.pwr.asleep && s.clk.refClk

/-- An occurrence of a slot's trigger source (R382): the slot is due at occurrence c with c mod DIV = PHASE, c counting this
occurrence (assumption 35). -/
def Slot.occur (x : Slot) (takes : Bool) : Slot :=
  { x with occ := x.occ + 1, due := x.due || (takes && (x.occ + 1) % x.div == x.phase) }

/-- An occurrence of the trigger source of all enabled slots that satisfy `p`. -/
def cleOccur (s : State) (p : Slot → Bool) : State :=
  { s with cle := { s.cle with
      slots := s.cle.slots.map (fun e => if e.2.on && p e.2 then (e.1, e.2.occur (cleTakes s)) else e) } }

/-- An event occurs (R77); each occurrence that collapses on an event task adds to its overrun count and raises the
core's event 0 (R315, R346). The event so raised counts no further collapse (assumption 4). A loop slot that waits on the
event counts it, a collapsed one once (R382). -/
def raise (s : State) (n : Nat) : State :=
  let s := cleOccur s (fun x => x.kind == 2 && x.index == n && !x.due)
  (collapsed s n).foldl
    (fun s (c, t) => evtSetAll (fInc s (4 + c) (taskField t 6) 16 16) (64 + 16 * c)) (evtSetAll s n)

/-! ## Almanac records -/

/-- Network time is valid for a record: TIME is not FREE, or SET_GO has set it (R498). -/
def ptv (s : State) : Bool := s.time.state != 0 || s.time.setByGo

/-- Network time as a record carries it (R498). -/
def stampTime (s : State) : Option (Word × Word) :=
  if ptv s then some (Word.ofN s.time.ns, Word.ofN s.time.sec) else none

/-- The sequence after `q`, which skips 0 (R498). -/
def nextSeq (q : Word) : Word := if q + 1 = 0 then 1 else q + 1

/-- Puts a record at the end of the queue, or drops it when 64 wait (R22, R510, R511). -/
def enqueue (s : State) (sev src code : Nat) (payload : List Word) : State :=
  if s.alm.queue.length ≥ 64 then raise { (fInc s 0x24 (4 + sev % 4) 0 32) with alm := { s.alm with lost := true } } 577
  else
    let r : Rec :=
      { seq := if s.alm.restored then s.alm.nextSeq else 0, sev := sev, src := src, code := code,
        opMs := s.clk.opMs.toNat, pcc := s.clk.pcc, ptv := stampTime s, stamped := s.alm.restored, payload := payload }
    { s with alm := { s.alm with
        queue := s.alm.queue ++ [r]
        qMax := max s.alm.qMax (s.alm.queue.length + 1)
        nextSeq := if s.alm.restored then nextSeq s.alm.nextSeq else s.alm.nextSeq } }

/-- Posts a record (R22, R498, R499): one below MIN_SEV is only counted, except ALM's own record 0x0703 (R508). -/
def post (s : State) (src sev code : Nat) (payload : List Word) : State :=
  if sev < fPart s 0x24 0x00D 0 2 ∧ code ≠ 0x0703 then fInc s 0x24 0x00E 0 32 else enqueue s sev src code payload

/-- An event and the record posted together with it, whose code is the event's number (R499). -/
def raisePost (s : State) (src sev evt : Nat) (payload : List Word) : State :=
  post (raise s evt) src sev evt payload

/-! ## Memory -/

/-- The cause codes of R108. -/
inductive Cause where
  | unmapped | prot | wrongPlane | domainOff | uncorr | fieldClass | fieldRo | fieldValue | fieldReserved
  | gateBusy | locked
deriving DecidableEq, Repr

/-- Value of a cause (R108). -/
def Cause.code : Cause → Nat
  | .unmapped => 1 | .prot => 2 | .wrongPlane => 3 | .domainOff => 4 | .uncorr => 5 | .fieldClass => 6
  | .fieldRo => 7 | .fieldValue => 8 | .fieldReserved => 9 | .gateBusy => 10 | .locked => 11

/-- The access kinds of R110. -/
inductive Kind where
  | read | write | fetch | atomic | cfgRead | cfgWrite | cfgCommit | hostRead | hostWrite | scrub | gateRead
deriving DecidableEq, Repr

/-- Value of an access kind (R110). -/
def Kind.code : Kind → Nat
  | .read => 0 | .write => 1 | .fetch => 2 | .atomic => 3 | .cfgRead => 4 | .cfgWrite => 5 | .cfgCommit => 6
  | .hostRead => 7 | .hostWrite => 8 | .scrub => 9 | .gateRead => 10

/-- Who makes an access: its unit and, on a cycle core, its task (R109). -/
structure Who where
  unit : Nat
  task : Nat := 0
deriving DecidableEq, Repr

/-- The address lies in a library that has been copied into the ASM home (R261, R287). Cells there hold the difference
from the library's byte, so that an untouched library lists nothing. -/
def inLib (s : State) (a : Nat) : Bool := s.asm.lib && 0x040002C000 ≤ a && a < 0x0400040000

/-- The slots that the read window shows, oldest first, with the sequence each must still hold while the window is frozen
(R506). -/
def shownSlot (s : State) (i : Nat) : Option (Nat × Option Word) :=
  match s.alm.frozen with
  | some l => (l[i]?).map (fun e => (e.1, some e.2))
  | none => (s.alm.order[i]?).map (fun n => (n, none))

/-- A byte of the Almanac's read window (R506): the record of that order, zero beyond the records and for one that has been
overwritten since the freeze. -/
def winByte (s : State) (o : Nat) : Byte :=
  let cell (n k : Nat) : Byte := Tbl.get 0 s.mem.cells (0x0C00000000 + 64 * n + k)
  match shownSlot s (o / 64) with
  | none => 0
  | some (n, q) =>
    let seq := (cell n 0).toNat + 256 * (cell n 1).toNat + 65536 * (cell n 2).toNat + 16777216 * (cell n 3).toNat
    match q with
    | some w => if w.toNat = seq then cell n (o % 64) else 0
    | none => cell n (o % 64)

/-- Where the word of an address is stored: the read window shows records of the ring (R506), any other address is its own. -/
def storedAt (s : State) (a : Nat) : Nat :=
  if 0x0E00000000 ≤ a ∧ a < 0x0E00200000 then
    match shownSlot s ((a - 0x0E00000000) / 64) with
    | some (n, _) => 0x0C00000000 + 64 * n + (a - 0x0E00000000) % 64
    | none => a
  else a

/-- The stored byte at an address; the boot ROM's bytes are fixed, and the read window shows records (R93, R506). -/
def memByte (s : State) (a : Nat) : Byte :=
  if a < 0x40000 then Config.romByte a
  else if 0x0E00000000 ≤ a ∧ a < 0x0E00200000 then winByte s (a - 0x0E00000000)
  else if inLib s a then Tbl.get 0 s.mem.cells a ^^^ Config.libByte (a - 0x040002C000)
  else Tbl.get 0 s.mem.cells a

/-- Stores a byte. -/
def setByte (s : State) (a : Nat) (b : Byte) : State :=
  { s with mem := { s.mem with
      cells := Tbl.put 0 s.mem.cells a (if inLib s a then b ^^^ Config.libByte (a - 0x040002C000) else b) } }

/-- `n` bytes from `a`, little-endian (R9). -/
def memN (s : State) (a : Nat) : Nat → Nat
  | 0 => 0
  | n + 1 => (memByte s a).toNat + 256 * memN s (a + 1) n

/-- Stores the low `n` bytes of `v` from `a`, little-endian (R9). -/
def setN (s : State) (a : Nat) : Nat → Nat → State
  | 0, _ => s
  | n + 1, v => setN (setByte s a (BitVec.ofNat 8 v)) (a + 1) n (v / 256)

/-- The word at `a`. -/
def memW (s : State) (a : Nat) : Word := Word.ofN (memN s a 4)

/-- Stores a word at `a`. -/
def setW (s : State) (a : Nat) (v : Word) : State := setN s a 4 v.toNat

/-- Stores words one after another. -/
def setWords (s : State) (a : Nat) : List Word → State
  | [] => s
  | w :: ws => setWords (setW s a w) (a + 4) ws

/-- `n` words from `a`. -/
def memWords (s : State) (a n : Nat) : List Word := (List.range n).map (fun i => memW s (a + 4 * i))

/-- `n` bytes from `a`. -/
def memBytes (s : State) (a n : Nat) : List Byte := (List.range n).map (fun i => memByte s (a + i))

/-- Stores bytes one after another. -/
def setBytes (s : State) (a : Nat) : List Byte → State
  | [] => s
  | b :: bs => setBytes (setByte s a b) (a + 1) bs

/-- Sets a range to zero with valid codes (R95, R590). -/
def zeroRange (s : State) (a len : Nat) : State :=
  { s with mem := { s.mem with
      cells := Tbl.clear s.mem.cells a len
      ecc := Tbl.clear s.mem.ecc (a / 8) (len / 8) } }

/-- Puts contents given by offset into a range, zero elsewhere in it, with valid codes. -/
def loadRange (s : State) (a len : Nat) (u : List Host.Cell) : State :=
  { s with mem := { s.mem with
      cells := Tbl.replace 0 s.mem.cells a len u
      ecc := Tbl.clear s.mem.ecc (a / 8) (len / 8) } }

/-- Little-endian number of a list of bytes. -/
def leNat : List Byte → Nat
  | [] => 0
  | b :: bs => b.toNat + 256 * leNat bs

/-- The little-endian bytes of a number. -/
def leBytes : Nat → Nat → List Byte
  | 0, _ => []
  | n + 1, v => BitVec.ofNat 8 v :: leBytes n (v / 256)

/-- The bytes of words, little-endian (R9). -/
def wordBytes (ws : List Word) : List Byte := ws.flatMap (fun w => leBytes 4 w.toNat)

/-- Word `k` of a list of bytes. -/
def wordAt (bs : List Byte) (k : Nat) : Word := Word.ofN (leNat ((bs.drop (4 * k)).take 4))

/-- `len` bytes of a list from `ofs`, as a number. -/
def natAt (bs : List Byte) (ofs len : Nat) : Nat := leNat ((bs.drop ofs).take len)

/-- The non-zero bytes of a list, by offset from `k`. -/
def toCells : Nat → List Byte → List Host.Cell
  | _, [] => []
  | k, b :: bs => if b = 0 then toCells (k + 1) bs else (k, b) :: toCells (k + 1) bs

/-- One bit-reversed step of CRC-32C (RFC 3720 polynomial 0x1EDC6F41, reflected). -/
def crcBit (c : Word) : Word := if c.getLsbD 0 then (c >>> 1) ^^^ 0x82F63B78 else c >>> 1

/-- CRC-32C over one byte. -/
def crcByte (c : Word) (b : Byte) : Word :=
  crcBit (crcBit (crcBit (crcBit (crcBit (crcBit (crcBit (crcBit (c ^^^ b.setWidth 32))))))))

/-- CRC-32C of a list of bytes. -/
def crc32c (bs : List Byte) : Word := ~~~ (bs.foldl crcByte 0xFFFFFFFF)

/-! ## Error responses -/

/-- The four words of a violation log entry (R109). -/
def vlogWords (s : State) (w : Who) (k : Kind) (c : Cause) (addr fieldId count : Nat) : List Word :=
  [Word.ofN addr,
   Word.ofN (c.code * 2 ^ 24 + k.code * 2 ^ 20 + w.task % 16 * 2 ^ 16 + w.unit % 64 * 2 ^ 8 + addr / 2 ^ 32 % 256),
   Word.ofN (count % 65536 * 2 ^ 16 + fieldId % 65536),
   Word.ofN s.clk.tick.toNat]

/-- Words that a write covers whole get a fresh code (R97, R98). -/
def eccSpan (s : State) (a len : Nat) : State :=
  { s with mem := { s.mem with ecc := s.mem.ecc.filter (fun e => 8 * e.1 < a || a + len < 8 * e.1 + 8) } }

/-- A write by hardware of bytes that fill whole words (R97). -/
def putBytes (s : State) (a : Nat) (bs : List Byte) : State := setBytes (eccSpan s a bs.length) a bs

/-- A write by hardware of words that fill whole 64-bit words (R97). -/
def putWords (s : State) (a : Nat) (ws : List Word) : State := setWords (eccSpan s a (4 * ws.length)) a ws

/-- An error response makes a violation log entry and, unless its cause is UNCORR, posts a record of severity 2 with
source MEM (R109); event 19 is raised (R117). The entry after count c lies at index (c - 1) mod 64 (assumption 5). -/
def errorResp (s : State) (w : Who) (k : Kind) (c : Cause) (addr fieldId : Nat) : State :=
  let count := (fPart s 1 0x007 16 16 + 1) % 65536
  let i := (count + 63) % 64
  let ws := vlogWords s w k c addr fieldId count
  let s := setWords (eccSpan s (0x80000 + 16 * i) 16) (0x80000 + 16 * i) ws
  let s := fSet s 1 0x007 (Word.ofN (count * 2 ^ 16 + min 64 (fPart s 1 0x007 8 8 + 1) * 2 ^ 8 + i))
  let s := raise s 19
  if c = .uncorr then s else post s 1 2 (0x0500 + c.code) ws

/-! ## The code of a word -/

/-- Index of the region of R93 that holds an address; used to count corrections (R100) and to scrub. -/
def regions : List (Nat × Nat) :=
  [(0x0000000000, 0x40000), (0x0000080000, 0x400), (0x0010000000, 0x200000), (0x0100000000, 0x800000),
   (0x0180000000, 0x80000), (0x0200000000, 0x80000), (0x0200080000, 0x80000), (0x0300000000, 0x100000),
   (0x0300100000, 0x100000), (0x0400000000, 0x400000), (0x0500000000, 0x400000), (0x0600000000, 0x100000),
   (0x0640000000, 0x40000), (0x0700000000, 0x800000), (0x0780000000, 0x100000), (0x0800000000, 0x3000000),
   (0x0A00000000, 0x1000000), (0x0B00000000, 0x1000000), (0x0C00000000, 0x800000), (0x0D00000000, 0x40000),
   (0x0E00000000, 0x200000)]

/-- The region of an address (R93), none when it is unmapped. -/
def regionOf (a : Nat) : Option Nat := regions.findIdx? (fun r => r.1 ≤ a && a < r.1 + r.2)

/-- The switched domain of a region (R93), none for MAIN. -/
def regionDomain (r : Nat) : Option Nat :=
  if r = 3 then some 3 else if r = 7 ∨ r = 12 then some 8 else if r = 8 ∨ r = 13 then some 7 else if r = 9 then some 2
  else if r = 10 ∨ r = 16 then some 4 else if r = 11 then some 5 else if r = 15 then some 1 else if r = 19 then some 9
  else none

/-- The owning plane of a region (R93). -/
def regionPlane (r : Nat) : Plane :=
  if r = 3 ∨ r = 4 ∨ r = 7 ∨ r = 10 ∨ r = 12 ∨ r = 16 then .control
  else if r = 8 ∨ r = 9 ∨ r = 11 ∨ r = 13 ∨ r = 15 then .data else .management

/-- One more corrected error in the region of this pass; the first correction that finds the count beyond CE_THRESH is reported, once
in a pass (R100, R117). -/
def countCe (s : State) (a : Nat) : State :=
  let r := (regionOf a).getD 0
  let n := Tbl.get 0 s.mem.passCe r + 1
  let s := { s with mem := { s.mem with passCe := Tbl.put 0 s.mem.passCe r n } }
  if fPart s 1 0x006 0 16 < n ∧ !s.mem.passTold.contains r then
    raisePost { s with mem := { s.mem with passTold := r :: s.mem.passTold } } 1 1 18 [Word.ofN r, Word.ofN n]
  else s

/-- UE_ADDR_LO and UE_ADDR_HI keep the address of an uncorrectable word, which is that of its 64 bits (R96, R116). -/
def keepUeAddr (s : State) (w : Nat) : State :=
  fSet (fSet s 1 0x009 (Word.ofN (8 * w))) 1 0x00A (Word.ofN (8 * w / 2 ^ 32 % 256))

/-- A read of the stored word that holds `a` meets its code (R96, R98): true when data is delivered. A corrected word is
written back. The records give the address of the 64-bit word in two payload words, low word first, which is the model's choice
(assumption 180). -/
def eccRead (s : State) (a : Nat) : State × Bool :=
  let w := a / 8
  let n := Tbl.get 0 s.mem.ecc w
  let clean (s : State) : State := { s with mem := { s.mem with ecc := Tbl.put 0 s.mem.ecc w 0 } }
  if n = 0 then (s, true)
  else if n = 1 then (countCe (fInc (clean s) 1 0x003 0 32) a, true)
  else if n = 2 then
    (countCe (raisePost (fInc (clean s) 1 0x004 0 32) 1 1 17 [Word.ofN (8 * w), Word.ofN (8 * w / 2 ^ 32)]) a, true)
  else if n = 3 then
    let s := { s with mem := { s.mem with ecc := Tbl.put 0 s.mem.ecc w 4 } }
    (raisePost (keepUeAddr (fInc s 1 0x005 0 32) w) 1 3 16 [Word.ofN (8 * w), Word.ofN (8 * w / 2 ^ 32)], false)
  else (keepUeAddr s w, false)

/-- A full 64-bit write gives the word a fresh code (R97, R98). -/
def eccFresh (s : State) (a : Nat) : State :=
  { s with mem := { s.mem with ecc := Tbl.put 0 s.mem.ecc (a / 8) 0 } }

/-- A read by hardware of the words that hold a range (R96, R98): each meets its code, and the first that is uncorrectable makes an
error response; true when all data is delivered. -/
def hwRead (s : State) (w : Who) (k : Kind) (a len : Nat) : State × Bool :=
  ((s.mem.ecc.filter (fun e => decide (0 < len) && a / 8 ≤ e.1 && e.1 * 8 < a + len)).map (·.1)).foldl
    (fun acc x =>
      if !acc.2 then acc
      else match eccRead acc.1 (8 * x) with
        | (s, true) => (s, true)
        | (s, false) => (errorResp s w k .uncorr (8 * x) 0, false))
    (s, true)

/-- The 64-bit words that a write of `len` bytes covers only in part (R97). -/
def edgeWords (a len : Nat) : List Nat :=
  if len = 0 then []
  else (if a % 8 ≠ 0 ∨ a + len < a / 8 * 8 + 8 then [a / 8] else []) ++
    (if (a + len) % 8 ≠ 0 ∧ (a + len) / 8 ≠ a / 8 then [(a + len) / 8] else [])

/-- Reads the words that a write covers in part, as R97 asks; the answer names the uncorrectable ones, each of which has made an
error response. -/
def edgeRead (s : State) (w : Who) (a len : Nat) : State × List Nat :=
  (edgeWords a len).foldl
    (fun acc x => match eccRead acc.1 (8 * x) with
      | (s, true) => (s, acc.2)
      | (s, false) => (errorResp s w .write .uncorr (8 * x) 0, x :: acc.2))
    (s, [])

/-- A write by hardware (R97): a 64-bit word that it covers whole takes a fresh code; any other is read, merged and written, and an
uncorrectable one keeps its content. -/
def hwWrite (s : State) (w : Who) (a : Nat) (bs : List Byte) : State :=
  let r := edgeRead s w a bs.length
  let s := eccSpan r.1 a bs.length
  if r.2.isEmpty then setBytes s a bs
  else (bs.zipIdx.filter (fun e => !r.2.contains ((a + e.2) / 8))).foldl (fun s e => setByte s (a + e.2) e.1) s

/-- A write by the hardware of unit `u` of words (R97). -/
def hwWords (s : State) (u a : Nat) (ws : List Word) : State :=
  hwWrite s { unit := u } a (wordBytes ws)

/-- A write by the hardware of unit `u` of one word (R97). -/
def hwW (s : State) (u a : Nat) (v : Word) : State := hwWords s u a [v]

/-- The words of a range are all readable (R96). -/
def readable (s : State) (a len : Nat) : Bool := s.mem.ecc.all (fun e => e.2 < 3 || 8 * e.1 + 8 ≤ a || a + len ≤ 8 * e.1)

/-- The word that a read by hardware takes: an uncorrectable one delivers no data (R96), and where no rule gives the reader's reaction
the value it goes on with is free (assumption 194). -/
def given (s : State) (a : Nat) : Word := if readable s a 4 then memW s a else Config.noData s.free a

/-- The byte that a read by hardware takes, likewise. -/
def givenByte (s : State) (a : Nat) : Byte := if readable s a 1 then memByte s a else (Config.noData s.free a).setWidth 8

/-- `n` such bytes. -/
def givenBytes (s : State) (a n : Nat) : List Byte := (List.range n).map (fun i => givenByte s (a + i))

/-- `n` such words. -/
def givenWords (s : State) (a n : Nat) : List Word := (List.range n).map (fun i => given s (a + 4 * i))

/-! ## Network-time instants -/

/-- NTC in units of 2^-48 ns (R441). -/
def ntc48 (s : State) : Nat := (s.time.sec * 1000000000 + s.time.ns) * 2 ^ 48 + s.time.frac

/-- Network time in ns. -/
def netNs (s : State) : Nat := s.time.sec * 1000000000 + s.time.ns

/-- What NTC gains in a REF_CLK period, in units of 2^-48 ns and rounded down, and whether that is exact (R441, R447). -/
def ntcGain (s : State) : Int × Bool :=
  let num : Int := 40 * 2 ^ 48 * (1000000000000 + s.time.rate)
  (num.fdiv 1000000000000, num.fmod 1000000000000 == 0)

/-- NTC at which the tick in progress ends at the latest, in units of 2^-48 ns: a tick is 250 REF_CLK periods, so the servo rate
stretches it (R33, R34, R441). -/
def tickEnd (s : State) : Nat :=
  let g := ntcGain s
  ((ntc48 s : Int) + 250 * (g.1 + bit (!g.2))).toNat

/-- The multiple of `period` ns that falls in the tick in progress, by its number, none when none does (R34). After a step only a
multiple later than the stepped time does (R449). -/
def instantIn (s : State) (period : Nat) : Option Nat :=
  let u := period * 2 ^ 48
  let first := match s.time.stepped with | some x => max (x + 1) (ntc48 s) | none => ntc48 s
  let k := (first + u - 1) / u
  if k * u < tickEnd s then some k else none

/-! ## Free values -/

/-- Draws a free word: nothing constrains it (assumption 3). -/
def freeW (s : State) : State × Word := ({ s with free := s.free + 1 }, Config.freeWord s.free)

/-- Draws a free integer. -/
def freeI (s : State) : State × Int := ({ s with free := s.free + 1 }, Config.freeInt s.free)

/-- Draws a free Boolean. -/
def freeB (s : State) : State × Bool := ({ s with free := s.free + 1 }, Config.freeBool s.free)

end Sys2Proof.Machine
end

