-- ==== Sys2Proof/Machine/View.lean ====
section
/-! DEFINITION. What a read of a configuration field shows: the stored value, with the parts that a unit's state gives. -/
namespace Sys2Proof.Machine

/-- Context of task `t` of physical core `n`. -/
def coreCtx (s : State) (n t : Nat) : Ctx := Tbl.get {} s.ctxs (64 + 16 * coreBank s n + t)

/-- The 64-byte lines of the input area that two generations hold differently (R322). -/
def linesDiffer (a b : Tbl Word) : List Nat :=
  (((a.filter (fun (e : Nat × Word) => e.1 < 0x20000 && Tbl.get 0 b e.1 != e.2)).map (fun (e : Nat × Word) => e.1 / 16)) ++
   ((b.filter (fun (e : Nat × Word) => e.1 < 0x20000 && Tbl.get 0 a e.1 != e.2)).map (fun (e : Nat × Word) => e.1 / 16))).eraseDups

/-- Lines in use in the line store: for each retained older generation, the lines it holds otherwise than the next newer
one (R322). -/
def linesUsed : List (Nat × Tbl Word) → Nat
  | [] => 0
  | [_] => 0
  | a :: b :: t => (linesDiffer a.2 b.2).length + linesUsed (b :: t)

/-- CAN_c is stopped (R468). -/
def canStopped (s : State) (c : Nat) : Bool := fPart s (0x1A + c) 0x006 10 3 == 0

/-- HMI is stopped: RUN is 0 and the panel is no longer driven (R573). -/
def hmiStopped (s : State) : Bool := !fBit s 0x27 0x001 0 && s.hmi.lcd.isNone && !s.hmi.bistable

/-- A bistable update runs or is queued (R571, R577). -/
def hmiBusy (s : State) : Bool := !s.hmi.running.isEmpty || !s.hmi.queue.isEmpty

/-- Some task of the core is in its cycle (R351). -/
def anyInCycle (s : State) (n : Nat) : Bool := (List.range 16).any (fun t => (coreCtx s n t).live)

/-- The gate switches the core's pending image at the next Meridian (R351). -/
def imageDue (s : State) (n : Nat) : Bool :=
  s.gate.any (fun g => g.target == (4 + n) * 64 &&
    match g.change with
    | .image _ waited => !anyInCycle s n || fPart s (4 + n) 0x025 0 8 ≤ waited
    | _ => false)

/-- An evacuation that this Meridian has accepted takes the core as its source or its target (R24, R342). -/
def evacuating (s : State) (n : Nat) : Bool :=
  (List.range 8).any (fun m => fBit s (4 + m) 0x00C 31 && (m == n || fPart s (4 + m) 0x00C 0 3 == n))

/-- The gate applies a change to the core at the next Meridian: a held write, an image or an evacuation (R24, R85, R342). -/
def gateDue (s : State) (n : Nat) : Bool :=
  imageDue s n || evacuating s n ||
    s.gate.any (fun g => g.target == (4 + n) * 64 && match g.change with | .live _ _ => true | _ => false)

/-- The critical core, if any: the lowest core whose CRIT is set (R317). -/
def critCore (s : State) : Option Nat := (List.range 8).find? (fun n => fBit s (4 + n) 0x004 0)

/-- The critical period P in µs: of the critical task, or of the free Meridians (R318, R483). -/
def critPeriodUs (s : State) : Nat :=
  match critCore s with
  | some n => (fGet s (4 + n) (taskField 0 1)).toNat * 10
  | none => 250

/-- Two slot ranges of different cores overlap (R331): field `f` of every other core holds a start of `ls` bits and, from
bit 16, a count of `lc` bits. -/
def rangeOverlap (s : State) (n f ls lc lo cnt : Nat) : Bool :=
  cnt != 0 && (List.range 8).any (fun m =>
    let w := fGet s (4 + m) f
    m != n && w.field 16 lc != 0 && lo < w.field 0 ls + w.field 16 lc && w.field 0 ls < lo + cnt)

/-- Pages of slots in a retained copy (R334). -/
def slotPages (slots : Word) : Nat := (64 + 16 * slots.field 16 14 + 8 * slots.field 0 13 + 4095) / 4096

/-- First page and pages of a core's allotment (R334). -/
def allotment (area slots : Word) : Nat × Nat := (area.field 8 8, 2 * (slotPages slots + area.field 0 7))

/-- The allotment stays inside the retain area and off the other cores' (R334). -/
def retainFits (s : State) (n : Nat) (area slots : Word) : Bool :=
  let (o, k) := allotment area slots
  o + k ≤ 256 && (List.range 8).all (fun m =>
    let (o', k') := allotment (fGet s (4 + m) 0x009) (fGet s (4 + m) 0x008)
    m == n || o + k ≤ o' || o' + k' ≤ o)

/-- A bit-timing limit of R456 is broken. -/
def timingBroken (brp t1 t2 sjw maxBrp max1 max2 minBit : Nat) : Bool :=
  brp > maxBrp || t1 < 2 && max1 = 256 || t1 > max1 || t2 < 2 && max2 = 128 || t2 > max2 || sjw > min t1 t2 || brp * (1 + t1 + t2) < minBit

/-- The checks of a CAN pending set (R456, R472, R615); `v` gives a field as the set would leave it. -/
def canPendCheck (v : Nat → Word) : Option (Nat × Nat) :=
  let on := (List.range 64).filter (fun f => (v (0x102 + 4 * f)).tst 31 && !(v (0x102 + 4 * f)).tst 30)
  let first (f : Nat) : Nat := (v (0x102 + 4 * f)).field 0 7
  let last (f : Nat) : Nat := first f + (v (0x102 + 4 * f)).field 7 7
  let isTx (b : Nat) : Bool := (v (0x008 + b / 32)).tst (b % 32)
  match on.find? (fun f => last f > 127) with
  | some f => some (1, 0x102 + 4 * f)
  | none =>
    match on.find? (fun f => (List.range 128).any (fun b => first f ≤ b && b ≤ last f && isTx b)) with
    | some f => some (2, 0x008 + first f / 32)
    | none =>
      match on.find? (fun f => on.any (fun g =>
          (first f != first g || last f != last g) && first f ≤ last g && first g ≤ last f)) with
      | some f => some (3, 0x102 + 4 * f)
      | none =>
        let n := v 0x003
        let d := v 0x004
        if timingBroken (n.field 0 9 + 1) (n.field 24 8 + 1) (n.field 17 7 + 1) (n.field 10 7 + 1) 512 256 128 80 then
          some (4, 0x003)
        else if (v 0x002).tst 2 &&
            timingBroken (d.field 0 5 + 1) (d.field 24 5 + 1) (d.field 16 4 + 1) (d.field 8 4 + 1) 32 32 16 10 then
          some (4, 0x004)
        else none

/-- Value of a state in STATE (R474). -/
def Role.code : Role → Nat
  | .single => 0 | .starting => 1 | .unsynced => 2 | .syncing => 3 | .standby => 4 | .active => 5 | .demoted => 6
  | .severed => 7 | .witness => 8

/-- The pins SO_0 to SO_7 as SAF drives them (R406, R412, R419). -/
def Saf.soPins (f : Saf) : BitVec 8 := if f.safe then 0 else f.cmd &&& ~~~f.pulse

/-- SI_i is enabled by the active image (R422). -/
def Saf.enabled (f : Saf) (i : Nat) : Bool := match f.image with | some m => 32768 ≤ m.si.getD i 0 | none => false

/-- The fault bits of the inputs (R415): a disabled input is faulted. -/
def Saf.faults (f : Saf) : BitVec 16 :=
  BitVec.ofNat 16 ((List.range 16).foldl (fun n i =>
    n + bit (f.fTest.getLsbD i || f.fPair.getLsbD i || !f.enabled i) * 2 ^ i) 0)

/-- The status parts that a unit's own state gives, laid over the stored value `w` of a field. -/
def fieldView (s : State) (u f : Nat) (w : Word) : Word :=
  if f = 0x3FF then w.put 0 (Tbl.find s.cfg.pend u).isSome
  else if 4 ≤ u ∧ u ≤ 0x0B then
    let n := u - 4
    let core := Tbl.get {} s.cyc.cores n
    if f = 0x00D then
      ((((w.setField 24 3 (coreBank s n)).put 3 (fBit s u 0x004 0)).put 2 (core.mode == .restarting)).put 1
        (core.mode == .stopped)).put 0 (core.mode == .running)
    else if f = 0x012 then w.setField 16 16 (linesUsed s.pi.gens)
    else if f = 0x024 then
      (w.setField 21 11 s.cyc.forces.length).setField 10 11
        (s.cyc.forces.filter (fun x => x.bank == coreBank s n)).length
    else if 0x100 ≤ f ∧ f < 0x200 ∧ f % 16 = 6 then
      let t := (f - 0x100) / 16
      let c := coreCtx s n t
      ((w.put 2 c.live).put 1 (c.live && c.wait != .none)).put 0
        (c.live && c.wait == .none && core.mode == .running &&
          (List.range t).all (fun t' => let c' := coreCtx s n t'; !(c'.live && c'.wait == .none)))
    else w
  else if u = 0x11 ∧ 0x100 ≤ f ∧ f < 0x200 ∧ f % 16 = 6 then
    let c := Tbl.get {} s.ctxs (16 + (f - 0x100) / 16)
    (w.put 1 (match c.wait with | .trigger .. => c.live | _ => false)).put 0 c.live
  else if u = 0x10 ∧ f = 0x012 then
    let n (p : SlotPhase → Bool) : Nat := (s.cle.slots.filter (fun e => p e.2.run)).length
    (w.setField 4 12 (n (· == .ready))).setField 0 4 (n (fun p => match p with | .running _ => true | _ => false))
  else if u = 0x26 then
    if f = 0x001 then
      Word.ofN (s.key.rootGen % 256 * 2 ^ 24 + s.key.streams.length * 2 ^ 20 + bit s.key.entropyFail * 8 +
        bit ((Tbl.get {} s.key.slots 0).st == 1) * 4 + bit (s.key.latch != 0) * 2 + bit s.key.locked)
    else if f = 0x005 then Word.ofN (s.key.latch.toNat * 2 ^ 16 + s.key.fired.toNat * 2 ^ 8 + s.key.active.toNat)
    else if f = 0x006 then Word.ofN s.key.mono
    else if f = 0x007 then Word.ofN (s.key.mono / 2 ^ 32)
    else if f = 0x00A then
      Word.ofN ((s.key.slots.filter (fun e => e.2.st != 0 && e.2.st != 1)).length * 2 ^ 16 +
        (s.key.slots.filter (fun e => e.2.st == 1)).length)
    else w
  else if u = 0x0C then
    if f = 0x003 then
      Word.ofN (s.saf.cause * 2 ^ 24 + s.saf.detail * 2 ^ 16 + bit s.saf.ovf * 16 + bit s.saf.safe * 8 + bit s.saf.inCycle * 4 +
        bit (!fBit s 0x0C 1 0) * 2 + bit (!s.saf.safe))
    else if f = 0x007 then Word.ofN (s.saf.faults.toNat * 2 ^ 16 + s.saf.filt.toNat)
    else if f = 0x008 then
      Word.ofN (s.saf.pulse.toNat * 2 ^ 16 + (s.saf.soPins ^^^ s.saf.fbBad).toNat * 2 ^ 8 + s.saf.soPins.toNat)
    else w
  else if u = 0x23 then
    if f = 0x00E then
      (((((w.setField 28 4 s.twin.role.code).put 27 s.twin.laneB).put 26 s.twin.laneA).put 25 s.twin.lagging).put 24 s.twin.solo)
    else if f = 0x00F then s.twin.ep
    else if f = 0x010 then s.twin.seen
    else if f = 0x017 then s.twin.ew
    else w
  else if u = 0x18 ∧ f = 0x00B then
    Word.ofN ((s.net.slots.filter (fun e => e.2.state == 2)).length * 2 ^ 16 + (s.net.slots.filter (fun e => e.2.state == 3)).length)
  else if 0x1A ≤ u ∧ u ≤ 0x21 ∧ f = 0x006 then w.put 8 (fBit s u 0x002 1)
  else if u = 0x16 ∧ f = 0x006 then
    let held := (s.solv.jobs.filter (fun e => e.2.state == 2 || e.2.state == 3)).length
    (w.setField 16 8 held).setField 0 16 (match s.solv.run with | some r => r.handle | none => 0)
  else if u = 0x27 then
    if f = 8 then ((w.setField 16 16 s.hmi.reqSeq).setField 12 4 s.hmi.running.length).setField 8 4 s.hmi.queue.length
    else if f = 0xE then
      (w.put 1 (s.hmi.rcv != .none)).put 0 (s.hmi.lcd.isSome || s.hmi.bistable)
    else if f = 0x10 then w.setField 0 16 s.hmi.jseq
    else w
  else if u = 0x25 then
    if f = 2 then s.rtc.latchDate else if f = 4 then Word.ofN s.rtc.latchSub else if f = 0x10 then s.twin.epBkp else w
  else if u = 0x24 then
    if f = 0x001 then Word.ofN s.alm.order.length
    else if f = 0x002 then Word.ofN s.alm.pinned.length
    else if f = 0x003 then s.alm.nextSeq
    else if f = 0x009 then Word.ofN (s.alm.qMax * 256 + s.alm.queue.length)
    else w
  else w

/-- The active value of a field as `cfg.r` reads it (R83). -/
def cfgGet (s : State) (u f : Nat) : Word := fieldView s u f (fGet s u f)

end Sys2Proof.Machine
end

