-- ==== Sys2Proof/Machine/Cfg.lean ====
section
/-! DEFINITION. Access to configuration fields (R13, R14, R30, R83 to R85, R103 to R107): reads, the checks of a write, the
shadow, the pending set and its checks at the boundary. -/
namespace Sys2Proof.Machine

/-- The unit is stopped, so that its class S fields may be written and its pending sets apply at once (R13, R107). -/
def unitStopped (s : State) (u : Nat) : Bool :=
  if 4 ≤ u ∧ u ≤ 0x0B then ((Tbl.get {} s.cyc.cores (u - 4)).mode == .stopped)
  else if u = 0x0C then s.saf.safe
  else if u = 0x10 then !fBit s 0x10 1 0
  else if u = 0x12 ∨ u = 0x13 then !fBit s 0x12 1 0
  else if u = 0x14 then !(Tbl.get {} s.ctxs 3).live
  else if u = 0x15 then !fBit s 0x15 1 0 && !fBit s 0x15 0x16 0
  else if u = 0x16 then !fBit s 0x16 1 0 && s.solv.run.isNone
  else if u = 0x18 then !fBit s 0x18 1 0
  else if u = 0x19 then !fBit s 0x19 1 0 || s.time.state == 0
  else if 0x1A ≤ u ∧ u ≤ 0x21 then canStopped s (u - 0x1A)
  else if u = 0x22 then !fBit s 0x22 1 0
  else if u = 0x23 then !fBit s 0x23 1 0
  else if u = 0x27 then hmiStopped s
  else false

/-- The target engine in the gate of a class L write to a field: a converter of AFE for its own fields, else the unit (R23, R85,
R140). -/
def liveTarget (u f : Nat) : Nat := u * 64 + if u = 0x11 ∧ 0x100 ≤ f ∧ f < 0x200 then (f - 0x100) / 16 else 0

/-- The unit, or the converter that a field belongs to, is stopped (R107, R139). -/
def stoppedAt (s : State) (u f : Nat) : Bool :=
  if u = 0x11 then 0x100 ≤ f && f < 0x200 && !(Tbl.get {} s.ctxs (16 + (f - 0x100) / 16)).live else unitStopped s u

/-- A class L write by unit `iu` to a field that must wait for the boundary of a running unit of another plane (R85); a patch is
submitted at once (R184). -/
def waitsForUnit (s : State) (iu u f : Nat) : Bool :=
  planeOf u != planeOf iu && !stoppedAt s u f && !(u == 0x14 && 0x018 ≤ f && f ≤ 0x01A)

/-- Part of a field's shadow value (R84). -/
def shadowPart (s : State) (u f lo len : Nat) : Nat :=
  ((Tbl.find s.cfg.shadow (fid u f)).getD (fGet s u f)).field lo len

/-- Ranges of a field that are not plain bounds of a part of it (R104); `v` has no reserved bit set. -/
def fieldExtra (s : State) (u f : Nat) (w : Word) : Bool :=
  let v := w.toNat
  let n := u - 4
  if 4 ≤ u ∧ u ≤ 0x0B then
    if f = 0x005 then w.field 0 14 + w.field 16 15 ≤ 16384 && !rangeOverlap s n 0x005 14 15 (w.field 0 14) (w.field 16 15)
    else if f = 0x006 then w.field 0 13 + w.field 16 14 ≤ 8192 && !rangeOverlap s n 0x006 13 14 (w.field 0 13) (w.field 16 14)
    else if f = 0x007 then w.field 0 12 + w.field 16 13 ≤ 4096 && !rangeOverlap s n 0x007 12 13 (w.field 0 12) (w.field 16 13)
    else if f = 0x008 then retainFits s n (fGet s u 0x009) w
    else if f = 0x009 then retainFits s n w (fGet s u 0x008)
    else if 0x100 ≤ f ∧ f < 0x200 ∧ (f % 16 = 3 ∨ f % 16 = 4) then v % 4 = 0
    else true
  else if u = 0x11 ∧ 7 ≤ f ∧ f ≤ 0xA then w.field 0 16 ≤ w.field 16 16
  else if u = 0x13 then
    if f = 0x001 then 60000 % v = 0
    else if f = 0x006 then v % 32 = 0
    else if 0x100 ≤ f ∧ f < 0x1C0 ∧ (f % 4 = 1 ∨ f % 4 = 2) then
      if w.tst 31 then w.field 0 20 ≤ 127 else w.field 0 20 % 4 = 0 && w.field 0 20 ≤ 0x7FFFC
    else true
  else if u = 0x14 then
    if f = 0x002 then v = 0 || (100 ≤ v && 60000 % v = 0)
    else if f = 0x00B then v % 32 = 0
    else true
  else if u = 0x16 ∧ f = 0x005 then v = 0 || (10 ≤ v && v ≤ 60000)
  else if u = 0x10 then
    if 0x100 ≤ f ∧ f < 0x180 then
      if f % 4 = 0 then
        !(w.field 25 2 = 1 && w.field 0 19 % 4 ≠ 0) && !(w.tst 28 && 1000000000 % max 1 (shadowPart s u (f + 1) 0 20) ≠ 0)
      else if f % 4 = 1 then !(shadowPart s u (f - 1) 28 1 = 1 && 1000000000 % max 1 v ≠ 0)
      else if f % 4 = 2 then v < fPart s 0x10 (f - 1) 0 20
      else true
    else true
  else if u = 0x18 then
    if f = 0x006 then !w.tst 30 || (1 ≤ w.field 0 12 && w.field 0 12 ≤ 4094)
    else if f = 0x009 then v % 4 = 0
    else true
  else if u = 0x19 then
    if f = 0x003 then w.field 0 8 ≤ 5 || 253 ≤ w.field 0 8
    else if f = 0x002 then !fBit s 0x18 0x004 31 || w.field 16 2 ≤ 1
    else true
  else if u = 0x25 then
    if f = 0x001 ∨ f = 0x006 then
      bcdIn (w.field 0 8) 0 0x59 && bcdIn (w.field 8 8) 0 0x59 && bcdIn (w.field 16 8) 0 0x23 && w.field 24 8 = 0
    else if f = 0x002 ∨ f = 0x007 then
      bcdIn (w.field 24 8) 0x20 0x99 && bcdIn (w.field 16 8) 0 0x99 && bcdIn (w.field 8 8) 1 0x12 && bcdIn (w.field 0 8) 1 0x31
    else if f = 0x005 then w.field 0 12 ≠ 0x800
    else if f = 0x009 then v ≠ 3
    else true
  else if u = 0x27 ∧ f = 0x009 then (List.range 16).all (fun i => w.field (2 * i) 2 ≠ 3)
  else if u = 0x27 ∧ f = 0x007 then w.field 0 4 ≤ w.field 4 4 && w.field 4 4 ≤ 11 && w.field 8 3 ≤ w.field 11 3
  else true

/-- A patch that MGT submits from memory lies wholly in MGT local SRAM or in update staging (R184). -/
def patchFits (s : State) : Bool :=
  let a := fPart s 0x14 0x19 0 8 * 2 ^ 32 + (fGet s 0x14 0x18).toNat
  let len := 36 + 8 * memN s (a + 4) 4
  (0x0010000000 ≤ a && a + len ≤ 0x0010200000) || (0x0B00000000 ≤ a && a + len ≤ 0x0B01000000)

/-- Only MGT may write the field (R184, R357, R414, R496, R599). -/
def mgtOnly (u f : Nat) : Bool :=
  (4 ≤ u && u ≤ 0x0B && 0x020 ≤ f && f ≤ 0x023) || (u == 0x0C && (f == 1 || f == 2)) ||
  (u == 0x14 && 0x018 ≤ f && f ≤ 0x01A) || (u == 0x18 && f == 0x00F) || (u == 0x23 && f == 0x015)

/-- The field is reached only by MGT, and any other initiator's write is refused with PROTECTED before its plane is looked at. -/
def mgtRefuses (s : State) (iu u f : Nat) : Bool := iu != 0 && mgtOnly u f && (fieldRow (fid u f)).isSome && unitOn s u

/-- Why a configuration access of any kind by the unit `iu` to unit `u`, field `f` is refused before its value is looked at:
an unmapped field or a unit that is off (R30), or a unit of another plane (R19, R85). -/
def cfgCause (s : State) (iu u f : Nat) : Option Cause :=
  if (fieldRow (fid u f)).isNone || !unitOn s u then some .unmapped
  else if iu ≠ 0 ∧ planeOf u ≠ planeOf iu then some .wrongPlane
  else none

/-- Why a `cfg.w` of value `v` is refused (R13, R14, R24, R85, R104, R555). The order of the causes is the model's
(assumption 6). -/
def cfgWriteCause (s : State) (iu u f : Nat) (v : Word) : Option Cause :=
  if mgtRefuses s iu u f then some .prot
  else match cfgCause s iu u f, fieldRow (fid u f) with
  | some c, _ => some c
  | none, none => some .unmapped
  | none, some r =>
    if r.ro ∨ (u = 0x26 ∧ 2 ≤ f ∧ f ≤ 4 ∧ fBit s 0x26 0x004 0) then some .fieldRo
    else if v.toNat &&& (full - r.mask) ≠ 0 then some .fieldReserved
    else if !(r.rng.all (fun (lo, len, a, b) => a ≤ v.field lo len && v.field lo len ≤ b)) || !fieldExtra s u f v then
      some .fieldValue
    else if r.cls = .s ∧ !unitStopped s u then some .fieldClass
    else if r.cls = .l ∧ waitsForUnit s iu u f ∧ s.gate.any (fun g => g.target == liveTarget u f) then some .gateBusy
    else if u = 0x14 ∧ f = 0x01A ∧ v.tst 0 ∧ !patchFits s then some .prot
    else if u = 0x14 ∧ f = 0x01A ∧ v.tst 0 ∧ s.gate.any (fun g => g.target == 0x14 * 64) then some .gateBusy
    else none

/-- A class L write by MGT to a unit of another plane that runs is held for the unit's boundary (R85). -/
def isHeld (s : State) (iu u f : Nat) : Bool :=
  match fieldRow (fid u f) with
  | some r => r.cls == .l && waitsForUnit s iu u f
  | none => false

/-- The shadow value of a class C field, the active value of another (R83, R84). -/
def shadowGet (s : State) (u f : Nat) : Word :=
  match Tbl.find s.cfg.shadow (fid u f) with | some v => v | none => cfgGet s u f

/-- Writes a shadow (R13, R84). -/
def shadowSet (s : State) (u f : Nat) (v : Word) : State :=
  { s with cfg := { s.cfg with
      shadow := Tbl.ins s.cfg.shadow (fid u f) v
      rewritten := if s.cfg.rewritten.contains (fid u f) then s.cfg.rewritten else fid u f :: s.cfg.rewritten } }

/-- The shadows of a unit that have been written since they were last applied. -/
def unitShadow (s : State) (u : Nat) : Tbl Word := s.cfg.shadow.filter (fun e => e.1 / 1024 == u)

/-- `cfg.commit`: the unit's shadow becomes its pending set, replacing an earlier one (R83, R84). -/
def capture (s : State) (u : Nat) : State :=
  { s with cfg := { s.cfg with
      pend := Tbl.ins s.cfg.pend u (unitShadow s u)
      rewritten := s.cfg.rewritten.filter (fun f => f / 1024 != u) } }

/-- A field as the pending set would leave it (R106). -/
def pendVal (s : State) (p : Tbl Word) (u f : Nat) : Word :=
  match Tbl.find p (fid u f) with | some v => v | none => cfgGet s u f

/-- The first failed rule between fields of a unit's pending set: its check code and the field it names (R106, R615). -/
def pendCheck (s : State) (u : Nat) (p : Tbl Word) : Option (Nat × Nat) :=
  let v := pendVal s p u
  let fails (c : List (Bool × Nat × Nat)) : Option (Nat × Nat) := (c.find? (fun e => e.1)).map (fun e => e.2)
  if 4 ≤ u ∧ u ≤ 0x0B then
    let crit := (v 0x004).tst 0
    let tasks := List.range 16
    let evac := (v 0x00C).tst 31
    let tgt := (v 0x00C).field 0 3
    let core := Tbl.get {} s.cyc.cores (u - 4)
    let enabled (t : Nat) : Bool := (v (taskField t 0)).tst 31
    let periodic (t : Nat) : Bool := enabled t && !(v (taskField t 0)).tst 30
    let bad := tasks.filter (fun t => periodic t && (v (taskField t 1)).toNat ≤ (v (taskField t 2)).toNat)
    fails
      [(crit && (List.range 8).any (fun n => n + 4 != u && fBit s (4 + n) 0x004 0), 1, 0x004),
       (crit && ((v (taskField 0 0)).tst 30 || (v (taskField 0 1)).toNat < 25), 2, 0x004),
       (!bad.isEmpty, 3, taskField (bad.headD 0) 1),
       ((v 0x008).field 16 14 > (v 0x006).field 16 14, 4, 0x006),
       ((v 0x008).field 0 13 > (v 0x007).field 16 13, 4, 0x007),
       (evac && tgt == u - 4, 5, 0x00C),
       (evac && (!unitStopped s (4 + tgt) || (List.range 16).any (fun t => fBit s (4 + tgt) (taskField t 0) 31) ||
         !fBit s 2 0x003 tgt), 6, 0x00C),
       (evac && core.mode != .running, 7, 0x00C),
       (evac && (gateDue s (u - 4) || gateDue s tgt), 8, 0x00C)]
  else if u = 0x13 then fails [((v 0x001).toNat % max 1 (v 0x009).toNat != 0, 1, 0x001)]
  else if u = 0x14 then
    fails [((v 0x010).toInt ≥ (v 0x011).toInt, 1, 0x010), ((v 0x012).toInt ≥ (v 0x013).toInt, 2, 0x012)]
  else if u = 0x16 then fails [((v 0x003).toNat > (v 0x002).toNat, 1, 0x002)]
  else if u = 0x18 then
    let sh := v 0x002
    let q := v 0x003
    let m := v 0x00A
    fails
      [(sh.field 0 8 + sh.field 8 8 + sh.field 16 8 != 100, 1, 0x002),
       (q.field 0 8 + q.field 8 8 + q.field 16 8 > 96, 2, 0x003),
       (m.field 16 12 != 0 && (v 0x009).toNat + m.field 16 12 * 4 * (m.field 0 6 + 1) > 0x80000, 3, 0x009)]
  else if 0x1A ≤ u ∧ u ≤ 0x21 then canPendCheck v
  else if u = 0x23 then
    let p := critPeriodUs s
    fails
      [((v 0x003).toNat + (v 0x004).toNat ≥ p, 1, 0x003), ((v 0x004).toNat * 5000 < p + (v 0x003).toNat, 2, 0x003)]
  else if u = 0x27 then fails [((v 0x00A).field 0 8 * 2 ≥ (v 0x00A).field 8 8 * 16, 1, 0x00A)]
  else if u = 2 then
    let dc := (v 0x001).toNat
    let off (d : Nat) : Bool := domainOn s d && !(Word.ofN dc).tst d
    let cp := v 0x003
    fails
      [(off 1 && (Word.ofN dc).tst 0, 1, 0x001),
       (off 3 && (List.range 8).any (fun n => cp.tst n && fBit s 2 0x003 n && !unitStopped s (4 + n)), 2, 0x001),
       (off 9 && hmiBusy s, 3, 0x001),
       ((off 3 || !(Word.ofN dc).tst 3) && (List.range 8).any (fun n => cp.tst n && !fBit s 2 0x003 n), 4, 0x001),
       ((v 0x004).field 16 10 > (v 0x004).field 0 10, 5, 0x004)]
  else none

/-- The shadow follows an applied set, except where a `cfg.w` has written it again since the commit (R84). -/
def dropShadow (s : State) (p : Tbl Word) : State :=
  { s with cfg := { s.cfg with
      shadow := s.cfg.shadow.filter (fun e => (Tbl.find p e.1).isNone || s.cfg.rewritten.contains e.1) } }

/-- Applies a unit's pending set at its boundary, or refuses it whole (R84, R106): the fields' values only; what a unit does
about them is its own boundary's effect. -/
def applyFields (s : State) (u : Nat) : State :=
  match Tbl.find s.cfg.pend u with
  | none => s
  | some p =>
    let s1 := { s with cfg := { s.cfg with pend := Tbl.del s.cfg.pend u } }
    match pendCheck s u p with
    | some (code, f) =>
      post (fSetBit s1 u 0x3FF 1 true) u 2 0x0601 [Word.ofN code, Word.ofN (fid u f), pendVal s p u f]
    | none =>
      let s2 := p.foldl (fun s e => fSet s u (e.1 % 1024) e.2) s1
      fIncMod (fSetBit (dropShadow s2 p) u 0x3FF 1 false) u 0x3FF 8 8

/-- A field of a unit's pending set has been applied whole: it leaves the set, and with the last one the commit is done
(R84, R103). For units whose fields apply at boundaries of their own. -/
def pendTake (s : State) (u f : Nat) : State :=
  match Tbl.find s.cfg.pend u with
  | none => s
  | some p =>
    match Tbl.find p (fid u f) with
    | none => s
    | some v =>
      let p' := Tbl.del p (fid u f)
      let s := dropShadow (fSet s u f v) [(fid u f, v)]
      if p'.isEmpty then
        fIncMod (fSetBit { s with cfg := { s.cfg with pend := Tbl.del s.cfg.pend u } } u 0x3FF 1 false) u 0x3FF 8 8
      else { s with cfg := { s.cfg with pend := Tbl.ins s.cfg.pend u p' } }

/-- The value that a unit's pending set holds for a field, none when it holds none. -/
def pendFind (s : State) (u f : Nat) : Option Word := (Tbl.find s.cfg.pend u).bind (fun p => Tbl.find p (fid u f))

/-- The pending set of a unit is accepted at this boundary. -/
def pendOk (s : State) (u : Nat) : Bool :=
  match Tbl.find s.cfg.pend u with | some p => (pendCheck s u p).isNone | none => false

/-- An action field returns to its rest value in the active copy, and in a shadow not written again since (R84). -/
def actionDone (s : State) (u f lo len : Nat) : State :=
  let s := fSetPart s u f lo len 0
  match Tbl.find s.cfg.shadow (fid u f) with
  | some v =>
    if s.cfg.rewritten.contains (fid u f) then s
    else { s with cfg := { s.cfg with shadow := Tbl.ins s.cfg.shadow (fid u f) (v.setField lo len 0) } }
  | none => s

end Sys2Proof.Machine
end

