-- ==== Sys2Proof/Machine/LoopSlot.lean ====
section
/-! DEFINITION. The loop slots of the closed-loop engine as every command that ends a run meets them: the record, the check of
a block, the slot's boundary, misses and captures (R379, R380, R390, R396, R398, R399). -/
namespace Sys2Proof.Machine

/-! ## The slot record -/

/-- Address of slot n's record (R378). -/
def slotBase (n : Nat) : Nat := 0x0500010000 + n * 0x200

/-- Word w of the live block (R380). -/
def liveW (s : State) (n w : Nat) : Word := given s (slotBase n + 0x180 + 4 * w)

/-- Writes word w of the live block. -/
def setLive (s : State) (n w : Nat) (v : Word) : State := hwW s 0x10 (slotBase n + 0x180 + 4 * w) v

/-- Sets part of a word of the live block. -/
def livePart (s : State) (n w lo len v : Nat) : State := setLive s n w ((liveW s n w).setField lo len v)

/-- Sets one bit of STATUS. -/
def slotFlag (s : State) (n k : Nat) (b : Bool) : State := livePart s n 1 k 1 (bit b)

/-- One bit of STATUS. -/
def slotBit (s : State) (n k : Nat) : Bool := (liveW s n 1).tst k

/-- Word w of configuration block b (R379). -/
def blockW (s : State) (n : Nat) (b : Bool) (w : Nat) : Word := given s (slotBase n + (if b then 0xC0 else 0) + 4 * w)

/-- Word w of the active block. -/
def slotW (s : State) (n w : Nat) : Word := blockW s n (slotBit s n 31) w

/-- The slot's working state. -/
def getSlot (s : State) (n : Nat) : Slot := Tbl.get {} s.cle.slots n

/-- Replaces it. -/
def setSlot (s : State) (n : Nat) (x : Slot) : State :=
  { s with cle := { s.cle with slots := Tbl.put {} s.cle.slots n x } }

/-- Mantissa and shift of a coefficient word (R385). -/
def coefM (w : Word) : Int := w.toInt.fdiv 64
def coefS (w : Word) : Nat := w.field 0 6

/-- An output-area byte offset held in nineteen bits: bit 19 is implied by the area (assumption 36). -/
def outOfs (w : Word) : Nat := 0x80000 + w.field 0 19

/-- A source entry obeys R379 and R383. -/
def sourceOk (w : Word) : Bool :=
  let k := w.field 29 3
  let a := w.field 0 19
  w.field 19 9 = 0 && k ≤ 6 &&
    (if k = 0 then a = 0 else if k = 1 then a % 128 ≤ 95 else if k = 3 then a % 256 < 255 && a < 65536
     else if k = 4 ∨ k = 5 then a % 4 = 0 else true)

/-- A configuration block obeys R379 and its CRC is right. -/
def blockOk (w : Nat → Word) : Bool :=
  let law := (w 0).field 28 4
  let order := (w 0).field 24 4
  let zero (i lo len : Nat) : Bool := (w i).field lo len = 0
  law ≤ 2 && (if law = 2 then 1 ≤ order && order ≤ 8 else order = 0 && zero 0 22 2) && zero 0 16 2 && 1 ≤ (w 0).field 0 16 &&
  (match (w 1).field 30 2 with | 0 => (w 1).field 20 10 ≤ 31 | 1 => (w 1).field 20 10 = 0 | 3 => (w 1).field 20 10 ≤ 511 | _ => true) &&
  zero 1 16 2 && 1 ≤ (w 1).field 0 16 && (w 2).field 16 16 < (w 1).field 0 16 && zero 2 0 16 &&
  zero 3 20 12 && zero 3 0 2 && (List.range 4).all (fun k => sourceOk (w (4 + 3 * k))) &&
  zero 16 19 6 && zero 16 0 2 && (w 17).toInt ≤ (w 18).toInt && 0 ≤ (w 19).toInt &&
  (law ≠ 2 || zero 20 20 12 && (List.range 11).all (fun i => w (21 + i) = 0)) &&
  zero 32 19 13 && zero 33 28 4 && zero 33 13 3 && 2 ≤ (w 33).field 0 13 && (w 33).field 0 13 ≤ 4096 &&
  (w 33).field 16 12 < (w 33).field 0 13 && (w 32).field 0 19 + (w 33).field 0 13 ≤ 524288 &&
  (w 35).toNat ≤ 2 ^ 30 && 0 < (w 36).toInt && w 37 = 0 && w 38 = 0 && zero 39 28 1 && zero 39 24 2 && 1 ≤ (w 39).field 16 8 &&
  1 ≤ (w 41).toNat && w 44 = 0 && w 45 = 0 && w 46 = 0 &&
  w 47 = crc32c ((List.range 47).flatMap (fun i => leBytes 4 (w i).toNat))

/-! ## The boundary -/

/-- Takes the trigger's settings from the active block (R382). -/
def slotLatch (s : State) (n : Nat) : State :=
  let w1 := slotW s n 1
  setSlot s n { getSlot s n with
    kind := w1.field 30 2, index := w1.field 20 10, ev := w1.field 18 2, div := w1.field 0 16, phase := (slotW s n 2).field 16 16 }

/-- Clears the law states (R399). -/
def clearStates (s : State) (n : Nat) : State := hwWords s 0x10 (slotBase n + 0x180 + 64) (List.replicate 16 0)

/-- The enabling of a slot: states, k, counters and STATUS [28:20] are cleared, and BUMPLESS applies (R399). -/
def slotEnable (s : State) (n : Nat) : State :=
  let s := clearStates s n
  let s := setLive (setLive (setLive (setLive (setLive s n 2 0) n 3 0) n 4 0) n 8 0) n 9 0
  let s := setLive s n 1 ((((liveW s n 1).setField 20 9 0).setField 0 16 0).put 30 true)
  setSlot s n { on := true, bump := true }

/-- The committed SLOT_EN bit of a slot is applied (R399). -/
def slotEn (s : State) (n : Nat) : State :=
  let f := 2 + n / 32
  match pendFind s 0x10 f with
  | none => s
  | some v =>
    let want := v.tst (n % 32)
    let was := fBit s 0x10 f (n % 32)
    let s := fSetBit s 0x10 f (n % 32) want
    let s := if fGet s 0x10 f = v then pendTake s 0x10 f else s
    if want && !was then slotEnable s n
    else if !want && was then setSlot (slotFlag s n 30 false) n {} else s

/-- Ends an injection (R397). -/
def injEnd (s : State) (n : Nat) : State := if slotBit s n 26 then raise (slotFlag s n 26 false) 260 else s

/-- Acts on SWAP (R399). -/
def slotSwap (s : State) (n : Nat) : State :=
  let s := livePart s n 0 31 1 0
  let b := !slotBit s n 31
  if blockOk (blockW s n b) then
    let a0 := slotW s n 0
    let n0 := blockW s n b 0
    let s := slotFlag (injEnd s n) n 31 b
    let s := if a0.field 22 10 = n0.field 22 10 then s else clearStates s n
    setSlot (slotFlag s n 22 false) n { getSlot s n with bump := (getSlot s n).bump || (getSlot s n).on }
  else raisePost (slotFlag s n 22 true) 0x10 2 263 []

/-- A slot's boundary (R399): enabling, clearing, then the swap. -/
def slotBoundary (s : State) (n : Nat) : State :=
  let s := slotEn s n
  let c := liveW s n 0
  let s := if c.tst 28 then clearStates (livePart s n 0 28 1 0) n else s
  let s :=
    if c.tst 29 then
      zeroRange (livePart s n 0 29 1 0) (0x0500200000 + 4 * (slotW s n 32).field 0 19) (4 * (slotW s n 33).field 0 13)
    else s
  let s := if c.tst 31 then slotSwap s n else s
  if (getSlot s n).on then slotLatch s n else s

/-! ## Captures -/

/-- Capture unit c takes one sample of slot n (R398) and stops after the configured count with event 259. -/
def capSample (s : State) (n c : Nat) (lost : Bool) : State :=
  let x := getSlot s n
  let f := 0x021 + 2 * c
  let k := fPart s 0x10 f 0 17
  let s0 := (x.src.getD 0 (0, false)).1
  let s1 := (x.src.getD 1 (0, false)).1
  let toS1 := !(slotW s n 39).tst 29 && (slotW s n 0).field 28 4 ≠ 2
  let s1 := clampI (s1 + (if toS1 then x.inj.getD 0 else 0))
  let flags := bit (slotBit s n 28) + 2 * bit (slotBit s n 27) + 4 * bit (slotBit s n 26) + 8 * bit (slotBit s n 24) + 16 * bit lost
  let s := hwWords s 0x10 (0x0A00000000 + c * 0x100000 + 16 * k)
    [BitVec.ofInt 32 s0, BitVec.ofInt 32 s1, liveW s n 5, Word.ofN (x.trigs % 65536 * 2 ^ 16 + flags)]
  let s := fSetPart s 0x10 f 0 17 (k + 1)
  if fPart s 0x10 (f - 1) 0 16 < k + 1 then
    raise (actionDone (fSetPart s 0x10 f 30 2 2) 0x10 (f - 1) 31 1) 259
  else s
where
  /-- Saturates to 32 bits. -/
  clampI (x : Int) : Int := if x < -(2 ^ 31) then -(2 ^ 31) else if 2 ^ 31 - 1 < x then 2 ^ 31 - 1 else x

/-- All capture units that record the present trigger of a slot take their sample. -/
def captures (s : State) (n : Nat) (lost : Bool) : State :=
  ((getSlot s n).caps.filter (fun c => fBit s 0x10 (0x021 + 2 * c) 30)).foldl (fun s c => capSample s n c lost) s

/-! ## The end of a run -/

/-- A run ends: its engine is free, its unsealed writes are gone, its sample is taken, and the slot is at its boundary. -/
def slotEnd (s : State) (n : Nat) : State :=
  let x := getSlot s n
  let s := match x.run with
    | .running e =>
      { s with
        ctxs := Tbl.del s.ctxs (32 + e)
        cle := { s.cle with wbuf := s.cle.wbuf.filter (fun w => w.sealedAt.isSome || w.task != 32 + e) } }
    | _ => s
  let s := captures (slotFlag s n 29 false) n false
  let s := setSlot s n { getSlot s n with run := .idle, urg := [], law := none, caps := [] }
  slotBoundary s n

/-- A run misses its deadline (R390): nothing is committed. -/
def slotMiss (s : State) (n : Nat) : State :=
  let first := !slotBit s n 28
  let s := slotFlag (slotFlag (slotFlag s n 28 true) n 24 false) n 23 false
  let s := livePart s n 1 0 16 (satInc 16 ((liveW s n 1).field 0 16))
  let s := setLive s n 2 (Word.ofN (satInc 32 (liveW s n 2).toNat))
  let s := raise (fInc s 0x10 0x014 0 32) 256
  let s := if first then post s 0x10 2 256 [] else s
  slotEnd (setSlot s n { getSlot s n with bad := true }) n

/-- The slot whose run an engine executes. -/
def slotOf (s : State) (e : Nat) : Option Nat :=
  ((s.cle.slots.find? (fun x => x.2.run == .running e))).map (·.1)

/-- The slot that an engine runs trapped in its previous run already (R396). -/
def trappedBefore (s : State) (e : Nat) : Bool := match slotOf s e with | some n => slotBit s n 23 | none => false

/-- A trap, or `halt`, ends the run of a slot with nothing committed (R396): TRAPPED and event 262; `halt` also disables the
slot. -/
def slotTrap (s : State) (e : Nat) (disable : Bool) : State :=
  match slotOf s e with
  | none => s
  | some n =>
    let s := raise (slotFlag (slotFlag s n 23 true) n 24 false) 262
    let s := slotEnd (setSlot s n { getSlot s n with bad := false }) n
    if disable then
      let s := fSetBit s 0x10 (2 + n / 32) (n % 32) false
      setSlot (slotFlag s n 30 false) n {}
    else s

end Sys2Proof.Machine
end

