-- ==== Sys2Proof/Machine/Gate.lean ====
section
/-! DEFINITION. The update gate (R23, R24, R39, R549): the pending change of a target engine and what is done when a change
takes effect. -/
namespace Sys2Proof.Machine

/-- The pending change of a target engine (R24). -/
def gateFind (s : State) (target : Nat) : Option GateItem := s.gate.find? (fun g => g.target == target)

/-- Takes the pending change of a target engine out of the gate. -/
def gateDrop (s : State) (target : Nat) : State := { s with gate := s.gate.filter (fun g => g.target != target) }

/-- Payload types whose target has a rollback floor (R545). -/
def hasFloor (ty : Nat) : Bool := (1 ≤ ty && ty ≤ 3) || (5 ≤ ty && ty ≤ 6) || (8 ≤ ty && ty ≤ 10)

/-- A measurement entry is replaced, one per target, at most 32 (R542). -/
def measPut (s : State) (m : Meas) : State :=
  { s with key := { s.key with meas := (s.key.meas.filter (fun x => x.target != m.target) ++ [m]) } }

/-- Low word of a digest (R542). -/
def digestWord (d : List Byte) : Word := Word.ofN (natAt d 0 4)

/-- What an accepted envelope does to KEY when its change is applied (R549); an MGT image's measurement is replaced at the
next start-up (R546). -/
def keyAdvance (s : State) (e : EnvInfo) : State :=
  let s := { s with key := { s.key with mono := max s.key.mono e.ctr } }
  if hasFloor e.ty then
    let s := { s with key := { s.key with
      floors := Tbl.put 0 s.key.floors e.target e.ctr, stored := Tbl.ins s.key.stored e.target e.bytes } }
    if e.ty = 8 then s else measPut s { ty := e.ty, target := e.target, ctr := e.ctr, digest := e.digest }
  else s

/-- A change has taken effect (R39, R549): the record names the target, the tick of the boundary and the measurement of a new
image. -/
def gateDone (s : State) (g : GateItem) : State :=
  let s := gateDrop s g.target
  let (tgt, m) : Nat × Word := match g.env with
    | some e => (e.target, if hasFloor e.ty then digestWord e.digest else 0)
    | none => (g.target / 64 * 1024 + g.target % 64, 0)
  let s := post s (g.target / 64) 1 0x0600 [Word.ofN tgt, Word.ofN s.clk.tick.toNat, m]
  match g.env with
  | some e => keyAdvance s e
  | none => s

/-- A class L write that was held is applied (R85): the field's value; the unit's own effect follows in its chapter. -/
def heldWrites (s : State) (u : Nat) : List (GateItem × Nat × Word) :=
  s.gate.filterMap (fun g => match g.change with
    | .live f v => if g.target / 64 = u then some (g, f, v) else none
    | _ => none)

/-- A store that the gate held is done: a whole word with a fresh code, a narrower one merged into the word (R97). -/
def storeNow (s : State) (a : Nat) (bs : List Byte) : State :=
  hwWrite s { unit := 0 } a bs

/-- An engine image of R546: its size and home contents, or none when it breaks the rules. -/
def engineImage (ty maxZ : Nat) (d : List Byte) : Option (List Byte) :=
  let z := natAt d 4 4
  if natAt d 0 2 = ty ∧ natAt d 2 2 = 1 ∧ z % 4 = 0 ∧ z ≤ maxZ ∧ natAt d 8 8 = 0 ∧ d.length = 20 + z ∧
      crc32c (d.take (16 + z)) = wordAt (d.drop (16 + z)) 0 then some ((d.drop 16).take z) else none

end Sys2Proof.Machine
end

