-- ==== Sys2Proof/Machine/SafState.lean ====
section
/-! DEFINITION. The safety channel's state as any command may change it: the safety image and its switch, and entry into the safe
state (R412, R414, R422, R423). -/
namespace Sys2Proof.Machine

/-- The 16-bit and smaller fields of a safety image with the byte offset, value and rule of each, in the image's order (R422). -/
def safRules (d : List Byte) : List (Nat × Nat × Bool) :=
  let g (o l : Nat) : Nat := natAt d o l
  let z := g 4 4
  [(0, g 0 2, g 0 2 == 6), (2, g 2 2, g 2 2 == 1), (4, z, z % 4 == 0 && z ≤ 0x70000 && d.length == 132 + z),
   (12, g 12 4, g 12 4 % 4 == 0 && 0x400 ≤ g 12 4 && g 12 4 < z), (16, g 16 1, 2 ≤ g 16 1 && g 16 1 ≤ 50),
   (17, g 17 1, 10 ≤ g 17 1 && g 17 1 ≤ 80),
   (18, g 18 2, 10 ≤ g 18 2 && g 18 2 ≤ 1000 && 40 * g 17 1 ≤ 1000 * g 18 2),
   (20, g 20 2, 100 ≤ g 20 2 && g 20 2 ≤ 800), (22, g 22 2, 1 ≤ g 22 2 && g 22 2 ≤ 600),
   (24, g 24 2, 10 ≤ g 24 2 && g 24 2 ≤ 400 && g 24 2 < g 20 2), (27, g 27 1, g 27 1 == 0)] ++
  (List.range 16).map (fun i =>
    let v := g (28 + 2 * i) 2
    (28 + 2 * i, v, v / 256 % 16 == 0 && (v < 32768 || (v / 4096 % 8 ≤ 4 && 5 ≤ v % 256 && v % 256 ≤ 200)))) ++
  (List.range 8).map (fun k => (60 + k, g (60 + k) 1, g (60 + k) 1 / 64 ≤ 2 && 1 ≤ g (60 + k) 1 % 64 && g (60 + k) 1 % 64 ≤ 50)) ++
  (List.range 60).map (fun k => (68 + k, g (68 + k) 1, g (68 + k) 1 == 0))

/-- A safety image, or the offset and value of its first field whose rule fails, the CRC last (R422, R615). -/
def safParse (d : List Byte) : Except (Nat × Nat) SafImage :=
  let g (o l : Nat) : Nat := natAt d o l
  match (safRules d).find? (fun r => !r.2.2) with
  | some r => .error (r.1, r.2.1)
  | none =>
    let z := g 4 4
    if (crc32c (d.take (128 + z))).toNat ≠ g (128 + z) 4 then .error (128 + z, g (128 + z) 4)
    else .ok {
      z := z, ver := wordAt d 2, entry := g 12 4, cycle := g 16 1, tpWidth := g 17 1, tpPeriod := g 18 2, opWidth := g 20 2
      opInt := g 22 2, opLag := g 24 2, mask := BitVec.ofNat 8 (g 26 1), si := (List.range 16).map (fun i => g (28 + 2 * i) 2)
      pairs := (List.range 8).map (fun k => g (60 + k) 1), content := toCells 0 ((d.drop 128).take z) }

/-- The fields that show the active image (R426). -/
def safFields (s : State) (m : SafImage) : State :=
  let pair (j : Nat) : Nat := m.pairs.getD j 0
  let quad (j : Nat) : Word := Word.ofN (pair j + 256 * (pair (j + 1) + 256 * (pair (j + 2) + 256 * pair (j + 3))))
  let s := fSet s 0x0C 4 (Word.ofN (m.tpPeriod * 2 ^ 16 + m.tpWidth * 2 ^ 8 + m.cycle))
  let s := fSet s 0x0C 5 (Word.ofN (m.opInt * 2 ^ 16 + m.opWidth))
  let s := fSet s 0x0C 6 (Word.ofN (m.opLag * 2 ^ 16 + m.mask.toNat))
  let s := fSet (fSet s 0x0C 9 m.ver) 0x0C 0xA m.meas
  let s := (List.range 8).foldl (fun s k => fSet s 0x0C (0x10 + k) (Word.ofN (m.si.getD (2 * k + 1) 0 * 2 ^ 16 + m.si.getD (2 * k) 0))) s
  fSet (fSet s 0x0C 0x18 (quad 0)) 0x0C 0x19 (quad 4)

/-- The home takes the image's contents, registers are cleared, slots are initialised with every edge slot at prev = 1, and the
program stands at its entry (R414, R423). -/
def safLoad (s : State) (m : SafImage) : State :=
  let s := loadRange s 0x0180000000 0x70000 m.content
  { s with
    ctxs := Tbl.put {} s.ctxs 2 { pc := Word.ofN m.entry, live := true }
    saf := { s.saf with
      slots := { edges := (List.range 1024).map (fun i => (i, { prev := true })) }, inCycle := false } }

/-- The pending safety image switches (R423). -/
def safSwitch (s : State) : State :=
  match gateFind s (0x0C * 64) with
  | some g =>
    match g.change with
    | .payload _ d =>
      match safParse d with
      | .ok m =>
        let m := { m with meas := match g.env with | some e => digestWord e.digest | none => 0 }
        let s := safFields { s with saf := { s.saf with image := some m, cmd := s.saf.cmd } } m
        gateDone (raise (safLoad s m) 194) g
      | .error _ => gateDrop s g.target
    | _ => s
  | none => s

/-- The held class L writes to SAF that do not act by themselves apply at its boundary with the pending set (R84, R85). -/
def safBoundary (s : State) : State := applyFields (safSwitch s) 0x0C

/-- SAF enters the safe state (R412): outputs off, program stopped, unsealed writes discarded, monitor disarmed, cause latched,
event 192 and its record. A later cause while in the safe state only posts its record. A pending image switches at once (R423). -/
def safEnter (s : State) (cause detail : Nat) : State :=
  if s.saf.safe then post s 0x0C 3 0x060F [1, Word.ofN cause, Word.ofN detail]
  else
    let s := { s with
      saf := { s.saf with
        safe := true, cause := cause, detail := detail, cmd := 0, pulse := 0, inCycle := false, monitor := none
        wbuf := s.saf.wbuf.filter (fun w => w.sealedAt.isSome) }
      ctxs := Tbl.put {} s.ctxs 2 { Tbl.get {} s.ctxs 2 with live := false } }
    safBoundary (raisePost (fInc s 0x0C 0x00D 0 32) 0x0C 3 192 [Word.ofN cause, Word.ofN detail])

end Sys2Proof.Machine
end

