-- ==== Sys2Proof/Machine/Sequence.lean ====
section
/-! DEFINITION. The end of a plan sequence, which is a converter's boundary (R23, R138). -/
namespace Sys2Proof.Machine

/-- A converter's working state. -/
def getConv (s : State) (n : Nat) : Conv := Tbl.get {} s.afe n

/-- Replaces it. -/
def setConv (s : State) (n : Nat) (c : Conv) : State := { s with afe := Tbl.put {} s.afe n c }

/-- The code of an input of `nv` nV: Vin / VREFA × 65,536 for VREFA = 2.500 V, to the nearest whole number, saturated (R10, R119). -/
def adcCode (nv : Int) : Nat := min 65535 ((2 * nv.toNat * 65536 + 2500000000) / 5000000000)

/-- A global field as converter n uses it: it takes a committed value at its own sequence end (R138). -/
def afeGlobal (s : State) (n f : Nat) : Word :=
  match Tbl.find (getConv s n).glob (fid 0x11 f) with | some v => v | none => fGet s 0x11 f

/-- Global fields of AFE in its pending set. -/
def afePendGlobals (s : State) : Tbl Word :=
  match Tbl.find s.cfg.pend 0x11 with | some p => p.filter (fun e => e.1 % 1024 < 0x100) | none => []

/-- Once every running converter has taken the global fields of the pending set, they are the active ones. -/
def afeGlobalsDone (s : State) : State :=
  let g := afePendGlobals s
  let all := (List.range 16).all (fun m => !(Tbl.get {} s.ctxs (16 + m)).live || (getConv s m).glob == g)
  if !g.isEmpty && all then
    let s := { s with afe := (s.afe.map (fun e => (e.1, { e.2 with glob := [] }))).filter (fun e => e.2 != {}) }
    g.foldl (fun s e => pendTake s 0x11 (e.1 % 1024)) s
  else s

/-- The pending configuration of a converter applies (R138). -/
def afeConfig (s : State) (n : Nat) : State :=
  let own := (List.range 15).map (fun k => 0x101 + 16 * n + k)
  let s := own.foldl (fun s f => if (pendFind s 0x11 f).isSome then pendTake s 0x11 f else s) s
  let g := afePendGlobals s
  if g.isEmpty then s else afeGlobalsDone (setConv s n { getConv s n with glob := g })

/-- A plan update applies: the home takes the image, and a running sequencer starts it at 0x400 (R138, R546). True when one
was applied. -/
def afePlan (s : State) (n : Nat) : State × Bool :=
  match gateFind s (0x11 * 64 + n) with
  | some g =>
    match g.change with
    | .payload _ d =>
      match engineImage 0x000A 0x10000 d with
      | some home =>
        let live := (Tbl.get {} s.ctxs (16 + n)).live
        let s := gateDone (loadRange s (0x0600000000 + n * 0x10000) 0x10000 (toCells 0 home)) g
        (if live then { s with ctxs := Tbl.put {} s.ctxs (16 + n) { pc := 0x400, live := true } } else s, true)
      | none => (gateDrop s g.target, false)
    | _ => (s, false)
  | none => (s, false)

/-- The end of a plan sequence (R138). -/
def sequenceEnd (s : State) (n : Nat) : State := (afePlan (afeConfig s n) n).1

end Sys2Proof.Machine
end

