-- ==== Sys2Proof/Machine/Ops.lean ====
section
/-! DEFINITION. The shared operations of the engines: contexts and registers, the run of one instruction, access to memory
with its error responses, taking a trap and what stops an engine (R40 to R52, R62 to R67, R89 to R98). -/
namespace Sys2Proof.Machine

/-! ## The end of a command -/

/-- The pins as the units drive them: safety outputs only out of the safe state (R412, R419, R420), TP_n low in its test pulse
(R416), ZENITH_OUT only while the redundancy unit asserts it and holds Zenith (R475), pulse outputs active only while the MTR
domain is on and the device is awake (R173, R586). -/
def drive (s : State) : Pins :=
  { so := s.saf.soPins
    tp := ~~~s.saf.tpLow
    zenithOut := s.twin.zenithOut && (s.twin.role == .active || s.twin.role == .single)
    pls := if s.pwr.asleep || !domainOn s 6 then 0
      else BitVec.ofNat 16 (s.mtr.po.foldl (fun n e => n + bit e.2.active * 2 ^ e.1) 0)
    plsHigh := if !domainOn s 6 then 0
      else BitVec.ofNat 16 ((List.range 16).foldl (fun n i =>
        n + bit ((!s.pwr.asleep && (Tbl.get {} s.mtr.po i).active) != fBit s 0x13 (0x200 + 2 * i) 30) * 2 ^ i) 0) }

/-- Every command ends so: the pins follow the units, and the queue of waiting commands is what it was. -/
def settle (s t : State) : State := { t with pending := s.pending, pins := drive t }

/-- The answer of a meaning whose effect on `s` is `t`. -/
def done (s t : State) : Out := .next (settle s t)

/-! ## Contexts and registers -/

/-- The context with number `k`. -/
def getCtx (s : State) (k : Nat) : Ctx := Tbl.get {} s.ctxs k

/-- Replaces a context. -/
def setCtx (s : State) (k : Nat) (c : Ctx) : State := { s with ctxs := Tbl.put {} s.ctxs k c }

/-- A general register; g0 reads as zero (R40). -/
def rdG (c : Ctx) (r : Reg) : Word := if r = 0 then 0 else Tbl.get 0 c.g r.toNat

/-- Writes a general register; a write to g0 is discarded (R41). -/
def wrG (c : Ctx) (r : Reg) (v : Word) : Ctx := if r = 0 then c else { c with g := Tbl.put 0 c.g r.toNat v }

/-- A predicate; p0 reads as true (R40). -/
def rdP (c : Ctx) (p : PReg) : Bool := p = 0 || c.p.getLsbD p.toNat

/-- Writes a predicate; a write to p0 is discarded (R41). -/
def wrP (c : Ctx) (p : PReg) (b : Bool) : Ctx :=
  if p = 0 then c
  else { c with p := BitVec.ofNat 8 (c.p.toNat - bit (c.p.getLsbD p.toNat) * 2 ^ p.toNat + bit b * 2 ^ p.toNat) }

/-- An accumulator (R40). -/
def rdA (c : Ctx) (a : BitVec 3) : Acc := Tbl.get 0 c.acc a.toNat

/-- Writes an accumulator. -/
def wrA (c : Ctx) (a : BitVec 3) (v : Acc) : Ctx := { c with acc := Tbl.put 0 c.acc a.toNat v }

/-- The register after `r` of a pair (R41). -/
def pairReg (r : Reg) : Reg := r + 1

/-- A named pair must have an even register (R41). -/
def oddReg (r : Reg) : Bool := r.getLsbD 0

/-- Register `r` of context `k`. -/
def reg (s : State) (k : Nat) (r : Reg) : Word := rdG (getCtx s k) r

/-- Writes register `r` of context `k`. -/
def setReg (s : State) (k : Nat) (r : Reg) (v : Word) : State := setCtx s k (wrG (getCtx s k) r v)

/-- Writes predicate `p` of context `k`. -/
def setPred (s : State) (k : Nat) (p : PReg) (b : Bool) : State := setCtx s k (wrP (getCtx s k) p b)

/-- Sets the pc of context `k`. -/
def setPc (s : State) (k : Nat) (pc : Word) : State := setCtx s k { getCtx s k with pc := pc }

/-- A context just released at a home offset, with its registers cleared (R42). -/
def freshCtx (pc : Nat) : Ctx := { pc := Word.ofN pc, live := true }

/-- What is left of a task's context between two cycles: the latches of its last reads (R43, R82). A `mer` inside a handler ends the
handler with the cycle (assumption 192). -/
def restCtx (c : Ctx) : Ctx := { tkHi := c.tkHi, opHi := c.opHi, secHi := c.secHi }

/-! ## Engines -/

/-- The unit of an engine (R29). -/
def unitOf : Eng → Nat
  | .mgt => 0 | .mgtJob => 0 | .saf => 0x0C | .asm => 0x14 | .cyc n => 4 + n.val | .cle _ => 0x10 | .afe _ => 0x11

/-- A physical core. -/
def getCore (s : State) (n : Nat) : Core := Tbl.get {} s.cyc.cores n

/-- Replaces a physical core. -/
def setCore (s : State) (n : Nat) (c : Core) : State := { s with cyc := { s.cyc with cores := Tbl.put {} s.cyc.cores n c } }

/-- A task of a physical core. -/
def getTask (s : State) (n t : Nat) : Task := Tbl.get {} (getCore s n).tasks t

/-- Replaces a task of a physical core. -/
def setTask (s : State) (n t : Nat) (k : Task) : State :=
  setCore s n { getCore s n with tasks := Tbl.put {} (getCore s n).tasks t k }

/-- Context number of task `t` on physical core `n`: contexts go with the bank (R313). -/
def taskCtx (s : State) (n t : Nat) : Nat := 64 + 16 * coreBank s n + t

/-- The task that a core runs: the highest-priority one that is in its cycle and not suspended (R319). -/
def runningTask (s : State) (n : Nat) : Option Nat :=
  (List.range 16).find? (fun t => let c := getCtx s (taskCtx s n t); c.live && c.wait == .none)

/-- Context number of an engine other than a cycle core. -/
def soloCtx : Eng → Nat
  | .mgt => 0 | .mgtJob => 1 | .saf => 2 | .asm => 3 | .cyc n => 64 + 16 * n.val | .cle k => 32 + k.val
  | .afe n => 16 + n.val

/-- The context that an engine would execute an instruction in, none when it is not released, is stopped, suspended or
asleep (R42, R78, R86, R319, R581). -/
def engReady (s : State) (e : Eng) : Option Nat :=
  if s.pwr.asleep then none
  else match e with
    | .cyc n =>
      if (getCore s n.val).mode = .running then (runningTask s n.val).map (taskCtx s n.val) else none
    | .saf => if (getCtx s 2).live && (getCtx s 2).wait == .none && s.saf.inCycle && !s.saf.safe then some 2 else none
    | e => let c := getCtx s (soloCtx e); if c.live && c.wait == .none then some (soloCtx e) else none

/-- The engine as the initiator of an access (R109). -/
def whoIs (e : Eng) (k : Nat) : Who :=
  { unit := unitOf e, task := match e with | .cyc _ => k % 16 | _ => 0 }

/-- Home base and size of an engine (R63, R120, R313). -/
def homeOf (s : State) : Eng → Nat × Nat
  | .mgt => (0x0010000000, 0x200000)
  | .mgtJob => (0x0010000000, 0x200000)
  | .saf => (0x0180000000, 0x80000)
  | .asm => (0x0400000000, 0x400000)
  | .cyc n => (0x0100000000 + coreBank s n.val * 0x100000, 0x100000)
  | .cle _ => (0x0500000000, 0x400000)
  | .afe n => (0x0600000000 + n.val * 0x10000, 0x10000)

/-! ## Redundancy and safety reactions that any command may cause -/

/-- The unit leaves ACTIVE: ZENITH_OUT is dropped and the demotion counted (R483, R488, R493, R496). -/
def twinDemote (s : State) (evt : Nat) : State :=
  let s := { s with twin := { s.twin with
    role := .demoted, zenithOut := false, solo := false, lease := none, lapsed := evt == 561, ask := none
    watch := s.clk.tick.toNat * 10 + 2 * critPeriodUs s } }
  raisePost (fInc s 0x23 0x016 16 8) 0x23 3 evt []

/-- An ABDICATE frame for both lanes (R478, R488). -/
def abdicateFrame (s : State) : LinkFrame :=
  { ty := 5, ep := s.twin.ep, count := Word.ofN s.twin.count }

/-- An active that finds a fault of its own abdicates (R488). -/
def abdicate (s : State) : State :=
  if s.twin.role = .active then
    let s := { s with twin := { s.twin with tx := [abdicateFrame s] } }
    twinDemote s 562
  else s

/-! ## Stopping engines -/

/-- Cycles in progress on a core are abandoned: pins released, unsealed writes discarded (R338, R341). -/
def abandonCycles (s : State) (n : Nat) : State :=
  let s := (List.range 16).foldl
    (fun s t => if (getCtx s (taskCtx s n t)).live then setCtx s (taskCtx s n t) (restCtx (getCtx s (taskCtx s n t))) else s) s
  setCore s n { getCore s n with wbuf := (getCore s n).wbuf.filter (fun w => w.sealedAt.isSome) }

/-- The core is stopped at once, as RUN = 0 does at a Meridian (R341); a stopped core is at its boundary (R107). -/
def coreStop (s : State) (n : Nat) : State :=
  let s := abandonCycles s n
  let s := setCore s n { getCore s n with mode := .stopped }
  applyFields (fSet s (4 + n) 0x001 0) (4 + n)

/-- `halt`, or a trap in the handler, stops a cycle core: event 1 of the core; the critical core's unit abdicates
(R341, R488). -/
def coreHalt (s : State) (n : Nat) : State :=
  let crit := fBit s (4 + n) 0x004 0
  let s := raise (coreStop s n) (64 + 16 * n + 1)
  if crit then abdicate s else s

/-- Stops a sequencer as `halt` does: its sequence ends, and either a plan update applies there, with which it continues, or it stops
with event 277 and HALTED (R138, R140). -/
def afeHalt (s : State) (n : Nat) : State :=
  let r := afePlan (afeConfig s n) n
  if r.2 then r.1
  else
    let s := setCtx r.1 (16 + n) { getCtx r.1 (16 + n) with live := false }
    raise (fSetBit s 0x11 (0x106 + 16 * n) 2 true) 277

/-- Stops the ASM program as `halt` does: event 328 (R201); a stopped ASM is at its boundary (R107). -/
def asmHalt (s : State) : State := raise (applyFields (setCtx s 3 { getCtx s 3 with live := false }) 0x14) 328

/-- Stops an engine as `halt` does, without the record of `halt` (R86, R92). -/
def engStop (s : State) (e : Eng) : State :=
  match e with
  | .cyc n => coreHalt s n.val
  | .afe n => afeHalt s n.val
  | .asm => asmHalt s
  | .saf => s
  | .cle _ => s
  | .mgt => setCtx s 0 { getCtx s 0 with live := false }
  | .mgtJob => setCtx s 1 { getCtx s 1 with live := false }

/-! ## Traps -/

/-- Why an instruction traps (R89, R90). -/
structure Trap where
  /-- cause of R90 -/
  cause : Nat
  /-- response cause code for BUS_ERROR and FETCH -/
  resp : Nat := 0
  /-- code of SOFT -/
  soft : Nat := 0
  /-- accessed address, or zero -/
  addr : Nat := 0
deriving DecidableEq, Repr

/-- What the body of an instruction comes to: the state after it, or a trap on a state that only the error response has
changed (R67, R89). -/
inductive Res where
  | ok (s : State)
  | trap (s : State) (t : Trap)

/-- Goes on after a part of an instruction that did not trap. -/
def Res.andThen (r : Res) (f : State → Res) : Res :=
  match r with
  | .ok s => f s
  | .trap s t => .trap s t

/-- Word 0 of the trap record (R89). -/
def trapWord0 (t : Trap) : Word := Word.ofN (t.cause + t.resp * 2 ^ 8 + t.soft % 1024 * 2 ^ 16)

/-- Takes a trap (R89 to R92): the trap record at home offset 0x40, the Almanac record, and the handler at 0x100. Inside the
handler the engine stops instead. SAF enters its safe state on every trap but SOFT: a response UNCORR latches cause MEM (R98, R411),
while the trap record is written and the record of the trap posted as for any other BUS_ERROR or FETCH (R89, R91; assumption 191). CLE
ends the run; no handler runs. That a handler runs is kept with its task's context (assumption 192). -/
def takeTrap (s : State) (e : Eng) (k : Nat) (pc0 w : Word) (t : Trap) : State :=
  let c := getCtx s k
  let w0 := trapWord0 t
  let code := 0x0400 + t.cause
  let record : List Word :=
    [w0, pc0, Word.ofN t.addr, Word.ofN (t.addr / 2 ^ 32 % 256), w,
     Word.ofN (whoIs e k).task, Word.ofN s.clk.tick.toNat, 0]
  if c.inHandler then
    match e with
    | .saf => safEnter s (if t.resp = 5 then 0x07 else 0x02) (if t.resp = 5 then 0 else t.cause)
    | e => post (engStop s e) (unitOf e) 3 code [w0, pc0]
  else
    let s := putWords s ((homeOf s e).1 + 0x40) record
    let again := match e with | .cle n => trappedBefore s n.val | _ => false
    let s := if t.cause = 9 || again then s else post s (unitOf e) 2 code [w0, pc0]
    match e with
    | .saf =>
      if t.cause = 9 then setCtx s k { c with pc := 0x100, inHandler := true }
      else safEnter s (if t.resp = 5 then 0x07 else 0x02) (if t.resp = 5 then 0 else t.cause)
    | .cle n => slotTrap s n.val false
    | _ => setCtx s k { c with pc := 0x100, inHandler := true }

/-! ## Access to memory -/

/-- The retained window of the core that runs a bank contains the address (R334). -/
def inRetainWindow (s : State) (a : Nat) : Bool :=
  let l := (a - 0x0100000000) / 0x100000
  let n := (s.cyc.bankOf.findIdx? (· == l)).getD l
  a ≥ 0x0100000000 && a < 0x0100800000 &&
    (a - 0x0100000000) % 0x100000 ≥ 0x100000 - fPart s (4 + n) 0x009 0 7 * 0x1000

/-- An uncorrectable word in the output area or a retained window makes an active abdicate (R488). -/
def uncorrHook (s : State) (a : Nat) : State :=
  if (0x0200080000 ≤ a ∧ a < 0x0200100000) ∨ inRetainWindow s a then abdicate s else s

/-- May the engine of unit `u` write the address (R93, R101, R180, R185, R232, R404, R436, R503, R558)? -/
def mayWrite (s : State) (u r a : Nat) : Bool :=
  match r with
  | 2 => u == 0
  | 3 => 4 ≤ u && u ≤ 0x0B && (a - 0x0100000000) / 0x100000 == coreBank s (u - 4)
  | 4 => u == 0x0C && (a < 0x0180070000 || (0x0180070040 ≤ a && a < 0x0180070048))
  | 7 =>
    let o := (a - 0x0300000000) % 0x1000
    if u = 0 then o < 0x40 else if u = 0x22 then true
    else 4 ≤ u && u ≤ 0x0B && (o < 0x40 || (0x80 ≤ o && o < 0x4BC))
  | 8 => u == 0x18 || (u == 0x14 && (a - 0x0300100000) % 0x200 < 12)
  | 9 => u == 0x15 || (u == 0x14 && a < 0x0400040000)
  | 10 =>
    let o := a - 0x0500000000
    if u = 0x10 then o < 0x10000 || 0x50000 ≤ o || (o - 0x10000) % 0x200 / 4 == 0x60
    else ((4 ≤ u && u ≤ 0x0B) || u == 0) && 0x10000 ≤ o && o < 0x200000 && (0x50000 ≤ o || (o - 0x10000) % 0x200 < 0x184)
  | 11 => u == 0x11
  | 12 => (0x1A ≤ u && u ≤ 0x21) || (4 ≤ u && u ≤ 0x0B)
  | 15 => 0x0800000020 ≤ a && (u == 0x16 || (u == 0x14 && a < 0x0802800000))
  | 16 => u == 0x10
  | 17 => u == 0
  | 18 => u == 0 && 0x0C00350000 ≤ a && a < 0x0C007BFF80
  | 19 => u == 0x27 || (u == 0 && (a < 0x0D00000110 || 0x0D00000180 ≤ a || (0x0D0000011C ≤ a && a < 0x0D00000120)))
  | _ => false

/-- Owning plane of an MRAM address (R101). -/
def mramPlane (a : Nat) : Plane :=
  if 0x0C00200000 ≤ a ∧ a < 0x0C00300000 then .control
  else if 0x0C00300000 ≤ a ∧ a < 0x0C00340000 then .data else .management

/-- Why an access of `n` bytes at `a` by unit `u` receives an error response before the word is read, none when it does not
(R93 to R95, R101). The Almanac area, and stores to the MRAM that only mechanisms write, are PROTECTED for any engine (R101). A read by
MGT in another plane passes the update gate (R94). The order of the causes is the model's
(assumption 6). -/
def accessCause (s : State) (u : Nat) (wr : Bool) (a n : Nat) : Option Cause :=
  match regionOf a with
  | none => some .unmapped
  | some r =>
    if regionOf (a + n - 1) ≠ some r then some .unmapped
    else if (match regionDomain r with | some d => !domainOn s d | none => false) then some .domainOff
    else
      let p := if r = 18 then mramPlane a else regionPlane r
      let byGate := u = 0 ∧ ((r = 7 ∧ (a - 0x0300000000) % 0x1000 < 0x40) ∨ r = 10)
      if r = 18 ∧ (a < 0x0C00200000 ∨ (wr ∧ a < 0x0C00350000)) then some .prot
      else if p ≠ planeOf u ∧ ¬ (u = 0 ∧ !wr) ∧ ¬ byGate then some .wrongPlane
      else if wr ∧ ¬ mayWrite s u r a then some .prot
      else none

/-- One access of `n` bytes: its error response, or the code of the stored word (R67, R94 to R98). -/
def access (s : State) (w : Who) (k : Kind) (wr : Bool) (a n : Nat) : State × Option Cause :=
  match accessCause s w.unit wr a n with
  | some c => (errorResp s w k c a 0, some c)
  | none =>
    if wr ∧ n = 8 ∧ a % 8 = 0 then (eccFresh s a, none)
    else match eccRead s (storedAt s a) with
      | (s, true) => (s, none)
      | (s, false) => (uncorrHook (errorResp s w k .uncorr a 0) a, some .uncorr)

/-- A load, store or atomic at an address, going on with `f` when it gets its word, trapping BUS_ERROR otherwise (R67). -/
def withAccess (s : State) (w : Who) (k : Kind) (wr : Bool) (a n : Nat) (f : State → Res) : Res :=
  match access s w k wr a n with
  | (s, none) => f s
  | (s, some c) => .trap s { cause := 3, resp := c.code, addr := a }

/-- Refuses an access with a given cause: error response and trap BUS_ERROR (R67, R108). -/
def refuse (s : State) (w : Who) (k : Kind) (c : Cause) (a fieldId : Nat) : Res :=
  .trap (errorResp s w k c a fieldId) { cause := 3, resp := c.code, addr := a }

/-- A near access: the effective offset, its alignment and the end of the home region (R63, R67). -/
def nearAccess (s : State) (e : Eng) (k : Nat) (kd : Kind) (wr : Bool) (ea n : Nat) (f : Nat → State → Res) : Res :=
  let h := homeOf s e
  if ea % n ≠ 0 then .trap s { cause := 2, addr := h.1 + ea }
  else if h.2 < ea + n then refuse s (whoIs e k) kd .unmapped (h.1 + ea) 0
  else withAccess s (whoIs e k) kd wr (h.1 + ea) n (f (h.1 + ea))

/-! ## The run of one instruction -/

/-- The instruction groups of R88. -/
inductive Grp where
  | alu | branch | fixed | near | far | pi | set | slot | sig | wait | msg | job | time | cfg | mer | sleep | sys | key
  | cnv | law | front
deriving DecidableEq, Repr

/-- The engine subsets (R88). -/
def inSubset (g : Grp) : Eng → Bool
  | .cyc _ => [.alu, .branch, .fixed, .near, .far, .pi, .slot, .sig, .wait, .msg, .job, .time, .cfg, .mer, .sys].contains g
  | .saf => [.alu, .branch, .fixed, .near, .far, .pi, .slot, .sig, .wait, .time, .cfg, .mer, .sys].contains g
  | .mgt => [.alu, .branch, .fixed, .near, .far, .pi, .sig, .wait, .msg, .job, .time, .cfg, .sleep, .sys, .key].contains g
  | .mgtJob => [.alu, .branch, .fixed, .near, .far, .pi, .sig, .wait, .msg, .job, .time, .cfg, .sleep, .sys, .key].contains g
  | .cle _ => [.alu, .branch, .fixed, .near, .pi, .sig, .time, .sys, .law].contains g
  | .asm => [.alu, .branch, .fixed, .near, .far, .pi, .set, .sig, .wait, .job, .time, .cfg, .sys, .front].contains g
  | .afe _ => [.alu, .branch, .near, .pi, .set, .sig, .time, .sys, .cnv].contains g

/-- What decoding knows of an instruction: its first word, its length in bytes, its group, and a reserved value or an odd
pair among its operands (R41, R45, R51). -/
structure Dec where
  word : Word
  len : Nat := 4
  grp : Grp
  bad : Bool := false
deriving DecidableEq, Repr

/-- The fetch of `len` bytes at the pc: an offset outside the home region is UNMAPPED, an uncorrectable word UNCORR, and
either traps FETCH (R62, R98). Whichever of the two words of an X instruction is refused, the first one's address is shown
(assumption 187). -/
def fetch (s : State) (e : Eng) (k len : Nat) (f : State → Res) : Res :=
  let h := homeOf s e
  let pc := (getCtx s k).pc.toNat
  let a := h.1 + pc
  let trapAt (c : Cause) (s : State) : Res := .trap s { cause := 4, resp := c.code, addr := a }
  if h.2 < pc + len then trapAt .unmapped (errorResp s (whoIs e k) .fetch .unmapped a 0)
  else match eccRead s a with
    | (s, false) => trapAt .uncorr (uncorrHook (errorResp s (whoIs e k) .fetch .uncorr a 0) a)
    | (s, true) =>
      if len = 4 then f s
      else match eccRead s (a + 4) with
        | (s, false) => trapAt .uncorr (uncorrHook (errorResp s (whoIs e k) .fetch .uncorr a 0) a)
        | (s, true) => f s

/-- The first word of an instruction as the trap record holds it: opcode, predicate, fields and reserved bits (R44, R89).
The word of a FETCH trap, which was not fetched, is the command's own as well (assumption 185). -/
def fullWord (h : Hdr) (d : Dec) : Word :=
  let w := d.word ||| Word.ofN (h.pr.toNat * 2 ^ 23) ||| h.rsv
  match h.op with
  | none => w
  | some o => w.setField 26 6 o.toNat

/-- The major opcode is reserved on the engine (R47, R48, R51); an opcode of the instruction's own is listed. -/
def reservedOpcode (h : Hdr) : Bool := match h.op with | none => false | some o => !opcodeListed h.eng o.toNat

/-- Bytes fetched for an instruction: a word with a reserved opcode has no second word (R44, R49). -/
def fetchLen (h : Hdr) (d : Dec) : Nat := if reservedOpcode h then 4 else d.len

/-- The general registers that an instruction of the plan subset reads or writes, by its first word (R45, R88). -/
def touched (w : Word) : List Nat :=
  let op := w.field 26 6
  let f := w.field 0 8
  let rd := w.field 18 5
  let ra := w.field 13 5
  let rb := w.field 8 5
  if op = 1 then (if (13 ≤ f ∧ f ≤ 15) ∨ f = 27 then [rd, ra] else [rd, ra, rb])
  else if op = 4 then [ra, rb]
  else if op = 5 then [rd, ra]
  else if op = 6 then (if f = 0 then [ra] else [rd, ra])
  else if 8 ≤ op ∧ op ≤ 15 then [rd, ra]
  else if 16 ≤ op ∧ op ≤ 23 then [rd]
  else if op = 25 then [31]
  else if 32 ≤ op ∧ op ≤ 41 then [rd, ra]
  else if op = 43 then [rd, ra, rb]
  else if op = 51 then [rd]
  else if op = 53 then (if f = 8 then [rd] else if f = 9 then [ra] else [])
  else if op = 56 then [rd, ra]
  else if op = 57 then [ra]
  else if op = 60 then [rd]
  else if op = 61 then [ra]
  else []

/-- A plan instruction that reads or writes the pair of an outstanding `cnv` waits for its result (R122). Pairs are even. -/
def waitsForResult (s : State) (e : Eng) (w : Word) : Bool :=
  match e with
  | .afe n =>
    let c := Tbl.get {} s.afe n.val
    ([c.run, c.next].filterMap id).any (fun x => !x.drop && (touched w).any (fun r => r / 2 == x.rd / 2))
  | _ => false

/-- One instruction in context `k`: fetch, decoding before the predicate test (R51), the predicate test (R50), the body.
The pc has moved to the next instruction before the body runs, which may move it again. -/
def instrRes (h : Hdr) (d : Dec) (k : Nat) (body : Nat → State → Res) (s : State) : Res :=
  fetch s h.eng k (fetchLen h d) fun s =>
    if reservedOpcode h || d.bad || h.rsv != 0 || !inSubset d.grp h.eng then .trap s { cause := 1 }
    else
      let c := getCtx s k
      let s' := setPc s k (c.pc + Word.ofN d.len)
      if rdP c h.pr then (if waitsForResult s h.eng d.word then .ok s else body k s') else .ok s'

/-- Runs one instruction on the engine of its header, or does nothing when that engine executes nothing (assumption 7). -/
def runInstr (h : Hdr) (d : Dec) (body : Nat → State → Res) (s : State) : State :=
  match engReady s h.eng with
  | none => s
  | some k =>
    let pc0 := (getCtx s k).pc
    match instrRes h d k body s with
    | .ok s' => s'
    | .trap s' t => takeTrap (setPc s' k pc0) h.eng k pc0 (fullWord h d) t

end Sys2Proof.Machine
end

