-- ==== Sys2Proof/Machine/Operands.lean ====
section
/-! DEFINITION. The operand forms: how the formats of R45 to R47 lay an instruction's fields out in its first word, and how
immediates are extended (R55). -/
namespace Sys2Proof.Machine

/-- A bit vector placed at bit `lo` of a word. -/
def at_ {n : Nat} (v : BitVec n) (lo : Nat) : Word := Word.ofN (v.toNat * 2 ^ lo)

/-- Format A (R45). -/
def encA (op : Nat) (rd ra rb : Reg) (func : Nat) : Word :=
  Word.ofN (op * 2 ^ 26 + func) ||| at_ rd 18 ||| at_ ra 13 ||| at_ rb 8

/-- Format I: the opcode's bit 26 is imm[13] (R45, R46). -/
def encI (op5 : Nat) (rd ra : Reg) (imm : BitVec 14) : Word :=
  Word.ofN (op5 * 2 ^ 27 + imm.toNat / 2 ^ 13 * 2 ^ 26 + imm.toNat % 2 ^ 13) ||| at_ rd 18 ||| at_ ra 13

/-- Format L: the opcode's bits [27:26] are imm[19:18] (R45, R46). -/
def encL (op4 : Nat) (rd : Reg) (imm : BitVec 20) : Word :=
  Word.ofN (op4 * 2 ^ 28 + imm.toNat / 2 ^ 18 * 2 ^ 26 + imm.toNat % 2 ^ 18) ||| at_ rd 18

/-- Format M (R45). -/
def encM (op : Nat) (rd rb : Reg) (x : Bool) (off : BitVec 12) : Word :=
  Word.ofN (op * 2 ^ 26 + bit x * 2 ^ 12) ||| at_ rd 18 ||| at_ rb 13 ||| at_ off 0

/-- Format B (R45). -/
def encB (op : Nat) (off : BitVec 20) : Word := Word.ofN (op * 2 ^ 26) ||| at_ off 0

/-- Format E (R45, R83). -/
def encE (sub : Nat) (r : Reg) (f : BitVec 16) : Word := Word.ofN (0b110100 * 2 ^ 26 + sub * 2 ^ 16) ||| at_ r 18 ||| at_ f 0

/-- Any other layout: opcode and fields given by their low bits. -/
def encF (op : Nat) (fields : List (Nat × Nat)) : Word :=
  fields.foldl (fun w e => w ||| Word.ofN (e.1 * 2 ^ e.2)) (Word.ofN (op * 2 ^ 26))

/-- Sign-extends an immediate or offset to 32 bits. -/
def sext {n : Nat} (v : BitVec n) : Word := v.signExtend 32

/-- Zero-extends an immediate to 32 bits. -/
def zext {n : Nat} (v : BitVec n) : Word := v.setWidth 32

/-- The effective offset of an M-format access: (rb + off × size) modulo 2^32 (R63, R68). -/
def effective (base : Word) (off : BitVec 12) (size : Nat) : Nat := (base + sext off * Word.ofN size).toNat

/-- A 40-bit address from a register pair; none when bits [31:8] of the high register are not zero (R65). -/
def farAddr (lo hi : Word) : Option Nat := if hi.toNat < 256 then some (hi.toNat * 2 ^ 32 + lo.toNat) else none

end Sys2Proof.Machine
end

