-- ==== Sys2Proof/Machine/Flags.lean ====
section
/-! DEFINITION. Saturation, rounding and the conditions that write predicates (R10, R53, R54, R57 to R61). -/
namespace Sys2Proof.Machine

/-- The least and greatest signed `n`-bit numbers. -/
def sMin (n : Nat) : Int := -(2 ^ (n - 1) : Nat)
def sMax (n : Nat) : Int := (2 ^ (n - 1) : Nat) - 1

/-- A number is outside the signed `n`-bit format. -/
def outOf (n : Nat) (x : Int) : Bool := x < sMin n || sMax n < x

/-- Saturates to the signed `n`-bit format (R10). -/
def clampS (n : Nat) (x : Int) : Int := if x < sMin n then sMin n else if sMax n < x then sMax n else x

/-- A number as a 32-bit word, saturated (R53, R57). -/
def satW (x : Int) : Word := BitVec.ofInt 32 (clampS 32 x)

/-- A rounding mode (R58). -/
inductive Mode where
  | floor | nearest | even | zero
deriving DecidableEq, Repr

/-- The rounding mode fields (R58). -/
def modeOf (m : BitVec 2) : Mode :=
  if m = 0 then .floor else if m = 1 then .nearest else if m = 2 then .even else .zero

/-- n / d rounded by a mode, for d > 0 (R10, R58). -/
def roundDiv (m : Mode) (n : Int) (d : Nat) : Int :=
  let q := n.fdiv d
  let r := n.fmod d
  match m with
  | .floor => q
  | .zero => if n < 0 ∧ r ≠ 0 then q + 1 else q
  | .nearest => if 2 * r > d ∨ (2 * r = d ∧ 0 ≤ n) then q + 1 else q
  | .even => if 2 * r > d ∨ (2 * r = d ∧ q.fmod 2 = 1) then q + 1 else q

/-- x shifted right by `sh` with the discarded bits rounded (R57 to R59). -/
def roundShift (m : Mode) (x : Int) (sh : Nat) : Int := roundDiv m x (2 ^ sh)

/-- A rational number rounded to nearest, ties away from zero (R10). -/
def roundQ (n : Int) (d : Nat) : Int := roundDiv .nearest n d

/-- The condition of `cmp` and `cmpi` (R61); values above 7 do not occur after decoding. -/
def condOf (func : BitVec 8) (a b : Word) : Bool :=
  if func = 0 then a == b
  else if func = 1 then a != b
  else if func = 2 then a.slt b
  else if func = 3 then !a.slt b
  else if func = 4 then a.ult b
  else if func = 5 then !a.ult b
  else if func = 6 then a &&& b != 0
  else a &&& b == 0

/-- The combine modes of a comparison (R61). -/
def combine (mode : BitVec 2) (old c : Bool) : Bool :=
  if mode = 0 then c else if mode = 1 then old && c else if mode = 2 then old || c else !c

/-- Signed division truncated towards zero, with the boundary cases of R54. -/
def divS (a b : Word) : Word :=
  if b = 0 then (if a.toInt < 0 then 0x80000000 else 0x7FFFFFFF)
  else satW (a.toInt.tdiv b.toInt)

/-- Signed remainder with the sign of ra (R53, R54). -/
def remS (a b : Word) : Word := if b = 0 then a else BitVec.ofInt 32 (a.toInt.tmod b.toInt)

/-- Unsigned division (R54). -/
def divU (a b : Word) : Word := if b = 0 then 0xFFFFFFFF else Word.ofN (a.toNat / b.toNat)

/-- Unsigned remainder (R54). -/
def remU (a b : Word) : Word := if b = 0 then a else Word.ofN (a.toNat % b.toNat)

/-- Leading zeros of a 32-bit word, 0 to 32 (R56). -/
def clz (a : Word) : Nat := if a = 0 then 32 else 31 - Nat.log2 a.toNat

/-- Trailing zeros, 0 to 32 (R56). -/
def ctz (a : Word) : Nat := ((List.range 32).find? (fun i => a.getLsbD i)).getD 32

/-- Ones (R56). -/
def popc (a : Word) : Nat := ((List.range 32).filter (fun i => a.getLsbD i)).length

/-- Bits in reverse order (R56). -/
def brev (a : Word) : Word := Word.ofN ((List.range 32).foldl (fun n i => 2 * n + bit (a.getLsbD i)) 0)

/-- Bytes in reverse order (R56). -/
def bswap (a : Word) : Word := Word.ofN (leNat ((leBytes 4 a.toNat).reverse))

/-- A field of `w` bits at `pos`, zero-extended (R56). -/
def bext (a : Word) (pos w : Nat) : Word := Word.ofN (a.field pos w)

/-- The same field, sign-extended (R56). -/
def bexts (a : Word) (pos w : Nat) : Word :=
  let v := a.field pos w
  if v < 2 ^ (w - 1) then Word.ofN v else BitVec.ofInt 32 ((v : Int) - (2 ^ w : Nat))

/-- `d` with the field replaced by the low bits of `a` (R56). -/
def bins (d a : Word) (pos w : Nat) : Word := d.setField pos w a.toNat

/-- An 80-bit accumulator value, saturated (R60). -/
def satAcc (x : Int) : Acc := BitVec.ofInt 80 (clampS 80 x)

end Sys2Proof.Machine
end

