-- ==== Sys2Proof/Machine/Exact.lean ====
section
/-! DEFINITION. Exact rational arithmetic and the formats into which results are rounded (R10, R230, R238). -/
namespace Sys2Proof.Machine

/-- The rational number n / d; d is kept positive. -/
structure Q where
  n : Int := 0
  d : Nat := 1
deriving DecidableEq, Repr

def Q.ofInt (n : Int) : Q := { n := n }
/-- w × 2^e. -/
def Q.scale (w e : Int) : Q := if 0 ≤ e then { n := w * (2 ^ e.toNat : Nat) } else { n := w, d := 2 ^ (-e).toNat }
def Q.add (a b : Q) : Q := if a.d = b.d then { n := a.n + b.n, d := a.d } else { n := a.n * b.d + b.n * a.d, d := a.d * b.d }
def Q.neg (a : Q) : Q := { a with n := -a.n }
def Q.sub (a b : Q) : Q := a.add b.neg
def Q.mul (a b : Q) : Q := { n := a.n * b.n, d := a.d * b.d }
/-- a / b; 0 when b is 0. -/
def Q.div (a b : Q) : Q :=
  if b.n = 0 then {} else if 0 < b.n then { n := a.n * b.d, d := a.d * b.n.toNat } else { n := -(a.n * b.d), d := a.d * (-b.n).toNat }
def Q.abs (a : Q) : Q := { a with n := a.n.natAbs }
def Q.le (a b : Q) : Bool := a.n * b.d ≤ b.n * a.d
def Q.lt (a b : Q) : Bool := a.n * b.d < b.n * a.d
def Q.eq (a b : Q) : Bool := a.n * b.d == b.n * a.d
def Q.max (a b : Q) : Q := if a.le b then b else a
def Q.min (a b : Q) : Q := if a.le b then a else b
def Q.sum (l : List Q) : Q := l.foldl add {}
/-- The nearest integer, ties away from zero (R10). -/
def Q.round (a : Q) : Int := roundQ a.n a.d
/-- a × 2^-e as the nearest integer: the word of a at exponent e, not yet saturated. -/
def Q.word (a : Q) (e : Int) : Int := round (a.mul (scale 1 (-e)))
/-- floor (log2 |a|), for a ≠ 0. -/
def Q.log2 (a : Q) : Int :=
  let k : Int := (Nat.log2 a.n.natAbs : Int) - (Nat.log2 a.d : Int)
  if (scale 1 k).le a.abs then k else k - 1
/-- The smallest f with |a| ≤ 2^(f + k), as a signed byte; 0 for a = 0 (R213, R230). -/
def Q.expFor (a : Q) (k : Int) : Int :=
  if a.n = 0 then 0
  else
    let l := a.log2
    let f := if (a.abs).le (scale 1 l) then l - k else l + 1 - k
    if f < -128 then -128 else if 127 < f then 127 else f

/-- Largest natural whose square is at most n, found bit by bit from bit `k`. -/
def isqrtFrom (n : Nat) : Nat → Nat → Nat
  | 0, r => r
  | k + 1, r => let t := r + 2 ^ k; isqrtFrom n k (if t * t ≤ n then t else r)

/-- floor (√n). -/
def isqrt (n : Nat) : Nat := isqrtFrom n (Nat.log2 n / 2 + 1) 0

/-- √(n / d) as the nearest integer. -/
def roundSqrt (n d : Nat) : Nat :=
  let r := isqrt (n / d)
  if (2 * r + 1) * (2 * r + 1) * d ≤ 4 * n then r + 1 else r

/-- √a × 2^-e as the nearest integer; 0 for a ≤ 0. -/
def Q.sqrtWord (a : Q) (e : Int) : Int :=
  if a.n ≤ 0 then 0
  else let b := a.mul (Q.scale 1 (-2 * e)); roundSqrt b.n.toNat b.d

/-- √a to 62 bits or more of its leading ones; 0 for a ≤ 0. -/
def Q.sqrtNear (a : Q) : Q := if a.n ≤ 0 then {} else let x := a.log2.fdiv 2 - 62; Q.scale (a.sqrtWord x) x

/-- Normalises a mantissa that rounding has carried to 2^31, and limits the exponent (R238). -/
def limitScalar (m x : Int) : Scalar :=
  let (m, x) := if m = 2 ^ 31 then (2 ^ 30, x + 1) else if m = -(2 ^ 31) then (-(2 ^ 30), x + 1) else (m, x)
  if m = 0 then {}
  else if 127 < x then { m := if m < 0 then -(2 ^ 31 - 1) else 2 ^ 31 - 1, x := 127 }
  else if x < -128 then {}
  else { m := m, x := x }

/-- The scalar nearest to a number (R238). -/
def Q.scalar (a : Q) : Scalar :=
  if a.n = 0 then {} else let x := a.log2 - 30; limitScalar (a.word x) x

/-- The scalar nearest to a square root (R238, R240). -/
def Q.sqrtScalar (a : Q) : Scalar :=
  if a.n ≤ 0 then {} else let x := a.log2.fdiv 2 - 30; limitScalar (a.sqrtWord x) x

/-- Value of a scalar register. -/
def Scalar.val (a : Scalar) : Q := Q.scale a.m a.x

end Sys2Proof.Machine
end

