-- ==== Sys2Proof/Machine/Afterglow.lean ====
section
/-! DEFINITION. The directory of Afterglow, the warm-start store (R256, R259). -/
namespace Sys2Proof.Machine

/-- Address of directory entry i (R256). -/
def agDir (i : Nat) : Nat := 0x0802800000 + 32 * i

/-- Entry i is valid; its class, fingerprint and store sequence. -/
def agValid (s : State) (i : Nat) : Bool := (memW s (agDir i)).tst 31
def agClass (s : State) (i : Nat) : Nat := (memW s (agDir i)).field 0 16
def agFp (s : State) (i : Nat) : Nat := (memW s (agDir i + 4)).toNat * 2 ^ 32 + (memW s (agDir i + 8)).toNat
def agSeqOf (s : State) (i : Nat) : Nat := (memW s (agDir i + 12)).toNat

/-- Pages of entry i, ascending. -/
def agPages (s : State) (i : Nat) : List Nat := (List.range 128).filter (fun p => (memW s (agDir i + 16 + 4 * (p / 32))).tst (p % 32))

/-- Pages that no valid entry uses. -/
def agFree (s : State) : List Nat :=
  let used := (List.range 16).flatMap (fun i => if agValid s i then agPages s i else [])
  ((List.range 128).drop 1).filter (fun p => !used.contains p)

/-- Shows AG_STATUS (R259). -/
def agShow (s : State) : State :=
  fSet s 0x16 0xE (Word.ofN (((List.range 16).filter (agValid s)).length * 2 ^ 16 + (agFree s).length * 2 ^ 8))

/-- Afterglow shows its records, and the store sequence goes on from the newest one held, its own or the twin's (R256, R257). -/
def agRefresh (s : State) : State :=
  let top := ((List.range 16).map (fun i => if agValid s i then agSeqOf s i else 0)).foldl max s.solv.agSeq
  agShow { s with solv := { s.solv with agSeq := top } }

end Sys2Proof.Machine
end

