-- ==== Sys2Proof/Machine/ProcImage.lean ====
section
/-! DEFINITION. The process image as instructions reach it: the plane rules, forces, write buffers and sets (R20, R68 to
R70, R321 to R326, R407). -/
namespace Sys2Proof.Machine

/-- The force on a word of the image, none when it carries none (R69). -/
def forceAt (s : State) (i : Nat) : Option Word :=
  match s.cyc.forces.find? (fun f => f.idx == i || (f.pair && f.idx + 1 == i)) with
  | some f => some (if f.idx = i then f.lo else f.hi)
  | none => none

/-- A word of a generation of the frozen input copy (R321). -/
def genWord (s : State) (g i : Nat) : Word :=
  match s.pi.gens.find? (fun x => x.1 == g) with
  | some x => Tbl.get 0 x.2 i
  | none => 0

/-- Number of the newest generation. -/
def curGen (s : State) : Nat := match s.pi.gens with | x :: _ => x.1 | [] => 0

/-- The write of word `i` that a cycle still holds unsealed (R324). -/
def ownWrite (b : List WEnt) (t i : Nat) : Option Word :=
  (b.find? (fun w => w.idx == i && w.task == t && w.sealedAt.isNone)).map (·.val)

/-- The generation that an engine reads: its task's or cycle's pinned one, or the newest (R68, R321, R403). -/
def readGen (s : State) (e : Eng) (k : Nat) : Nat :=
  match e with
  | .cyc n => (getTask s n.val (k % 16)).gen
  | .saf => s.saf.gen
  | .cle n => match slotOf s n.val with | some i => (getSlot s i).gen | none => curGen s
  | _ => curGen s

/-- The buffer and the tag of an engine's own output-area writes (R325, R392, R407). -/
def ownBuf (s : State) (e : Eng) (k : Nat) : List WEnt × Nat :=
  match e with
  | .cyc n => ((getCore s n.val).wbuf, k % 16)
  | .saf => (s.saf.wbuf, 0)
  | .cle _ => (s.cle.wbuf, k)
  | _ => ([], 0)

/-- A word of the published output area: a proposal where a data-plane set wrote it last (R21). -/
def areaWord (s : State) (i : Nat) : Word := match Tbl.find s.pi.prop i with | some v => v | none => Tbl.get 0 s.pi.pub i

/-- A word as `pi.rd` gives it: a force, then the engine's view of the area (R68, R69, R324). A data-plane engine reads the
live input copy and, in the output area, the published word (assumption 8). -/
def piWord (s : State) (e : Eng) (k i : Nat) : Word :=
  match forceAt s i with
  | some v => v
  | none =>
    if i < 0x20000 then
      if planeOf (unitOf e) = .data then Tbl.get 0 s.pi.live i else genWord s (readGen s e k) i
    else
      match ownWrite (ownBuf s e k).1 (ownBuf s e k).2 i with
      | some v => v
      | none => areaWord s i

/-- Records that the write buffer of a cycle core is full (R325). -/
def bufferFull (s : State) (n t : Nat) : State :=
  let s := raise (fSetBit s (4 + n) 0x00D 4 true) (64 + 16 * n + 2)
  if (getTask s n t).ovfRec then s
  else post (setTask s n t { getTask s n t with ovfRec := true }) (4 + n) 2 (64 + 16 * n + 2) []

/-- A buffer with a word written: the cycle's own entry for the word is replaced, or a new one taken (R325). -/
def bufWrite (b : List WEnt) (cap t i : Nat) (v : Word) : Option (List WEnt) :=
  if b.any (fun w => w.idx == i && w.task == t && w.sealedAt.isNone) then
    some (b.map (fun w => if w.idx == i && w.task == t && w.sealedAt.isNone then { w with val := v } else w))
  else if b.length < cap then some (b ++ [{ idx := i, val := v, task := t }]) else none

/-- A write of an output word by a control-plane engine (R68, R325, R407): none while the word is forced. -/
def piWriteCtl (s : State) (e : Eng) (k i : Nat) (v : Word) : State :=
  if (forceAt s i).isSome then s
  else match e with
    | .cyc n =>
      match bufWrite (getCore s n.val).wbuf 8192 (k % 16) i v with
      | some b => setCore s n.val { getCore s n.val with wbuf := b }
      | none => bufferFull s n.val (k % 16)
    | .saf =>
      match bufWrite s.saf.wbuf 1024 0 i v with
      | some b => { s with saf := { s.saf with wbuf := b } }
      | none =>
        let s' := { s with saf := { s.saf with ovf := true, ovfRec := true } }
        if s.saf.ovfRec then s' else post s' 0x0C 2 0x060F []
    | .cle _ =>
      match bufWrite s.cle.wbuf 1024 k i v with
      | some b => { s with cle := { s.cle with wbuf := b } }
      | none => raise (fSetBit s 0x10 0x013 0 true) 261
    | _ => s

/-- A write into the writer's open set: the live copy takes it at once, a freeze only after the set's end (R20, R70). A set is the
engine's own by being open on it; which words belong in it no field says (assumption 181). -/
def piWriteSet (s : State) (k i : Nat) (v : Word) : State :=
  { s with pi := { s.pi with
      live := Tbl.put 0 s.pi.live i v
      open_ := Tbl.ins s.pi.open_ k (Tbl.ins ((Tbl.find s.pi.open_ k).getD []) i v) } }

/-- Hardware delivers a whole set at once (R20): words from index `i`. -/
def deliverSet (s : State) (i : Nat) (ws : List Word) : State :=
  let s := eccSpan s (0x0200000000 + 4 * i) (4 * ws.length)
  let put (t : Tbl Word) : Tbl Word := (ws.zipIdx).foldl (fun t e => Tbl.put 0 t (i + e.2) e.1) t
  let lines := (List.range ws.length).map (fun k => (i + k) / 16)
  { s with pi := { s.pi with
      live := put s.pi.live, done := put s.pi.done, stnLines := s.pi.stnLines.filter (fun l => !lines.contains l) } }

/-- `pi.rd` at a byte offset of `n` words into rd (R68); also a far load from the image (assumption 8). -/
def piReadOp (e : Eng) (k : Nat) (rd : Reg) (off n : Nat) (s : State) : Res :=
  let a := 0x0200000000 + off
  if off % (4 * n) ≠ 0 then .trap s { cause := 2, addr := a }
  else if 0x100000 < off + 4 * n then refuse s (whoIs e k) .read .unmapped a 0
  else match eccRead s a with
    | (s, false) => .trap (uncorrHook (errorResp s (whoIs e k) .read .uncorr a 0) a) { cause := 3, resp := 5, addr := a }
    | (s, true) =>
      let s' := setReg s k rd (piWord s e k (off / 4))
      .ok (if n = 2 then setReg s' k (pairReg rd) (piWord s e k (off / 4 + 1)) else s')

/-- `pi.wr` at a byte offset of `n` words from r (R68, R70); also a far store to the image (assumption 8). -/
def piWriteOp (e : Eng) (k : Nat) (r : Reg) (off n : Nat) (s : State) : Res :=
  let a := 0x0200000000 + off
  let v0 := reg s k r
  let v1 := reg s k (pairReg r)
  if off % (4 * n) ≠ 0 then .trap s { cause := 2, addr := a }
  else if planeOf (unitOf e) = .data ∧ (Tbl.find s.pi.open_ k).isNone then .trap s { cause := 8 }
  else if 0x100000 < off + 4 * n then refuse s (whoIs e k) .write .unmapped a 0
  else match planeOf (unitOf e) with
    | .management => refuse s (whoIs e k) .write .wrongPlane a 0
    | .control =>
      if off < 0x80000 then refuse s (whoIs e k) .write .prot a 0
      else
        let s' := piWriteCtl s e k (off / 4) v0
        .ok (if n = 2 then piWriteCtl s' e k (off / 4 + 1) v1 else s')
    | .data =>
      let put (s : State) : Res :=
        let s' := piWriteSet s k (off / 4) v0
        .ok (if n = 2 then piWriteSet s' k (off / 4 + 1) v1 else s')
      if n = 2 then put (eccFresh s a)
      else match eccRead s a with
        | (s, false) => .trap (uncorrHook (errorResp s (whoIs e k) .write .uncorr a 0) a) { cause := 3, resp := 5, addr := a }
        | (s, true) => put s

/-- Reads a word or pair of the process image (R68). -/
def execPiRd (h : Hdr) (rd rb : Reg) (x : Bool) (off : BitVec 12) (s : State) : Out :=
  let n := if x then 2 else 1
  done s (runInstr h { word := encM 0b101000 rd rb x off, grp := .pi, bad := x && oddReg rd }
    (fun k s => piReadOp h.eng k rd (effective (reg s k rb) off (4 * n)) n s) s)

/-- Writes a word or pair of the process image (R68). -/
def execPiWr (h : Hdr) (rd rb : Reg) (x : Bool) (off : BitVec 12) (s : State) : Out :=
  let n := if x then 2 else 1
  done s (runInstr h { word := encM 0b101001 rd rb x off, grp := .pi, bad := x && oddReg rd }
    (fun k s => piWriteOp h.eng k rd (effective (reg s k rb) off (4 * n)) n s) s)

/-- `pi.sb` begins a set; an open one is abandoned with a notice, and its writes never enter a freeze (R70). -/
def execPiSb (h : Hdr) (s : State) : Out :=
  done s (runInstr h { word := encA 0b110101 0 0 0 6, grp := .set }
    (fun k s =>
      let s' := { s with pi := { s.pi with open_ := Tbl.ins s.pi.open_ k [] } }
      match Tbl.find s.pi.open_ k with
      | none => .ok s'
      | some _ =>
        .ok (post s' (unitOf h.eng) 1 0x0603
          ([(getCtx s k).pc - 4] ++ (match h.eng with | .afe n => [Word.ofN n.val] | _ => [])))) s)

/-- `pi.se` ends a set, which enters the next freeze whole; without an open set it traps SET_STATE (R20, R70). -/
def execPiSe (h : Hdr) (s : State) : Out :=
  done s (runInstr h { word := encA 0b110101 0 0 0 7, grp := .set }
    (fun k s =>
      match Tbl.find s.pi.open_ k with
      | none => .trap s { cause := 8 }
      | some ws =>
        .ok { s with pi := { s.pi with
          done := Tbl.paste 0 s.pi.done 0 ws, open_ := Tbl.del s.pi.open_ k
          stnLines := s.pi.stnLines.filter (fun l => !ws.any (fun e => e.1 / 16 == l)) } }) s)

end Sys2Proof.Machine
end

