-- ==== Sys2Proof/Machine/Net.lean ====
section
/-! DEFINITION. The field network (R428 to R440): ports, queues, the PRP pair, the management path and the sub-station
slots. A MAC address is a number whose byte 0 lies in bits [7:0] (R9). -/
namespace Sys2Proof.Machine

/-- Per-port field k of ETH_p (R450). -/
def portField (p k : Nat) : Nat := 0x100 + 16 * p + k

/-- NET runs its ports (R450), in a domain that is on and out of sleep (R430). -/
def netRuns (s : State) : Bool := unitOn s 0x18 && fBit s 0x18 1 0 && !s.pwr.asleep

/-- Port p is enabled and its link is up (R430). -/
def portUp (s : State) (p : Nat) : Bool :=
  netRuns s && fBit s 0x18 (portField p 0) 31 && fBit s 0x18 (portField p 3) 0

/-- ETH_0 and ETH_1 form the PRP pair (R434). -/
def prpOn (s : State) : Bool := fBit s 0x18 4 31

/-- MAC address of a port; both ports of the pair use MAC_0 (R434). -/
def portMac (s : State) (p : Nat) : Nat :=
  let q := if prpOn s && p == 1 then 0 else p
  (fGet s 0x18 (portField q 1)).toNat + 2 ^ 32 * fPart s 0x18 (portField q 2) 0 16

/-- The group addresses that a port accepts (R429). -/
def groupDst : List Nat := [0xFFFFFFFFFFFF, 0x000000191B01, 0x0E0000C28001, 0x0001004E1501]

/-- A port accepts the frame (R429). -/
def frameOk (s : State) (r : RxHdr) : Bool :=
  r.fcsOk && 64 ≤ r.len && r.len ≤ 1522 && r.tags ≤ 1 && r.ethertype != 0x8808 &&
    (r.dst.toNat == portMac s r.port.val || groupDst.contains r.dst.toNat)

/-- The duplicate table without the entries that PRP_FORGET_MS has passed (R434). -/
def prpFresh (s : State) : List PrpEnt :=
  s.net.prp.filter (fun e => s.clk.tick.toNat < e.tick + fPart s 0x18 5 0 16 * 100)

/-- The PRP pair's handling of a received frame: the wrong LAN is counted, a duplicate discarded (R434). -/
def prpRx (s : State) (r : RxHdr) : State × Bool :=
  match r.trailer with
  | none => (s, true)
  | some (seq, lanB) =>
    if !(prpOn s) || 2 ≤ r.port.val then (s, true)
    else
      let s := if lanB == (r.port.val == 1) then s else raise (fInc s 0x18 0x00E 16 16) 390
      let t := prpFresh s
      if t.any (fun e => e.src == r.src.toNat && e.seq == seq.toNat) then
        (fIncMod { s with net := { s.net with prp := t } } 0x18 0x00E 0 16, false)
      else
        let t := if t.length < 1024 then t else t.drop 1
        ({ s with net := { s.net with
            prp := t ++ [{ src := r.src.toNat, seq := seq.toNat, tick := s.clk.tick.toNat }] } }, true)

/-- A port receives a frame: true when it goes on to its queue (R429, R434). -/
def netRx (s : State) (r : RxHdr) : State × Bool :=
  let p := r.port.val
  if !portUp s p then (s, false)
  else if !frameOk s r then (fInc s 0x18 (portField p 5) 0 32, false)
  else prpRx (fInc s 0x18 (portField p 4) 0 32) r

/-- Where R431 sends a frame. -/
inductive RxClass where
  | supervision | ptp | ptpOther | report | station | witness | mgtVlan | other
deriving DecidableEq, Repr

/-- The queue table of R431; `kind` is the type byte of an EtherType 0x88B5 frame. -/
def rxClass (s : State) (r : RxHdr) (kind : Byte) : RxClass :=
  if r.ethertype = 0x88FB then .supervision
  else if r.ethertype = 0x88F7 then (if r.port.val = fPart s 0x19 2 16 2 then .ptp else .ptpOther)
  else if r.ethertype = 0x88B5 ∧ kind = 0x10 then .report
  else if r.ethertype = 0x88B5 ∧ 1 ≤ kind.toNat ∧ kind.toNat ≤ 3 then .station
  else if r.ethertype = 0x88B5 ∧ 0x20 ≤ kind.toNat ∧ kind.toNat ≤ 0x2F then .witness
  else if fBit s 0x18 6 30 ∧ r.vlan.toNat = fPart s 0x18 6 0 12 ∧ r.tags = 1 then .mgtVlan
  else .other

/-- A received frame whose plane quota is full (R433). -/
def quotaDrop (s : State) (p : Nat) : State := raise (fInc s 0x18 (portField p 6) 0 32) 388

/-- A received frame of a class that has a queue: true when its consumer takes it (R431, R433). -/
def rxTo (s : State) (r : RxHdr) (kind : Byte) (c : RxClass) (quotaFull : Bool) : State × Bool :=
  match netRx s r with
  | (s, false) => (s, false)
  | (s, true) =>
    if rxClass s r kind ≠ c then (s, false)
    else if quotaFull then (quotaDrop s r.port.val, false)
    else (s, true)

/-- A frame that ends in NET: not accepted (R429), of no queue (R431), or beyond its plane's quota (R433). A frame that its
consumer takes is that consumer's own command. -/
def execRxFrameDiscard (r : RxHdr) (kind : Byte) (quotaFull : Bool) (s : State) : Out :=
  done s (match netRx s r with
    | (s', false) => s'
    | (s', true) =>
      match rxClass s r kind with
      | .ptpOther => s'
      | .supervision => s
      | .other => fInc s' 0x18 (portField r.port.val 6) 0 32
      | _ => if quotaFull then quotaDrop s' r.port.val else s)

/-! ## Links -/

/-- A link comes up (R428, R430). -/
def execLinkUp (port : Fin 4) (s : State) : Out :=
  let p := port.val
  done s (if netRuns s && fBit s 0x18 (portField p 0) 31 && !portUp s p then
    raise (fSet s 0x18 (portField p 3) (if fBit s 0x18 (portField p 0) 30 then 7 else 3)) 384 else s)

/-- Discards and counts what waits for transmission on a port (R430). -/
def txFlush (s : State) (p : Nat) : State :=
  let n := ([0, 1, 2].map (fun q => ((Tbl.find s.net.txq (3 * p + q)).getD []).length)).sum
  let f := portField p 8
  let s := { s with net := { s.net with txq := s.net.txq.filter (fun e => e.1 / 3 != p), owed := s.net.owed.filter (fun e => e.1 / 3 != p) } }
  fSet s 0x18 f (Word.ofN (min full ((fGet s 0x18 f).toNat + n)))

/-- A link goes down (R430). -/
def linkDown (s : State) (p : Nat) : State := raisePost (txFlush (fSet s 0x18 (portField p 3) 0) p) 0x18 2 385 []

/-- A port whose link status says up but that does not run any more, or is disabled, has lost its link (R430, R450; assumption
178). -/
def portsSettle (s : State) : State :=
  (List.range 4).foldl (fun s p => if fBit s 0x18 (portField p 3) 0 && !portUp s p then linkDown s p else s) s

/-- RUN of NET was written: a stopped NET takes its pending set at once (R107, R450). -/
def netRunWrite (s : State) (v : Word) : State := if v.tst 0 then s else applyFields (portsSettle s) 0x18

/-- A link goes down (R430). -/
def execLinkDown (port : Fin 4) (s : State) : Out := done s (if portUp s port.val then linkDown s port.val else s)

/-! ## Transmission -/

/-- Offers a frame to one port's queue of the frame's plane; false when the queue is full (R432). -/
def txOne (s : State) (f : Frame) (p : Nat) : State × Bool :=
  let k := 3 * p + f.plane
  let q := (Tbl.find s.net.txq k).getD []
  if q.length < 256 then
    ({ s with net := { s.net with txq := Tbl.ins s.net.txq k (q ++ [{ f with ports := 2 ^ p }]) } }, true)
  else (raise (fInc s 0x18 (portField p 8) 0 32) 389, false)

/-- Offers a frame to its ports; on the pair both ports take it with one redundancy sequence, PTP excepted (R434). True
when some queue took it. -/
def txOffer (s : State) (f : Frame) : State × Bool :=
  if !unitOn s 0x18 then (s, false)
  else
    let pair := prpOn s && f.ports % 4 != 0 && f.kind != 0x88F7
    let ports := if pair then [0, 1] ++ (if (Word.ofN f.ports).tst 2 then [2] else []) ++ (if (Word.ofN f.ports).tst 3 then [3] else [])
      else [0, 1, 2, 3].filter (fun p => (Word.ofN f.ports).tst p)
    let f := if pair then { f with data := f.data ++ leBytes 2 s.net.prpSeq } else f
    let s := if pair then { s with net := { s.net with prpSeq := (s.net.prpSeq + 1) % 65536 } } else s
    ports.foldl (fun (s, ok) p => let (s, ok') := txOne s f p; (s, ok || ok')) (s, false)

/-- The frame that a port takes from a queue: the first PTP frame, else the oldest (R432). -/
def txPick (q : List Frame) : Option (Frame × List Frame) :=
  match q.find? (fun f => f.kind == 0x88F7) with
  | some f => some (f, q.erase f)
  | none => match q with | f :: t => some (f, t) | [] => none

/-- Bytes of the line that a frame takes, with preamble, gap and check sequence, at least 84 (R432; assumption 20). -/
def lineBytes (f : Frame) : Nat := max 84 (f.data.length + 38 + (if f.vlan = 0 then 0 else 4))

/-- Share of a plane's queue in percent (R432). -/
def share (s : State) (plane : Nat) : Nat := fPart s 0x18 2 (8 * plane) 8

/-- The queue of a plane at a port. -/
def txQueue (s : State) (port plane : Nat) : List Frame := (Tbl.find s.net.txq (3 * port + plane)).getD []

/-- What the line owes a queue once a frame of `n` bytes of another plane has been sent, in hundredths of a byte: the most by which the
queue's share of the line, over an interval during which it stayed non-empty, exceeds what it received (R432). -/
def owedAfter (s : State) (port plane n : Nat) : Nat := Tbl.get 0 s.net.owed (3 * port + plane) + share s plane * n

/-- The queue that a port serves when plane `p` is asked for (R18, R432): that one, unless the frame would leave another queue that waits
more than one frame of 1,542 bytes below its share; then the queue to which the line owes most. -/
def txServe (s : State) (port p : Nat) : Nat :=
  match txPick (txQueue s port p) with
  | none => p
  | some (f, _) =>
    let late := [0, 1, 2].filter (fun q => q != p && !(txQueue s port q).isEmpty && 154200 < owedAfter s port q (lineBytes f))
    late.foldl (fun a q => if a = p ∨ owedAfter s port a (lineBytes f) < owedAfter s port q (lineBytes f) then q else a) p

/-- What the line owes the three queues of a port after a frame of `n` bytes of plane `p`; an empty queue is owed nothing. -/
def owedNext (s : State) (port p n : Nat) : Tbl Nat :=
  [0, 1, 2].foldl (fun t q =>
    let left := (txQueue s port q).length - bit (q == p)
    Tbl.put 0 t (3 * port + q) (if left = 0 then 0 else owedAfter s port q n - (if q = p then 100 * n else 0))) s.net.owed

/-- A port sends the next frame of the plane queue that its round robin serves (R432): the queue that the command names, as long as every
queue receives its share of the line (assumption 20). -/
def execPortTransmit (port : Fin 4) (plane : Fin 3) (s : State) : Out :=
  let p := txServe s port.val plane.val
  let k := 3 * port.val + p
  done s (if !portUp s port.val || portMac s port.val == 0 then s
    else match txPick (txQueue s port.val p) with
      | none => s
      | some (f, q) =>
        let s := { s with net := { s.net with
          owed := owedNext s port.val p (lineBytes f)
          txq := if q.isEmpty then Tbl.del s.net.txq k else Tbl.ins s.net.txq k q, sent := some f } }
        fInc s 0x18 (portField port.val 7) 0 32)

/-- NET consumes a supervision frame; it keeps no node table (R431, R434). -/
def execPrpSupervisionRx (r : RxHdr) (s : State) : Out :=
  done s (if r.ethertype = 0x88FB then (netRx s r).1 else s)

/-- A supervision frame of the pair (R434), in the queue of NET's own plane (assumption 21). -/
def execPrpSupervisionTx (s : State) : Out :=
  done s (if netRuns s && prpOn s then
    (txOffer s { kind := 0x88FB, ports := 3, plane := 0, dst := 0x0001004E1501, data := leBytes 6 (portMac s 0) }).1 else s)

/-! ## Sub-station slots -/

/-- Address of slot n (R436). -/
def slotAddr (n : Nat) : Nat := 0x0300100000 + 0x200 * n

/-- State of a slot as NET holds it (R439). -/
def slotSt (s : State) (n : Nat) : SlotSt := Tbl.get {} s.net.slots n

/-- AGE_MS of a slot (R436). -/
def slotAge (s : State) (n : Nat) : Nat :=
  let a := (given s (slotAddr n + 8)).field 16 16
  if a = 0 then fPart s 0x18 8 0 16 else a

/-- The mirrored set of a slot (R440). -/
def slotMirror (s : State) (n : Nat) : State :=
  let w := fPart s 0x18 0xA 0 6
  if w = 0 ∨ fPart s 0x18 0xA 16 12 ≤ n then s
  else deliverSet s (fPart s 0x18 9 0 19 / 4 + n * (w + 1)) (given s (slotAddr n + 12) :: givenWords s (slotAddr n + 24) w)

/-- A slot changes its state: word 3, and the mirrored set (R439, R440). -/
def slotState (s : State) (n st : Nat) : State :=
  let s := { s with net := { s.net with slots := Tbl.put {} s.net.slots n { slotSt s n with state := st } } }
  slotMirror (hwW s 0x18 (slotAddr n + 12) ((given s (slotAddr n + 12)).setField 28 4 st)) n

/-- The ASM program has stored to words 0 to 2 of a slot: EN binds it or takes the binding away (R436, R439). -/
def slotRebind (s : State) (n : Nat) : State :=
  let en := (given s (slotAddr n)).tst 31
  if !en && (slotSt s n).state != 0 then slotState s n 0
  else if en && (slotSt s n).state == 0 then slotState s n 1
  else s

/-- The arrival port of a frame as a binding names it (R436). -/
def bindPort (s : State) (p : Nat) : Nat := if prpOn s ∧ p < 2 then 0 else p

/-- The slot is bound to the frame's source, VLAN ID and arrival port (R436, R438). -/
def slotBound (s : State) (n : Nat) (r : RxHdr) : Bool :=
  let w0 := given s (slotAddr n)
  w0.tst 31 && w0.tst (24 + bindPort s r.port.val) && w0.field 0 12 == r.vlan.toNat &&
    (given s (slotAddr n + 4)).toNat + 2 ^ 32 * (given s (slotAddr n + 8)).field 0 16 == r.src.toNat

/-- The report frame itself is valid (R437). -/
def reportValid (d : List Byte) : Bool :=
  let n := natAt d 6 1
  natAt d 0 1 == 0x10 && natAt d 1 1 == 1 && natAt d 2 2 < 2048 && 1 ≤ n && n ≤ 122 && natAt d 7 1 == 0 &&
    12 + 4 * n ≤ d.length && natAt d (8 + 4 * n) 4 == (crc32c (d.take (8 + 4 * n))).toNat

/-- A report is accepted (R438). -/
def reportOk (s : State) (r : RxHdr) (d : List Byte) : Bool :=
  let n := natAt d 2 2
  let st := (slotSt s n).state
  let step := (natAt d 4 2 + 65536 - (given s (slotAddr n + 12)).field 0 16) % 65536
  reportValid d && slotBound s n r && (st == 1 || st == 3 || (st == 2 && 1 ≤ step && step ≤ 32767))

/-- NET writes an accepted report, words 3 to 127, as one update (R436, R440). -/
def reportWrite (s : State) (d : List Byte) : State :=
  let n := natAt d 2 2
  let cnt := natAt d 6 1
  let old := (slotSt s n).state
  let w3 := Word.ofN (2 * 2 ^ 28 + cnt * 2 ^ 16 + natAt d 4 2)
  let words := w3 :: Word.ofN s.time.ns :: Word.ofN s.time.sec :: (List.range 122).map (fun i =>
    if i < cnt then wordAt (d.drop 8) i else 0)
  let s := hwWords s 0x18 (slotAddr n + 12) words
  let s := { s with net := { s.net with slots := Tbl.put {} s.net.slots n { state := 2, tick := s.clk.tick.toNat } } }
  let s := fInc (slotMirror s n) 0x18 0x00C 0 32
  if old = 2 then s else raise s 387

/-- A sub-station report (R437 to R440). -/
def execSubstationReport (r : RxHdr) (data : List Byte) (quotaFull : Bool) (s : State) : Out :=
  done s (match rxTo s r (data.headD 0) .report quotaFull with
    | (s, false) => s
    | (s, true) => if reportOk s r data then reportWrite s data else fInc s 0x18 0x00D 0 32)

/-- A slot's report becomes older than AGE_MS (R439): only then, counted on the timebase. -/
def execSlotStale (slot : Fin 2048) (s : State) : Out :=
  let n := slot.val
  done s (if unitOn s 0x18 && (slotSt s n).state == 2 && (slotSt s n).tick + slotAge s n * 100 < s.clk.tick.toNat then
    raisePost (slotState s n 3) 0x18 1 386 [] else s)

/-! ## The management path -/

/-- A frame of the management path reaches NET (R431, R435). -/
def mgtRx (s : State) (p : MgtPath) : State × Bool :=
  match p with
  | .mgtEth => (s, unitOn s 0x18 && !s.pwr.asleep && fBit s 0x18 1 0 && fBit s 0x18 6 31 && fBit s 0x18 0xF 0)
  | .field r => rxTo s r 0 .mgtVlan false

/-- MAC address with which a response leaves a path; that of MGT_ETH is not given (assumption 22). -/
def pathMac (s : State) : MgtPath → Nat
  | .mgtEth => Config.mgtMac.toNat
  | .field r => portMac s r.port.val

/-- A response leaves by the path and VLAN on which its request arrived (R435). -/
def mgtTx (s : State) (p : MgtPath) (kind dst : Nat) (data : List Byte) : State :=
  match p with
  | .mgtEth =>
    { s with net := { s.net with mgtOut := s.net.mgtOut ++ [{ kind := kind, ports := 16, plane := 2, dst := dst, data := data }] } }
  | .field r =>
    (txOffer s { kind := kind, ports := 2 ^ r.port.val, plane := 2, vlan := r.vlan.toNat, dst := dst, data := data }).1

/-- An IPv4 datagram in fragments of at most 1,500 bytes with their 20-byte headers (R435). -/
def mgtTxIp (s : State) (p : MgtPath) (dst : Nat) : Nat → List Byte → State
  | 0, _ => s
  | n + 1, d =>
    if d.length ≤ 1480 then mgtTx s p 0x0800 dst d
    else mgtTxIp (mgtTx s p 0x0800 dst (d.take 1480)) p dst n (d.drop 1480)

/-- Starts the list of frames that this command sends on MGT_ETH. -/
def clearOut (s : State) : State := { s with net := { s.net with mgtOut := [] } }

/-- The four bytes of an IPv4 address, first octet first (R450). -/
def ipBytes (a : Word) : List Byte := (leBytes 4 a.toNat).reverse

/-- NET answers an ARP request for MGT_IP (R435); while MGT_IP is 0 it answers nothing. -/
def execArpRequest (path : MgtPath) (senderMac : BitVec 48) (senderIp target : Word) (s : State) : Out :=
  done s (match mgtRx (clearOut s) path with
    | (s, false) => s
    | (s, true) =>
      if target = 0 ∨ target ≠ fGet s 0x18 7 then s
      else mgtTx s path 0x0806 senderMac.toNat
        ([0, 1, 8, 0, 6, 4, 0, 2] ++ leBytes 6 (pathMac s path) ++ ipBytes target ++ leBytes 6 senderMac.toNat ++ ipBytes senderIp))

/-- The Internet checksum's 16-bit words of a list of bytes, summed with end-around carry. -/
def sum16 : List Byte → Nat
  | [] => 0
  | [a] => a.toNat * 256
  | a :: b :: t => let n := a.toNat * 256 + b.toNat + sum16 t; n % 65536 + n / 65536

/-- NET answers an ICMP echo request for MGT_IP (R435): the identifier, sequence and data come back with type 0. -/
def execIcmpEcho (path : MgtPath) (senderMac : BitVec 48) (senderIp target : Word) (data : List Byte) (s : State) : Out :=
  done s (match mgtRx (clearOut s) path with
    | (s, false) => s
    | (s, true) =>
      if target = 0 ∨ target ≠ fGet s 0x18 7 then s
      else
        let c := 65535 - sum16 data
        mgtTxIp s path senderMac.toNat 8 (ipBytes target ++ ipBytes senderIp ++ [0, 0, BitVec.ofNat 8 (c / 256), BitVec.ofNat 8 c] ++ data))

/-- Number of a path in the reassembly table. -/
def pathNo : MgtPath → Nat
  | .mgtEth => 4
  | .field r => r.port.val

/-- The bytes of a reassembly from `ofs`, none while some are missing. -/
def reasmBytes (parts : List (Nat × List Byte)) (total : Nat) : Nat → Nat → Option (List Byte)
  | 0, ofs => if ofs = total then some [] else none
  | n + 1, ofs =>
    if ofs = total then some []
    else match parts.find? (fun p => p.1 == ofs && p.2.length != 0) with
      | some p => (reasmBytes parts total n (ofs + p.2.length)).map (p.2 ++ ·)
      | none => none

/-- A whole datagram: UDP to port 38,416 goes to the management link, everything else is discarded (R435). -/
def mgtDatagram (s : State) (proto : Nat) (d : List Byte) : State :=
  if proto = 17 ∧ natAt d 2 1 * 256 + natAt d 3 1 = 38416 then { s with net := { s.net with toMgt := d.drop 8 } } else s

/-- A fragment of an IPv4 datagram for MGT_IP: four reassemblies in progress at once, whole datagrams up to 4,184 bytes
(R435). A fragment of a fifth is discarded. -/
def execIpFragment (path : MgtPath) (senderIp target : Word) (ident : BitVec 16) (proto : Byte) (hdrLen offset : Nat)
    (more : Bool) (data : List Byte) (s : State) : Out :=
  done s (match mgtRx (clearOut s) path with
    | (s, false) => s
    | (s, true) =>
      if target = 0 ∨ target ≠ fGet s 0x18 7 then s
      else
        let same (x : Reasm) : Bool :=
          x.path == pathNo path && x.src == senderIp.toNat && x.ident == ident.toNat && x.proto == proto.toNat
        let others := s.net.reasm.filter (fun x => !same x)
        let x := (s.net.reasm.find? same).getD
          { path := pathNo path, src := senderIp.toNat, ident := ident.toNat, proto := proto.toNat, start := s.clk.tick.toNat }
        let x := { x with
          parts := x.parts.filter (fun p => p.1 != offset) ++ [(offset, data)]
          total := if more then x.total else some (offset + data.length)
          hdr := max x.hdr hdrLen }
        let keep (l : List Reasm) : State := { s with net := { s.net with reasm := l } }
        let size := max (x.total.getD 0) (offset + data.length)
        if 4184 < size + x.hdr then keep others
        else match x.total.bind (fun t => reasmBytes x.parts t (x.parts.length) 0) with
          | some d => mgtDatagram (keep others) proto.toNat d
          | none => if others.length < 4 then keep (others ++ [x]) else s)

/-- A reassembly ends after 1 s (R435). -/
def execReassemblyTimeout (idx : Fin 4) (s : State) : Out :=
  done s (match s.net.reasm[idx.val]? with
    | some x => if x.start + 100000 ≤ s.clk.tick.toNat then { s with net := { s.net with reasm := s.net.reasm.erase x } } else s
    | none => s)

end Sys2Proof.Machine
end

