-- ==== Sys2Proof/Machine/TimeUnit.lean ====
section
/-! DEFINITION. Network time, PTP and the servo (R441 to R449). A stamp or correction of a PTP message is an integer in
2^-16 ns, the unit of the correction field; offsets, the delay and the integral term are exact binary fractions. -/
namespace Sys2Proof.Machine

/-! ## Exact binary fractions -/

/-- The integer in units of 2^-e. -/
def Dy.at_ (a : Dy) (e : Nat) : Int := a.n * (2 ^ (e - a.e) : Nat)

def Dy.add (a b : Dy) : Dy := { n := a.at_ (max a.e b.e) + b.at_ (max a.e b.e), e := max a.e b.e }
def Dy.neg (a : Dy) : Dy := { a with n := -a.n }
def Dy.sub (a b : Dy) : Dy := a.add b.neg
def Dy.mul (a b : Dy) : Dy := { n := a.n * b.n, e := a.e + b.e }
/-- a / 2^k. -/
def Dy.shr (a : Dy) (k : Nat) : Dy := { a with e := a.e + k }
def Dy.int (n : Int) : Dy := { n := n }
def Dy.le (a b : Dy) : Bool := a.at_ (max a.e b.e) ≤ b.at_ (max a.e b.e)
def Dy.abs (a : Dy) : Dy := { a with n := a.n.natAbs }
def Dy.isNeg (a : Dy) : Bool := a.n < 0
/-- Clamps to -lim … lim. -/
def Dy.clamp (a lim : Dy) : Dy := if lim.le a then lim else if a.le lim.neg then lim.neg else a
/-- The integer nearest to a × k (R10). -/
def Dy.round (a : Dy) (k : Int) : Int := roundQ (a.n * k) (2 ^ a.e)

/-! ## Network time -/

/-- NTC in nanoseconds. -/
def ntcNs (s : State) : Nat := s.time.sec * 1000000000 + s.time.ns

/-- NTC [31:0], the stamp of R441. -/
def ntcStamp (s : State) : Word := Word.ofN (ntcNs s)

/-- Sets NTC; seconds are 48 bits (R441). -/
def setNtc48 (s : State) (x : Int) : State :=
  let m := (x % ((2 ^ 48 * 1000000000 * 2 ^ 48 : Nat) : Int)).toNat
  { s with time := { s.time with
      frac := m % 2 ^ 48, ns := m / 2 ^ 48 % 1000000000, sec := m / 2 ^ 48 / 1000000000 } }

/-- One step of the tick: 250 REF_CLK periods, each of 40 × (1 + rate) ns (R33, R441). Where the product has more bits than
the fraction carries, which way it is rounded is not given (assumption 23). -/
def ntcTick (s : State) : State :=
  let g := ntcGain s
  let s := { s with time := { s.time with stepped := none } }
  if g.2 then setNtc48 s (ntc48 s + 250 * g.1)
  else
    let (s, b) := freeB s
    setNtc48 s (ntc48 s + 250 * (g.1 + bit b))

/-- Sets the state of R448 and its copy in STATUS. -/
def timeState (s : State) (st : Nat) : State := fSetPart { s with time := { s.time with state := st, run := 0 } } 0x19 0x014 24 8 st

/-- LOCKED is left for TRACKING (R448). -/
def timeUnlock (s : State) : State := if s.time.state = 2 then raise (timeState s 1) 401 else s

/-- MTR samples (R143). -/
def mtrRuns (s : State) : Bool := unitOn s 0x12 && fBit s 0x12 1 0 && !s.pwr.asleep

/-- What a step of `d` units of 2^-48 ns means for the units that act at network-time multiples: the first multiple later than the
stepped time is next, and one that a backward step repeats occurs again (R145, R393, R449). Instants from which durations are counted
keep their distance to the present. -/
def stepUnits (s : State) (d : Int) : State :=
  let move (t : Nat) : Nat := ((t : Int) + roundQ d (2 ^ 48)).toNat
  { s with
    time := { s.time with stepped := some (ntc48 s), stepAcc := if s.mtr.sample.isSome then s.time.stepAcc + d else 0 }
    cle := { s.cle with zeroAt := [] }
    asm := { s.asm with lastDue := none }
    mtr := { s.mtr with
      bound := none, thLast := none, start := move s.mtr.start
      zx := s.mtr.zx.map (fun e => (e.1, { e.2 with last := e.2.last.map move, counted := e.2.counted.map move }))
      harmAt := s.mtr.harmAt.map (fun e => (e.1, move e.2))
      edge := s.mtr.edge.map (fun e => (e.1, e.2.1, move e.2.2)) } }

/-- Steps network time by `d` units of 2^-48 ns: event 402, the records of TIME and of MTR with the step's size in ns, its
low word first (R145, R449; assumption 24). -/
def timeStep (s : State) (d : Int) : State :=
  let s := stepUnits (setNtc48 s (ntc48 s + d)) d
  let s := timeUnlock (fInc s 0x19 0x014 0 16)
  let ns := (BitVec.ofInt 64 (roundQ d (2 ^ 48)))
  let size : List Word := [ns.setWidth 32, (ns >>> 32).setWidth 32]
  let s := raisePost s 0x19 1 402 size
  if mtrRuns s then post s 0x12 1 0x060A size else s

/-- The part of a tick that TIME takes: a written SET_GO, then the advance (R441, R443). -/
def timeTick (s : State) : State :=
  let s := ntcTick s
  if s.time.setDue then
    let sec := (fGet s 0x19 0x010).toNat + 2 ^ 32 * fPart s 0x19 0x011 0 16
    let d : Int := ((sec * 1000000000 + fPart s 0x19 0x012 0 30) * 2 ^ 48 : Nat) - (ntc48 s : Int)
    let s := { s with time := { s.time with setDue := false, setByGo := true } }
    raise (timeStep s d) 403
  else s

/-! ## The servo -/

/-- TIME runs PTP (R452), out of sleep (R448). -/
def ptpRuns (s : State) : Bool := fBit s 0x19 1 0 && !s.pwr.asleep

/-- RUN of TIME was written: 0 gives FREE, at the boundary (R107, R447, R448, R452). -/
def timeRunWrite (s : State) (v : Word) : State :=
  if v.tst 0 then s
  else
    let s := if s.time.state = 2 then raise s 401 else s
    let s := timeState { s with time := { s.time with master := none, masters := [], delay := none, syncDiff := none,
                                                      reqStamp := none, badDelay := false } } 0
    applyFields s 0x19

/-- The servo's limit in ppb (R447). -/
def rateLim (s : State) : Dy := Dy.int (fPart s 0x19 0x00D 0 10 * 1000)

/-- Sets the rate, in ppb, rounded to 0.001 ppb, and reports it (R447). -/
def setRate (s : State) (r : Dy) : State :=
  let x := r.round 1000
  let w := BitVec.ofInt 48 x
  let s := fSet (fSet s 0x19 0x00E (w.setWidth 32)) 0x19 0x00F ((w >>> 32).setWidth 32)
  { s with time := { s.time with rate := x } }

/-- LOCK_N consecutive offsets within, or beyond, LOCK_THR_NS enter or leave LOCKED (R448). -/
def lockCount (s : State) (o : Dy) : State :=
  let near := o.abs.le (Dy.int (fGet s 0x19 0x00B).toNat)
  let hit := if s.time.state = 2 then !near else near
  let n := if hit then s.time.run + 1 else 0
  let s := { s with time := { s.time with run := n } }
  if n < fPart s 0x19 0x00C 0 8 then s
  else if s.time.state = 2 then timeUnlock s
  else if s.time.state = 1 then raise (timeState s 2) 400
  else s

/-- One offset through the servo (R447, R448). At TIME's boundary, the end of the update, a pending set applies. -/
def servo (s : State) (o : Dy) : State :=
  let s := fSet s 0x19 0x015 (BitVec.ofInt 32 (clampS 32 (o.round 1)))
  let thr := (fGet s 0x19 0x00A).toNat
  let s :=
    if thr ≠ 0 ∧ !(o.abs.le (Dy.int thr)) then
      let s := timeStep s (-(o.round (2 ^ 48)))
      timeState s 1
    else
      let lim := rateLim s
      let k (f : Nat) : Dy := { n := (fGet s 0x19 f).toNat, e := 16 }
      let i := (s.time.integ.add ((k 9).mul o)).clamp lim
      let s := { s with time := { s.time with integ := i } }
      lockCount (setRate s (((k 8).mul o).add i).neg) o
  applyFields s 0x19

/-! ## PTP messages -/

/-- A stamp in 2^-16 ns as a fraction of a nanosecond. -/
def stampNs (t : Int) : Dy := { n := t, e := 16 }

/-- A signed correction part of TS_CORR_p (R445). -/
def tsCorr (s : State) (p lo : Nat) : Dy := Dy.int ((BitVec.ofNat 16 (fPart s 0x19 (4 + p) lo 16)).toInt)

/-- A PTP message reaches TIME (R431, R444). -/
def ptpRx (s : State) (r : RxHdr) : State × Bool :=
  match rxTo s r 0 .ptp false with
  | (s, ok) => (s, ok && ptpRuns s)

/-- The PTP port (R452). -/
def ptpPort (s : State) : Nat := fPart s 0x19 2 16 2

/-- The delay mechanism is E2E (R444). -/
def isE2e (s : State) : Bool := fPart s 0x19 2 8 2 == 0

/-- A PTP frame of TIME, in the data queue of its port (R432): message type, version, domain and sequence. -/
def ptpTx (s : State) (ty seq : Nat) : State :=
  (txOffer s { kind := 0x88F7, ports := 2 ^ ptpPort s, plane := 0, dst := if isE2e s then 0x000000191B01 else 0x0E0000C28001,
               data := leBytes 1 ty ++ leBytes 1 2 ++ leBytes 1 (fPart s 0x19 2 24 8) ++ leBytes 2 seq }).1

/-- One raw path delay: below 0 it is discarded and its Sync yields no offset, else it enters the filter (R446). -/
def delayRaw (s : State) (d : Dy) : State :=
  if d.isNeg then { s with time := { s.time with badDelay := true } }
  else
    let f := match s.time.delay with
      | none => d
      | some x => x.add ((d.sub x).shr (fPart s 0x19 0x00C 8 4))
    let s := { s with time := { s.time with delay := some f, badDelay := false } }
    fSet s 0x19 0x016 (BitVec.ofInt 32 (clampS 32 (f.round 1)))

/-- A Sync, with its Follow_Up when two-step, from the selected master: one offset through the servo (R446, R447). Without a
path delay yet there is no offset. -/
def execSyncRx (r : RxHdr) (domain : Byte) (sender : BitVec 64) (t1 t2 corr : Int) (s : State) : Out :=
  done s (match ptpRx s r with
    | (s, false) => s
    | (s, true) =>
      if domain.toNat ≠ fPart s 0x19 2 24 8 ∨ s.time.master ≠ some sender.toNat then s
      else
        let diff := (((stampNs t2).add (tsCorr s r.port.val 16)).sub (stampNs t1)).sub (stampNs corr)
        let s := { s with time := { s.time with syncDiff := some diff } }
        match s.time.delay with
        | none => s
        | some d =>
          if s.time.badDelay then { s with time := { s.time with badDelay := false } } else servo s (diff.sub d))

/-- Sends a delay request and keeps its corrected transmit stamp (R444, R445). -/
def sendReq (s : State) (ty : Nat) (t : Int) : State :=
  let seq := s.time.reqSeq
  let s := ptpTx s ty seq
  { s with time := { s.time with
      reqStamp := some (seq, (stampNs t).add (tsCorr s (ptpPort s) 0)), reqSeq := (seq + 1) % 65536 } }

/-- A Delay_Req is sent, E2E only, to a selected master (R444). -/
def execDelayReqTx (t3 : Int) (s : State) : Out :=
  done s (if ptpRuns s && netRuns s && isE2e s && s.time.master.isSome then sendReq s 1 t3 else s)

/-- Its Delay_Resp gives d_raw from t1 to t4 (R446). -/
def execDelayRespRx (r : RxHdr) (domain : Byte) (sender : BitVec 64) (seq : BitVec 16) (t4 corr : Int) (s : State) : Out :=
  done s (match ptpRx s r with
    | (s, false) => s
    | (s, true) =>
      match s.time.reqStamp, s.time.syncDiff with
      | some (q, t3), some diff =>
        if isE2e s ∧ q = seq.toNat ∧ domain.toNat = fPart s 0x19 2 24 8 ∧ s.time.master = some sender.toNat then
          let s := { s with time := { s.time with reqStamp := none } }
          delayRaw s ((diff.add (((stampNs t4).sub t3).sub (stampNs corr))).shr 1)
        else s
      | _, _ => s)

/-- A Pdelay_Req is sent, P2P only (R444). -/
def execPdelayReqTx (t1 : Int) (s : State) : Out :=
  done s (if ptpRuns s && netRuns s && !isE2e s then sendReq s 2 t1 else s)

/-- Every Pdelay_Req on the PTP port is answered, in two messages when PTP_OPT selects two-step (R444). -/
def execPdelayReqRx (r : RxHdr) (seq : BitVec 16) (s : State) : Out :=
  done s (match ptpRx s r with
    | (s, false) => s
    | (s, true) =>
      let s := ptpTx s 3 seq.toNat
      if fBit s 0x19 3 8 then ptpTx s 0xA seq.toNat else s)

/-- Its Pdelay_Resp, with the follow-up when two-step, gives d_raw of the neighbour (R446): `turn` is t3 - t2. -/
def execPdelayRespRx (r : RxHdr) (seq : BitVec 16) (turn t4 corr : Int) (s : State) : Out :=
  done s (match ptpRx s r with
    | (s, false) => s
    | (s, true) =>
      match s.time.reqStamp with
      | some (q, t1) =>
        if !isE2e s ∧ q = seq.toNat then
          let s := { s with time := { s.time with reqStamp := none } }
          let t4 := (stampNs t4).add (tsCorr s r.port.val 16)
          delayRaw s ((((t4.sub t1).sub (stampNs turn)).sub (stampNs corr)).shr 1)
        else s
      | none => s)

/-! ## Master selection -/

/-- The first number that differs decides; lower is better. -/
def lexBetter : List (Nat × Nat) → Option Bool
  | [] => none
  | (a, b) :: t => if a < b then some true else if b < a then some false else lexBetter t

/-- Data set comparison of IEEE 1588-2019 clause 9.3 (R444): the grandmasters' quality, then, for one grandmaster, the steps
removed and the sender (assumption 25). -/
def announceBetter (a b : Announce) : Bool :=
  if a.grandmaster ≠ b.grandmaster then
    (lexBetter [(a.priority1.toNat, b.priority1.toNat), (a.clockClass.toNat, b.clockClass.toNat),
      (a.accuracy.toNat, b.accuracy.toNat), (a.variance.toNat, b.variance.toNat), (a.priority2.toNat, b.priority2.toNat),
      (a.grandmaster.toNat, b.grandmaster.toNat)]).getD false
  else
    (lexBetter [(a.stepsRemoved.toNat, b.stepsRemoved.toNat), (a.sender.toNat, b.sender.toNat),
      (a.senderPort.toNat, b.senderPort.toNat)]).getD false

/-- Ticks in an announce interval. -/
def announceTicks (a : Announce) : Nat :=
  if 0 ≤ a.logInterval then 100000 * 2 ^ a.logInterval.toNat else 100000 / 2 ^ (-a.logInterval).toNat

/-- The best qualified foreign master: two Announce messages within four intervals qualify one (assumption 25). -/
def bestMaster (l : List Master) : Option Master :=
  l.foldl (fun b m => if m.count < 2 then b else match b with
    | none => some m
    | some x => if announceBetter m.ds x.ds then some m else some x) none

/-- Shows the selected master in MASTER and UTC_INFO (R444, R452). -/
def showMaster (s : State) (m : Announce) : State :=
  let b (k : Nat) : Nat := m.sender.toNat / 256 ^ (7 - k) % 256
  let s := fSet s 0x19 0x017 (Word.ofN (b 0 + b 1 * 256 + b 2 * 65536 + b 3 * 16777216))
  let s := fSet s 0x19 0x018 (Word.ofN (b 4 + b 5 * 256 + b 6 * 65536 + b 7 * 16777216))
  fSet s 0x19 0x019 (Word.ofN (bit m.ptpTimescale * 2 ^ 19 + bit m.leap59 * 2 ^ 18 + bit m.leap61 * 2 ^ 17 +
    bit m.utcValid * 2 ^ 16 + m.utcOffset.toNat))

/-- Selects the best master; a selection or change raises event 404 and starts tracking (R448). -/
def selectMaster (s : State) : State :=
  match bestMaster s.time.masters with
  | none => s
  | some m =>
    if s.time.master = some m.ds.sender.toNat then showMaster s m.ds
    else
      let s := { s with time := { s.time with
        master := some m.ds.sender.toNat, delay := none, syncDiff := none, reqStamp := none, badDelay := false } }
      let s := showMaster s m.ds
      let s := if s.time.state = 2 then raise s 401 else s
      raise (timeState s 1) 404

/-- An Announce message of the configured domain (R444): the table holds eight foreign masters, the one heard least recently
gives way. -/
def execAnnounceRx (r : RxHdr) (domain : Byte) (ds : Announce) (s : State) : Out :=
  done s (match ptpRx s r with
    | (s, false) => s
    | (s, true) =>
      if domain.toNat ≠ fPart s 0x19 2 24 8 then s
      else
        let now := s.clk.tick.toNat
        let isIt (m : Master) : Bool := m.ds.sender == ds.sender && m.ds.senderPort == ds.senderPort
        let old := s.time.masters.find? isIt
        let cnt := match old with | some m => if now ≤ m.tick + 4 * announceTicks ds then m.count + 1 else 1 | none => 1
        let rest := s.time.masters.filter (fun m => !isIt m)
        let rest := if rest.length < 8 then rest else rest.drop 1
        selectMaster { s with time := { s.time with masters := rest ++ [{ ds := ds, count := min cnt 2, tick := now }] } })

/-- The selected master has not been heard for announceReceiptTimeout intervals (R448): event 405, a record, and holdover at
-i when the servo was locked. Another qualified master is then selected. -/
def execAnnounceReceiptTimeout (s : State) : Out :=
  done s (match s.time.masters.find? (fun m => some m.ds.sender.toNat == s.time.master) with
    | none => s
    | some m =>
      if ptpRuns s && m.tick + fPart s 0x19 2 0 8 * announceTicks m.ds ≤ s.clk.tick.toNat then
        let s := raisePost s 0x19 2 405 []
        let s := { s with time := { s.time with master := none, masters := s.time.masters.erase m } }
        let s := if s.time.state = 2 then setRate (timeState (raise s 401) 3) s.time.integ.neg else s
        selectMaster s
      else s)

/-- Sleep stops PTP; on wake LOCKED becomes HOLDOVER (R448). -/
def timeWake (s : State) : State := if s.time.state = 2 then timeState (raise s 401) 3 else s

end Sys2Proof.Machine
end

