-- ==== Sys2Proof/Machine/Can.lean ====
section
/-! DEFINITION. The message bus controllers and the message instructions (R79, R454 to R473). -/
namespace Sys2Proof.Machine

/-- Controller c. -/
def getCan (s : State) (c : Nat) : Can := Tbl.get {} s.can c

/-- Replaces controller c. -/
def setCan (s : State) (c : Nat) (x : Can) : State := { s with can := Tbl.put {} s.can c x }

/-- Unit number of CAN_c (R29). -/
def canUnit (c : Nat) : Nat := 0x1A + c

/-- Address of buffer b; the urgent buffer is b = 128 (R458). -/
def canBuf (c b : Nat) : Nat := 0x0640000000 + c * 0x8000 + b * 0x80

/-- The controller's domain is on and it is out of sleep (R471). -/
def canOn (s : State) (c : Nat) : Bool := unitOn s (canUnit c) && !s.pwr.asleep

/-- State in STATUS: 0 stopped, 1 integrating, 2 error active, 3 error passive, 4 bus-off, 5 recovering (R472). -/
def canState (s : State) (c : Nat) : Nat := fPart s (canUnit c) 6 10 3

/-- Sets that state. -/
def setCanState (s : State) (c st : Nat) : State := fSetPart s (canUnit c) 6 10 3 st

/-- Listen-only mode (R469). -/
def canListen (s : State) (c : Nat) : Bool := fBit s (canUnit c) 2 1

/-- Buffer b is a transmit buffer (R458). -/
def isTxBuf (s : State) (c b : Nat) : Bool := fBit s (canUnit c) (8 + b / 32) (b % 32)

/-- Buffer b is pending (R460). -/
def txPending (s : State) (c b : Nat) : Bool := fBit s (canUnit c) (0xC + b / 32) (b % 32)

/-- Data bytes of a DLC (R459). -/
def dlcLen (fdf : Bool) (dlc : Nat) : Nat :=
  if dlc ≤ 8 then dlc
  else if !fdf then 8
  else [12, 16, 20, 24, 32, 48, 64].getD (dlc - 9) 64

/-! ## Records -/

/-- The data bytes as words 4 to 19 of a record, zero beyond the length (R459). -/
def dataWords (data : List Byte) (len : Nat) : List Word :=
  let d := data.take len
  (List.range 16).map (fun i => wordAt d i)

/-- The record of a received frame (R459). -/
def rxRecord (f : CanFrame) (data : List Byte) (stamp : Word) (outcome filter : Nat) : List Word :=
  let w1 := bit f.ide * 2 ^ 31 + bit f.rtr * 2 ^ 30 + bit f.fdf * 2 ^ 29 + bit f.brs * 2 ^ 28 + bit f.esi * 2 ^ 27 +
    f.dlc.toNat * 2 ^ 16 + outcome * 2 ^ 8 + filter
  [f.id.setWidth 32, Word.ofN w1, stamp, 0] ++ dataWords data (if f.rtr then 0 else dlcLen f.fdf f.dlc.toNat)

/-- A record given to `msg.send` keeps R459. -/
def sendRecordOk (ws : List Word) : Bool :=
  let w0 := ws.getD 0 0
  let w1 := ws.getD 1 0
  w0.field 29 3 == 0 && (w1.tst 31 || w0.field 11 18 == 0) && !(w1.tst 29 && w1.tst 30) && (w1.tst 29 || !w1.tst 28) &&
    w1.field 20 8 == 0 && w1.field 0 16 == 0 && ws.getD 2 0 == 0 && ws.getD 3 0 == 0

/-- A record's arbitration field as a number: the lower wins (ISO 11898-1, R466). -/
def arbKey (ws : List Word) : Nat :=
  let id := (ws.getD 0 0).field 0 29
  let w1 := ws.getD 1 0
  if w1.tst 31 then id / 2 ^ 18 * 2 ^ 21 + 3 * 2 ^ 19 + id % 2 ^ 18 * 2 + bit (w1.tst 30)
  else id % 2048 * 2 ^ 21 + bit (w1.tst 30) * 2 ^ 20

/-! ## Transmission -/

/-- A buffer's frame is finished: idle with its outcome, event 2 (R462, R466, R467). -/
def txFinish (s : State) (c b outcome : Nat) (stamp : Word) : State :=
  let a := canBuf c b
  let s := hwW (hwW s (canUnit c) (a + 4) ((memW s (a + 4)).setField 8 8 outcome)) (canUnit c) (a + 8) stamp
  let s := fSetBit s (canUnit c) (0xC + b / 32) (b % 32) false
  let s := setCan s c { getCan s c with outcome := b :: (getCan s c).outcome.filter (· != b) }
  raise s (416 + 16 * c + 2)

/-- Candidates of a selection: arbitration key, order among equals, and what is sent (R466). -/
def txCandidates (s : State) (c : Nat) : List (Nat × CanTx) :=
  ((List.range 128).filter (fun b => txPending s c b)).map (fun b => (arbKey (givenWords s (canBuf c b) 2), { buf := some b })) ++
  (if fBit s (canUnit c) 2 2 then (getCan s c).stq.map (fun q => (arbKey q.2, { station := q.1 })) else [])

/-- The candidate that wins arbitration; the first of equals (R466). -/
def txWinner (l : List (Nat × CanTx)) : Option (Nat × CanTx) :=
  l.foldl (fun b e => match b with | none => some e | some x => if e.1 < x.1 then some e else some x) none

/-- Selection before a start of frame (R466). -/
def execCanTxStart (c : Fin 8) (s : State) : Out :=
  let c := c.val
  done s (if canOn s c && s.clk.refClk && fBit s (canUnit c) 1 0 && (canState s c == 2 || canState s c == 3) && !canListen s c &&
      (getCan s c).active.isNone then
    match txWinner (txCandidates s c) with
    | some e => setCan s c { getCan s c with active := some e.2 }
    | none => s
  else s)

/-- The frame in progress is over; a controller whose RUN is 0 stops now and is at its boundary (R468). -/
def txOver (s : State) (c : Nat) : State :=
  let s := setCan s c { getCan s c with active := none }
  if fBit s (canUnit c) 1 0 then s else applyFields (setCanState s c 0) (canUnit c)

/-- Error state by the counters (R470). -/
def errorActive (s : State) (c : Nat) : State :=
  if canState s c = 3 ∧ (getCan s c).tec ≤ 127 ∧ (getCan s c).rec_ ≤ 127 then setCanState s c 2 else s

/-- Shows the counters in STATUS, saturating at 255, and the warning bit (R472). -/
def showCounters (s : State) (c : Nat) : State :=
  let x := getCan s c
  let s := fSetPart (fSetPart s (canUnit c) 6 24 8 (min 255 x.tec)) (canUnit c) 6 16 8 (min 255 x.rec_)
  fSetBit s (canUnit c) 6 9 (96 ≤ x.tec || 96 ≤ x.rec_)

/-- Sets both counters (R470): crossing 96 raises event 4. -/
def setCounters (s : State) (c tec rec_ : Nat) : State :=
  let x := getCan s c
  let s := showCounters (setCan s c { x with tec := tec, rec_ := rec_ }) c
  if (x.tec < 96 ∧ 96 ≤ tec) ∨ (x.rec_ < 96 ∧ 96 ≤ rec_) then raise s (416 + 16 * c + 4) else s

/-- The loop delay of an FD frame sent with BRS (R457); more than 127 mtq saturates. -/
def loopDelay (s : State) (c : Nat) (ws : List Word) (dly : Nat) : State :=
  if fBit s (canUnit c) 5 31 && (ws.getD 1 0).tst 29 && (ws.getD 1 0).tst 28 then
    fSetPart (fSetBit s (canUnit c) 6 7 (127 < dly)) (canUnit c) 6 0 7 (min 127 dly)
  else s

/-- The transmitted frame ends: completed without error (`won`), or arbitration lost (R466, R467). `stamp` is NTC at its start
of frame; `loopDly` the delay of the first edge that counts, above 127 when none returned (R457). -/
def execCanTxDone (c : Fin 8) (won : Bool) (stamp : Word) (loopDly : Nat) (s : State) : Out :=
  let c := c.val
  done s (match (getCan s c).active with
    | none => s
    | some t =>
      if !canOn s c then s
      else if !won then
        match t.buf with
        | some b => txOver (if t.cancel then txFinish s c b 0x11 0 else s) c
        | none => txOver s c
      else
        let s := setCounters s c ((getCan s c).tec - 1) (getCan s c).rec_
        let s := errorActive s c
        match t.buf with
        | some b =>
          let ws := givenWords s (canBuf c b) 2
          txOver (loopDelay (txFinish s c b 0x10 stamp) c ws loopDly) c
        | none =>
          let ws := (((getCan s c).stq.find? (fun q => q.1 == t.station)).map (·.2)).getD []
          let s := setCan s c { getCan s c with stq := (getCan s c).stq.filter (fun q => q.1 != t.station) }
          txOver (loopDelay (raise s (416 + 16 * c + 2)) c ws loopDly) c)

/-- TX_CANCEL_k was written (R467). -/
def txCancelWrite (s : State) (c k : Nat) (v : Word) : State :=
  (List.range 32).foldl (fun s i =>
    let b := 32 * k + i
    if !v.tst i || !txPending s c b then s
    else match (getCan s c).active with
      | some t =>
        if t.buf = some b then setCan s c { getCan s c with active := some { t with cancel := true } }
        else txFinish s c b 0x11 0
      | none => txFinish s c b 0x11 0) s

/-! ## Errors -/

/-- The error frame ends a transmission: the frame is retried, or cancelled when that was requested (R466, R467). -/
def txError (s : State) (c : Nat) : State :=
  match (getCan s c).active with
  | none => s
  | some t =>
    match t.buf with
    | some b => txOver (if t.cancel then txFinish s c b 0x11 0 else s) c
    | none => txOver s c

/-- An error on the bus: LEC, the counters, error passive and bus-off (R469, R470). -/
def canErrorOp (s : State) (c lec : Nat) (inc : CanInc) : State :=
  let s := fSetPart s (canUnit c) 6 13 3 lec
  if canListen s c then s
  else
    let x := getCan s c
    let tec := if inc = .tec8 then x.tec + 8 else x.tec
    let rec_ := if inc = .rec1 then min 255 (x.rec_ + 1) else if inc = .rec8 then min 255 (x.rec_ + 8) else x.rec_
    let s := setCounters s c tec rec_
    let s :=
      if canState s c = 2 ∧ (127 < tec ∨ 127 < rec_) then raisePost (setCanState s c 3) (canUnit c) 1 (416 + 16 * c + 5) []
      else s
    let s := txError s c
    if 255 < tec ∧ (canState s c = 2 ∨ canState s c = 3) then
      let s := raisePost (fInc (setCanState s c 4) (canUnit c) 0x01A 0 32) (canUnit c) 2 (416 + 16 * c + 6) []
      if fBit s (canUnit c) 2 0 then setCanState s c 5 else s
    else s

/-- A bus error and what ISO 11898-1 does to the counters for it (R470). -/
def execCanError (c : Fin 8) (lec : BitVec 3) (inc : CanInc) (s : State) : Out :=
  let st := canState s c.val
  done s (if canOn s c.val && (st == 2 || st == 3) && 1 ≤ lec.toNat && lec.toNat ≤ 6 then canErrorOp s c.val lec.toNat inc else s)

/-- Recovery ends after 128 idle sequences: counters cleared, event 7 (R470). -/
def execBusoffRecoveryDone (c : Fin 8) (s : State) : Out :=
  done s (if canOn s c.val && canState s c.val == 5 then
    raise (setCanState (setCounters s c.val 0 0) c.val 2) (416 + 16 * c.val + 7) else s)

/-- RECOVER was written with 1: recovery starts in bus-off (R470). -/
def recoverWrite (s : State) (c : Nat) (v : Word) : State :=
  if v.tst 0 && canState s c == 4 then setCanState s c 5 else s

/-- An integrating controller joins the bus; one whose counters still say bus-off goes back there (R468, R470). -/
def execCanBusJoin (c : Fin 8) (s : State) : Out :=
  let c := c.val
  let x := getCan s c
  done s (if canOn s c && canState s c == 1 then
    setCanState s c (if 255 < x.tec then (if fBit s (canUnit c) 2 0 then 5 else 4)
      else if 127 < x.tec ∨ 127 < x.rec_ then 3 else 2)
  else s)

/-- RUN was written: 1 integrates a stopped controller, 0 stops it after the frame in progress (R468). -/
def canRunWrite (s : State) (c : Nat) (v : Word) : State :=
  if v.tst 0 then (if canState s c = 0 then setCanState s c 1 else s)
  else if (getCan s c).active.isSome then s
  else applyFields (setCanState s c 0) (canUnit c)

/-- A frame in progress is abandoned and stays pending (R455, R471). -/
def canAbandon (s : State) (c : Nat) : State := setCan s c { getCan s c with active := none }

/-- On wake a running controller integrates (R471). -/
def canWake (s : State) (c : Nat) : State := if canState s c = 0 then s else setCanState s c 1

/-! ## Reception -/

/-- Filter field k of filter f. -/
def fltField (s : State) (c f k : Nat) : Word := fGet s (canUnit c) (0x100 + 4 * f + k)

/-- A filter takes a frame (R463). -/
def fltTakes (s : State) (c : Nat) (f : CanFrame) (n : Nat) : Bool :=
  let cfg := fltField s c n 2
  let id := fltField s c n 0
  cfg.tst 31 && id.tst 31 == f.ide && (cfg.field 27 2 == 0 || (cfg.field 27 2 == 1) == !f.fdf) &&
    ((f.id.toNat ^^^ id.field 0 29) &&& (fltField s c n 1).field 0 29) == 0

/-- The frame's identifier is the response identifier of an enabled CAN station on this controller (R362, R463). -/
def stationOf (s : State) (c : Nat) (f : CanFrame) : Bool :=
  s.stn.any (fun e => e.2.on && !(e.2.desc.getD 0 0).tst 31 && (e.2.desc.getD 0 0).field 28 3 == c &&
    (e.2.desc.getD 2 0).tst 31 == f.ide && (e.2.desc.getD 2 0).field 0 29 == f.id.toNat)

/-- The urgent buffer takes a frame: words 0 to 2 and 4 to 19, then the next sequence, event 1 (R465). -/
def urgentStore (s : State) (c : Nat) (ws : List Word) : State :=
  let a := canBuf c 128
  let q := given s (a + 12)
  let q := if q + 1 = 0 then 1 else q + 1
  raise (hwWords s (canUnit c) a (ws.set 3 q)) (416 + 16 * c + 1)

/-- A frame of a FIFO is lost (R464). -/
def fifoLost (s : State) (c first : Nat) : State :=
  let s := setCan s c { getCan s c with ovr := if (getCan s c).ovr.contains first then (getCan s c).ovr else first :: (getCan s c).ovr }
  raise (fInc s (canUnit c) 0x018 0 32) (416 + 16 * c + 3)

/-- The free buffer of a FIFO that takes a frame: which one of several is not given (assumption 26). -/
def freeBuf (s : State) (free : List Nat) : State × Option Nat :=
  match free with
  | [] => (s, none)
  | [b] => (s, some b)
  | l => let (s, w) := freeW s; (s, l[w.toNat % l.length]?)

/-- Stores a frame in the FIFO of a filter (R463, R464). -/
def fifoStore (s : State) (c n : Nat) (mk : Nat → Nat → List Word) : State :=
  let cfg := fltField s c n 2
  let first := cfg.field 0 7
  let bufs := (List.range (cfg.field 7 7 + 1)).map (· + first)
  let q := (Tbl.find (getCan s c).fifo first).getD []
  let store (s : State) (b : Nat) (q : List Nat) : State :=
    let s := hwWords s (canUnit c) (canBuf c b) (mk 0 n)
    let s := fSetBit s (canUnit c) (0x14 + b / 32) (b % 32) true
    raise (setCan s c { getCan s c with fifo := Tbl.ins (getCan s c).fifo first (q ++ [b]) }) (416 + 16 * c)
  match freeBuf s (bufs.filter (fun b => !q.contains b)) with
  | (s, some b) => store s b q
  | (s, none) =>
    if cfg.tst 29 then
      match q with
      | b :: q => store (fifoLost s c first) b q
      | [] => fifoLost s c first
    else fifoLost s c first

/-- A CAN station command that carries the active's epoch restarts the standby's watch without a witness (R364, R487). -/
def seenCommand (s : State) (c : Nat) (f : CanFrame) (data : List Byte) : State :=
  if natAt data 0 1 = 1 ∧ Word.ofN (natAt data 4 4) = s.twin.activeEp ∧
      s.stn.any (fun e => e.2.on && !(e.2.desc.getD 0 0).tst 31 && (e.2.desc.getD 0 0).field 28 3 == c &&
        (e.2.desc.getD 1 0).tst 31 == f.ide && (e.2.desc.getD 1 0).field 0 29 == f.id.toNat) then
    { s with twin := { s.twin with beaconUs := s.clk.tick.toNat * 10 } }
  else s

/-- A frame received without error (R463 to R465, R469, R470); with FD_EN = 0 a CAN FD frame is a form error (R454). `stamp`
is NTC at its start of frame. A station's response goes to STN, whose own command takes it. -/
def execCanRxFrame (c : Fin 8) (f : CanFrame) (data : List Byte) (stamp : Word) (s : State) : Out :=
  let c := c.val
  let st := canState s c
  done s (if !canOn s c || !(st == 2 || st == 3) || (!f.ide && 2048 ≤ f.id.toNat) || (f.fdf && f.rtr) || (!f.fdf && f.brs) then s
    else if f.fdf && !fBit s (canUnit c) 2 2 then canErrorOp s c 2 .rec1
    else
      let x := getCan s c
      let s :=
        if canListen s c then s
        else if x.rec_ ≤ 127 then setCounters s c x.tec (x.rec_ - 1)
        else let (s, w) := freeW s; setCounters s c x.tec (119 + w.toNat % 9)
      let s := seenCommand (errorActive s c) c f data
      if stationOf s c f then s
      else match (List.range 64).find? (fltTakes s c f) with
        | none => fInc s (canUnit c) 0x019 0 32
        | some n =>
          if (fltField s c n 2).tst 30 then urgentStore s c (rxRecord f data stamp 0 n)
          else fifoStore s c n (rxRecord f data stamp))

/-! ## The message instructions -/

/-- Reads `n` words of a record in the home region: an uncorrectable word traps as a load does. -/
def readRecord (s : State) (e : Eng) (k a n : Nat) (f : List Word → State → Res) : Res :=
  let rec go (s : State) : Nat → State × Option Nat
    | 0 => (s, none)
    | i + 1 =>
      match go s i with
      | (s, some b) => (s, some b)
      | (s, none) => match eccRead s (a + 4 * i) with
        | (s, true) => (s, none)
        | (s, false) => (s, some (a + 4 * i))
  match go s n with
  | (s, none) => f (memWords s a n) s
  | (s, some b) => .trap (uncorrHook (errorResp s (whoIs e k) .read .uncorr b 0) b) { cause := 3, resp := 5, addr := b }

/-- Writes a record into the home region: an uncorrectable word that it covers in part traps as a store does, and nothing is written
(R67, R97). -/
def writeRecord (s : State) (e : Eng) (k a : Nat) (bs : List Byte) (f : State → Res) : Res :=
  match edgeRead s (whoIs e k) a bs.length with
  | (s, []) => f (setBytes (eccSpan s a bs.length) a bs)
  | (s, x :: _) => .trap (uncorrHook s (8 * x)) { cause := 3, resp := 5, addr := 8 * x }

/-- What `msg.send` and `msg.recv` check before their target is used (R79): the record's alignment, the engine's plane, the record's
end. MGT therefore always receives WRONG_PLANE for an aligned record. A target has no address: the error response and the trap
record of one that is refused show 0 (assumption 188). -/
def recordAt (s : State) (e : Eng) (k : Nat) (kd tk : Kind) (ra : Reg) (n : Nat) (f : Nat → Res) : Res :=
  let h := homeOf s e
  let ea := (reg s k ra).toNat
  if ea % 4 ≠ 0 then .trap s { cause := 2, addr := h.1 + ea }
  else if planeOf (unitOf e) ≠ .control then refuse s (whoIs e k) tk .wrongPlane 0 0
  else if h.2 < ea + n then refuse s (whoIs e k) kd .unmapped (h.1 + ea) 0
  else f (h.1 + ea)

/-- The mailbox that a target names: bank t / 16, channel t mod 16, since targets follow the bank (R79, R313). -/
def mailbox (t : Nat) : Nat := t

/-- The bank whose mailboxes an engine may receive from (R79, R313). -/
def ownBank (s : State) (e : Eng) : Option Nat := match e with | .cyc n => some (coreBank s n.val) | _ => none

/-- The records of a mailbox. -/
def mail (s : State) (b : Nat) : List (List Byte) := (Tbl.find s.cyc.mail b).getD []

/-- Sets the records of a mailbox. -/
def setMail (s : State) (b : Nat) (l : List (List Byte)) : State :=
  { s with cyc := { s.cyc with mail := if l.isEmpty then Tbl.del s.cyc.mail b else Tbl.ins s.cyc.mail b l } }

/-- `msg.send` to a buffer of a controller (R460). -/
def canSend (s : State) (e : Eng) (k : Nat) (pd : PReg) (a c b : Nat) : Res :=
  if !unitOn s (canUnit c) then refuse s (whoIs e k) .write .domainOff (canBuf c b) 0
  else readRecord s e k a 20 fun ws s =>
    if !isTxBuf s c b || !sendRecordOk ws || ((ws.getD 1 0).tst 29 && !fBit s (canUnit c) 2 2) then
      refuse s (whoIs e k) .write .fieldValue (canBuf c b) 0
    else if txPending s c b || canListen s c then .ok (setPred s k pd false)
    else
      let s := hwWords s (canUnit c) (canBuf c b) ws
      let s := fSetBit s (canUnit c) (0xC + b / 32) (b % 32) true
      let s := setCan s c { getCan s c with outcome := (getCan s c).outcome.filter (· != b) }
      .ok (setPred s k pd true)

/-- `msg.recv` from a buffer of a controller (R461). -/
def canRecv (s : State) (e : Eng) (k : Nat) (pd : PReg) (a c b : Nat) : Res :=
  if !unitOn s (canUnit c) then refuse s (whoIs e k) .read .domainOff (canBuf c b) 0
  else
    let x := getCan s c
    if isTxBuf s c b then
      if txPending s c b || !x.outcome.contains b then .ok (setPred s k pd false)
      else
        readRecord s e k (canBuf c b) 20 fun ws s =>
          writeRecord s e k a (wordBytes ws) fun s =>
            .ok (setPred (setCan s c { getCan s c with outcome := x.outcome.filter (· != b) }) k pd true)
    else
      match (Tbl.find x.fifo b).getD [] with
      | [] => .ok (setPred s k pd false)
      | q :: t =>
        readRecord s e k (canBuf c q) 20 fun ws s =>
          writeRecord s e k a (wordBytes (ws.set 1 ((ws.getD 1 0).setField 8 8 (bit (x.ovr.contains b))))) fun s =>
            let s := fSetBit s (canUnit c) (0x14 + q / 32) (q % 32) false
            .ok (setPred (setCan s c { getCan s c with
              fifo := if t.isEmpty then Tbl.del x.fifo b else Tbl.ins x.fifo b t, ovr := x.ovr.filter (· != b) }) k pd true)

/-- A target that R79 lists: a mailbox, or a buffer of a controller. -/
def targetOk (t : Nat) : Bool := t < 0x80 || 0x400 ≤ t

/-- Sends a record to a mailbox or a CAN buffer (R79, R460). -/
def execMsgSend (h : Hdr) (pd : PReg) (ra : Reg) (target : BitVec 11) (s : State) : Out :=
  let t := target.toNat
  done s (runInstr h { word := encF 0b110001 [(pd.toNat, 20), (0, 19), (ra.toNat, 14), (t, 0)], grp := .msg, bad := !targetOk t }
    (fun k s =>
      recordAt s h.eng k .read .write ra (if t < 0x80 then 16 else 80) fun a =>
        if t < 0x80 then
          readRecord s h.eng k a 4 fun ws s =>
            let m := mailbox t
            let l := mail s m
            if 8 ≤ l.length then .ok (setPred s k pd false)
            else .ok (setPred (setMail s m (l ++ [wordBytes ws])) k pd true)
        else canSend s h.eng k pd a ((t - 0x400) / 128) ((t - 0x400) % 128)) s)

/-- Receives a record from the core's own mailbox or from a CAN buffer (R79, R461). -/
def execMsgRecv (h : Hdr) (pd : PReg) (ra : Reg) (target : BitVec 11) (s : State) : Out :=
  let t := target.toNat
  done s (runInstr h { word := encF 0b110001 [(pd.toNat, 20), (1, 19), (ra.toNat, 14), (t, 0)], grp := .msg, bad := !targetOk t }
    (fun k s =>
      recordAt s h.eng k .write .read ra (if t < 0x80 then 16 else 80) fun a =>
        if t < 0x80 then
          if ownBank s h.eng ≠ some (t / 16) then refuse s (whoIs h.eng k) .read .prot 0 0
          else match mail s (mailbox t) with
            | [] => .ok (setPred s k pd false)
            | r :: l => writeRecord s h.eng k a r fun s => .ok (setPred (setMail s (mailbox t) l) k pd true)
        else canRecv s h.eng k pd a ((t - 0x400) / 128) ((t - 0x400) % 128)) s)

end Sys2Proof.Machine
end

