-- ==== Sys2Proof/Machine/Twin.lean ====
section
/-! DEFINITION. Redundancy (R474 to R497): roles, the twin link, the copy at each Meridian, the lease, the witness exchange
and promotion. Instants are in µs of the timebase, which the model knows to one tick: where a deadline decides, the command
names the instant and the guard admits it from the tick that can hold it (assumption 27). -/
namespace Sys2Proof.Machine

/-! ## The lines of the copy -/

/-- First line key of an area (R481). -/
def areaKey (a : Nat) : Nat := a * 2 ^ 28

/-- Offset in a bank of the retained window of the core that runs it (R334). -/
def windowOfs (s : State) (l : Nat) : Nat :=
  let n := (s.cyc.bankOf.findIdx? (· == l)).getD l
  0x100000 - fPart s (4 + n) 0x009 0 7 * 0x1000

/-- Word `w` of line `k`, as entries of the flat word space in which line k holds words 16 k to 16 k + 15. -/
abbrev Flat := List (Nat × Word)

/-- Words of memory from a list of cells, by address / 4. -/
def cellWords (l : List Host.Cell) : Flat :=
  (((l.map (fun (c : Host.Cell) => c.1 / 4)).eraseDups)).map (fun i =>
    (i, Word.ofN ((l.filter (fun (c : Host.Cell) => c.1 / 4 == i)).foldl (fun n (c : Host.Cell) => n + c.2.toNat * 256 ^ (c.1 % 4)) 0)))

/-- Words of an address range, placed from line key `key`. -/
def rangeWords (s : State) (a len key : Nat) : Flat :=
  (cellWords (s.mem.cells.filter (fun (c : Host.Cell) => a ≤ c.1 && c.1 < a + len))).map (fun e => (key * 16 + (e.1 - a / 4), e.2))

/-- Words of the cluster's slots (area 3). Their layout is the model's (assumption 28): lines 0 to 63 hold the edges' previous
inputs and pending marks by bit, lines 64 on four timers each, lines 2,112 on eight counters each. -/
def slotWords (s : State) : Flat :=
  let k := areaKey 3 * 16
  let edgeBits (f : Edge → Bool) (base : Nat) : Flat :=
    let l := s.cyc.slots.edges.filter (fun e => f e.2)
    ((l.map (fun e => e.1 / 32)).eraseDups).map (fun i =>
      (k + base + i, Word.ofN ((l.filter (fun e => e.1 / 32 == i)).foldl (fun n e => n + 2 ^ (e.1 % 32)) 0)))
  edgeBits (·.prev) 0 ++ edgeBits (·.pending) 512 ++
  s.cyc.slots.timers.flatMap (fun e =>
    let b := k + 64 * 16 + 4 * e.1
    [(b, Word.ofN (if e.2.run then e.2.start else e.2.et)), (b + 1, Word.ofN e.2.pt),
     (b + 2, Word.ofN (bit e.2.q + 2 * bit e.2.run + 4 * bit e.2.prev)), (b + 3, Word.ofN (if e.2.run then e.2.start / 2 ^ 32 else 0))]) ++
  s.cyc.slots.counters.flatMap (fun e =>
    let b := k + 2112 * 16 + 2 * e.1
    [(b, e.2.cv), (b + 1, Word.ofN (bit e.2.prev))])

/-- Words of the force table (area 5), four per entry in the table's order, and their number in line 256 (assumption 28). -/
def forceWords (s : State) : Flat :=
  let k := areaKey 5 * 16
  (k + 4096, Word.ofN s.cyc.forces.length) ::
  (s.cyc.forces.zipIdx).flatMap (fun (f, i) =>
    [(k + 4 * i, Word.ofN (bit f.pair * 2 ^ 31 + f.bank * 2 ^ 20 + f.id)), (k + 4 * i + 1, Word.ofN f.idx), (k + 4 * i + 2, f.lo),
     (k + 4 * i + 3, f.hi)])

/-- Groups words into lines; a line of zeros is not listed. -/
def toLines (l : Flat) : Tbl (List Word) :=
  l.foldl (fun t e =>
    if e.2 = 0 then t
    else Tbl.ins t (e.1 / 16) (((Tbl.find t (e.1 / 16)).getD (List.replicate 16 0)).set (e.1 % 16) e.2)) []

/-- The lines of areas 0 to 5 as they stand (R481). -/
def twinLines (s : State) : Tbl (List Word) :=
  toLines
    (((s.pi.prop.foldl (fun t e => Tbl.put 0 t e.1 e.2) s.pi.pub).filter (fun e => 0x20000 ≤ e.1)).map (fun e => (e.1 - 0x20000, e.2)) ++
     (s.pi.done.filter (fun e => e.1 < 0x20000 && s.pi.stnLines.contains (e.1 / 16))).map (fun e => (areaKey 1 * 16 + e.1, e.2)) ++
     (List.range 8).flatMap (fun l =>
       rangeWords s (0x0100000000 + l * 0x100000 + windowOfs s l) (0x100000 - windowOfs s l)
         (areaKey 2 + (l * 0x100000 + windowOfs s l) / 64)) ++
     slotWords s ++
     (List.range 256).flatMap (fun n =>
       rangeWords s (0x0300000000 + 0x1000 * n + 0x40) 0x20 (areaKey 4 + 64 * n + 1) ++
       rangeWords s (0x0300000000 + 0x1000 * n + 0x4C0) 0x3FC (areaKey 4 + 64 * n + 0x13)) ++
     forceWords s)

/-- A line as it is sent: the timers of a slot line carry their elapsed time, not their start (R333). -/
def lineOut (s : State) (key : Nat) (ws : List Word) : List Word :=
  if areaKey 3 + 64 ≤ key ∧ key < areaKey 3 + 2112 then
    (List.range 4).flatMap (fun i =>
      let f := ws.getD (4 * i + 2) 0
      if f.tst 1 then
        let start := (ws.getD (4 * i) 0).toNat + 2 ^ 32 * (ws.getD (4 * i + 3) 0).toNat
        [Word.ofN (min (ws.getD (4 * i + 1) 0).toNat (s.clk.tick.toNat - start)), ws.getD (4 * i + 1) 0, f, 0]
      else [ws.getD (4 * i) 0, ws.getD (4 * i + 1) 0, f, 0])
  else ws

/-- Writes the words of a line at an address. -/
def lineAt (s : State) (a : Nat) (ws : List Word) : State := hwWords s 0x23 a ws

/-- Applies one timer of a received slot line. -/
def timerIn (s : State) (i : Nat) (ws : List Word) : State :=
  let f := ws.getD 2 0
  let run := f.tst 1
  let x : Timer :=
    { q := f.tst 0, run := run, prev := f.tst 2, pt := (ws.getD 1 0).toNat
      et := if run then 0 else (ws.getD 0 0).toNat
      start := if run then s.clk.tick.toNat - (ws.getD 0 0).toNat else 0 }
  { s with cyc := { s.cyc with slots := { s.cyc.slots with timers := Tbl.put {} s.cyc.slots.timers i x } } }

/-- Applies one received line of area 3. -/
def slotLineIn (s : State) (i : Nat) (ws : List Word) : State :=
  if i < 64 then
    (List.range 512).foldl (fun s b =>
      let v := (ws.getD (b / 32) 0).tst (b % 32)
      let k := (i % 32) * 512 + b
      let e := Tbl.get {} s.cyc.slots.edges k
      let e := if i < 32 then { e with prev := v } else { e with pending := v }
      { s with cyc := { s.cyc with slots := { s.cyc.slots with edges := Tbl.put {} s.cyc.slots.edges k e } } }) s
  else if i < 2112 then
    (List.range 4).foldl (fun s j => timerIn s ((i - 64) * 4 + j) (ws.drop (4 * j))) s
  else
    (List.range 8).foldl (fun s j =>
      let x : Counter := { cv := ws.getD (2 * j) 0, prev := (ws.getD (2 * j + 1) 0).tst 0 }
      { s with cyc := { s.cyc with slots := { s.cyc.slots with
          counters := Tbl.put {} s.cyc.slots.counters ((i - 2112) * 8 + j) x } } }) s

/-- The force table that the words of area 5 spell. -/
def forcesOf (t : Tbl (List Word)) : List Force :=
  let w (k : Nat) : Word := ((Tbl.find t (areaKey 5 + k / 16)).getD []).getD (k % 16) 0
  (List.range (min 1024 (w 4096).toNat)).map (fun i =>
    { bank := (w (4 * i)).field 20 3, id := (w (4 * i)).field 0 20, pair := (w (4 * i)).tst 31, idx := (w (4 * i + 1)).toNat
      lo := w (4 * i + 2), hi := w (4 * i + 3) })

/-- Applies one received line (R481, R482); the force table is applied as a whole by `applyLines`. -/
def lineIn (s : State) (key : Nat) (ws : List Word) : State :=
  let i := key % 2 ^ 28
  let put (base : Nat) (t : Tbl Word) : Tbl Word := (ws.zipIdx).foldl (fun t e => Tbl.put 0 t (base + 16 * i + e.2) e.1) t
  match key / 2 ^ 28 with
  | 0 =>
    let mine (e : Nat × Word) : Bool := 0x20000 + 16 * i ≤ e.1 && e.1 < 0x20000 + 16 * i + ws.length
    { s with pi := { s.pi with
      pub := put 0x20000 s.pi.pub
      prop := s.pi.prop.map (fun e => if mine e then (e.1, ws.getD (e.1 - 0x20000 - 16 * i) 0) else e) } }
  | 1 => { s with pi := { s.pi with
      live := put 0 s.pi.live, done := put 0 s.pi.done
      stnLines := if s.pi.stnLines.contains i then s.pi.stnLines else i :: s.pi.stnLines } }
  | 2 => lineAt s (0x0100000000 + 64 * i) ws
  | 3 => slotLineIn s i ws
  | 4 => if i % 64 = 1 then lineAt s (0x0300000000 + 64 * i) (ws.take 8) else lineAt s (0x0300000000 + 64 * i) ws
  | 9 => lineAt s (0x0800000000 + (fGet s 0x23 0x00C).toNat * 32 + 64 * i) ws
  | _ => s

/-- Applies lines all at once (R482). -/
def applyLines (s : State) (t : Tbl (List Word)) : State :=
  let s := t.foldl (fun s e => lineIn s e.1 e.2) s
  if t.any (fun e => e.1 / 2 ^ 28 == 5) then
    let cur := toLines (forceWords s)
    let all := t.foldl (fun c e => if e.1 / 2 ^ 28 = 5 then Tbl.ins c e.1 e.2 else c) cur
    { s with cyc := { s.cyc with forces := forcesOf all } }
  else s

/-! ## Roles and ZENITH_OUT -/

/-- µs of the timebase. -/
def usNow (s : State) : Nat := s.clk.tick.toNat * 10

/-- An instant at `us` can lie in the present tick or before it. -/
def usReached (s : State) (us : Nat) : Bool := us < usNow s + 10

/-- TWIN runs (R496). -/
def twinRuns (s : State) : Bool := fBit s 0x23 1 0 && !s.pwr.asleep

/-- The unit holds Zenith (R474). -/
def holdsZenith (s : State) : Bool := s.twin.role == .active || (s.twin.role == .single && fBit s 0x23 1 0)

/-- The cycle cores release no tasks (R494). -/
def follower (s : State) : Bool := s.twin.role == .standby || s.twin.role == .syncing || s.twin.role == .severed

/-- ROLE_CFG's bits (R496). -/
def witnessEn (s : State) : Bool := fBit s 0x23 2 10
def syncAuto (s : State) : Bool := fBit s 0x23 2 9
def soloHold (s : State) : Bool := fBit s 0x23 2 8
def roleCfg (s : State) : Nat := fPart s 0x23 2 0 2

/-- An epoch was seen (R496). -/
def seeEpoch (s : State) (e : Word) : State :=
  if s.twin.seen.toNat < e.toNat then { s with twin := { s.twin with seen := e } } else s

/-- A holder that learns of a higher epoch demotes at once (R493). -/
def learnEpoch (s : State) (e : Word) : State :=
  let s := seeEpoch s e
  if s.twin.role = .active ∧ s.twin.ep.toNat < e.toNat then twinDemote s 563 else s

/-- Hands frames to both lanes (R477). -/
def twinSend (s : State) (l : List LinkFrame) : State := { s with twin := { s.twin with tx := s.twin.tx ++ l } }

/-- Starts the list of frames that this command hands to the lanes. -/
def clearTx (s : State) : State := { s with twin := { s.twin with tx := [] } }

/-- RUN of TWIN was written, after `old` (R474, R488, R491, R496). -/
def twinRunWrite (s : State) (old v : Word) : State :=
  if !old.tst 0 && v.tst 0 then
    let role : Role := if roleCfg s = 0 then .single else if roleCfg s = 1 then .starting else .witness
    { s with twin := { s.twin with
        role := role, zenithOut := role == .single && s.twin.zinLow, startTick := s.clk.tick.toNat, heard := false
        watch := usNow s + fPart s 0x23 9 0 16 * 1000, ask := none, lapsed := false } }
  else if old.tst 0 && !v.tst 0 then
    let s := abdicate (clearTx s)
    applyFields { s with twin := { s.twin with zenithOut := false } } 0x23
  else s

/-- ZENITH_IN rises (R475). -/
def execZenithInRise (s : State) : Out :=
  done s (
    let s := { s with twin := { s.twin with zinLow := false } }
    if s.twin.zenithOut then
      let s := raisePost s 0x23 3 572 []
      if s.twin.solo then { s with twin := { s.twin with zenithOut := false } } else s
    else s)

/-- ZENITH_IN has been low for 1 µs: a holder may assert (R475). -/
def execZenithInLow (s : State) : Out :=
  done s { s with twin := { s.twin with zinLow := true, zenithOut := s.twin.zenithOut || (holdsZenith s && twinRuns s) } }

/-! ## The lanes and HELLO -/

/-- Lane state. -/
def laneUp (s : State) : Lane → Bool
  | .a => s.twin.laneA
  | .b => s.twin.laneB

def setLane (s : State) (l : Lane) (b : Bool) : State :=
  match l with
  | .a => { s with twin := { s.twin with laneA := b } }
  | .b => { s with twin := { s.twin with laneB := b } }

/-- No valid frame on a lane for 30 µs (R477). -/
def execLaneLoss (lane : Lane) (s : State) : Out :=
  done s (if laneUp s lane then raisePost (fInc (setLane s lane false) 0x23 0x016 0 8) 0x23 2 567 [] else s)

/-- A valid frame arrives again on a lost lane (R477). -/
def execLaneRegained (lane : Lane) (s : State) : Out :=
  done s (if laneUp s lane then s else raise (setLane s lane true) 568)

/-- Measurement of the image of a bank, zero without one (R479). -/
def bankMeas (s : State) (l : Nat) : Word :=
  match (Tbl.get {} s.cyc.banks l).image with | some i => i.meas | none => 0

/-- The words of an identity, byte 0 first (R15). -/
def idWords (x : BitVec 128) : List Word := (List.range 4).map (fun i => x.extractLsb' (32 * i) 32)

/-- The payload of a HELLO (R479). -/
def helloLines (s : State) : List (List Word) :=
  let cores := (List.range 8).flatMap (fun c => [9, 8, 5, 6, 7].map (fun f => fGet s (4 + c) f)) ++ List.replicate 8 0
  [idWords Config.identity ++ (List.range 8).map (bankMeas s) ++ List.replicate 4 0,
   cores.take 16, (cores.drop 16).take 16, cores.drop 32]

/-- A frame's DELTA: the time between a Meridian and a frame is not given (assumption 29). -/
def withDelta (s : State) (f : Word → LinkFrame) : State :=
  let (s, d) := freeW s
  twinSend s [f d]

/-- HELLO on both lanes every tick (R479). -/
def execHelloTx (s : State) : Out :=
  done s (
    let s := clearTx s
    if twinRuns s && roleCfg s == 1 then
      withDelta s (fun d => { ty := 1, ep := s.twin.ep, count := Word.ofN s.twin.count, delta := d, state := s.twin.role.code,
                              period := critPeriodUs s / 10, lines := helloLines s })
    else s)

/-- Puts a bank's image into it: contents up to Z, zero beyond (R338, R347). -/
def initBank (s : State) (l upTo : Nat) : State :=
  let u := match (Tbl.get {} s.cyc.banks l).image with
    | some i => i.content.filter (fun (c : Host.Cell) => c.1 < min i.z upTo)
    | none => []
  loadRange s (0x0100000000 + l * 0x100000) upTo u

/-- Steps 1 and 2 of a sync (R495): the HELLO check, then the banks take their images' initial values. -/
def syncStart (s : State) (f : LinkFrame) : State :=
  let mine := helloLines s
  let ok := f.period == critPeriodUs s / 10 && (f.lines.getD 0 []).drop 4 == (mine.getD 0 []).drop 4 && f.lines.drop 1 == mine.drop 1
  if ok then
    let s := (List.range 8).foldl (fun s l => initBank s l 0x100000) s
    let s := fSet s 0x23 0x014 0
    { s with twin := { s.twin with
        role := .syncing, gather := {}, bulkEnd := false, lapsed := false, ask := none, bgLines := [] } }
  else
    let s := { s with twin := { s.twin with role := .unsynced, ask := none } }
    if fBit s 0x23 0x014 31 then s else raisePost (fSetBit s 0x23 0x014 31 true) 0x23 2 570 []

/-- The ranges of the bulk copy, then the background areas (R481, R482, R495). -/
def bulkRanges (s : State) : List (Nat × Nat) :=
  [(areaKey 0, 8192)] ++ s.pi.stnLines.map (fun l => (areaKey 1 + l, 1)) ++
  (List.range 8).map (fun l => (areaKey 2 + (l * 0x100000 + windowOfs s l) / 64, (0x100000 - windowOfs s l) / 64)) ++
  [(areaKey 3, 3136)] ++ (List.range 256).flatMap (fun n => [(areaKey 4 + 64 * n + 1, 1), (areaKey 4 + 64 * n + 0x13, 16)]) ++
  [(areaKey 5, 257)]

def bgRanges (s : State) : List (Nat × Nat) :=
  (if fBit s 0x23 0x00B 31 then [(areaKey 8, 131072)] else []) ++
  (if fGet s 0x23 0x00D = 0 then [] else [(areaKey 9, ((fGet s 0x23 0x00D).toNat + 1) / 2)])

/-- Before step 3 of a Meridian: a COMPLETE copy that arrived whole applies all at once and is acknowledged; the first after
the bulk end makes the unit standby-ready (R482, R495). -/
def copyApply (s : State) : State :=
  match s.twin.gather.ready with
  | none => s
  | some (k, ep) =>
    if s.twin.role = .standby ∨ (s.twin.role = .syncing ∧ s.twin.bulkEnd) then
      let s := applyLines s s.twin.gather.whole
      let s := { s with twin := { s.twin with gather := { s.twin.gather with whole := [], ready := none } } }
      let s := fSetPart (fSet s 0x23 0x013 (Word.ofN k)) 0x23 0x00E 0 16 0
      let s := twinSend s [{ ty := 3, ep := ep, count := Word.ofN k }]
      if s.twin.role = .syncing then
        raisePost { s with twin := { s.twin with role := .standby } } 0x23 1 566 []
      else s
    else s

/-- Promotion (R489), on the last copy that arrived whole (R482; assumption 179): the new epoch, the lease, ZENITH_OUT, the cores' first causes, event 560 and its record. -/
def promote (s : State) (ep : Word) : State :=
  let s := copyApply (clearTx s)
  let us := usNow s
  let stood := follower s
  let cnt := fGet s 0x23 0x013
  let s := seeEpoch s ep
  let s := { s with twin := { s.twin with
    role := .active, ep := ep, epBkp := ep, zenithOut := s.twin.zinLow, solo := false, ask := none, lapsed := false
    lease := some (us + fPart s 0x23 3 0 16 + critPeriodUs s - fPart s 0x23 4 0 16)
    marks := [], count := 0, captured := [], backlog := [], bulk := [], peerSync := false, gather := {} } }
  let s := (List.range 8).foldl (fun s n =>
    (List.range 16).foldl (fun s t =>
      let k := getTask s n t
      if fBit s (4 + n) (taskField t 0) 31 then
        setTask s n t { k with causes := (3, 0) :: k.causes, prevRel := if stood then none else k.prevRel }
      else s) s) s
  raisePost (fInc s 0x23 0x016 24 8) 0x23 3 560 [ep, cnt]

/-- A unit number from the words of an identity. -/
def idOf (ws : List Word) : Nat := (ws.take 4).foldr (fun w n => w.toNat + 2 ^ 32 * n) 0

/-- A HELLO of the twin (R479, R491, R493, R495). -/
def execHelloRx (lane : Lane) (f : LinkFrame) (rttNs : Nat) (s : State) : Out :=
  done s (
    let s := clearTx s
    if !twinRuns s || roleCfg s ≠ 1 || f.ty ≠ 1 || !laneUp s lane then s
    else
      let s := fSet s 0x23 0x011 (Word.ofN (rttNs / 2))
      let s := learnEpoch s f.ep
      let s := { s with twin := { s.twin with heard := true } }
      let sync := f.state == 3
      let s :=
        if s.twin.role = .active ∧ sync ∧ !s.twin.peerSync then
          { s with twin := { s.twin with
              bulk := bulkRanges s ++ bgRanges s, bulkTotal := ((bulkRanges s).map (·.2)).sum } }
        else s
      let s := { s with twin := { s.twin with peerSync := sync } }
      if f.state = 5 then
        let s := { s with twin := { s.twin with activeEp := f.ep } }
        let s := if s.twin.role = .starting then { s with twin := { s.twin with role := .unsynced, ask := none } } else s
        if (s.twin.role = .unsynced ∨ s.twin.role = .demoted ∨ s.twin.role = .severed) ∧ syncAuto s then syncStart s f else s
      else if f.state = 1 ∧ s.twin.role = .starting ∧ !witnessEn s ∧
          Config.identity.toNat < idOf (f.lines.getD 0 []) then promote s (s.twin.seen + 1)
      else s)

/-! ## The copy -/

/-- Splits keys into runs of consecutive lines of one area, at most 32 each. -/
def lineRuns : List Nat → List (Nat × Nat)
  | [] => []
  | k :: t => match lineRuns t with
    | (a, n) :: r => if k + 1 = a ∧ n < 32 ∧ k / 2 ^ 28 = a / 2 ^ 28 then (k, n + 1) :: r else (k, 1) :: (a, n) :: r
    | [] => [(k, 1)]

/-- The sixteen words of a line, zeros when it is not listed. -/
def lineWords (t : Tbl (List Word)) (k : Nat) : List Word := (Tbl.find t k).getD (List.replicate 16 0)

/-- The frames that carry lines of a copy (R478). -/
def copyFrames (s : State) (t : Tbl (List Word)) (complete : Bool) (delta : Word) (keys : List Nat) : List LinkFrame :=
  let runs := lineRuns keys
  let n := runs.length
  let mk (last : Bool) (r : Nat × Nat) : LinkFrame :=
    { ty := 2, last := last, complete := last && complete, ep := s.twin.ep, count := Word.ofN s.twin.count, delta := delta
      area := r.1 / 2 ^ 28, first := r.1 % 2 ^ 28
      lines := (List.range r.2).map (fun i => lineOut s (r.1 + i) (lineWords t (r.1 + i))) }
  if n = 0 then [{ ty := 2, last := true, complete := complete, ep := s.twin.ep, count := Word.ofN s.twin.count, delta := delta }]
  else (runs.zipIdx).map (fun (r, i) => mk (i + 1 == n) r)

/-- Step 5 of a Meridian: the active captures the changed lines and sends the copy; lines held back go first, and the excess
over COPY_LINES is held back again (R480). -/
def twinCapture (s : State) : State :=
  if s.twin.role ≠ .active then s
  else
    let now := twinLines s
    let changed := ((now.filter (fun e => Tbl.find s.twin.captured e.1 != some e.2)).map (·.1)) ++
      ((s.twin.captured.filter (fun e => (Tbl.find now e.1).isNone)).map (·.1))
    let old := s.twin.backlog
    let new := (List.mergeSort changed (fun a b => decide (a ≤ b))).filter (fun k => !old.contains k)
    let all := old ++ new
    let lim := fPart s 0x23 0x00A 0 12
    let send := all.take lim
    let held := all.drop lim
    let (s, d) := freeW s
    let s := twinSend s (copyFrames s now held.isEmpty d send)
    let s := fSet s 0x23 0x012 (Word.ofN (min 65535 held.length * 2 ^ 16 + send.length))
    let s := fSet s 0x23 0x013 (Word.ofN s.twin.count)
    let first := !held.isEmpty && !s.twin.lagging
    let s := { s with twin := { s.twin with captured := now, backlog := held, lagging := !held.isEmpty } }
    if first then raise s 569 else s

/-- The whole of a received copy's bookkeeping: the standby's view of the Meridian's instant and its watch (R484, R487). -/
def copySeen (s : State) (f : LinkFrame) : State :=
  let sk := s.clk.tick.toNat * 10000 - (fGet s 0x23 0x011).toNat - f.delta.toNat * 40
  { s with twin := { s.twin with sk := sk, watch := sk / 1000 + 2 * critPeriodUs s } }

/-- A COPY frame is gathered (R478, R482); `whole` says that every frame of the copy has arrived. A COMPLETE copy before the bulk end
is gathered only (R495). -/
def execCopyRx (f : LinkFrame) (whole : Bool) (s : State) : Out :=
  done s (
    let s := clearTx s
    if !twinRuns s || f.ty ≠ 2 then s
    else
      let s := learnEpoch s f.ep
      if s.twin.role ≠ .standby ∧ s.twin.role ≠ .syncing then s
      else
        let s := { s with twin := { s.twin with activeEp := f.ep } }
        let k0 := f.area * 2 ^ 28 + f.first
        let lines := (f.lines.zipIdx).foldl (fun t e => Tbl.ins t (k0 + e.2) e.1) s.twin.gather.lines
        let g : Gather :=
          if f.last && f.complete && whole && (s.twin.role == .standby || s.twin.bulkEnd) then
            { whole := lines.foldl (fun t e => Tbl.ins t e.1 e.2) s.twin.gather.whole, ready := some (f.count.toNat, f.ep) }
          else { s.twin.gather with lines := lines }
        let s := { s with twin := { s.twin with gather := g } }
        if f.last then copySeen s f else s)

/-- The lines of a range as a BULK frame carries them; area 8 is Afterglow, in the top 8 MiB of solver memory. -/
def bulkLine (s : State) (t : Tbl (List Word)) (k : Nat) : List Word :=
  match k / 2 ^ 28 with
  | 8 => givenWords s (0x0802800000 + 64 * (k % 2 ^ 28)) 16
  | 9 => givenWords s (0x0800000000 + (fGet s 0x23 0x00C).toNat * 32 + 64 * (k % 2 ^ 28)) 16
  | _ => lineOut s k (lineWords t k)

/-- The active sends the next lines in a BULK frame, in link time that the copies leave free (R482); the last frame of the sync
carries LAST (assumption 30). -/
def execBulkTx (n : Fin 33) (s : State) : Out :=
  done s (
    let s := clearTx s
    if !twinRuns s || s.twin.role ≠ .active || n.val = 0 then s
    else match s.twin.bulk with
      | [] => s
      | (k, c) :: rest =>
        let m := min n.val c
        let rest := if m < c then (k + m, c - m) :: rest else rest
        let isSync (e : Nat × Nat) : Bool := e.1 / 2 ^ 28 < 8
        let t := twinLines s
        let last := isSync (k, c) && !rest.any isSync
        let f : LinkFrame := { ty := 4, last := last, ep := s.twin.ep, count := Word.ofN s.twin.count, area := k / 2 ^ 28,
                               first := k % 2 ^ 28, lines := (List.range m).map (fun i => bulkLine s t (k + i)) }
        let left := ((rest.filter isSync).map (·.2)).sum
        let s := fSetPart s 0x23 0x014 0 8 (if s.twin.bulkTotal = 0 then 100 else 100 - 100 * left / s.twin.bulkTotal)
        let rest := if rest.isEmpty then bgRanges s else rest
        twinSend { s with twin := { s.twin with bulk := rest } } [f])

/-- A BULK frame (R482, R495): sync lines apply while SYNCING; a background line of solver memory applies as it comes; lines
of Afterglow wait until the record they belong to is whole, which the frame that carries LAST closes (assumption 30). -/
def execBulkRx (f : LinkFrame) (s : State) : Out :=
  done s (
    let s := clearTx s
    if !twinRuns s || f.ty ≠ 4 then s
    else
      let s := learnEpoch s f.ep
      let k0 := f.area * 2 ^ 28 + f.first
      let t : Tbl (List Word) := (f.lines.zipIdx).map (fun e => (k0 + e.2, e.1))
      if f.area < 8 ∧ s.twin.role = .syncing then
        let s := applyLines s t
        if f.last then fSetPart { s with twin := { s.twin with bulkEnd := true } } 0x23 0x014 0 8 100 else s
      else if f.area = 8 ∧ (s.twin.role = .standby ∨ s.twin.role = .syncing) then
        let held := t.foldl (fun c e => Tbl.ins c e.1 e.2) s.twin.bgLines
        if f.last then
          let s := held.foldl (fun s e => hwWords s 0x16 (0x0802800000 + 64 * (e.1 % 2 ^ 28)) e.2) s
          agRefresh { s with twin := { s.twin with bgLines := [] } }
        else { s with twin := { s.twin with bgLines := held } }
      else if f.area = 9 ∧ (s.twin.role = .standby ∨ s.twin.role = .syncing) then applyLines s t
      else s)

/-! ## The lease -/

/-- Renews the lease to the deadline of Meridian k, unless the present one has come: at the same instant the deadline decides (R6,
R483). -/
def renew (s : State) (m : LeaseMark) : State :=
  match s.twin.lease with
  | some d =>
    if d ≤ usNow s && !s.twin.solo then s
    else
      let e := m.us + fPart s 0x23 3 0 16 + critPeriodUs s - fPart s 0x23 4 0 16
      { s with twin := { s.twin with lease := some (max d e), solo := if usNow s < e then false else s.twin.solo } }
  | none => s

/-- The twin acknowledges a COMPLETE copy (R479, R483). -/
def execCopyAckRx (f : LinkFrame) (s : State) : Out :=
  done s (
    let s := clearTx s
    if !twinRuns s || f.ty ≠ 3 then s
    else
      let s := learnEpoch s f.ep
      if s.twin.role = .active ∧ f.ep = s.twin.ep then
        match s.twin.marks.find? (fun m => m.count == f.count.toNat) with
        | some m => renew s m
        | none => s
      else s)

/-- The lease deadline passes: demotion, or, under SOLO_HOLD, holding without renewal (R483, R492). -/
def execLeaseExpiry (s : State) : Out :=
  done s (match s.twin.lease with
    | some d =>
      if s.twin.role = .active ∧ usReached s d then
        if soloHold s then
          if s.twin.solo then s else post { s with twin := { s.twin with solo := true } } 0x23 3 0x060F []
        else twinDemote s 561
      else s
    | none => s)

/-! ## The witness exchange -/

/-- A witness frame's 32 bytes (R485). -/
def witBytes (ty : Nat) (w : WitFrame) : List Byte :=
  let b := leBytes 1 ty ++ leBytes 1 w.reason ++ leBytes 2 w.seq ++ leBytes 4 w.ep.toNat ++ leBytes 4 w.arg.toNat ++ leBytes 16 w.id.toNat
  b ++ leBytes 4 (crc32c b).toNat

/-- Sends a witness frame to WIT_MAC on each port of WIT_PATH (R485). -/
def witSend (s : State) (ty : Nat) (w : WitFrame) : State :=
  (txOffer s { kind := 0x88B5, ports := fPart s 0x23 8 24 4, plane := 2, vlan := fPart s 0x23 8 0 12
               dst := (fGet s 0x23 6).toNat + 2 ^ 32 * fPart s 0x23 7 0 16, data := witBytes ty w }).1

/-- Takes the next witness sequence. -/
def nextWitSeq (s : State) : State × Nat :=
  ({ s with twin := { s.twin with witSeq := (s.twin.witSeq + 1) % 65536 } }, s.twin.witSeq)

/-- Ports that serve an Ethernet station (R362, R485). -/
def stationPorts (s : State) : Nat :=
  (List.range 4).foldl (fun n p =>
    n + bit (s.stn.any (fun e => e.2.on && (e.2.desc.getD 0 0).tst 31 &&
      (if (e.2.desc.getD 0 0).tst 30 then p < 2 else (e.2.desc.getD 0 0).field 28 2 == p))) * 2 ^ p) 0

/-- Step 6 of a Meridian: the active's heartbeat, or its beacon without a witness, and the mark that an acknowledgement names
(R483, R485). `us` is the Meridian's instant. -/
def heartbeat (s : State) (us : Nat) : State :=
  if s.twin.role ≠ .active then s
  else
    let (s, q) := nextWitSeq s
    let w : WitFrame := { seq := q, ep := s.twin.ep, arg := Word.ofN s.twin.count, id := Config.identity }
    let keep := s.twin.marks.filter (fun m => usNow s < m.us + fPart s 0x23 3 0 16 + critPeriodUs s)
    let s := { s with twin := { s.twin with marks := { count := s.twin.count, seq := q, us := us } :: keep } }
    if witnessEn s then witSend s 0x20 w
    else (txOffer s { kind := 0x88B5, ports := stationPorts s, plane := 2, dst := 0xFFFFFFFFFFFF, data := witBytes 0x25 w }).1

/-- Sends a GRANT_REQ with epoch EPOCH_SEEN + 1 and gap 2P, and waits (R485, R487). -/
def sendAsk (s : State) : State :=
  let (s, q) := nextWitSeq s
  let ep := s.twin.seen + 1
  let s := { s with twin := { s.twin with
    ask := some { seq := q, ep := ep, us := usNow s }, watch := usNow s + 2 * critPeriodUs s } }
  witSend s 0x22 { seq := q, ep := ep, arg := Word.ofN (2 * critPeriodUs s), id := Config.identity }

/-- The standby's watch expires (R487, R492). -/
def execStandbyWatchExpiry (s : State) : Out :=
  done s (
    if !twinRuns s || s.twin.role ≠ .standby || !usReached s s.twin.watch || s.twin.ask.isSome then s
    else if witnessEn s then sendAsk s
    else if usReached s (s.twin.beaconUs + 2 * critPeriodUs s) then promote s (s.twin.seen + 1)
    else s)

/-- A unit demoted by lease lapse asks the witness every 2P (R492, R493). -/
def execDemotedWitnessRequest (s : State) : Out :=
  done s (if twinRuns s && s.twin.role == .demoted && s.twin.lapsed && witnessEn s && usReached s s.twin.watch && s.twin.ask.isNone
    then sendAsk s else s)

/-- START_WAIT_MS passes in STARTING (R491): the witness is asked, or a lone unit without one promotes. -/
def execStartWaitExpiry (s : State) : Out :=
  done s (
    if !twinRuns s || s.twin.role ≠ .starting || !usReached s s.twin.watch || s.twin.ask.isSome then s
    else if witnessEn s then sendAsk s
    else if s.twin.heard then s
    else promote s (s.twin.seen + 1))

/-- A refusal, or no answer, is recorded (R487, R496). -/
def witnessNo (s : State) (reason : Nat) : State :=
  let s := fSetPart (fInc s 0x23 0x016 8 8) 0x23 0x00E 16 8 reason
  raise { s with twin := { s.twin with ask := none } } 564

/-- No answer within WIT_TMO_US (R487). -/
def execWitnessAnswerTimeout (s : State) : Out :=
  done s (match s.twin.ask with
    | some a => if twinRuns s && usReached s (a.us + fPart s 0x23 5 0 16) then witnessNo s 0xFF else s
    | none => s)

/-- A witness frame for this unit reaches TWIN (R431, R485). -/
def witRx (s : State) (r : RxHdr) (ty : Byte) : State × Bool :=
  match rxTo s r ty .witness false with
  | (s, ok) => (s, ok && twinRuns s)

/-- The outstanding request that an answer echoes (R485). -/
def asked (s : State) (w : WitFrame) : Option Ask :=
  match s.twin.ask with
  | some a => if a.seq = w.seq then some a else none
  | none => none

/-- A GRANT promotes the unit that asked (R487, R489, R491, R492); a late one only shows its epoch. -/
def execGrantRx (r : RxHdr) (w : WitFrame) (s : State) : Out :=
  done s (match witRx s r 0x23 with
    | (s, false) => s
    | (s, true) =>
      match asked s w with
      | some a => if a.ep = w.ep then promote (clearTx s) w.ep else seeEpoch s w.ep
      | none => learnEpoch s w.ep)

/-- A REFUSE: a heartbeat refused 0x02 fences its sender; a request refused 0x01 severs a standby, and any other is recorded
(R487, R491 to R493). -/
def execRefuseRx (r : RxHdr) (w : WitFrame) (s : State) : Out :=
  done s (match witRx s r 0x24 with
    | (s, false) => s
    | (s, true) =>
      match asked s w with
      | some _ =>
        let s := seeEpoch s w.ep
        let s := witnessNo s w.reason
        if w.reason = 1 ∧ s.twin.role = .standby then
          raisePost { s with twin := { s.twin with role := .severed } } 0x23 2 565 []
        else s
      | none => if w.reason = 2 then learnEpoch s w.ep else seeEpoch s w.ep)

/-- An HB_ACK renews the lease of the Meridian whose heartbeat it echoes (R483). -/
def execHbAckRx (r : RxHdr) (w : WitFrame) (s : State) : Out :=
  done s (match witRx s r 0x21 with
    | (s, false) => s
    | (s, true) =>
      if s.twin.role = .active ∧ w.ep = s.twin.ep then
        match s.twin.marks.find? (fun m => m.seq == w.seq) with
        | some m => renew s m
        | none => s
      else seeEpoch s w.ep)

/-- A BEACON restarts the standby's watch without a witness (R487, R491). -/
def execBeaconRx (r : RxHdr) (w : WitFrame) (s : State) : Out :=
  done s (match witRx s r 0x25 with
    | (s, false) => s
    | (s, true) =>
      let s := learnEpoch s w.ep
      { s with twin := { s.twin with beaconUs := usNow s, heard := true } })

/-- An ABDICATE of the twin: a standby promotes at once (R488). -/
def execAbdicateRx (f : LinkFrame) (s : State) : Out :=
  done s (
    let s := clearTx s
    if !twinRuns s || f.ty ≠ 5 then s
    else
      let s := learnEpoch s f.ep
      if s.twin.role = .standby then promote s (s.twin.seen + 1) else s)

/-! ## The witness role -/

/-- The unit is a witness that runs. -/
def isWitness (s : State) : Bool := twinRuns s && s.twin.role == .witness

/-- The identity entries once a frame of `id` was heard, none when the frame is discarded (R486). -/
def hearId (s : State) (id : BitVec 128) : Option (List WitId) :=
  let now := s.clk.tick.toNat
  let e : WitId := { id := id, tick := now }
  if s.twin.ids.any (fun x => x.id == id) then some (s.twin.ids.map (fun x => if x.id = id then e else x))
  else match s.twin.ids with
    | [] => some [e]
    | [a] => some [a, e]
    | a :: b :: _ =>
      let forget := fPart s 0x23 0x018 0 16 * 100000
      if now < a.tick + forget ∧ now < b.tick + forget then none
      else if a.tick ≤ b.tick then some [e, b] else some [a, e]

/-- Answers a heartbeat or request and keeps the answer for a repetition (R486). -/
def answer (s : State) (id : BitVec 128) (q seq port vlan mac : Nat) (ty : Nat) (w : WitFrame) : State :=
  let d := witBytes ty w
  let s := { s with twin := { s.twin with answers := (id, q, seq, d) :: s.twin.answers.filter (fun x => !(x.1 == id && x.2.1 == q)) } }
  (txOffer s { kind := 0x88B5, ports := 2 ^ port, plane := 2, vlan := vlan, dst := mac, data := d }).1

/-- The answer first given to a repeated frame (R486). -/
def repeated (s : State) (id : BitVec 128) (q seq : Nat) : Option (List Byte) :=
  (s.twin.answers.find? (fun x => x.1 == id && x.2.1 == q && x.2.2.1 == seq)).map (fun x => x.2.2.2)

/-- A question reaches the witness: discarded, repeated, or handled (R486). -/
def question (s : State) (r : RxHdr) (w : WitFrame) (q : Nat) (f : State → State) : State :=
  match witRx s r (BitVec.ofNat 8 q) with
  | (s, false) => s
  | (s, true) =>
    if !isWitness s then s
    else match hearId s w.id with
      | none => s
      | some ids =>
        let s := { s with twin := { s.twin with ids := ids } }
        match repeated s w.id q w.seq with
        | some d =>
          (txOffer s { kind := 0x88B5, ports := 2 ^ r.port.val, plane := 2, vlan := r.vlan.toNat, dst := r.src.toNat, data := d }).1
        | none => f s

/-- Answers a held request. -/
def answerHeld (s : State) (h : Held) (ty reason : Nat) : State :=
  answer s h.id 0x22 h.seq h.port h.vlan h.mac ty
    { reason := reason, seq := h.seq, ep := if ty = 0x23 then h.ep else s.twin.ew, id := h.id }

/-- A witness hears a HEARTBEAT (R486): accepted ones also refuse what it holds. -/
def execHeartbeatRx (r : RxHdr) (w : WitFrame) (s : State) : Out :=
  done s (question s r w 0x20 (fun s =>
    if w.ep.toNat < s.twin.ew.toNat then
      answer s w.id 0x20 w.seq r.port.val r.vlan.toNat r.src.toNat 0x24 { reason := 2, seq := w.seq, ep := s.twin.ew, id := w.id }
    else
      let held := s.twin.held
      let s := { s with twin := { s.twin with ew := w.ep, hbUs := some (usNow s), held := [] } }
      let s := held.foldl (fun s h => answerHeld s h 0x24 1) s
      answer s w.id 0x20 w.seq r.port.val r.vlan.toNat r.src.toNat 0x21 { seq := w.seq, ep := w.ep, id := w.id }))

/-- Grants a request: the epoch is stored and event 571 raised; one no longer above E_w is refused (R486). -/
def grant (s : State) (h : Held) : State :=
  if h.ep.toNat ≤ s.twin.ew.toNat then answerHeld s h 0x24 2
  else raise (answerHeld { s with twin := { s.twin with ew := h.ep } } h 0x23 0) 571

/-- The gap of a request has passed since the last accepted heartbeat (R486). -/
def gapPassed (s : State) (h : Held) : Bool :=
  match s.twin.hbUs with | some u => usReached s (u + h.gap) | none => true

/-- The gap had already passed when the request came (R486). -/
def gapOver (s : State) (h : Held) : Bool := match s.twin.hbUs with | some u => u + h.gap ≤ usNow s | none => true

/-- A witness hears a GRANT_REQ: refused, granted, or held (R486). -/
def execGrantReqRx (r : RxHdr) (w : WitFrame) (s : State) : Out :=
  done s (question s r w 0x22 (fun s =>
    let h : Held := { id := w.id, seq := w.seq, ep := w.ep, gap := w.arg.toNat, port := r.port.val, vlan := r.vlan.toNat, mac := r.src.toNat }
    if w.ep.toNat ≤ s.twin.ew.toNat then answerHeld s h 0x24 2
    else if gapOver s h then grant s h
    else { s with twin := { s.twin with held := s.twin.held.filter (fun x => x.id != w.id) ++ [h] } }))

/-- The gap of a held request passes: the witness grants it (R486). -/
def execWitnessGapExpiry (s : State) : Out :=
  done s (
    if !isWitness s then s
    else match s.twin.held.find? (gapPassed s) with
      | some h => grant { s with twin := { s.twin with held := s.twin.held.erase h } } h
      | none => s)

end Sys2Proof.Machine
end

