-- ==== Sys2Proof/Machine/Solver.lean ====
section
/-! DEFINITION. The solver array's objects and macro-ops (R224 to R245, R248 to R252, R256). A result is computed exactly from
the words it is defined on and rounded once, as R230 and R238 give it; what the spec leaves open of the factorisations is
said in assumptions 31 and 32. -/
namespace Sys2Proof.Machine

/-- Address of an object or program (R232). -/
def objAddr (a : Nat) : Nat := 0x0800000000 + 32 * a

/-- Word k of an object's header. -/
def oHdr (s : State) (a k : Nat) : Word := memW s (objAddr a + 4 * k)

/-- KIND (R213, R233). -/
def oKind (s : State) (a : Nat) : Nat := (oHdr s a 0).field 8 8

/-- Exponent e, signed. -/
def oExp (s : State) (a : Nat) : Int := (BitVec.ofNat 8 ((oHdr s a 0).field 0 8)).toInt

/-- ROWS and COLS. -/
def oRows (s : State) (a : Nat) : Nat := (oHdr s a 1).toNat
def oCols (s : State) (a : Nat) : Nat := (oHdr s a 2).toNat

/-- A vector: KIND 0x41, or an assembled vector block (R213, R233). -/
def isVecKind (k : Nat) : Bool := k == 0x41 || k == 0x04 || k == 0x11 || k == 0x13 || k == 0x22

/-- A sparse assembled block. -/
def isSparseKind (k : Nat) : Bool := 1 ≤ k && k ≤ 0x3F && !isVecKind k

/-- Bytes padded to a word. -/
def padW (n : Nat) : Nat := (n + 3) / 4 * 4

/-- Bytes of an object after its header (R213, R233, R234, R245, R249). -/
def oBody (s : State) (a : Nat) : Nat :=
  let k := oKind s a
  let r := oRows s a
  let c := oCols s a
  let w3 := (oHdr s a 3).toNat
  if isVecKind k then 4 * r
  else if isSparseKind k then 4 * (c + 1) + 8 * w3
  else if k = 0x40 then 4 * r * c
  else if k = 0x42 then 4 * r + 4 * (r + 1) + 8 * w3 + padW r + 4 * r + padW r
  else if k = 0x43 then 4 * r * c + padW c
  else if k = 0x44 then 4 * (r + 1) * c + padW c
  else if k = 0x45 then 4 * (r + c)
  else if k = 0x46 then 12 * w3
  else 0

/-- ROWS and COLS are 1 to 1,048,576, and a dense matrix holds at most 4,194,304 words (R233); a factor, an ID map and a pivot
log hold other numbers in words 1 and 2 (R234, R245, R249). -/
def shapeOk (s : State) (a : Nat) : Bool :=
  let k := oKind s a
  let lim (n : Nat) : Bool := 1 ≤ n && n ≤ 1048576
  if k = 0x45 ∨ k = 0x46 then true
  else if k = 0x42 then lim (oRows s a)
  else lim (oRows s a) && lim (oCols s a) && (k != 0x40 || oRows s a * oCols s a ≤ 4194304)

/-- The range lies in the work area, Afterglow left out (R232). -/
def inWork (a len : Nat) : Bool := 0x0800000020 ≤ a && a + len ≤ 0x0802800000

/-- A word in the range is uncorrectable, or SMEM is off (R254 MEM). -/
def memBad (s : State) (a len : Nat) : Bool :=
  !domainOn s 1 || s.mem.ecc.any (fun e => a / 8 ≤ e.1 && e.1 * 8 < a + len && 3 ≤ e.2)

/-- CRC-32C over header words 0 to 6 and the arrays (R213). -/
def oCrc (s : State) (a : Nat) : Word := crc32c (memBytes s (objAddr a) 28 ++ memBytes s (objAddr a + 32) (oBody s a))

/-- Why a job ends FAILED (R254), with the row of a RANGE event. -/
inductive Why where
  | illegalOp | shape | crc | mem | range (row : Nat) | fill | stepLimit | noLanes | power | descriptor
deriving DecidableEq, Repr

/-- Reason code (R254). -/
def Why.code : Why → Nat
  | .illegalOp => 1 | .shape => 2 | .crc => 3 | .mem => 4 | .range _ => 5 | .fill => 6 | .stepLimit => 7 | .noLanes => 8
  | .power => 9 | .descriptor => 10

/-- What a macro-op, or a part of one, comes to. -/
inductive MRes (α : Type) where
  | ok (s : State) (a : α)
  | fail (s : State) (w : Why)

/-- A read by SOLV of solver memory: an error response, UNCORR or DOMAIN_OFF, fails the job (R96, R98, R254 MEM). -/
def solvRead (s : State) (a len : Nat) : MRes Unit :=
  if !domainOn s 1 then .fail (errorResp s { unit := 0x16 } .read .domainOff a 0) .mem
  else match hwRead s { unit := 0x16 } .read a len with
    | (s, true) => .ok s ()
    | (s, false) => .fail s .mem

/-- Goes on after a part that did not fail. -/
def MRes.bind {α β : Type} (r : MRes α) (f : State → α → MRes β) : MRes β :=
  match r with
  | .ok s a => f s a
  | .fail s w => .fail s w

/-- The running job. -/
def jobRun (s : State) : JobRun := s.solv.run.getD {}

/-- Replaces the running job. -/
def setRun (s : State) (r : JobRun) : State := { s with solv := { s.solv with run := some r } }

/-- Scalar register i. -/
def getS (s : State) (i : Nat) : Scalar := Tbl.get {} (jobRun s).sreg i

/-- Writes a scalar register. -/
def setS (s : State) (i : Nat) (v : Scalar) : State :=
  setRun s { jobRun s with sreg := Tbl.put {} (jobRun s).sreg i v }

/-- An integer as a scalar with exponent 0, as the counts and outcomes of macro-ops are given (R239, R250). -/
def intScalar (n : Nat) : Scalar := { m := n, x := 0 }

/-! ## Reading objects -/

/-- An input object: its memory, its CRC on the job's first read of it, its kind and shape (R233, R235). The CRC comes before the
kind, so that a zeroed object fails with CRC (R255). -/
def input (s : State) (a : Nat) (kind : Nat → Bool) : MRes Unit :=
  if a = 0 ∨ !inWork (objAddr a) 32 then .fail s .shape
  else (solvRead s (objAddr a) 32).bind fun s _ =>
    if !inWork (objAddr a) (32 + oBody s a) then .fail s .shape
    else (solvRead s (objAddr a) (32 + oBody s a)).bind fun s _ =>
      if !(jobRun s).seen.contains a ∧ oHdr s a 7 ≠ oCrc s a then .fail s .crc
      else if !kind (oKind s a) ∨ !shapeOk s a then .fail s .shape
      else if (jobRun s).seen.contains a then .ok s ()
      else .ok (setRun s { jobRun s with seen := a :: (jobRun s).seen }) ()

/-- A destination: its memory and the header that the program has written (R230, R233). -/
def output (s : State) (a : Nat) (kind : Nat → Bool) : MRes Unit :=
  if a = 0 ∨ !inWork (objAddr a) 32 then .fail s .shape
  else (solvRead s (objAddr a) 32).bind fun s _ =>
    if !kind (oKind s a) ∨ !shapeOk s a ∨ !inWork (objAddr a) (32 + oBody s a) then .fail s .shape
    else .ok s ()

/-- Signed word i of an object's arrays. -/
def oWord (s : State) (a i : Nat) : Int := (memW s (objAddr a + 32 + 4 * i)).toInt

/-- Unsigned word i of an object's arrays. -/
def oNat (s : State) (a i : Nat) : Nat := (memW s (objAddr a + 32 + 4 * i)).toNat

/-- The numbers of a vector. -/
def vecOf (s : State) (a : Nat) : List Q := (List.range (oRows s a)).map (fun i => Q.scale (oWord s a i) (oExp s a))

/-- Entry (i, j) of a dense matrix, column-major. -/
def denseAt (s : State) (a i j : Nat) : Q := Q.scale (oWord s a (j * oRows s a + i)) (oExp s a)

/-- The entries of column j of a sparse matrix: (row, number). -/
def colOf (s : State) (a j : Nat) : List (Nat × Q) :=
  let c := oCols s a
  let nnz := (oHdr s a 3).toNat
  let lo := oNat s a j
  let hi := oNat s a (j + 1)
  (List.range (hi - lo)).map (fun k => (oNat s a (c + 1 + lo + k), Q.scale (oWord s a (c + 1 + nnz + lo + k)) (oExp s a)))

/-- Entry (i, j) of a sparse or dense matrix, 0 when a sparse one lists none. -/
def matAt (s : State) (a i j : Nat) : Q :=
  if isSparseKind (oKind s a) then Q.sum (((colOf s a j).filter (fun e => e.1 == i)).map (·.2)) else denseAt s a i j

/-- A sparse matrix whose pointers and indices stay within its shape. -/
def sparseOk (s : State) (a : Nat) : Bool :=
  (List.range (oCols s a)).all (fun j =>
    oNat s a j ≤ oNat s a (j + 1) && oNat s a (j + 1) ≤ (oHdr s a 3).toNat && (colOf s a j).all (fun e => e.1 < oRows s a))

/-! ## Writing objects -/

/-- A write by SOLV of words of solver memory (R97). -/
def solvWrite (s : State) (a : Nat) (ws : List Word) : State := hwWords s 0x16 a ws

/-- Closes a destination whose words have been written: NNZ, the number of its words that are not zero (assumption 195), BOUND_W,
the largest of their magnitudes, and its CRC; it counts as verified (R235). -/
def sealObj (s : State) (a : Nat) (ws : List Int) : State :=
  let s := solvWrite s (objAddr a + 12) [Word.ofN (ws.filter (· != 0)).length, Word.ofN ((ws.map Int.natAbs).foldl max 0)]
  let s := solvWrite s (objAddr a + 28) [oCrc s a]
  setRun s { jobRun s with seen := a :: (jobRun s).seen.filter (· != a) }

/-- Writes words as a destination's values at its exponent; a saturated one is a RANGE event at its row (R230, R231). -/
def writeVals (s : State) (a rows : Nat) (l : List Q) : MRes Unit :=
  let ws := l.map (fun q => q.word (oExp s a))
  match ws.findIdx? (outOf 32) with
  | some i => .fail s (.range (i % max 1 rows))
  | none =>
    .ok (sealObj (solvWrite s (objAddr a + 32) (ws.map (BitVec.ofInt 32))) a ws) ()

/-- The sum of products of words must fit the 80-bit accumulator (R229, R231). -/
def accFits (l : List Int) : Bool := !outOf 80 (l.foldl (· + ·) 0)

/-! ## Operand words -/

/-- The fields of a macro-op (R237). -/
structure MacroOp where
  op : Nat
  mod_ : Nat
  sa : Nat
  sb : Nat
  sd : Nat
  zero : Nat
  w1 : Word
  w2 : Word
  w3 : Word
deriving DecidableEq, Repr

/-- The macro-op at the job's index (R237). -/
def fetchOp (s : State) : MacroOp :=
  let d := (s.solv.jobs.find? (fun e => e.1 == (jobRun s).handle)).map (·.2.desc)
  let a := objAddr (natAt (d.getD []) 0 3) + 16 * (jobRun s).pc
  let w0 := memW s a
  { op := w0.field 24 8, mod_ := w0.field 16 8, sa := w0.field 12 4, sb := w0.field 8 4, sd := w0.field 4 4, zero := w0.field 0 4
    w1 := memW s (a + 4), w2 := memW s (a + 8), w3 := memW s (a + 12) }

/-- A reserved bit is set (R237): words of immediates have none, and word 3 is zero where there is no operand D. -/
def opReserved (o : MacroOp) : Bool :=
  o.zero != 0 || (o.op != 0x0B && !(o.op == 0x0C && o.mod_ == 7) && o.w1.field 24 8 != 0) ||
    ((o.op ≤ 0x0A || 0x0F ≤ o.op) && (o.w2.field 24 8 != 0 || o.w3.field 24 8 != 0)) ||
    (0x0A ≤ o.op && o.op ≤ 0x0E && o.w3 != 0)

/-- Operands A, B and D as object addresses. -/
def MacroOp.a (o : MacroOp) : Nat := o.w1.field 0 24
def MacroOp.b (o : MacroOp) : Nat := o.w2.field 0 24
def MacroOp.d (o : MacroOp) : Nat := o.w3.field 0 24

/-! ## Dense and sparse arithmetic -/

/-- `axpy`: D ← sa·A + sb·B (R239). -/
def opAxpy (o : MacroOp) (s : State) : MRes Unit :=
  (input s o.a isVecKind).bind fun s _ =>
  (if o.b = 0 then .ok s () else input s o.b isVecKind).bind fun s _ =>
  (output s o.d isVecKind).bind fun s _ =>
    if oRows s o.a ≠ oRows s o.d ∨ (o.b ≠ 0 ∧ oRows s o.b ≠ oRows s o.d) then .fail s .shape
    else
      let a := (vecOf s o.a).map (fun q => q.mul (getS s o.sa).val)
      let b := if o.b = 0 then [] else (vecOf s o.b).map (fun q => q.mul (getS s o.sb).val)
      writeVals s o.d (oRows s o.d) ((a.zipIdx).map (fun e => e.1.add (b.getD e.2 {})))

/-- Entry of op(X). -/
def opAt (s : State) (a : Nat) (t : Bool) (i j : Nat) : Q := if t then matAt s a j i else matAt s a i j

/-- Rows and columns of op(X). -/
def opShape (s : State) (a : Nat) (t : Bool) : Nat × Nat := if t then (oCols s a, oRows s a) else (oRows s a, oCols s a)

/-- `gemm`: D ← sa·op(A)·op(B) + sb·D (R239). -/
def opGemm (o : MacroOp) (s : State) : MRes Unit :=
  let ta := (Word.ofN o.mod_).tst 0
  let tb := (Word.ofN o.mod_).tst 1
  (input s o.a (· == 0x40)).bind fun s _ =>
  (input s o.b (· == 0x40)).bind fun s _ =>
  (if (getS s o.sb).m = 0 then output s o.d (· == 0x40) else input s o.d (· == 0x40)).bind fun s _ =>
    let (m, k) := opShape s o.a ta
    let (k', n) := opShape s o.b tb
    if k ≠ k' ∨ oRows s o.d ≠ m ∨ oCols s o.d ≠ n then .fail s .shape
    else
      let prods (i j : Nat) : List Q := (List.range k).map (fun l => (opAt s o.a ta i l).mul (opAt s o.b tb l j))
      let e := oExp s o.a + oExp s o.b
      let at_ : List (Nat × Nat) := (List.range n).flatMap (fun j => (List.range m).map (fun i => (i, j)))
      match at_.find? (fun x => !accFits ((prods x.1 x.2).map (fun q => q.word e))) with
      | some x => .fail s (.range x.1)
      | none =>
        writeVals s o.d m (at_.map (fun x =>
          ((getS s o.sa).val.mul (Q.sum (prods x.1 x.2))).add ((getS s o.sb).val.mul (denseAt s o.d x.1 x.2))))

/-- `spmv`: D ← sa·op(A)·B + sb·D (R239). -/
def opSpmv (o : MacroOp) (s : State) : MRes Unit :=
  let t := (Word.ofN o.mod_).tst 0
  (input s o.a isSparseKind).bind fun s _ =>
  (input s o.b isVecKind).bind fun s _ =>
  (if (getS s o.sb).m = 0 then output s o.d isVecKind else input s o.d isVecKind).bind fun s _ =>
    let (m, n) := opShape s o.a t
    if !sparseOk s o.a ∨ oRows s o.b ≠ n ∨ oRows s o.d ≠ m then .fail s .shape
    else
      let b := vecOf s o.b
      let entries : List (Nat × Nat × Q) := (List.range (oCols s o.a)).flatMap (fun j =>
        (colOf s o.a j).map (fun e => if t then (j, e.1, e.2) else (e.1, j, e.2)))
      let prods (i : Nat) : List Q := (entries.filter (fun e => e.1 == i)).map (fun e => e.2.2.mul (b.getD e.2.1 {}))
      let e := oExp s o.a + oExp s o.b
      match (List.range m).find? (fun i => !accFits ((prods i).map (fun q => q.word e))) with
      | some i => .fail s (.range i)
      | none =>
        let d := vecOf s o.d
        writeVals s o.d m ((List.range m).map (fun i =>
          ((getS s o.sa).val.mul (Q.sum (prods i))).add ((getS s o.sb).val.mul (d.getD i {}))))

/-- `clip`: D ← min(max(A, lo), hi); sd ← entries changed (R239). -/
def opClip (o : MacroOp) (s : State) : MRes Unit :=
  (input s o.a isVecKind).bind fun s _ =>
  (input s o.b isVecKind).bind fun s _ =>
  (output s o.d isVecKind).bind fun s _ =>
    let n := oRows s o.a
    if oRows s o.b ≠ 2 * n ∨ oRows s o.d ≠ n then .fail s .shape
    else
      let a := vecOf s o.a
      let b := vecOf s o.b
      let r := (a.zipIdx).map (fun e => (e.1.max (b.getD e.2 {})).min (b.getD (n + e.2) {}))
      let changed := ((a.zip r).filter (fun e => !e.1.eq e.2)).length
      (writeVals s o.d n r).bind fun s _ => .ok (setS s o.sd (intScalar changed)) ()

/-- `norm`: a norm or dot product into sd (R239); a saturated accumulator is a RANGE event of no row (R231). -/
def opNorm (o : MacroOp) (s : State) : MRes Unit :=
  (input s o.a isVecKind).bind fun s _ =>
  (if o.mod_ < 2 ∧ o.b = 0 then .ok s () else input s o.b isVecKind).bind fun s _ =>
    if 3 < o.mod_ then .fail s .illegalOp
    else if 2 ≤ o.mod_ ∧ oRows s o.a ≠ oRows s o.b then .fail s .shape
    else
      let a := vecOf s o.a
      let b := vecOf s o.b
      let ea := oExp s o.a
      let eb := oExp s o.b
      let sq (l : List Q) : List Q := l.map (fun q => q.mul q)
      let sums : List Q × Int :=
        if o.mod_ = 0 then (sq a, 2 * ea)
        else if o.mod_ = 1 then ([], 0)
        else if o.mod_ = 2 then ((a.zip b).map (fun e => e.1.mul e.2), ea + eb)
        else (sq ((a.zip b).map (fun e => e.1.sub e.2)), 2 * min ea eb)
      if !accFits (sums.1.map (fun q => q.word sums.2)) then .fail s (.range 0xFFFFF)
      else
        let total := Q.sum sums.1
        let r : Scalar :=
          if o.mod_ = 1 then ((a.map Q.abs).foldl Q.max {}).scalar
          else if o.mod_ = 2 then total.scalar else total.sqrtScalar
        .ok (setS s o.sd r) ()

/-- `sc` (R240). -/
def opSc (o : MacroOp) (s : State) : MRes Unit :=
  let a := getS s o.sa
  let b := getS s o.sb
  let big : Scalar := if a.m = 0 then {} else { m := if a.m < 0 then -(2 ^ 31 - 1) else 2 ^ 31 - 1, x := 127 }
  let r : Option Scalar :=
    match o.mod_ with
    | 0 => some (a.val.add b.val).scalar
    | 1 => some (a.val.sub b.val).scalar
    | 2 => some (a.val.mul b.val).scalar
    | 3 => some (if b.m = 0 then big else (a.val.div b.val).scalar)
    | 4 => some a.val.sqrtScalar
    | 5 => some (if a.val.le b.val then a else b).val.scalar
    | 6 => some (if a.val.le b.val then b else a).val.scalar
    | 7 => some (Q.scale o.w1.toInt (BitVec.ofNat 8 (o.w2.field 0 8)).toInt).scalar
    | 8 => some a.val.scalar
    | _ => none
  match r with
  | some v => .ok (setS s o.sd v) ()
  | none => .fail s .illegalOp

/-- `piv.pol` (R241). -/
def opPivPol (o : MacroOp) (s : State) : MRes Unit :=
  let t := o.w1.toInt
  let d := o.w2.toInt
  if 0 < d ∧ d ≤ t then .ok (setRun s { jobRun s with tau := t.toNat, delta := d.toNat }) () else .fail s .illegalOp

/-- `seq.br` (R239): a target beyond the work area is beyond the program. -/
def opSeqBr (o : MacroOp) (s : State) : MRes Unit :=
  let a := (getS s o.sa).val
  let b := (getS s o.sb).val
  let go : Option Bool := match o.mod_ with
    | 0 => some (a.lt b) | 1 => some (b.le a) | 2 => some (a.eq b) | 3 => some (!a.eq b) | 4 => some true | _ => none
  match go with
  | none => .fail s .illegalOp
  | some false => .ok (setRun s { jobRun s with pc := (jobRun s).pc + 1 }) ()
  | some true => .ok (setRun s { jobRun s with pc := o.w1.field 0 16 }) ()

/-! ## Pivots -/

/-- The threshold and the floor of a factorisation whose input has exponent e (R241). -/
def pivT (s : State) (e : Int) : Q := (Q.scale (jobRun s).tau (-30)).mul (Q.scale 1 (e + 29))
def pivR (s : State) (e : Int) : Q := (Q.scale (jobRun s).delta (-30)).mul (Q.scale 1 (e + 29))

/-- The pivot log of the job, 0 for none (R246). -/
def pivLog (s : State) : Nat :=
  let d := (s.solv.jobs.find? (fun e => e.1 == (jobRun s).handle)).map (·.2.desc)
  natAt (d.getD []) 32 3

/-- Writes an entry of the pivot log, whose CRC follows (R235, R245). -/
def logPivot (s : State) (isZero : Bool) (row : Nat) (w : Int) : State :=
  let a := pivLog s
  if a = 0 ∨ !inWork (objAddr a) 32 ∨ oKind s a ≠ 0x46 then s
  else
    let n := (oHdr s a 3).toNat
    let s := solvWrite s (objAddr a + 16) [oHdr s a 4 + 1]
    let s :=
      if n < (oHdr s a 1).toNat ∧ inWork (objAddr a) (32 + 12 * (n + 1)) then
        let s := solvWrite s (objAddr a + 32 + 12 * n)
          [Word.ofN (bit isZero * 2 ^ 31 + row % 2 ^ 20), Word.ofN ((jobRun s).pc % 65536), BitVec.ofInt 32 (clampS 32 w)]
        solvWrite s (objAddr a + 12) [Word.ofN (n + 1)]
      else s
    solvWrite s (objAddr a + 28) [oCrc s a]

/-- Flags a pivot (R242, R243): event 357 once per job. -/
def flagPivot (s : State) (isZero : Bool) (row : Nat) (w : Int) : State :=
  let r := jobRun s
  let first := r.zero + r.tiny = 0
  let s := setRun s { r with
    zero := r.zero + bit isZero, tiny := r.tiny + bit (!isZero)
    firstRow := if first then some row else r.firstRow, firstOp := if first then r.pc else r.firstOp }
  let s := logPivot s isZero row w
  if first then raise s 357 else s

/-- The pivot used for a pivot d at row `row`; `chol` selects the Cholesky rows of the table (R242). -/
def pivot (s : State) (chol : Bool) (e : Int) (row : Nat) (d : Q) : State × Q :=
  let t := pivT s e
  let r := pivR s e
  if d.n = 0 then (flagPivot s true row 0, r)
  else if chol ∧ d.n < 0 then (flagPivot s false row (d.word e), r)
  else if t.le d.abs then (s, d)
  else
    let p := (d.abs).max r
    (flagPivot s false row (d.word e), if d.n < 0 then p.neg else p)

/-! ## The LDLᵀ factorisation -/

/-- The factor as it is built: per column, its pivot and its entries, as stored. -/
structure LdlCol where
  dw : Int := 0
  de : Int := 0
  f : Int := 0
  /-- (row in the factored order, word at exponent f) -/
  l : List (Nat × Int) := []
deriving DecidableEq, Repr

/-- Number in row i of a column of L, none outside its pattern. -/
def LdlCol.at_ (c : LdlCol) (i : Nat) : Option Q := (c.l.find? (fun e => e.1 == i)).map (fun e => Q.scale e.2 c.f)

/-- The diagonal entry. -/
def LdlCol.d (c : LdlCol) : Q := Q.scale c.dw c.de

/-- Pattern and number of entry (i, j), i ≥ j, of the permuted matrix: none when A has no entry there. -/
def permAt (s : State) (a : Nat) (perm : List Nat) (i j : Nat) : Option Q :=
  let p := perm.getD i 0
  let q := perm.getD j 0
  let (r, c) := if p < q then (q, p) else (p, q)
  match (colOf s a c).filter (fun e => e.1 == r) with
  | [] => none
  | l => some (Q.sum (l.map (·.2)))

/-- Column j from the columns before it, in exact arithmetic on the stored words, each new word rounded once (assumption 31);
a flagged pivot is named by its row in A (R245). -/
def ldlCol (s : State) (a : Nat) (perm : List Nat) (cols : List LdlCol) (n j : Nat) : State × LdlCol :=
  let upd (i : Nat) : Option Q :=
    cols.foldl (fun acc c =>
      match c.at_ i, c.at_ j with
      | some x, some y => some ((acc.getD {}).sub ((x.mul y).mul c.d))
      | _, _ => acc) (permAt s a perm i j)
  let (s, p) := pivot s false (oExp s a) (perm.getD j 0) ((upd j).getD {})
  let de := p.expFor 30
  let dw := p.word de
  let dq := Q.scale dw de
  let raw := (List.range (n - j - 1)).filterMap (fun k => (upd (j + 1 + k)).map (fun q => (j + 1 + k, q.div dq)))
  let f := ((raw.map (fun e => e.2.abs)).foldl Q.max {}).expFor 30
  (s, { dw := dw, de := de, f := f, l := raw.map (fun e => (e.1, e.2.word f)) })

/-- All columns. -/
def ldlCols (s : State) (a : Nat) (perm : List Nat) (n : Nat) : Nat → State × List LdlCol
  | 0 => (s, [])
  | k + 1 =>
    let (s, cols) := ldlCols s a perm n k
    let (s, c) := ldlCol s a perm cols n k
    (s, cols ++ [c])

/-- The neighbours of a row in the graph of the remaining matrix. -/
def neighbours (edges : List (Nat × Nat)) (i : Nat) : List Nat :=
  ((edges.filterMap (fun e => if e.1 = i ∧ e.2 ≠ i then some e.2 else if e.2 = i ∧ e.1 ≠ i then some e.1 else none)).eraseDups)

/-- A minimum-degree ordering: which of several rows of least degree comes next is not given (assumption 32). -/
def minDegree (s : State) (edges : List (Nat × Nat)) : Nat → List Nat → State × List Nat
  | 0, _ => (s, [])
  | k + 1, rows =>
    let deg (i : Nat) : Nat := (neighbours edges i).length
    let least := rows.foldl (fun m i => min m (deg i)) rows.length
    match freeBuf s (rows.filter (fun i => deg i == least)) with
    | (s, none) => (s, [])
    | (s, some i) =>
      let nb := neighbours edges i
      let edges := edges.filter (fun e => e.1 != i && e.2 != i) ++ nb.flatMap (fun x => (nb.filter (x < ·)).map (fun y => (x, y)))
      let (s, t) := minDegree s edges k (rows.erase i)
      (s, i :: t)

/-- Fingerprint of a structure object (R249). -/
def fingerprint (s : State) (a : Nat) : Nat :=
  let c := 4 * (oCols s a + 1)
  let nnz := 4 * (oHdr s a 3).toNat
  (crc32c (memBytes s (objAddr a + 4) 12 ++ memBytes s (objAddr a + 32) c)).toNat * 2 ^ 32 +
    (crc32c (memBytes s (objAddr a + 32 + c) nnz)).toNat

/-- Signed bytes padded to words. -/
def expBytes (l : List Int) : List Byte :=
  l.map (BitVec.ofInt 8) ++ List.replicate (padW l.length - l.length) 0

/-- Array offsets in an LDLᵀ factor: pointers, indices, values, exponents, D values, D exponents (R234). -/
def ldlOfs (n nnz : Nat) : Nat × Nat × Nat × Nat × Nat × Nat :=
  let p := 4 * n
  let i := p + 4 * (n + 1)
  let v := i + 4 * nnz
  let e := v + 4 * nnz
  let d := e + padW n
  (p, i, v, e, d, d + 4 * n)

/-- The flag counts of a factor header (R234, R242). -/
def flagWord (nZero nTiny : Nat) : Word := Word.ofN (min 65535 nZero * 2 ^ 16 + min 65535 nTiny)

/-- Writes the factor object (R234); the fingerprint's low word comes first (R9). -/
def writeLdl (s : State) (d fp nZero nTiny : Nat) (perm : List Nat) (cols : List LdlCol) : State :=
  let n := cols.length
  let counts := cols.map (fun c => c.l.length)
  let ptr := (List.range (n + 1)).map (fun j => Word.ofN ((counts.take j).sum))
  let nnz := counts.sum
  let a := objAddr d
  let arrays : List Byte :=
    (perm.map Word.ofN ++ ptr ++ cols.flatMap (fun c => c.l.map (fun e => Word.ofN e.1)) ++
      cols.flatMap (fun c => c.l.map (fun e => BitVec.ofInt 32 e.2))).flatMap (fun w => leBytes 4 w.toNat) ++
    expBytes (cols.map (·.f)) ++ (cols.map (fun c => (BitVec.ofInt 32 c.dw : Word))).flatMap (fun w => leBytes 4 w.toNat) ++
    expBytes (cols.map (·.de))
  let s := hwWrite s { unit := 0x16 } (a + 32) arrays
  let s := solvWrite s a [(memW s a).setField 0 8 0, Word.ofN n, memW s (a + 8), Word.ofN nnz, Word.ofN fp, Word.ofN (fp / 2 ^ 32),
    flagWord nZero nTiny]
  let s := solvWrite s (a + 28) [crc32c (memBytes s a 28 ++ arrays)]
  setRun s { jobRun s with seen := d :: (jobRun s).seen.filter (· != d) }

/-- `fact.ldl` (R239 to R243). -/
def opFactLdl (o : MacroOp) (s : State) : MRes Unit :=
  (input s o.a isSparseKind).bind fun s _ =>
  (if o.b = 0 then .ok s () else input s o.b isVecKind).bind fun s _ =>
    let n := oRows s o.a
    if oCols s o.a ≠ n ∨ !sparseOk s o.a ∨ (List.range n).any (fun j => (colOf s o.a j).any (fun e => e.1 < j)) then .fail s .shape
    else if o.d = 0 ∨ !inWork (objAddr o.d) 32 then .fail s .shape
    else (solvRead s (objAddr o.d) 32).bind fun s _ =>
      if oKind s o.d ≠ 0x42 then .fail s .shape
      else
      let fp := fingerprint s o.a
      let reuse := (Word.ofN o.mod_).tst 0 && (oHdr s o.d 5).toNat * 2 ^ 32 + (oHdr s o.d 4).toNat == fp && oRows s o.d == n
      (if reuse then input s o.d (· == 0x42) else .ok s ()).bind fun s _ =>
      let given := if reuse then (List.range n).map (oNat s o.d) else if o.b = 0 then [] else (List.range n).map (oNat s o.b)
      let edges := (List.range n).flatMap (fun j => (colOf s o.a j).map (fun e => (e.1, j)))
      let (s, perm) := if reuse ∨ o.b ≠ 0 then (s, given) else minDegree s edges n (List.range n)
      if (o.b ≠ 0 ∧ oRows s o.b ≠ n) ∨ !((List.range n).all perm.contains) then .fail s .shape
      else
        let r0 := jobRun s
        let (s, cols) := ldlCols s o.a perm n n
        let nnz := (cols.map (fun c => c.l.length)).sum
        let (_, _, _, _, _, x) := ldlOfs n nnz
        if (oHdr s o.d 2).toNat < nnz ∨ !inWork (objAddr o.d) (32 + x + padW n) then .fail s .fill
        else .ok (writeLdl s o.d fp ((jobRun s).zero - r0.zero) ((jobRun s).tiny - r0.tiny) perm cols) ()

/-! ## Dense factorisations -/

/-- A column of a dense factor as stored: exponent and words from row 0. -/
structure DCol where
  f : Int := 0
  w : List Int := []
deriving DecidableEq, Repr

def DCol.at_ (c : DCol) (i : Nat) : Q := Q.scale (c.w.getD i 0) c.f

/-- Column j of a Cholesky factor from the columns before it (assumption 31). -/
def cholCol (s : State) (a : Nat) (cols : List DCol) (n j : Nat) : State × DCol :=
  let upd (i : Nat) : Q := cols.foldl (fun acc c => acc.sub ((c.at_ i).mul (c.at_ j))) (denseAt s a i j)
  let (s, p) := pivot s true (oExp s a) j (upd j)
  let sq (i : Nat) : Q := if i < j then {} else if i = j then p else ((upd i).mul (upd i)).div p
  let big := ((List.range n).map sq).foldl Q.max {}
  let l := if big.n = 0 then 0 else big.log2
  let f0 := l.fdiv 2 - 30
  let f := if big.le (Q.scale 1 (2 * (f0 + 30))) then f0 else f0 + 1
  let w (i : Nat) : Int := let m := (sq i).sqrtWord f; if i ≠ j ∧ (upd i).n < 0 then -m else m
  (s, { f := f, w := (List.range n).map w })

/-- All columns. -/
def cholCols (s : State) (a n : Nat) : Nat → State × List DCol
  | 0 => (s, [])
  | k + 1 =>
    let (s, cols) := cholCols s a n k
    let (s, c) := cholCol s a cols n k
    (s, cols ++ [c])

/-- Writes a dense factor: its columns, then their exponents; word 6 of its header counts the flags (R233, R242). -/
def writeDense (s : State) (d rows nZero nTiny : Nat) (cols : List DCol) : State :=
  let a := objAddr d
  let ws := cols.flatMap (fun c => c.w.take rows)
  let s := hwWrite s { unit := 0x16 } (a + 32) (wordBytes (ws.map (BitVec.ofInt 32)) ++ expBytes (cols.map (·.f)))
  let s := solvWrite s (a + 24) [flagWord nZero nTiny]
  sealObj s d ws

/-- `fact.chol` (R239, R242). -/
def opFactChol (o : MacroOp) (s : State) : MRes Unit :=
  (input s o.a (· == 0x40)).bind fun s _ =>
  (output s o.d (· == 0x43)).bind fun s _ =>
    let n := oRows s o.a
    if oCols s o.a ≠ n ∨ oRows s o.d ≠ n ∨ oCols s o.d ≠ n then .fail s .shape
    else
      let r0 := jobRun s
      let (s, cols) := cholCols s o.a n n
      .ok (writeDense s o.d n ((jobRun s).zero - r0.zero) ((jobRun s).tiny - r0.tiny) cols) ()

/-- b after the reflector I - β·v·vᵀ of column j: v is 0 above the diagonal, 1 on it and as stored below it (R233). -/
def reflect (rows j : Nat) (v : Nat → Q) (beta : Q) (b : List Q) : List Q :=
  let v' (i : Nat) : Q := if i < j then {} else if i = j then Q.ofInt 1 else v i
  let t := beta.mul (Q.sum ((List.range rows).map (fun i => (v' i).mul (b.getD i {}))))
  (List.range rows).map (fun i => (b.getD i {}).sub (t.mul (v' i)))

/-- Column j of a Householder QR factor from the stored columns before it. R's diagonal takes the sign opposite to the element it
replaces, and its square root is taken to 62 bits (assumption 32). -/
def qrCol (s : State) (a rows : Nat) (cols : List DCol) (j : Nat) : State × DCol :=
  let x := (cols.zipIdx).foldl (fun x c => reflect rows c.2 c.1.at_ (c.1.at_ rows) x) ((List.range rows).map (fun i => denseAt s a i j))
  let alpha := x.getD j {}
  let norm := (Q.sum ((x.drop j).map (fun q => q.mul q))).sqrtNear
  let d := if alpha.n < 0 then norm else norm.neg
  let (s, p) := pivot s false (oExp s a) j d
  let below (q : Q) : Q := q.div (alpha.sub d)
  let beta := (d.sub alpha).div d
  let l := x.take j ++ [p] ++ (x.drop (j + 1)).map below ++ [beta]
  let f := ((l.map Q.abs).foldl Q.max {}).expFor 30
  (s, { f := f, w := l.map (fun q => q.word f) })

/-- All columns. -/
def qrCols (s : State) (a rows : Nat) : Nat → State × List DCol
  | 0 => (s, [])
  | k + 1 =>
    let (s, cols) := qrCols s a rows k
    let (s, c) := qrCol s a rows cols k
    (s, cols ++ [c])

/-- `fact.qr` (R239, R242). -/
def opFactQr (o : MacroOp) (s : State) : MRes Unit :=
  (input s o.a (· == 0x40)).bind fun s _ =>
  (output s o.d (· == 0x44)).bind fun s _ =>
    if oRows s o.a < oCols s o.a ∨ oRows s o.d ≠ oRows s o.a ∨ oCols s o.d ≠ oCols s o.a then .fail s .shape
    else
      let r0 := jobRun s
      let (s, cols) := qrCols s o.a (oRows s o.a) (oCols s o.a)
      .ok (writeDense s o.d (oRows s o.a + 1) ((jobRun s).zero - r0.zero) ((jobRun s).tiny - r0.tiny) cols) ()

/-! ## Triangular solves -/

/-- A factor as read back from its object: order, permutation, columns of the triangle below the diagonal, diagonal. -/
structure Factor where
  n : Nat := 0
  perm : List Nat := []
  /-- per column: (row, number) below the diagonal -/
  cols : List (List (Nat × Q)) := []
  /-- diagonal of D for LDLᵀ, of L for Cholesky -/
  diag : List Q := []
  /-- unit diagonal with D apart -/
  unit : Bool := true
deriving DecidableEq, Repr

/-- Signed byte at an offset of an object's arrays. -/
def oByte (s : State) (a ofs : Nat) : Int := (memByte s (objAddr a + 32 + ofs)).toInt

/-- Reads an LDLᵀ or Cholesky factor. -/
def factorOf (s : State) (a : Nat) : Factor :=
  let n := oRows s a
  if oKind s a = 0x42 then
    let nnz := (oHdr s a 3).toNat
    let (p, i, v, e, d, de) := ldlOfs n nnz
    let col (j : Nat) : List (Nat × Q) :=
      let lo := oNat s a (p / 4 + j)
      let hi := oNat s a (p / 4 + j + 1)
      (List.range (hi - lo)).map (fun k => (oNat s a (i / 4 + lo + k), Q.scale (oWord s a (v / 4 + lo + k)) (oByte s a (e + j))))
    { n := n, perm := (List.range n).map (oNat s a), cols := (List.range n).map col
      diag := (List.range n).map (fun j => Q.scale (oWord s a (d / 4 + j)) (oByte s a (de + j))), unit := true }
  else
    let at_ (i j : Nat) : Q := Q.scale (oWord s a (j * n + i)) (oByte s a (4 * n * n + j))
    { n := n, perm := List.range n
      cols := (List.range n).map (fun j => (List.range (n - j - 1)).map (fun k => (j + 1 + k, at_ (j + 1 + k) j)))
      diag := (List.range n).map (fun j => at_ j j), unit := false }

/-- Forward substitution with L, column by column. -/
def forwardL (f : Factor) (b : List Q) : List Q :=
  (List.range f.n).foldl (fun b j =>
    let x := if f.unit then b.getD j {} else (b.getD j {}).div (f.diag.getD j {})
    (f.cols.getD j []).foldl (fun b e => b.set e.1 ((b.getD e.1 {}).sub (e.2.mul x))) (b.set j x)) b

/-- Backward substitution with Lᵀ. -/
def backwardL (f : Factor) (b : List Q) : List Q :=
  (List.range f.n).reverse.foldl (fun b j =>
    let x := (f.cols.getD j []).foldl (fun x e => x.sub (e.2.mul (b.getD e.1 {}))) (b.getD j {})
    b.set j (if f.unit then x else x.div (f.diag.getD j {}))) b

/-- The forward part: Pᵀ, L, then D for LDLᵀ; L for Cholesky (R239). -/
def forwardPart (f : Factor) (b : List Q) : List Q :=
  let y := forwardL f (f.perm.map (fun i => b.getD i {}))
  if f.unit then (y.zipIdx).map (fun e => e.1.div (f.diag.getD e.2 {})) else y

/-- The backward part. -/
def backwardPart (f : Factor) (y : List Q) : List Q :=
  let x := backwardL f y
  (List.range f.n).map (fun i => x.getD ((f.perm.findIdx? (· == i)).getD i) {})

/-- Entry of a QR factor. -/
def qrAt (s : State) (a i j : Nat) : Q :=
  Q.scale (oWord s a (j * (oRows s a + 1) + i)) (oByte s a (4 * (oRows s a + 1) * oCols s a + j))

/-- Qᵀ·b (R233). -/
def qrForward (s : State) (a : Nat) (b : List Q) : List Q :=
  (List.range (oCols s a)).foldl (fun b j => reflect (oRows s a) j (fun i => qrAt s a i j) (qrAt s a (oRows s a) j) b) b

/-- R·x = y. -/
def qrBackward (s : State) (a : Nat) (y : List Q) : List Q :=
  let n := oCols s a
  (List.range n).reverse.foldl (fun x j =>
    let t := ((List.range (n - j - 1)).map (· + j + 1)).foldl (fun t k => t.sub ((qrAt s a j k).mul (x.getD k {}))) (x.getD j {})
    x.set j (t.div (qrAt s a j j))) (y.take n)

/-- Is the kind a factor (R233)? -/
def isFactor (k : Nat) : Bool := k == 0x42 || k == 0x43 || k == 0x44

/-- `solve.tri` (R239): the result is exact for the stored factor and rounded once (assumption 31). -/
def opSolveTri (o : MacroOp) (s : State) : MRes Unit :=
  (input s o.a isFactor).bind fun s _ =>
  (input s o.b isVecKind).bind fun s _ =>
  (output s o.d isVecKind).bind fun s _ =>
    let qr := oKind s o.a = 0x44
    let m := oRows s o.a
    let n := if qr then oCols s o.a else m
    let part := o.mod_ % 4
    let nin := if part = 2 then n else m
    let nout := if part = 1 then m else n
    if part = 3 then .fail s .illegalOp
    else if oRows s o.b ≠ nin ∨ oRows s o.d ≠ nout then .fail s .shape
    else
      let b := vecOf s o.b
      let x : List Q :=
        if qr then
          (if part = 0 then qrBackward s o.a (qrForward s o.a b) else if part = 1 then qrForward s o.a b else qrBackward s o.a b)
        else
          let f := factorOf s o.a
          (if part = 0 then backwardPart f (forwardPart f b) else if part = 1 then forwardPart f b else backwardPart f b)
      writeVals s o.d nout x

/-- `schur`: D ← D - Bᵀ·A⁻¹·B (R239). -/
def opSchur (o : MacroOp) (s : State) : MRes Unit :=
  (input s o.a isFactor).bind fun s _ =>
  (input s o.b (fun k => isSparseKind k || k == 0x40)).bind fun s _ =>
  (input s o.d (· == 0x40)).bind fun s _ =>
    let n := if oKind s o.a = 0x44 then oCols s o.a else oRows s o.a
    let c := oCols s o.b
    if oRows s o.b ≠ n ∨ oRows s o.d ≠ c ∨ oCols s o.d ≠ c ∨ (isSparseKind (oKind s o.b) ∧ !sparseOk s o.b) ∨
        (oKind s o.a = 0x44 ∧ oRows s o.a ≠ n) then .fail s .shape
    else
      let bcol (j : Nat) : List Q := (List.range n).map (fun i => matAt s o.b i j)
      let solve (b : List Q) : List Q :=
        if oKind s o.a = 0x44 then qrBackward s o.a (qrForward s o.a b)
        else let f := factorOf s o.a; backwardPart f (forwardPart f b)
      let xs := (List.range c).map (fun j => solve (bcol j))
      writeVals s o.d c ((List.range c).flatMap (fun j => (List.range c).map (fun i =>
        (denseAt s o.d i j).sub (Q.sum (((bcol i).zip (xs.getD j [])).map (fun e => e.1.mul e.2))))))

end Sys2Proof.Machine
end

