-- ==== Sys2Proof/Machine/Jobs.lean ====
section
/-! DEFINITION. The jobs of the solver array: posting and polling, the sequencer, publishing, Afterglow and the lanes (R80, R81,
R224 to R228, R239, R246 to R257). -/
namespace Sys2Proof.Machine

/-! ## The job table -/

/-- A job, none when its handle is UNKNOWN (R81). -/
def getJob (s : State) (h : Nat) : Option Job := Tbl.find s.solv.jobs h

/-- Writes a job. -/
def setJob (s : State) (h : Nat) (j : Job) : State := { s with solv := { s.solv with jobs := Tbl.ins s.solv.jobs h j } }

/-- Jobs held, the running one included (R247). -/
def jobsHeld (s : State) : Nat := (s.solv.jobs.filter (fun e => e.2.state == 2 || e.2.state == 3)).length

/-- A job has not ended. -/
def Job.live (j : Job) : Bool := j.state == 1 || j.state == 2 || j.state == 3

/-- Issues a handle: the entry freed longest ago and its next generation; finished jobs of that entry become UNKNOWN (R81,
R247). With requests in all entries, which entry number a further handle takes is not given (assumption 33). -/
def issueHandle (s : State) : State × Nat :=
  let (s, e) := match s.solv.free with
    | e :: t => ({ s with solv := { s.solv with free := t } }, e)
    | [] => let (s, w) := freeW s; (s, w.toNat % 64)
  let g := Tbl.get 0 s.solv.gen e
  let g := if g = 1023 then 1 else g + 1
  ({ s with solv := { s.solv with
      gen := Tbl.put 0 s.solv.gen e g, jobs := s.solv.jobs.filter (fun x => x.1 % 64 != e || x.2.live) } }, g * 64 + e)

/-- A handle's entry becomes free (R247). -/
def freeEntry (s : State) (h : Nat) : State :=
  let e := h % 64
  if s.solv.free.contains e ∨ s.solv.jobs.any (fun x => x.1 % 64 == e && x.2.live) then s
  else { s with solv := { s.solv with free := s.solv.free ++ [e] } }

/-- A job enters the queue, or is refused by a full one with event 354 (R80, R247). -/
def enterQueue (s : State) (h : Nat) (j : Job) : State :=
  if 64 ≤ jobsHeld s then raise (freeEntry (setJob s h { j with state := 6 }) h) 354
  else
    let s := setJob s h { j with state := 2, order := s.solv.next }
    let s := { s with solv := { s.solv with next := s.solv.next + 1 } }
    fSetPart s 0x16 6 24 8 (max (fPart s 0x16 6 24 8) (jobsHeld s))

/-- A job's status word (R81). -/
def statusWord (j : Option Job) : Word :=
  match j with | some j => Word.ofN (j.code * 256 + j.state) | none => 0

/-- Index at which a generation of the frozen inputs keeps the status of a handle (R80). -/
def statusIdx (h : Nat) : Nat := 0x40000 + h

/-- The statuses as a freeze takes them (R80). -/
def frozenStatus (s : State) : Tbl Word := s.solv.jobs.map (fun e => (statusIdx e.1, statusWord (some e.2)))

/-- At a Meridian the requests of cycle cores enter the queue; their descriptors are copied now (R80, R246). A word of one that is
uncorrectable now delivers no data, and what the job takes for it is free (assumption 189). -/
def deliverJobs (s : State) : State :=
  let l := s.solv.reqs
  let s := { s with solv := { s.solv with reqs := [] } }
  l.foldl (fun s h =>
    match getJob s h with
    | some j =>
      if j.state = 1 then
        let s := (hwRead s { unit := 0x16 } .read j.addr 48).1
        enterQueue s h { j with desc := wordBytes (givenWords s j.addr 12) }
      else s
    | none => s) s

/-- The requests of a core that have not been delivered are dropped (R338). -/
def dropRequests (s : State) (unit : Nat) : State :=
  s.solv.reqs.foldl (fun s h =>
    match getJob s h with
    | some j =>
      if j.poster = unit then
        freeEntry { s with solv := { s.solv with jobs := Tbl.del s.solv.jobs h, reqs := s.solv.reqs.erase h } } h
      else s
    | none => s) s

/-! ## The job instructions -/

/-- The descriptor that `job.post` names: its alignment and its end in the home region (R63, R80). -/
def descAt (s : State) (e : Eng) (k : Nat) (ra : Reg) (f : Nat → Res) : Res :=
  let h := homeOf s e
  let ea := (reg s k ra).toNat
  if ea % 4 ≠ 0 then .trap s { cause := 2, addr := h.1 + ea }
  else if h.2 < ea + 48 then refuse s (whoIs e k) .read .unmapped (h.1 + ea) 0
  else f (h.1 + ea)

/-- `job.post` (R80). The descriptor is read where it enters the queue or the gate: now for ASM and MGT, whose `job.post` traps on
an uncorrectable word, and at the delivering Meridian for a cycle core (R246, assumption 189). -/
def execJobPost (h : Hdr) (rd ra : Reg) (s : State) : Out :=
  done s (runInstr h { word := encA 0b110010 rd ra 0 0, grp := .job }
    (fun k s =>
      descAt s h.eng k ra fun a =>
        let u := unitOf h.eng
        match h.eng with
        | .cyc _ =>
          if 16 ≤ (s.solv.reqs.filter (fun x => (getJob s x).any (·.poster == u))).length then .ok (setReg s k rd 0)
          else
            let (s, hd) := issueHandle s
            let s := setJob s hd { state := 1, poster := u, addr := a }
            .ok (setReg { s with solv := { s.solv with reqs := s.solv.reqs ++ [hd] } } k rd (Word.ofN hd))
        | .asm =>
          readRecord s h.eng k a 12 fun ws s =>
            if 64 ≤ jobsHeld s then .ok (setReg (raise s 354) k rd 0)
            else
              let (s, hd) := issueHandle s
              .ok (setReg (enterQueue s hd { poster := u, desc := wordBytes ws }) k rd (Word.ofN hd))
        | _ =>
          readRecord s h.eng k a 12 fun ws s =>
            let desc := wordBytes ws
            if s.gate.any (fun g => g.target == 0x16 * 64) then refuse s (whoIs h.eng k) .write .gateBusy a 0
            else
              let (s, hd) := issueHandle s
              let s := setJob s hd { state := 1, poster := u, desc := desc }
              .ok (setReg { s with gate := s.gate ++ [{ target := 0x16 * 64, change := .job desc hd }] } k rd (Word.ofN hd))) s)

/-- `job.poll`: live, or, on a cycle core, as frozen at the task's last freeze (R80, R81). -/
def execJobPoll (h : Hdr) (rd ra : Reg) (s : State) : Out :=
  done s (runInstr h { word := encA 0b110010 rd ra 0 1, grp := .job }
    (fun k s =>
      let hd := (reg s k ra).toNat
      let v : Word := match h.eng with
        | .cyc _ => if hd < 65536 then genWord s (readGen s h.eng k) (statusIdx hd) else 0
        | _ => statusWord (getJob s hd)
      .ok (setReg s k rd v)) s)

/-- Groups in service (R227). -/
def groupsActive (s : State) : Nat := fPart s 0x16 7 8 8

/-- Writes the result record (R253). -/
def writeResult (s : State) (r : JobRun) (state code : Nat) (failOp : Nat) : State :=
  let d := ((getJob s r.handle).map (·.desc)).getD []
  let a := natAt d 4 4
  if a = 0 ∨ 2 ^ 24 ≤ a ∨ !inWork (objAddr a) 64 ∨ !domainOn s 1 then s
  else
    let lim (n : Nat) : Nat := min 65535 n
    let ws : List Word :=
      [Word.ofN (natAt d 12 2 * 2 ^ 16 + r.handle), Word.ofN (state * 2 ^ 24 + code * 2 ^ 16), Word.ofN r.steps,
       Word.ofN (r.ag * 2 ^ 24 + fPart s 0x16 7 16 8 * 2 ^ 16 + groupsActive s * 2 ^ 8), Word.ofN (lim r.zero * 2 ^ 16 + lim r.tiny),
       Word.ofN ((r.firstRow.getD 0xFFFFF) % 2 ^ 20), Word.ofN (failOp * 2 ^ 16 + (if r.firstRow.isSome then r.firstOp % 65536 else 0xFFFF)),
       Word.ofN ((r.rangeRow.getD 0xFFFFF) % 2 ^ 20), Word.ofN r.matched, Word.ofN r.cold, Word.ofN r.sat, r.tk,
       s.clk.tick.setWidth 32, Word.ofN r.agSeq, 0]
    solvWrite s (objAddr a) (ws ++ [crc32c (wordBytes ws)])

/-- A job that never ran, as its result record shows it: its start is not given (assumption 196). -/
def neverRan (s : State) (h : Nat) : State × JobRun :=
  let (s, w) := freeW s
  (s, { handle := h, tk := w })

/-- Cancels a job that has not run: a queued one, whose descriptor has been copied, writes its result record; either counts as ended
(R81, R251, R253, R259). -/
def cancelJob (s : State) (h : Nat) (j : Job) : State :=
  let s := if j.state = 2 then (let (s, r) := neverRan s h; writeResult s r 7 0 0xFFFF) else s
  let s := fInc (freeEntry (setJob s h { j with state := 7 }) h) 0x16 0xD 0 32
  { s with
    solv := { s.solv with reqs := s.solv.reqs.erase h }
    gate := s.gate.filter (fun g => match g.change with | .job _ x => x != h | _ => true) }

/-- `job.cancel` cancels a job that does not run yet (R81). The spec gives the path of a posted job and none of a cancel request: it
acts at once, on every engine (assumption 190). -/
def execJobCancel (h : Hdr) (ra : Reg) (s : State) : Out :=
  done s (runInstr h { word := encA 0b110010 0 ra 0 2, grp := .job }
    (fun k s =>
      let hd := (reg s k ra).toNat
      match getJob s hd with
      | some j =>
        if j.state = 1 ∨ j.state = 2 then .ok (cancelJob s hd j) else .ok s
      | none => .ok s) s)

/-! ## Afterglow -/

/-- Deletes entry i. -/
def agDelete (s : State) (i : Nat) : State := agShow (zeroRange s (agDir i) 32)

/-- Empties Afterglow (R257). -/
def agClear (s : State) : State := agShow (zeroRange s 0x0802800000 0x10000)

/-- Byte `o` of the record of entry i: its bytes fill its pages in ascending order (R256). -/
def agByte (s : State) (i o : Nat) : Byte :=
  memByte s (0x0802800000 + (agPages s i).getD (o / 65536) 0 * 65536 + o % 65536)

/-- Bytes of a record. -/
def agBytes (s : State) (i ofs n : Nat) : List Byte := (List.range n).map (fun k => agByte s i (ofs + k))

/-- Word at byte `o` of a record. -/
def agWord (s : State) (i o : Nat) : Word := Word.ofN (leNat (agBytes s i o 4))

/-- Length of a record and whether its CRC passes (R256). -/
def agLen (s : State) (i : Nat) : Nat := 68 + 8 * ((agWord s i 16).toNat + (agWord s i 20).toNat)
def agCrcOk (s : State) (i : Nat) : Bool :=
  let n := agLen s i
  n ≤ 127 * 65536 && n ≤ (agPages s i).length * 65536 && crc32c (agBytes s i 0 (n - 4)) == agWord s i (n - 4)

/-- The newest of some entries. -/
def agNewest (s : State) (l : List Nat) : Option Nat :=
  l.foldl (fun b i => match b with | none => some i | some j => if agSeqOf s j < agSeqOf s i then some i else some j) none

/-- The record that a warm start takes, and whether entry for entry; a record whose CRC fails is deleted and the selection made
again (R250). -/
def agSelect (s : State) (cls fp shift : Nat) : Nat → State × Option (Nat × Bool)
  | 0 => (s, none)
  | n + 1 =>
    let cand := (List.range 16).filter (fun i => agValid s i && agClass s i == cls)
    let same := if shift = 0 then cand.filter (fun i => agFp s i == fp) else []
    match (if same.isEmpty then agNewest s cand else agNewest s same) with
    | none => (s, none)
    | some i =>
      if agCrcOk s i then (s, some (i, !same.isEmpty))
      else agSelect (post (agDelete s i) 0x16 2 0x060F []) cls fp shift n

/-- The running job's descriptor. -/
def jobDesc (s : State) : List Byte := ((getJob s (jobRun s).handle).map (·.desc)).getD []

/-- Problem class (R246). -/
def jobClass (s : State) : Nat := natAt (jobDesc s) 14 2

/-- The checks of an ID map with its vectors (R249, R250). -/
def idMapOk (s : State) (o : MacroOp) : Bool :=
  let np := oRows s o.d
  let nd := oCols s o.d
  let steps := (oHdr s o.d 4).toNat
  let es := (List.range (np + nd)).map (fun i => (decide (i < np), (memW s (objAddr o.d + 32 + 4 * i)).toNat))
  1 ≤ steps && steps ≤ 192 && oRows s o.a == np && (if o.b = 0 then nd == 0 else oRows s o.b == nd) &&
    es.all (fun e => e.2 < 2 ^ 24) && decide ((es.filter (fun e => e.2 % 65536 != 0xFFFF)).Nodup)

/-- The common operands of `ag.ld` and `ag.st`. -/
def agOperands (o : MacroOp) (s : State) (f : State → MRes Unit) : MRes Unit :=
  (input s o.a isVecKind).bind fun s _ =>
  (if o.b = 0 then .ok s () else input s o.b isVecKind).bind fun s _ =>
  (input s o.d (· == 0x45)).bind fun s _ =>
  (input s ((oHdr s o.d 3).field 0 24) isSparseKind).bind fun s _ =>
    if idMapOk s o then f s else .fail s .shape

/-- Writes loaded values into a vector: some entries, converted to its exponent; saturated ones are counted (R250). -/
def agFill (s : State) (a : Nat) (l : List (Option Q)) : State × Nat :=
  let e := oExp s a
  let ws := (l.zipIdx).map (fun x => match x.1 with
    | some q => (BitVec.ofInt 32 (clampS 32 (q.word e)), bit (outOf 32 (q.word e)))
    | none => (memW s (objAddr a + 32 + 4 * x.2), 0))
  (sealObj (solvWrite s (objAddr a + 32) (ws.map (·.1))) a (ws.map (·.1.toInt)), (ws.map (·.2)).sum)

/-- `ag.ld` (R250). -/
def opAgLd (o : MacroOp) (s : State) : MRes Unit :=
  if 191 < o.mod_ then .fail s .illegalOp
  else agOperands o s fun s =>
    let fp := fingerprint s ((oHdr s o.d 3).field 0 24)
    let np := oRows s o.d
    let nd := oCols s o.d
    let (s, sel) := agSelect s (jobClass s) fp o.mod_ 17
    let note (s : State) (out m c x q : Nat) : MRes Unit :=
      .ok (setS (setRun s { jobRun s with ag := out, matched := m, cold := c, sat := x, agSeq := q }) o.sd (intScalar out)) ()
    match sel with
    | none => note s 3 0 (np + nd) 0 0
    | some (i, exact) =>
      let rp := (agWord s i 16).toNat
      let rd := (agWord s i 20).toNat
      let pe := (agByte s i 24).toInt
      let de := (agByte s i 25).toInt
      let val (k : Nat) : Q := Q.scale (agWord s i (64 + 4 * (rp + rd) + 4 * k)).toInt (if k < rp then pe else de)
      let stored := (List.range (rp + rd)).map (fun k => (decide (k < rp), (agWord s i (64 + 4 * k)).toNat % 2 ^ 24, k))
      let find (k : Nat) : Option Q :=
        if exact ∧ rp = np ∧ rd = nd then some (val k)
        else
          let e := (memW s (objAddr o.d + 32 + 4 * k)).toNat
          if e % 65536 = 0xFFFF then none
          else
            let want := e + o.mod_ * 65536
            (stored.find? (fun x => x.1 == decide (k < np) && x.2.1 == want)).map (fun x => val x.2.2)
      let vals := (List.range (np + nd)).map find
      let m := (vals.filter (·.isSome)).length
      if m = 0 then note s 3 0 (np + nd) 0 0
      else
        let seq := agSeqOf s i
        let regs := (List.range 4).map (fun j =>
          ({ m := (agWord s i (32 + 8 * j)).toInt, x := (agByte s i (36 + 8 * j)).toInt } : Scalar))
        let (s, x1) := agFill s o.a (vals.take np)
        let (s, x2) := if o.b = 0 then (s, 0) else agFill s o.b (vals.drop np)
        let s := (regs.zipIdx).foldl (fun s e => setS s (12 + e.2) e.1) s
        note s (if m = np + nd then 1 else 2) m (np + nd - m) (x1 + x2) seq

/-- `ag.st`: prepares a record, stored when the job is DONE (R251); a follower stores nothing (R494). -/
def opAgSt (o : MacroOp) (s : State) : MRes Unit :=
  agOperands o s fun s =>
    let np := oRows s o.d
    let nd := oCols s o.d
    if follower s ∨ 127 * 65536 < 68 + 8 * (np + nd) then .ok (setS s o.sd (intScalar 0)) ()
    else
      let regs := (List.range 4).flatMap (fun j =>
        let v := getS s (12 + j)
        leBytes 4 (BitVec.ofInt 32 v.m).toNat ++ leBytes 1 (BitVec.ofInt 8 v.x).toNat ++ [0, 0, 0])
      let r : AgRec :=
        { cls := jobClass s, fp := fingerprint s ((oHdr s o.d 3).field 0 24)
          head := leBytes 4 np ++ leBytes 4 nd ++ leBytes 1 (BitVec.ofInt 8 (oExp s o.a)).toNat ++
            leBytes 1 (if o.b = 0 then 0 else (BitVec.ofInt 8 (oExp s o.b)).toNat) ++ leBytes 2 (oHdr s o.d 4).toNat
          body := regs ++ memBytes s (objAddr o.d + 32) (4 * (np + nd)) ++ memBytes s (objAddr o.a + 32) (4 * np) ++
            (if o.b = 0 then [] else memBytes s (objAddr o.b + 32) (4 * nd)) }
      .ok (setS (setRun s { jobRun s with stores := (jobRun s).stores ++ [r] }) o.sd (intScalar 1)) ()

/-- Evicts records until `need` pages and an entry are free (R251). -/
def agEvict (s : State) (need : Nat) : Nat → State
  | 0 => s
  | n + 1 =>
    let l := (List.range 16).filter (agValid s)
    if need ≤ (agFree s).length ∧ l.length < 16 then s
    else
      let old := l.foldl (fun b i => match b with | none => some i | some j => if agSeqOf s i < agSeqOf s j then some i else some j) (none : Option Nat)
      match old with
      | none => s
      | some i => agEvict (raise (agDelete s i) 359) need n

/-- Writes a record's bytes into its pages. -/
def agWrite (s : State) (pages : List Nat) (b : List Byte) : State :=
  (pages.zipIdx).foldl (fun s e => hwWrite s { unit := 0x16 } (0x0802800000 + e.1 * 65536) ((b.drop (e.2 * 65536)).take 65536)) s

/-- Stores one record at DONE (R251, R256). -/
def agStore (s : State) (r : AgRec) : State :=
  let s := (List.range 16).foldl (fun s i => if agValid s i ∧ agClass s i = r.cls ∧ agFp s i = r.fp then agDelete s i else s) s
  let len := 36 + r.body.length
  let need := (len + 65535) / 65536
  let s := agEvict s need 17
  match (List.range 16).find? (fun i => !agValid s i) with
  | none => s
  | some i =>
    let seq := s.solv.agSeq + 1
    let s := { s with solv := { s.solv with agSeq := seq } }
    let pages := (agFree s).take need
    let b := leBytes 4 r.cls ++ leBytes 8 r.fp ++ leBytes 4 seq ++ r.head ++
      leBytes 4 s.clk.opMs.toNat ++ r.body
    let s := agWrite s pages (b ++ leBytes 4 (crc32c b).toNat)
    let map (k : Nat) : Word := Word.ofN ((pages.filter (fun p => p / 32 == k)).foldl (fun n p => n + 2 ^ (p % 32)) 0)
    agShow (solvWrite s (agDir i) [Word.ofN (2 ^ 31 + r.cls), Word.ofN (r.fp / 2 ^ 32), Word.ofN r.fp, Word.ofN seq, map 0, map 1, map 2, map 3])

/-! ## The end of a job -/

/-- What ends every job: the result record, the flagged pivots' record, the count, the entry (R243, R247, R253). -/
def endJob (s : State) (state code failOp : Nat) : State :=
  let r := jobRun s
  let s := writeResult s r state code failOp
  let s := if r.zero + r.tiny = 0 then s
    else post s 0x16 1 0x060F [Word.ofN r.zero, Word.ofN r.tiny, Word.ofN (r.firstRow.getD 0xFFFFF)]
  let s := match getJob s r.handle with | some j => setJob s r.handle { j with state := state, code := code } | none => s
  freeEntry (fInc { s with solv := { s.solv with run := none } } 0x16 0xD 0 32) r.handle

/-- The running job ends FAILED (R231, R253, R254). -/
def failJob (s : State) (w : Why) (failOp : Nat) : State :=
  let s := match w with
    | .range row => setRun s { jobRun s with rangeRow := some row }
    | _ => s
  let r := jobRun s
  let w6 := Word.ofN (failOp * 2 ^ 16 + (if r.firstRow.isSome then r.firstOp % 65536 else 0xFFFF))
  let s := match w with
    | .range row => raisePost s 0x16 2 358 [Word.ofN failOp, Word.ofN row]
    | _ => s
  let s := endJob s 5 w.code failOp
  raisePost s 0x16 2 353 [Word.ofN r.handle, Word.ofN w.code, w6]

/-- Publish pair i: source and destination (R246). -/
def pubPair (s : State) (i : Nat) : Nat × Nat := (natAt (jobDesc s) (16 + 8 * i) 4, natAt (jobDesc s) (20 + 8 * i) 4)

/-- A pair may be copied (R252). -/
def pubOk (s : State) (p : Nat × Nat) : Bool :=
  p.1 == 0 || (inWork (objAddr p.1) (32 + oBody s p.1) && inWork (objAddr p.2) (32 + oBody s p.1) &&
    oKind s p.1 == oKind s p.2 && oRows s p.1 == oRows s p.2 && oCols s p.1 == oCols s p.2)

/-- Copies a source object, header included, onto its destination. -/
def publish (s : State) (p : Nat × Nat) : State :=
  if p.1 = 0 then s else hwWrite s { unit := 0x16 } (objAddr p.2) (memBytes s (objAddr p.1) (32 + oBody s p.1))

/-! ## The sequencer -/

/-- One macro-op of the running job whose opcode is `op`: the step limit, an undefined opcode or reserved bit, then the op
itself (R237, R239, R248). A command for another opcode than the one at the job's index has no effect (assumption 7). -/
def solvStep (s : State) (op : Nat) (adv : Bool) (body : MacroOp → State → MRes Unit) : State :=
  match s.solv.run with
  | none => s
  | some r =>
    let a := objAddr (natAt (jobDesc s) 0 3) + 16 * r.pc
    let limit := if natAt (jobDesc s) 8 4 = 0 then (fGet s 0x16 4).toNat else natAt (jobDesc s) 8 4
    if !unitOn s 0x16 ∨ s.pwr.asleep then s
    else if limit ≤ r.steps then failJob s .stepLimit 0xFFFF
    else if !inWork a 16 then failJob s .illegalOp (r.pc % 65536)
    else match solvRead s a 16 with
      | .fail s w => failJob s w (r.pc % 65536)
      | .ok s _ =>
        let o := fetchOp s
        if o.op = 0 ∨ 0x10 < o.op ∨ opReserved o then failJob s .illegalOp (r.pc % 65536)
        else if o.op ≠ op then s
        else match body o (setRun s { r with steps := r.steps + 1 }) with
          | .fail s w => failJob s w (r.pc % 65536)
          | .ok s _ => if adv ∧ s.solv.run.isSome then setRun s { jobRun s with pc := r.pc + 1 } else s

/-- A descriptor keeps R246. -/
def descOk (d : List Byte) : Bool :=
  let pair (o : Nat) : Bool := natAt d o 4 < 2 ^ 24 && natAt d (o + 4) 4 < 2 ^ 24 && (natAt d o 4 == 0) == (natAt d (o + 4) 4 == 0)
  natAt d 3 1 / 16 == 1 && natAt d 3 1 % 8 == 0 && natAt d 0 3 != 0 && natAt d 7 1 == 0 && pair 16 && pair 24 &&
    natAt d 32 4 < 2 ^ 24 && natAt d 36 4 == 0 && natAt d 40 4 == 0 && natAt d 44 4 == 0

/-- The job that SOLV takes next: the oldest of high priority, else the oldest (R247). -/
def nextJob (s : State) : Option (Nat × Job) :=
  let q := s.solv.jobs.filter (fun e => e.2.state == 2)
  let hi := q.filter (fun e => natAt e.2.desc 3 1 / 8 % 2 == 1)
  (if hi.isEmpty then q else hi).foldl (fun b e => match b with
    | none => some e
    | some x => if e.2.order < x.2.order then some e else some x) none

/-- SOLV starts a job (R246, R247): the descriptor is checked now; without a group in service it fails at once (R227). -/
def startJob (s : State) : State :=
  if !unitOn s 0x16 || s.pwr.asleep || !fBit s 0x16 1 0 || s.solv.run.isSome then s
  else match nextJob s with
    | none => s
    | some (h, j) =>
      let s := setJob s h { j with state := 3 }
      let s := setRun s { handle := h, tau := (fGet s 0x16 2).toNat, delta := (fGet s 0x16 3).toNat, tk := s.clk.tick.setWidth 32 }
      if groupsActive s = 0 then failJob s .noLanes 0xFFFF
      else if !descOk j.desc then failJob s .descriptor 0xFFFF
      else s

/-- SOLV takes its next job (R246, R247). -/
def execJobStart (s : State) : Out := done s (startJob s)

/-- Factors P·A·Pᵀ = L·D·Lᵀ (R239). -/
def execFactLdl (s : State) : Out := done s (solvStep s 1 true opFactLdl)
/-- A = L·Lᵀ (R239). -/
def execFactChol (s : State) : Out := done s (solvStep s 2 true opFactChol)
/-- Householder QR (R239). -/
def execFactQr (s : State) : Out := done s (solvStep s 3 true opFactQr)
/-- Solves with a factor (R239). -/
def execSolveTri (s : State) : Out := done s (solvStep s 4 true opSolveTri)
/-- A Schur complement (R239). -/
def execSchur (s : State) : Out := done s (solvStep s 5 true opSchur)
/-- A dense product (R239). -/
def execGemm (s : State) : Out := done s (solvStep s 6 true opGemm)
/-- A sparse product (R239). -/
def execSpmv (s : State) : Out := done s (solvStep s 7 true opSpmv)
/-- A scaled sum (R239). -/
def execAxpy (s : State) : Out := done s (solvStep s 8 true opAxpy)
/-- Clips to bounds (R239). -/
def execClip (s : State) : Out := done s (solvStep s 9 true opClip)
/-- A norm or dot product (R239). -/
def execNorm (s : State) : Out := done s (solvStep s 10 true opNorm)
/-- Sets the pivot policy (R241). -/
def execPivPol (s : State) : Out := done s (solvStep s 11 true opPivPol)
/-- Scalar arithmetic (R240). -/
def execSc (s : State) : Out := done s (solvStep s 12 true opSc)
/-- Branches (R239). -/
def execSeqBr (s : State) : Out := done s (solvStep s 13 false opSeqBr)

/-- `seq.end` ends the job DONE: both publish pairs are checked, then copied; Afterglow's records are stored; the result (R239, R251
to R253). -/
def opSeqEnd (o : MacroOp) (s : State) : MRes Unit :=
  let p := pubPair s 0
  let q := pubPair s 1
  let look (x : Nat × Nat) (s : State) : MRes Unit :=
    if x.1 = 0 then .ok s ()
    else (solvRead s (objAddr x.1) (32 + oBody s x.1)).bind fun s _ => solvRead s (objAddr x.2) 32
  (look p s).bind fun s _ => (look q s).bind fun s _ =>
  if !pubOk s p || !pubOk s q then .fail s .shape
  else
    let s := publish (publish s p) q
    let s := (jobRun s).stores.foldl agStore s
    .ok (raise (endJob s 4 (o.w1.field 0 8) 0xFFFF) 352) ()

/-- Ends the job (R239, R251 to R253). -/
def execSeqEnd (s : State) : Out := done s (solvStep s 14 false opSeqEnd)

/-- Loads a warm start (R250). -/
def execAgLd (s : State) : Out := done s (solvStep s 15 true opAgLd)
/-- Prepares an Afterglow record (R251). -/
def execAgSt (s : State) : Out := done s (solvStep s 16 true opAgSt)

/-! ## The array at work -/

/-- The running job's next macro-op, whichever it is (R237, R239); one that is none ends the job. -/
def arrayOp (s : State) : State :=
  let op := (fetchOp s).op
  match op with
  | 1 => solvStep s op true opFactLdl
  | 2 => solvStep s op true opFactChol
  | 3 => solvStep s op true opFactQr
  | 4 => solvStep s op true opSolveTri
  | 5 => solvStep s op true opSchur
  | 6 => solvStep s op true opGemm
  | 7 => solvStep s op true opSpmv
  | 8 => solvStep s op true opAxpy
  | 9 => solvStep s op true opClip
  | 10 => solvStep s op true opNorm
  | 11 => solvStep s op true opPivPol
  | 12 => solvStep s op true opSc
  | 13 => solvStep s op false opSeqBr
  | 14 => solvStep s op false opSeqEnd
  | 15 => solvStep s op true opAgLd
  | _ => solvStep s op true opAgSt

/-- The array goes on by `n` actions, each the start of a job or a macro-op of the running one, until the job of a handle has ended. -/
def arrayRun : Nat → State → Nat → State
  | 0, s, _ => s
  | n + 1, s, h =>
    match getJob s h with
    | some j => if j.live then arrayRun n (if s.solv.run.isSome then arrayOp s else startJob s) h else s
    | none => s

/-- Every queued and running job ends FAILED with POWER before SOLV is switched off (R255). -/
def solvPowerOff (s : State) : State :=
  let s := if s.solv.run.isSome then failJob s .power 0xFFFF else s
  (s.solv.jobs.filter (fun e => e.2.state == 2)).foldl (fun s e =>
    let (s, r) := neverRan s e.1
    failJob (setRun s r) .power 0xFFFF) s

/-- SOLV's pending set applies; AG_CLEAR empties Afterglow and reads 0 again (R84, R257, R259). -/
def solvCommit (s : State) : State :=
  let s := applyFields s 0x16
  if fBit s 0x16 0x00F 0 then agClear (actionDone s 0x16 0x00F 0 1) else s

/-- RUN of SOLV was written: a stopped SOLV between jobs is at its boundary (R247). -/
def solvRunWrite (s : State) (v : Word) : State := if !v.tst 0 && s.solv.run.isNone then solvCommit s else s

/-! ## Lanes -/

/-- Group g is out of service (R227); its spare is in use (R226). -/
def groupLost (s : State) (g : Nat) : Bool := fBit s 0x16 (0xA + g / 32) (g % 32)
def spareUsed (s : State) (g : Nat) : Bool := fBit s 0x16 (8 + g / 32) (g % 32)

/-- A lane is marked as failed (R226, R227): spared, or its group taken out; the tile in progress runs again. With the last group the
running job fails and the record of severity 3 is posted. -/
def laneFail (s : State) (g l : Nat) : State :=
  if groupLost s g ∨ Tbl.find s.solv.lane g = some l then s
  else
    let s := fInc s 0x16 0xC 0 32
    let s := { s with solv := { s.solv with test := Tbl.del s.solv.test g } }
    if !spareUsed s g then
      let s := fSetBit s 0x16 (8 + g / 32) (g % 32) true
      let s := fSetPart s 0x16 7 16 8 (fPart s 0x16 7 16 8 - 1)
      raisePost { s with solv := { s.solv with lane := Tbl.ins s.solv.lane g l } } 0x16 2 355 [Word.ofN g, Word.ofN l]
    else
      let s := fSetBit s 0x16 (0xA + g / 32) (g % 32) true
      let s := fSetPart s 0x16 7 8 8 (groupsActive s - 1)
      let s := raisePost s 0x16 2 356 []
      if groupsActive s ≠ 0 then s
      else
        let s := post s 0x16 3 0x060F []
        if s.solv.run.isSome then failJob s .noLanes ((jobRun s).pc % 65536) else s

/-- A residue mismatch fails a lane (R225). -/
def execLaneFail (group : Fin 64) (lane : Fin 17) (s : State) : Out :=
  done s (if unitOn s 0x16 then laneFail s group.val lane.val else s)

/-- Every BIST_STEP_MS the next lane of a group with an unused spare hands its work over for its pattern test (R225). -/
def execBistStep (group : Fin 64) (s : State) : Out :=
  let g := group.val
  done s (
    let t := s.clk.tick.toNat
    if !unitOn s 0x16 || fPart s 0x16 5 0 16 = 0 || groupLost s g || spareUsed s g || (Tbl.find s.solv.test g).isSome ||
        t < Tbl.get s.solv.bistBase s.solv.bistAt g + 100 * fPart s 0x16 5 0 16 then s
    else
      let l := Tbl.get 0 s.solv.rot g
      { s with solv := { s.solv with
        test := Tbl.ins s.solv.test g (l + 1), rot := Tbl.put 0 s.solv.rot g ((l + 1) % 16), bistAt := Tbl.ins s.solv.bistAt g t } })

/-- The pattern test ends: the lane takes its work back, or is marked failed (R225). -/
def execBistPatternDone (group : Fin 64) (pass : Bool) (s : State) : Out :=
  let g := group.val
  done s (match Tbl.find s.solv.test g with
    | none => s
    | some l =>
      if !unitOn s 0x16 then s
      else if pass then { s with solv := { s.solv with test := Tbl.del s.solv.test g } }
      else laneFail s g (l - 1))

/-- The lanes that fail the test of the whole array: which do is the silicon's, and free (assumption 197). -/
def lanesBad (n : Nat) : List (Nat × Nat) :=
  ((List.range 64).flatMap (fun g => (List.range 17).map (fun l => (g, l)))).filter (fun e => Config.laneBad n e.1 e.2)

/-- The array is tested again at power-on reset and at switch-on of SOLV: the maps are rebuilt, and a lane that fails is mapped out
(R228). -/
def lanesReset (s : State) : State :=
  let s := [8, 9, 0xA, 0xB].foldl (fun s f => fSet s 0x16 f 0) s
  let s := fSet s 0x16 7 (Word.ofN (64 * 2 ^ 16 + 64 * 2 ^ 8))
  let n := s.free
  let s := { s with
    free := n + 1
    solv := { s.solv with lane := [], test := [], rot := [], bistAt := [], bistBase := s.clk.tick.toNat } }
  (lanesBad n).foldl (fun s e => laneFail s e.1 e.2) s

end Sys2Proof.Machine
end

