-- ==== Sys2Proof/Machine/EventOps.lean ====
section
/-! DEFINITION. Events, time, special registers, predicates and the system instructions of one engine
(R43, R76 to R78, R82, R86, R92). -/
namespace Sys2Proof.Machine

/-- The software event belongs to the plane's block (R76). -/
def softEvent (p : Plane) (n : Nat) : Bool :=
  match p with
  | .control => 0x380 ≤ n && n ≤ 0x3BF
  | .data => 0x3C0 ≤ n && n ≤ 0x3DF
  | .management => 0x3E0 ≤ n && n ≤ 0x3FF

/-- First word of an event instruction (R78). -/
def encEvt (pd : PReg) (op : Nat) (rt : Reg) (n : Nat) : Word :=
  encF 0b110000 [(pd.toNat, 20), (op, 18), (rt.toNat, 13), (n, 0)]

/-- Raises a software event of the plane's block; another number traps EVENT_PERM (R76, R78). -/
def execSig (h : Hdr) (n : BitVec 10) (s : State) : Out :=
  done s (runInstr h { word := encEvt 0 0 0 n.toNat, grp := .sig }
    (fun _ s =>
      if softEvent (planeOf (unitOf h.eng)) n.toNat then .ok (raise s n.toNat) else .trap s { cause := 7 }) s)

/-- The tick at which a timeout passes: none for 0xFFFF_FFFF (R78). -/
def deadlineOf (s : State) (rt : Word) : Option Nat :=
  if rt = 0xFFFFFFFF then none else some (s.clk.tick.toNat + rt.toNat)

/-- Suspends a context. -/
def suspend (s : State) (k : Nat) (w : Wait) : State := setCtx s k { getCtx s k with wait := w }

/-- The pending events of group `g` under a mask (R78). -/
def groupBits (s : State) (e g : Nat) (mask : Word) : Word :=
  mask &&& Word.ofN ((List.range 32).foldl (fun n i => n + bit (evtPending s e (g * 32 + i)) * 2 ^ i) 0)

/-- Consumes the events of a group (R78). -/
def consumeGroup (s : State) (e g : Nat) (bits : Word) : State :=
  (List.range 32).foldl (fun s i => if bits.tst i then evtClear s e (g * 32 + i) else s) s

/-- Ends a `wait` or `waitany`: events consumed, pd and rm written, the context goes on (R78). -/
def takeEvents (s : State) (e k : Nat) (w : Wait) : State :=
  match w with
  | .event pd n _ =>
    let p := evtPending s e n
    let s := if p then evtClear s e n else s
    setPred (suspend s k .none) k (BitVec.ofNat 3 pd) p
  | .group pd g rm mask _ =>
    let b := groupBits s e g mask
    let s := consumeGroup s e g b
    setPred (setReg (suspend s k .none) k (BitVec.ofNat 5 rm) b) k (BitVec.ofNat 3 pd) (b != 0)
  | _ => s

/-- A suspended context has its event, or its timeout has passed (R78). -/
def mayResume (s : State) (e : Nat) (w : Wait) : Bool :=
  let past (d : Option Nat) : Bool := match d with | some t => t ≤ s.clk.tick.toNat | none => false
  match w with
  | .event _ n d => evtPending s e n || past d
  | .group _ g _ mask d => groupBits s e g mask != 0 || past d
  | _ => false

/-- Executes a wait: it ends at once, or suspends (R78). -/
def waitOp (e : Eng) (k : Nat) (w : Wait) (rt : Word) (s : State) : Res :=
  if rt = 0 ∨ mayResume s (evtOwner e) w then .ok (takeEvents s (evtOwner e) k w) else .ok (suspend s k w)

/-- Suspends until event n is pending or rt ticks have passed (R78). -/
def execWait (h : Hdr) (pd : PReg) (n : BitVec 10) (rt : Reg) (s : State) : Out :=
  done s (runInstr h { word := encEvt pd 1 rt n.toNat, grp := .wait }
    (fun k s => waitOp h.eng k (.event pd.toNat n.toNat (deadlineOf s (reg s k rt))) (reg s k rt) s) s)

/-- Suspends until a masked event of group g is pending or rt ticks have passed (R78). -/
def execWaitany (h : Hdr) (pd : PReg) (g rm rt : Reg) (s : State) : Out :=
  done s (runInstr h { word := encEvt pd 2 rt (g.toNat * 32 + rm.toNat), grp := .wait }
    (fun k s =>
      waitOp h.eng k (.group pd.toNat g.toNat rm.toNat (reg s k rm) (deadlineOf s (reg s k rt))) (reg s k rt) s) s)

/-- A suspended engine, or a suspended task of a core, resumes when it may (R78, R319). -/
def execWaitResume (eng : Eng) (task : BitVec 4) (s : State) : Out :=
  let k := match eng with | .cyc n => taskCtx s n.val task.toNat | e => soloCtx e
  let c := getCtx s k
  let runs := match eng with | .cyc n => (getCore s n.val).mode == .running | .saf => s.saf.inCycle | _ => true
  done s (if c.live && runs && !s.pwr.asleep && mayResume s (evtOwner eng) c.wait then takeEvents s (evtOwner eng) k c.wait else s)

/-- Clears the engine's pending bit (R78). -/
def execEvtClr (h : Hdr) (n : BitVec 10) (s : State) : Out :=
  done s (runInstr h { word := encEvt 0 3 0 n.toNat, grp := .wait } (fun _ s => .ok (evtClear s (evtOwner h.eng) n.toNat)) s)

/-- `time.rd`: nanoseconds to rd, seconds [31:0] to rd+1, seconds [47:16] latched (R82). -/
def execTimeRd (h : Hdr) (rd : Reg) (s : State) : Out :=
  done s (runInstr h { word := encA 0b110011 rd 0 0 0, grp := .time, bad := oddReg rd }
    (fun k s =>
      let s' := setReg (setReg s k rd (Word.ofN s.time.ns)) k (pairReg rd) (Word.ofN s.time.sec)
      .ok (setCtx s' k { getCtx s' k with secHi := Word.ofN (s.time.sec / 2 ^ 16) })) s)

/-- `time.rdh`: the latched seconds [47:32], zero-extended (R82). -/
def execTimeRdh (h : Hdr) (rd : Reg) (s : State) : Out :=
  done s (runInstr h { word := encA 0b110011 rd 0 0 1, grp := .time }
    (fun k s => .ok (setReg s k rd (Word.ofN ((getCtx s k).secHi.field 16 16)))) s)

/-- The special register cyc (R43). -/
def cycReg (s : State) (e : Eng) (k : Nat) : Word :=
  match e with
  | .cyc n => (getTask s n.val (k % 16)).cyc
  | .saf => s.saf.cyc
  | _ => 0

/-- Reads a special register; tk and op latch their high parts, and selector 0b111 is ILLEGAL (R43, R82). -/
def execSrRd (h : Hdr) (rd : Reg) (sel : BitVec 3) (s : State) : Out :=
  done s (runInstr h { word := encA 0b110011 rd 0 (sel.setWidth 5) 2, grp := .time, bad := sel == 7 }
    (fun k s =>
      let c := getCtx s k
      if sel = 0 then
        .ok (setReg (setCtx s k { c with tkHi := s.clk.tick.extractLsb' 32 16 }) k rd (s.clk.tick.setWidth 32))
      else if sel = 3 then
        .ok (setReg (setCtx s k { c with opHi := s.clk.opMs.extractLsb' 32 16 }) k rd (s.clk.opMs.setWidth 32))
      else
        let v : Word :=
          if sel = 1 then cycReg s h.eng k else if sel = 2 then s.twin.ep else if sel = 4 then c.opHi.setWidth 32
          else if sel = 5 then s.clk.pcc else c.tkHi.setWidth 32
        .ok (setReg s k rd v)) s)

/-- A system instruction (R86). -/
def sysDec (rd ra rb : Reg) (func : Nat) : Dec := { word := encA 0b110101 rd ra rb func, grp := .sys }

/-- `nop` does nothing (R86). -/
def execNop (h : Hdr) (s : State) : Out := done s (runInstr h (sysDec 0 0 0 0) (fun _ s => .ok s) s)

/-- `trap` traps with cause SOFT and its code (R86). -/
def execTrap (h : Hdr) (code : BitVec 10) (s : State) : Out :=
  done s (runInstr h { word := encF 0b110101 [(code.toNat, 8), (4, 0)], grp := .sys }
    (fun _ s => .trap s { cause := 9, soft := code.toNat }) s)

/-- `tret` returns to the pc in trap record word 1, or past the instruction there; outside a handler it is ILLEGAL, and a
target that is not a multiple of 4 traps ALIGN (R62, R86); the address shown is assumption 186. -/
def execTret (h : Hdr) (skips : Bool) (s : State) : Out :=
  done s (runInstr h { word := encF 0b110101 [(bit skips, 8), (5, 0)], grp := .sys }
    (fun k s =>
      if !(getCtx s k).inHandler then .trap s { cause := 1 }
      else
        let base := (homeOf s h.eng).1
        let back (pc : Word) (s : State) : Res :=
          if pc.toNat % 4 ≠ 0 then .trap s { cause := 2, addr := base + pc.toNat }
          else .ok (setCtx s k { getCtx s k with pc := pc, inHandler := false })
        withAccess s (whoIs h.eng k) .read false (base + 0x44) 4 fun s =>
          if skips then
            withAccess s (whoIs h.eng k) .read false (base + 0x50) 4 fun s =>
              back (memW s (base + 0x44) + (if opcodeX ((memW s (base + 0x50)).field 26 6) then 8 else 4)) s
          else back (memW s (base + 0x44)) s) s)

/-- rd[7:0] takes p7 to p0, bit 0 as 1 (R86). -/
def execPRd (h : Hdr) (rd : Reg) (s : State) : Out :=
  done s (runInstr h (sysDec rd 0 0 8) (fun k s => .ok (setReg s k rd ((getCtx s k).p.setWidth 32 ||| 1))) s)

/-- p7 to p1 take ra[7:1] (R86). -/
def execPWr (h : Hdr) (ra : Reg) (s : State) : Out :=
  done s (runInstr h (sysDec 0 ra 0 9)
    (fun k s => .ok (setCtx s k { getCtx s k with p := ((reg s k ra).setWidth 8) &&& 0xFE })) s)

end Sys2Proof.Machine
end

