-- ==== Sys2Proof/Machine/Afe.lean ====
section
/-! DEFINITION. Analogue acquisition (R118 to R139): plans, triggers, conversions, urgent requests and diagnostics. -/
namespace Sys2Proof.Machine

/-- The converter that serves a channel of 0 to 95 (R118). -/
def converterOf (ch : Nat) : Nat := if ch < 32 then ch / 4 else 8 + (ch - 32) / 8

/-- The channel is reachable by sequencer n (R118). -/
def reachable (n ch : Nat) : Bool :=
  (ch < 96 && converterOf ch == n) || (n < 8 && 96 ≤ ch && ch ≤ 99) || (n == 15 && ch == 100)

/-- Converter n of a sequencer. -/
def seqOf : Eng → Nat
  | .afe n => n.val
  | _ => 0

/-- Field number of STATUS_n (R140). -/
def afeStatus (n : Nat) : Nat := 0x106 + 16 * n

/-! ## Conversion times -/

/-- Acquisition time in ns of a profile, as converter n uses it (R119, R140). -/
def acqNs (s : State) (n prof : Nat) : Nat := (afeGlobal s n (1 + prof)).field 0 16

/-- The first instant of the present tick, in ns of the timebase. -/
def nowNs (s : State) : Nat := s.clk.tick.toNat * 10000

/-- An instant of the timebase can have been reached: it does not lie after the present tick. -/
def reached (s : State) (t : Nat) : Bool := t < nowNs s + 10000

/-- Halo's conversion waits for SAR_15 or runs on it, and no plan conversion runs (R572). -/
def haloHolds (s : State) (n : Nat) (c : Conv) : Bool :=
  n == 15 && s.hmi.haloReq && !c.urgRun && (match c.run with | none => true | some x => x.halo)

/-- A plan conversion takes the first place, the converter being free of plan conversions from `t` ns at the earliest (R119, R122, R128).
An urgent or a Halo conversion that holds the converter makes it late, and so does a due start that has certainly passed. -/
def startCnv (s : State) (n : Nat) (c : Conv) (x : Cnv) (t : Nat) (held : Bool) : Cnv :=
  let halo := n == 15 && s.hmi.haloReq
  let acq := acqNs s n x.prof
  { x with
    acq := acq, ready := t + acq + 375, halo := halo
    late := x.late || held || halo || (match x.due with | some d => d < t | none => false)
    pulled := Tbl.get 0 c.pulls x.ch != 0 }

/-- The latest instant at which the first conversion after the trigger just consumed can be due (R123, R128): a tick trigger occurs at
its tick, a PWM event anywhere in it. -/
def triggerDue (s : State) (n : Nat) (c : Conv) : Nat :=
  c.trigAt * 10000 + (if fBit s 0x11 (0x101 + 16 * n) 16 then 9999 else 0) + fPart s 0x11 (0x102 + 16 * n) 0 16 + 6

/-- `cnv` queues a conversion (R122); with both places full the sequencer waits. -/
def execCnv (h : Hdr) (rd : Reg) (ch : BitVec 7) (prof : BitVec 2) (ow : Bool) (pri : BitVec 2) (s : State) : Out :=
  let n := seqOf h.eng
  done s (runInstr h
    { word := encF 0b111100 [(rd.toNat, 18), (ch.toNat, 11), (prof.toNat, 9), (bit ow, 8), (pri.toNat, 6)], grp := .cnv
      bad := oddReg rd || !reachable n ch.toNat }
    (fun k s =>
      let c := getConv s n
      let x : Cnv := { rd := rd.toNat, ch := ch.toNat, prof := prof.toNat, ow := ow, pri := pri.toNat, late := c.first.getD false
                       due := if c.first.isSome then some (triggerDue s n c) else none }
      match c.run, c.next with
      | none, _ =>
        let t := max (nowNs s) (if c.first.isSome then c.trigAt * 10000 + fPart s 0x11 (0x102 + 16 * n) 0 16 + 6 else 0)
        .ok (setConv s n { c with run := some (startCnv s n c x t c.urgRun), first := none })
      | some _, none => .ok (setConv s n { c with next := some x, first := none })
      | some _, some _ => .ok (setPc s k ((getCtx s k).pc - 4))) s)

/-- `trg.wait` ends the plan sequence and waits for the trigger (R123, R126, R138). A plan update that applies there starts the
new plan instead. -/
def execTrgWait (h : Hdr) (pd : PReg) (rt : Reg) (s : State) : Out :=
  let n := seqOf h.eng
  done s (runInstr h { word := encF 0b111101 [(pd.toNat, 20), (rt.toNat, 13)], grp := .cnv }
    (fun k s =>
      let t := reg s k rt
      let (s, fresh) := afePlan (afeConfig s n) n
      if fresh then .ok s
      else
        let c := getConv s n
        if c.trig then .ok (setPred (setConv s n { c with trig := false, first := some true }) k pd true)
        else if t = 0 then .ok (setPred s k pd false)
        else .ok (suspend s k (.trigger pd.toNat (deadlineOf s t)))) s)

/-- `ow.set` sets the open-wire current of a field-class channel (R121, R124); a conversion of the channel that runs has had a pull
(R127). -/
def execOwSet (h : Hdr) (ch : BitVec 7) (pull : BitVec 3) (s : State) : Out :=
  let n := seqOf h.eng
  done s (runInstr h
    { word := encF 0b111110 [(ch.toNat, 11), (pull.toNat, 8)], grp := .cnv
      bad := !reachable n ch.toNat || ch.toNat < 32 || 96 ≤ ch.toNat || pull == 4 }
    (fun _ s =>
      let c := getConv s n
      let on (c' : Nat) : Bool := pull != 0 && c' == ch.toNat
      .ok (setConv s n { c with
        pulls := Tbl.put 0 c.pulls ch.toNat pull.toNat
        run := c.run.map (fun x => { x with pulled := x.pulled || on x.ch })
        urgDue := c.urgDue.map (fun u => { u with pulled := u.pulled || on u.ch }) })) s)

/-- The trigger of SAR_n occurs: at a tick whose count is a multiple of the divisor, or at the selected PWM event (R125). A
waiting sequencer takes it; otherwise it becomes pending, or is lost (R123, R126). -/
def execSarTrigger (n : Fin 16) (s : State) : Out :=
  done s (
    let w := fGet s 0x11 (0x101 + 16 * n.val)
    let c := getConv s n.val
    let now := s.clk.tick.toNat
    let occurs := if w.tst 16 then c.due else now % w.field 0 16 == 0 && c.last != some now && s.clk.refClk
    if !occurs || !domainOn s 5 || s.pwr.asleep then s
    else
      let s := setConv s n.val { c with due := false, last := some now }
      let k := 16 + n.val
      match (getCtx s k).wait with
      | .trigger pd _ =>
        let s := setConv s n.val { getConv s n.val with first := some false, trigAt := now }
        setPred (suspend s k .none) k (BitVec.ofNat 3 pd) true
      | _ =>
        if c.trig then raise (fInc s 0x11 (afeStatus n.val) 24 8) 276
        else setConv s n.val { getConv s n.val with trig := true, trigAt := now })

/-- The timeout of `trg.wait` passes (R123). -/
def execTrgWaitTimeout (n : Fin 16) (s : State) : Out :=
  done s (
    let k := 16 + n.val
    match (getCtx s k).wait with
    | .trigger pd (some d) =>
      if d ≤ s.clk.tick.toNat && !s.pwr.asleep then setPred (suspend s k .none) k (BitVec.ofNat 3 pd) false else s
    | _ => s)

/-! ## Results -/

/-- A conversion of an internal channel 96 to 99 is checked against its window (R133, R134). -/
def diagCheck (s : State) (n ch code : Nat) : State :=
  let w := afeGlobal s n (0x007 + (ch - 96))
  let c := getConv s n
  if w.field 0 16 ≤ code ∧ code ≤ w.field 16 16 then
    let f := c.failed.erase ch
    let s := setConv s n { c with failed := f, gap := 0 }
    fSetBit (fSetBit s 0x11 (afeStatus n) 3 (!f.isEmpty)) 0x11 (afeStatus n) 4 false
  else
    let s := setConv s n { c with failed := if c.failed.contains ch then c.failed else c.failed ++ [ch] }
    raisePost (fSetBit s 0x11 (afeStatus n) 3 true) 0x11 2 273 [Word.ofN ch, Word.ofN code]

/-- A conversion of a channel of 0 to 95 counts towards the diagnostic gap of a fast converter (R135). -/
def diagGap (s : State) (n : Nat) : State :=
  let g := fPart s 0x11 (0x105 + 16 * n) 0 16
  let c := getConv s n
  if n < 8 ∧ g ≠ 0 then
    let s := setConv s n { c with gap := c.gap + 1 }
    if g ≤ c.gap + 1 ∧ !fBit s 0x11 (afeStatus n) 4 then raise (fSetBit s 0x11 (afeStatus n) 4 true) 274 else s
  else s

/-- The open-wire check of a `cnv` with ow = 1 on a channel with a pull (R136). -/
def openCheck (s : State) (n ch code : Nat) : State × Bool :=
  let p := Tbl.get 0 (getConv s n).pulls ch
  if p = 0 then (s, false)
  else
    let isOpen := if p < 4 then (afeGlobal s n 0x006).field 0 16 ≤ code else code ≤ (afeGlobal s n 0x005).field 0 16
    let f := 0x00B + (ch - 32) / 32
    let was := fBit s 0x11 f (ch % 32)
    let s := fSetBit s 0x11 f (ch % 32) isOpen
    (if isOpen && !was then raisePost s 0x11 2 272 [Word.ofN ch] else s, isOpen)

/-- What every completed conversion does to the diagnostics (R134, R135). -/
def diagnose (s : State) (n ch code : Nat) : State :=
  if 96 ≤ ch ∧ ch ≤ 99 then diagCheck s n ch code else if ch < 96 then diagGap s n else s

/-- DIAG of a result delivered now (R135). -/
def diagFlag (s : State) (n : Nat) : Bool := fBit s 0x11 (afeStatus n) 3 || fBit s 0x11 (afeStatus n) 4

/-- The result word (R127). -/
def resultWord (pull diag opn late : Bool) (aborts : Nat) (urg : Bool) (ch code : Nat) : Word :=
  Word.ofN (2 ^ 31 + bit pull * 2 ^ 30 + bit diag * 2 ^ 29 + bit opn * 2 ^ 28 + bit late * 2 ^ 27 + min 7 aborts * 2 ^ 24 +
    bit urg * 2 ^ 23 + ch * 2 ^ 16 + code)

/-- The running plan conversion completes (R119, R122, R127), not before its acquisition and 375 ns of conversion have passed. The command
gives its input, whether its first acquisition started late within a tick, and the nanosecond counter at the hold instant. The queued one
follows without a gap, or after the urgent ones that are due and the Halo conversion (R130, R572). -/
def execConversionDone (n : Fin 16) (nv : Int) (late : Bool) (ns : Word) (s : State) : Out :=
  let code := adcCode nv
  done s (
    let c := getConv s n.val
    match c.run with
    | none => s
    | some x =>
      if c.urgRun || x.halo || !reached s x.ready then s
      else
        let s := diagnose s n.val x.ch code
        let (s, opn) := if x.ow then openCheck s n.val x.ch code else (s, false)
        let w := resultWord x.pulled (diagFlag s n.val) opn (late || x.late) x.aborts false x.ch code
        let k := 16 + n.val
        let s :=
          if x.drop || !(getCtx s k).live then s
          else setReg (setReg s k (BitVec.ofNat 5 x.rd) w) k (BitVec.ofNat 5 (x.rd + 1)) ns
        let held := !c.urgDue.isEmpty
        let t := max x.ready (nowNs s)
        setConv s n.val { getConv s n.val with
          run := c.next.map (fun y => startCnv s n.val c y t held), next := none, urgRun := held, urgReady := t + acqNs s n.val 0 + 375 })

/-! ## Urgent requests -/

/-- The place of a request among those that wait: by arrival, simultaneous ones by ascending slot number (R131). -/
def urgInsert (u : Urg) : List Urg → List Urg
  | [] => [u]
  | x :: t => if x.at_ = u.at_ ∧ u.slot < x.slot then u :: x :: t else x :: urgInsert u t

/-- The instant in ns of the timebase before which a request cannot be due on converter n (R128, R130). -/
def urgDueNs (s : State) (n : Nat) (u : Urg) : Nat := u.at_ * 40 + fPart s 0x11 (0x103 + 16 * n) 0 16 + 6

/-- A loop slot raises an urgent request for source `src` at the instant `at_` of its trigger (R129, R132): true when it is accepted. -/
def urgentRequest (s : State) (slot src ch at_ : Nat) : State × Bool :=
  let n := converterOf ch
  let c := getConv s n
  let now := s.clk.tick.toNat
  let used := if c.budTick = now then c.budN else 0
  if domainOn s 5 ∧ used < fPart s 0x11 (0x104 + 16 * n) 0 4 ∧ c.urg.length + c.urgDue.length < 4 then
    (setConv s n { c with urg := urgInsert { slot := slot, src := src, ch := ch, tag := (getSlot s slot).trigs, at_ := at_ } c.urg, budTick := now, budN := used + 1 }, true)
  else (raise (fInc s 0x11 (afeStatus n) 16 8) 275, false)

/-- The oldest accepted request becomes due (R130, R131): it aborts a running plan conversion of priority 0b00 to 0b10; one of
priority 0b11, another urgent one and a Halo conversion end first, and the request is late. `started` says whether the plan conversion in
the first place is acquiring or converting; one that becomes due at the same instant waits and is late. -/
def execUrgentConversionDue (n : Fin 16) (started : Bool) (s : State) : Out :=
  done s (
    let c := getConv s n.val
    match c.urg with
    | [] => s
    | u :: rest =>
      if !reached s (urgDueNs s n.val u) then s
      else
      let u := { u with late := u.late || c.urgRun || haloHolds s n.val c, pulled := Tbl.get 0 c.pulls u.ch != 0 }
      let c := { c with
        urg := rest
        urgReady := if c.urgRun then c.urgReady else max (nowNs s) (urgDueNs s n.val u) + acqNs s n.val 0 + 375 }
      match c.run with
      | some x =>
        if c.urgRun then setConv s n.val { c with urgDue := c.urgDue ++ [u] }
        else if !started || x.halo then
          setConv s n.val { c with urgDue := c.urgDue ++ [u], urgRun := true, run := some { x with late := true } }
        else if x.pri = 3 then setConv s n.val { c with urgDue := c.urgDue ++ [{ u with late := true }] }
        else
          setConv s n.val { c with
            urgDue := c.urgDue ++ [u], urgRun := true
            run := some { x with aborts := min 7 (x.aborts + 1), ready := nowNs s + x.acq + 379 } }
      | none => setConv s n.val { c with urgDue := c.urgDue ++ [u], urgRun := true })

/-- The AFE domain is off: its converters lose everything (R124, R132). -/
def afeReset (s : State) : State :=
  { s with afe := [], ctxs := Tbl.clear s.ctxs 16 16 }

/-- RUN of sequencer n was written (R139): 0 stops it, discards the results of its conversions and leaves it at its boundary; 1
releases it at 0x400 with cleared registers and counts, whatever it was doing. -/
def afeRunWrite (s : State) (n : Nat) (v : Word) : State :=
  let k := 16 + n
  if v.tst 0 then
    let s := fSet s 0x11 (afeStatus n) ((fGet s 0x11 (afeStatus n) &&& 0x0000FFFF).put 2 false)
    setCtx s k (freshCtx 0x400)
  else
    let c := getConv s n
    let s := setCtx s k { getCtx s k with live := false, wait := .none }
    let s := setConv s n { c with
      run := c.run.map (fun x => { x with drop := true }), next := c.next.map (fun x => { x with drop := true }), first := none }
    sequenceEnd s n

end Sys2Proof.Machine
end

