-- ==== Sys2Proof/Machine/Cle.lean ====
section
/-! DEFINITION. The closed-loop engine (R381 to R400): triggers, sources, laws, the repetitive controller, deadlines, commits,
injection and PWM channels. -/
namespace Sys2Proof.Machine

/-! ## PWM channels -/

/-- A duty goes to compare A of a channel (R392, R393): at the next counter zero, or at once with CMPA_LOAD = 1. -/
def setCmpa (s : State) (c : Nat) (u : Int) : State :=
  let v := (roundQ (u * (fPart s 0x10 (0x101 + 4 * c) 0 20 : Nat)) 65536)
  let v := if v < 0 then 0 else min v.toNat (2 ^ 20 - 1)
  if fBit s 0x10 (0x100 + 4 * c) 27 then fSet s 0x10 (0x103 + 4 * c) (Word.ofN v)
  else { s with cle := { s.cle with cmpa := Tbl.put none s.cle.cmpa c (some v) } }

/-- The channel takes its compare A from the output area (R394). -/
def pwmFromArea (s : State) (c : Nat) : Bool := fPart s 0x10 (0x100 + 4 * c) 25 2 == 1

/-- Step 3 of a Meridian: channels with SRC = 0b01 take the published duty (R394). -/
def pwmPublish (s : State) : State :=
  (List.range 32).foldl (fun s c =>
    if pwmFromArea s c && domainOn s 4 then
      let i := outOfs (fGet s 0x10 (0x100 + 4 * c)) / 4
      setCmpa s c (((forceAt s i).getD (Tbl.get 0 s.pi.pub i)).toInt)
    else s) s

/-- A channel's counter zero: its committed fields and its waiting compare A apply (R392, R401). -/
def pwmZero (s : State) (c : Nat) : State :=
  let s := if (pendFind s 0x10 (0x100 + 4 * c)).isSome then pendTake s 0x10 (0x100 + 4 * c) else s
  let s := if (pendFind s 0x10 (0x101 + 4 * c)).isSome then pendTake s 0x10 (0x101 + 4 * c) else s
  match Tbl.get none s.cle.cmpa c with
  | some v => fSet { s with cle := { s.cle with cmpa := Tbl.put none s.cle.cmpa c none } } 0x10 (0x103 + 4 * c) (Word.ofN v)
  | none => s

/-- The instant of an aligned channel's next counter zero, in ns: the first multiple of PERIOD_NS in the tick in progress that lies after
its latest counter zero; none when no multiple does (R34, R393). -/
def alignedZero (s : State) (c : Nat) : Option Nat :=
  let p := max 1 (fPart s 0x10 (0x101 + 4 * c) 0 20)
  match instantIn s p with
  | none => none
  | some k =>
    let k := match Tbl.find s.cle.zeroAt c with | some t => max k (t / p + 1) | none => k
    if k * p * 2 ^ 48 < tickEnd s then some (k * p) else none

/-- A counter zero that comes now is at its instant: with ALIGN = 1 only on a network-time multiple of PERIOD_NS, to which the period is
lengthened or shortened (R34, R393). -/
def zeroDue (s : State) (c : Nat) : Bool := !fBit s 0x10 (0x100 + 4 * c) 28 || (alignedZero s c).isSome

/-- An aligned counter zero is remembered, so that the next one lies on a later multiple. -/
def zeroKept (s : State) (c : Nat) : State :=
  if fBit s 0x10 (0x100 + 4 * c) 28 then
    match alignedZero s c with
    | some t => { s with cle := { s.cle with zeroAt := Tbl.ins s.cle.zeroAt c t } }
    | none => s
  else s

/-- An event of a PWM channel (R393): 0 counter zero, 1 period end, 2 compare A, 3 compare B. Slots and converters that select it
have their trigger (R125, R382). -/
def execPwmEvent (c : Fin 32) (ev : BitVec 2) (s : State) : Out :=
  done s (
    if !fBit s 0x10 (0x100 + 4 * c.val) 31 || !domainOn s 4 || s.pwr.asleep || (ev == 0 && !zeroDue s c.val) then s
    else
      let s := if ev = 0 then pwmZero (zeroKept s c.val) c.val else s
      let s := cleOccur s (fun x => x.kind == 0 && x.index == c.val && x.ev == ev.toNat)
      (List.range 16).foldl (fun s n =>
        let w := fGet s 0x11 (0x101 + 16 * n)
        if w.tst 16 && w.field 19 5 == c.val && w.field 17 2 == ev.toNat then setConv s n { getConv s n with due := true } else s) s)

/-! ## Sources -/

/-- (raw - OFS) × GAIN as a signed word, and whether it saturated (R383). -/
def sourceValue (s : State) (n k : Nat) (raw : Int) : Int × Bool :=
  let g := slotW s n (6 + 3 * k)
  let v := roundQ ((raw - (slotW s n (5 + 3 * k)).toInt) * coefM g) (2 ^ coefS g)
  (clampS 32 v, outOf 32 v)

/-- Records the value of a source. -/
def sourcePut (s : State) (n k : Nat) (raw : Int) (flagged : Bool) : State :=
  let (v, sat) := sourceValue s n k raw
  let x := getSlot s n
  setSlot s n { x with src := x.src.set k (v, flagged), srcSat := x.srcSat || sat }

/-- Samples source k at the trigger (R383). A conversion source is requested instead; a refused request counts as flagged with
INV_FLAG set: the second answer says that the source is invalid (R384). -/
def sourceSample (s : State) (n k : Nat) : State × Bool :=
  let w := slotW s n (4 + 3 * k)
  let kind := w.field 29 3
  let inv (f : Bool) : Bool := f && w.tst 28
  let x := getSlot s n
  match kind with
  | 1 =>
    let (s, ok) := urgentRequest s n k (w.field 0 7) (x.dl - (slotW s n 0).field 0 16)
    if ok then (setSlot s n { getSlot s n with urg := (getSlot s n).urg ++ [k] }, false) else (s, true)
  | 2 =>
    let c := Tbl.get {} s.cle.pls (w.field 0 5)
    if w.tst 5 then
      match c.gap with
      | some g => (sourcePut s n k (Int.ofNat (min g (2 ^ 31 - 1))) false, false)
      | none => let (s, f) := freeW s; (sourcePut s n k f.toInt false, false)
    else
      let before := x.pls.getD k c.n
      let s := setSlot s n { x with pls := (x.pls ++ List.replicate (4 - x.pls.length) 0).set k c.n }
      (sourcePut s n k (Int.ofNat (c.n - before)) false, false)
  | 3 =>
    let a := 0x0300000000 + 0x1000 * w.field 8 8
    let f := (given s (a + 0x40)).field 24 8 != 1
    (sourcePut s n k (given s (a + 0x4C0 + 4 * w.field 0 8)).toInt f, inv f)
  | 4 => (sourcePut s n k ((forceAt s (w.field 0 19 / 4)).getD (genWord s (curGen s) (w.field 0 19 / 4))).toInt false, false)
  | 5 => (sourcePut s n k ((forceAt s (outOfs w / 4)).getD (Tbl.get 0 s.pi.pub (outOfs w / 4))).toInt false, false)
  | 6 =>
    let f := (getSlot s (w.field 0 9)).bad
    (sourcePut s n k (liveW s (w.field 0 9) 5).toInt f, inv f)
  | _ => (sourcePut s n k 0 false, false)

/-- An invalid source ends the run with the output kept (R384). -/
def slotHold (s : State) (n : Nat) : State :=
  let s := raise (slotFlag (slotFlag s n 24 true) n 23 false) 258
  slotEnd (setSlot s n { getSlot s n with bad := true }) n

/-! ## Injection -/

/-- π × 2^120. -/
def piFix : Int := 0x3243F6A8885A308D313198A2E037073

/-- sin (2π φ / 2^32) × 2^120. -/
def sinTurn (phi : Nat) : Int :=
  let q : Nat := phi / 2 ^ 30 % 4
  let f : Nat := phi % 2 ^ 30
  let f : Nat := if q % 2 = 1 then 2 ^ 30 - f else f
  let x : Int := (piFix * (f : Int)).fdiv (2 ^ 31)
  let x2 := (x * x).fdiv (2 ^ 120)
  let r := (List.range 20).foldl (fun (a : Int × Int) i =>
    let t := (-(a.2 * x2)).fdiv ((2 ^ 120 : Int) * ((2 * i + 2) * (2 * i + 3) : Nat))
    (a.1 + t, t)) (x, x)
  if q < 2 then r.1 else -r.1

/-- Bit k of the maximal-length sequence of length n, started from all ones (R397): its first n bits are ones. -/
def prbsBit (n tap k : Nat) : Bool :=
  let step (l : List Bool) : List Bool := (l.getD (n - 1) true != l.getD (tap - 1) true) :: l.take (n - 1)
  let m := k % (2 ^ n - 1)
  if m < n then true else ((List.range (m + 1 - n)).foldl (fun l _ => step l) (List.replicate n true)).headD true

/-- The value added at trigger j (R397). -/
def injValue (s : State) (n j : Nat) : Int :=
  let w := slotW s n 39
  let amp := (slotW s n 40).toInt
  match w.field 30 2 with
  | 1 => if j < w.field 0 16 then 0 else amp
  | 2 =>
    let (len, tap) := match w.field 26 2 with | 0 => (7, 6) | 1 => (9, 5) | 2 => (11, 9) | _ => (15, 14)
    if prbsBit len tap (j / max 1 (w.field 16 8)) then amp else -amp
  | 3 =>
    let i0 := (slotW s n 42).toNat
    let di := (slotW s n 43).toInt
    let phi := ((j * i0 : Nat) : Int) + (j * (j - 1) / 2 : Nat) * di
    clampS 32 (roundQ (amp * sinTurn (phi.emod (2 ^ 32)).toNat) (2 ^ 120))
  | _ => 0

/-- The injection at a trigger (R397): INJ_START starts it, DUR triggers end it with event 260. True when it starts. -/
def injTrigger (s : State) (n : Nat) : State × Bool :=
  let go := (liveW s n 0).tst 30 && (slotW s n 39).field 30 2 != 0
  let s := livePart s n 0 30 1 0
  let s := if go then setLive (slotFlag s n 26 true) n 9 0 else s
  let s := if slotBit s n 26 && (slotW s n 41).toNat ≤ (liveW s n 9).toNat then injEnd s n else s
  if slotBit s n 26 then
    let j := (liveW s n 9).toNat
    let v := injValue s n j
    (setSlot (setLive s n 9 (Word.ofN (j + 1))) n { getSlot s n with inj := some v }, go)
  else (setSlot s n { getSlot s n with inj := none }, go)

/-! ## Triggers -/

/-- The repetitive index advances at every trigger, a lost one too (R389). -/
def repAdvance (s : State) (n : Nat) : State :=
  if (slotW s n 0).tst 20 then
    setLive s n 8 (Word.ofN (((liveW s n 8).toNat + 1) % max 1 ((slotW s n 33).field 0 13)))
  else s

/-- Capture units of a slot that start or go on at this trigger (R398). -/
def capStart (s : State) (n : Nat) (inj : Bool) : State :=
  let l := (List.range 16).filter (fun c =>
    let w := fGet s 0x10 (0x020 + 2 * c)
    w.tst 31 && w.field 16 9 == n && (fBit s 0x10 (0x021 + 2 * c) 30 || !w.tst 30 || inj))
  let s := l.foldl (fun s c => fSetBit s 0x10 (0x021 + 2 * c) 30 true) s
  setSlot s n { getSlot s n with caps := l }

/-- A trigger that arrives while the previous run is not over (R381, R389, R397, R398). -/
def slotLost (s : State) (n : Nat) : State :=
  let s := setLive s n 3 (Word.ofN (satInc 32 (liveW s n 3).toNat))
  let s := raise (fInc s 0x10 0x015 0 32) 257
  let s := repAdvance s n
  let s := if slotBit s n 26 then setLive s n 9 (liveW s n 9 + 1) else s
  let l := (List.range 16).filter (fun c => fBit s 0x10 (0x021 + 2 * c) 30 && fPart s 0x10 (0x020 + 2 * c) 16 9 == n)
  l.foldl (fun s c => capSample s n c true) (setSlot s n { getSlot s n with trigs := (getSlot s n).trigs + 1 })

/-- A run is ready for an engine; the most runs ready at once are kept (R381, R401). -/
def slotReady (s : State) (n : Nat) : State :=
  let s := setSlot s n { getSlot s n with run := .ready }
  let k := (s.cle.slots.filter (fun e => e.2.run == .ready)).length
  fSetPart s 0x10 0x012 16 8 (max (fPart s 0x10 0x012 16 8) (min 255 k))

/-- An accepted trigger (R381): the instant, the sources, the urgent requests and the deadline. -/
def slotAccept (s : State) (n period : Nat) (ns : Word) : State :=
  let s := slotFlag (setLive s n 6 ns) n 29 true
  let k := (liveW s n 8).toNat
  let x := getSlot s n
  let s := setSlot s n { x with
    src := List.replicate 4 (0, false), urg := [], srcSat := false, law := none, k := k, gen := curGen s
    trigs := x.trigs + 1, dl := s.clk.tick.toNat * 250 + period + (slotW s n 0).field 0 16, run := .waiting }
  let s := repAdvance s n
  let (s, inj) := injTrigger s n
  let s := capStart s n inj
  let conv (k : Nat) : Bool := (slotW s n (4 + 3 * k)).field 29 3 == 1
  let order := (List.range 4).filter (fun k => !conv k) ++ (List.range 4).filter conv
  let (s, bad) := order.foldl (fun (a : State × Bool) k => let (s, b) := sourceSample a.1 n k; (s, a.2 || b)) (s, false)
  if bad then slotHold s n else if (getSlot s n).urg.isEmpty then slotReady s n else s

/-- The trigger of a loop slot (R381, R382, R399). `period` counts REF_CLK periods within the present tick, `ns` is the
nanosecond counter. A slot that is not enabled, or has not run since, is at its boundary at its next trigger. -/
def execSlotTrigger (slot : Fin 512) (period : Fin 250) (ns : Word) (s : State) : Out :=
  done s (
    let n := slot.val
    let x := getSlot s n
    let now := s.clk.tick.toNat
    let occurs := if x.kind = 1 then now % max 1 x.div == x.phase && x.tick != some now else x.due
    if !cleTakes s || (x.on && !occurs) then s
    else
      let s := if x.on then setSlot s n { x with due := false, tick := some now } else s
      if x.run ≠ .idle then slotLost s n
      else
        let s := if x.on && x.trigs ≠ 0 then s else slotBoundary s n
        if (getSlot s n).on then
          slotAccept (setSlot s n { getSlot s n with tick := some now, due := false, occ := max 1 (getSlot s n).occ }) n period.val ns
        else s)

/-- An urgent conversion completes (R119, R127, R130), not before its acquisition on profile 0 and its conversion have passed: its result
reaches the slot 2 ns later, and a flagged one may make the source invalid (R384). -/
def execUrgentConversionDone (n : Fin 16) (nv : Int) (late : Bool) (s : State) : Out :=
  let code := adcCode nv
  done s (
    let c := getConv s n.val
    if !c.urgRun || !reached s c.urgReady then s
    else match c.urgDue with
      | [] => s
      | u :: rest =>
        let t := max c.urgReady (nowNs s)
        let s := setConv s n.val { c with
          urgDue := rest, urgRun := !rest.isEmpty, urgReady := t + acqNs s n.val 0 + 375
          run := c.run.map (fun x => { x with ready := max x.ready (t + x.acq + 375 + (if x.aborts = 0 then 0 else 4)) }) }
        let s := diagnose s n.val u.ch code
        let w := resultWord u.pulled (diagFlag s n.val) false (late || u.late) 0 true u.ch code
        let x := getSlot s u.slot
        if x.run = .waiting && x.trigs == u.tag && x.urg.contains u.src then
          let f := w.tst 29 || w.tst 28
          let s := sourcePut s u.slot u.src (Int.ofNat (w.field 0 16)) f
          let s := setSlot s u.slot { getSlot s u.slot with urg := x.urg.erase u.src }
          if f && (slotW s u.slot (4 + 3 * u.src)).tst 28 then slotHold s u.slot
          else if (x.urg.erase u.src).isEmpty then slotReady s u.slot
          else s
        else s)

/-! ## Laws -/

/-- A number with a mark that something saturated on the way to it (R380 SAT). -/
abbrev Sv := Int × Bool

/-- The product of a coefficient word and a signal, aligned to 2^-32 (R385). -/
def prodSig (c : Word) (x : Int) : Int :=
  if coefS c ≤ 16 then coefM c * x * (2 ^ (16 - coefS c) : Nat) else roundShift .nearest (coefM c * x) (coefS c - 16)

/-- The product of a coefficient word and a Q31.32 state, aligned to 2^-32 (R385). -/
def prodState (c : Word) (x : Int) : Int := roundShift .nearest (coefM c * x) (coefS c)

/-- A signal at 2^-32. -/
def asFine (x : Int) : Int := x * 65536

/-- The sum in the 80-bit accumulator (R60, R385). -/
def accSum (l : List Int) : Sv :=
  l.foldl (fun a x => (clampS 80 (a.1 + x), a.2 || outOf 80 (a.1 + x))) (0, false)

/-- A sum stored as a Q15.16 signal (R385). -/
def storeSig (a : Sv) : Sv := let v := roundShift .nearest a.1 16; (clampS 32 v, a.2 || outOf 32 v)

/-- A sum stored as a Q31.32 state (R385). -/
def storeState (a : Sv) : Sv := (clampS 64 a.1, a.2 || outOf 64 a.1)

/-- A difference or sum of signals as a signal. -/
def sigSum (l : List Int) : Sv := (clampS 32 l.sum, outOf 32 l.sum)

/-- A 64-bit state in words w and w + 1 of the live block, low word first (R9, R386). -/
def liveState (s : State) (n w : Nat) : Int :=
  let v : Nat := (liveW s n w).toNat + 2 ^ 32 * (liveW s n (w + 1)).toNat
  if v < 2 ^ 63 then v else (v : Int) - 2 ^ 64

/-- Writes it. -/
def setLiveState (s : State) (n w : Nat) (v : Int) : State :=
  let b := BitVec.ofInt 64 v
  setLive (setLive s n w (b.setWidth 32)) n (w + 1) (b.extractLsb' 32 32)

/-- Source k of the run. -/
def srcOf (s : State) (n k : Nat) : Int := ((getSlot s n).src.getD k (0, false)).1

/-- The run tracks source 3 (R388): TRACK_EN is 1 on a PID law and source 3 is not flagged. -/
def tracking (s : State) (n : Nat) : Bool :=
  (slotW s n 0).tst 18 && (slotW s n 0).field 28 4 != 2 && !((getSlot s n).src.getD 3 (0, false)).2

/-- Clamps to UMIN and UMAX. -/
def clampU (s : State) (n : Nat) (x : Int) : Int := max (slotW s n 17).toInt (min (slotW s n 18).toInt x)

/-- The repetitive term c[(k + REP_LEAD) mod REP_N] (R389). -/
def repTerm (s : State) (n : Nat) : Int :=
  if (slotW s n 0).tst 20 then
    let w := slotW s n 33
    (given s (0x0500200000 + 4 * ((slotW s n 32).field 0 19 + ((getSlot s n).k + w.field 16 12) % max 1 (w.field 0 13)))).toInt
  else 0

/-- PID and two-degree-of-freedom PID up to v (R386, R388). -/
def pidLaw (s : State) (n : Nat) : LawRun :=
  let w0 := slotW s n 0
  let c (k : Nat) : Word := slotW s n (20 + k)
  let two := w0.field 28 4 = 1
  let x := getSlot s n
  let inj := x.inj.getD 0
  let pt1 := (slotW s n 39).tst 29
  let y := srcOf s n 0
  let r := sigSum [srcOf s n 1, if pt1 then 0 else inj]
  let y1 := (liveW s n 20).toInt
  let y2 := (liveW s n 21).toInt
  let yf1 := (liveW s n 22).toInt
  let yf2 := (liveW s n 23).toInt
  let r1 := (liveW s n 24).toInt
  let yf : Sv :=
    if w0.tst 21 then
      storeSig (accSum [prodSig (c 7) y, prodSig (c 8) y1, prodSig (c 9) y2, -prodSig (c 10) yf1, -prodSig (c 11) yf2])
    else (y, false)
  let e := sigSum [r.1, -yf.1]
  let weighted (k : Word) (r yf : Int) (plain : Int) : Sv :=
    if two then storeSig (accSum [prodSig k r, -asFine yf]) else sigSum [plain, -yf]
  let b := weighted (c 5) r.1 yf.1 r.1
  let p := storeSig (accSum [prodSig (c 0) b.1])
  let g := weighted (c 6) r.1 yf.1 0
  let g1 := weighted (c 6) r1 yf1 0
  let dd := sigSum [g.1, -g1.1]
  let d := storeState (accSum [prodState (c 3) (liveState s n 18), prodSig (c 2) dd.1])
  let i := storeState (accSum [liveState s n 16, prodSig (c 1) e.1])
  let rest := [asFine p.1, d.1, asFine (srcOf s n 2), asFine (repTerm s n), asFine (if pt1 then inj else 0)]
  let v := storeSig (accSum (i.1 :: rest))
  let sat := x.srcSat || r.2 || yf.2 || e.2 || b.2 || p.2 || g.2 || g1.2 || dd.2 || d.2
  let fit (u : Int) : Sv := storeState ((asFine u - rest.sum), false)
  if tracking s n then
    let u := clampU s n (srcOf s n 3)
    { v := u, i := (fit u).1, d := d.1, y := y, yf := yf.1, r := r.1, e := e.1, sat := sat || (fit u).2 }
  else if w0.tst 19 && (x.bump || x.tracked) then
    let u := (liveW s n 5).toInt
    { v := u, i := (fit u).1, d := d.1, y := y, yf := yf.1, r := r.1, e := e.1, sat := sat || (fit u).2 }
  else { v := v.1, i := i.1, d := d.1, y := y, yf := yf.1, r := r.1, e := e.1, sat := sat || i.2 || v.2 }

/-- A state-space law up to v, with its next states (R387). -/
def spaceLaw (s : State) (n : Nat) : LawRun :=
  let w0 := slotW s n 0
  let order := w0.field 24 4
  let m := w0.field 22 2 + 1
  let base := 0x0500000000 + (slotW s n 20).field 0 20
  let co (k : Nat) : Word := given s (base + 4 * k)
  let x := getSlot s n
  let inj := x.inj.getD 0
  let pt1 := (slotW s n 39).tst 29
  let win := (List.range m).map (fun j => if j = 0 && !pt1 then sigSum [srcOf s n 0, inj] else (srcOf s n j, false))
  let xs := (List.range order).map (fun j => liveState s n (16 + 2 * j))
  let offB : Nat := order * order
  let offC : Nat := offB + order * m
  let offD : Nat := offC + order
  let row (ox ow : Nat) : List Int :=
    (xs.zipIdx).map (fun e => prodState (co (ox + e.2)) e.1) ++ (win.zipIdx).map (fun e => prodSig (co (ow + e.2)) e.1.1)
  let v := storeSig (accSum (row offC offD ++ [asFine (repTerm s n), asFine (if pt1 then inj else 0)]))
  let next := (List.range order).map (fun j => storeState (accSum (row (j * order) (offB + j * m))))
  { v := v.1, e := (win.getD 0 (0, false)).1, x := next.map (·.1)
    sat := x.srcSat || v.2 || win.any (·.2) || next.any (·.2) }

/-- The slot's law (R385 to R388). -/
def lawOf (s : State) (n : Nat) : LawRun := if (slotW s n 0).field 28 4 = 2 then spaceLaw s n else pidLaw s n

/-! ## Commit -/

/-- Stores the repetitive value of the run (R389); the second answer says that the sum saturated (R385). -/
def repStore (s : State) (n : Nat) (e : Int) : State × Bool :=
  if (slotW s n 0).tst 20 then
    let a := 0x0500200000 + 4 * ((slotW s n 32).field 0 19 + (getSlot s n).k)
    let c := (given s a).toInt
    let lim := (slotW s n 36).toInt
    let (v, sat) := storeSig (accSum [roundShift .nearest ((slotW s n 35).toNat * c) 14, prodSig (slotW s n 34) e])
    let beyond := v < -lim || lim < v
    let was := slotBit s n 25
    let s := slotFlag (hwW s 0x10 a (BitVec.ofInt 32 (max (-lim) (min lim v)))) n 25 beyond
    (if beyond && !was then raise s 264 else s, sat)
  else (s, false)

/-- The output of a committed run goes to its target (R392, R394). -/
def slotOutput (s : State) (n : Nat) (u : Int) : State :=
  let w := slotW s n 16
  let kind := w.field 30 2
  let c := w.field 25 5
  let ign := kind % 2 = 1 && pwmFromArea s c
  let s := slotFlag s n 20 ign
  let s := if kind % 2 = 1 ∧ !ign then setCmpa s c u else s
  if 2 ≤ kind then
    let i := outOfs w / 4
    if (forceAt s i).isSome then s
    else if s.cle.wbuf.length < 1024 then
      { s with
        cle := { s.cle with wbuf := s.cle.wbuf ++
          [{ idx := i, val := BitVec.ofInt 32 u, task := 64 + n, sealedAt := some s.pi.merOrder }] } }
    else raise (fSetBit s 0x10 0x013 0 true) 261
  else s

/-- `lp.out`: the run of slot n commits with v = `v` (R386 to R392, R395), but misses when its deadline has come: at the same instant the
deadline decides (R6, R390). -/
def slotCommit (s : State) (n : Nat) (l : LawRun) (v : Int) : State :=
  let x := getSlot s n
  if x.dl ≤ s.clk.tick.toNat * 250 then slotMiss s n
  else
  let track := tracking s n
  let prev := (liveW s n 5).toInt
  let rate := (slotW s n 19).toInt
  let u0 := if track then clampU s n (srcOf s n 3) else clampU s n v
  let u := if track ∨ rate = 0 then u0 else max (prev - rate) (min (prev + rate) u0)
  let space := (slotW s n 0).field 28 4 = 2
  let i := if track then (l.i, false) else storeState (accSum [l.i, prodSig (slotW s n 24) (sigSum [u, -v]).1])
  let s :=
    if space then (l.x.zipIdx).foldl (fun s e => setLiveState s n (16 + 2 * e.2) e.1) s
    else
      let y1 := liveW s n 20
      let yf1 := liveW s n 22
      let s := setLiveState (setLiveState s n 16 i.1) n 18 l.d
      let s := setLive (setLive s n 21 y1) n 20 (BitVec.ofInt 32 l.y)
      let s := setLive (setLive s n 23 yf1) n 22 (BitVec.ofInt 32 l.yf)
      setLive s n 24 (BitVec.ofInt 32 l.r)
  let (s, repSat) := repStore s n l.e
  let s := setLive (setLive s n 5 (BitVec.ofInt 32 u)) n 4 (liveW s n 4 + 1)
  let (s, ns) := freeW s
  let s := setLive s n 7 ns
  let w := liveW s n 1
  let w := (((((w.put 28 false).put 27 (u != if track then srcOf s n 3 else v)).put 24 false).put 23 false).put 21 (l.sat || i.2 || repSat)).setField 0 16 0
  let s := slotOutput (setLive s n 1 w) n u
  let eng := match x.run with | .running e => 32 + e | _ => 0
  let s := { s with
    cle := { s.cle with wbuf := s.cle.wbuf.map (fun e =>
      if e.task == eng && e.sealedAt.isNone then { e with sealedAt := some s.pi.merOrder } else e) }
    pi := { s.pi with merOrder := s.pi.merOrder + 1 } }
  let s := setSlot s n { getSlot s n with bad := false, tracked := track, bump := false }
  let s := cleOccur s (fun y => y.kind == 3 && y.index == n)
  slotEnd s n

/-- The earliest deadline among ready runs, the lower slot number first (R381). -/
def nextRun (s : State) : Option Nat :=
  (s.cle.slots.filter (fun e => e.2.run == .ready)).foldl (fun b e =>
    match b with
    | none => some e.1
    | some m => if e.2.dl < (getSlot s m).dl then some e.1 else some m) none

/-- The words that the law of slot n reads when it runs: its record, its coefficients where they lie in coefficient memory, and the
repetitive word (R378, R387, R389). An uncorrectable one ends the run with the output kept (R98). -/
def slotReads (s : State) (n : Nat) : State × Bool :=
  let w0 := slotW s n 0
  let order := w0.field 24 4
  let m := w0.field 22 2 + 1
  let spans : List (Nat × Nat) :=
    [(slotBase n + (if slotBit s n 31 then 0xC0 else 0), 0xC0), (slotBase n + 0x180, 0x80)] ++
    (if w0.field 28 4 = 2 then
      [(0x0500000000 + (slotW s n 20).field 0 20, 4 * (order * order + order * m + order + m))] else []) ++
    (if w0.tst 20 then
      let w := slotW s n 33
      [(0x0500200000 + 4 * ((slotW s n 32).field 0 19 + ((getSlot s n).k + w.field 16 12) % max 1 (w.field 0 13)), 4)] else [])
  spans.foldl (fun a e => if a.2 then hwRead a.1 { unit := 0x10 } .read e.1 e.2 else a) (s, true)

/-- A run that meets an uncorrectable word ends as one that traps: its output is kept and TRAPPED is set (R92, R98, R396). -/
def slotUnread (s : State) (n : Nat) : State :=
  let s := raise (slotFlag (slotFlag s n 23 true) n 24 false) 262
  slotEnd (setSlot s n { getSlot s n with bad := false }) n

/-- A free law engine takes a ready run (R381, R395): the built-in sequence, or the slot program from ENTRY. -/
def execLawRunStart (eng : Fin 8) (s : State) : Out :=
  done s (
    if (slotOf s eng.val).isSome || !domainOn s 4 || s.pwr.asleep then s
    else match nextRun s with
      | none => s
      | some n =>
        let s := setSlot s n { getSlot s n with run := .running eng.val }
        let entry := (slotW s n 3).field 0 20
        match slotReads s n with
        | (s, false) => slotUnread s n
        | (s, true) =>
          if entry = 0 then let l := lawOf s n; slotCommit s n l l.v
          else setCtx s (32 + eng.val) (freshCtx entry))

/-- Law engine of a header. -/
def engOf : Eng → Nat
  | .cle k => k.val
  | _ => 0

/-- `lp.src` (R395). -/
def execLpSrc (h : Hdr) (rd kf : Reg) (s : State) : Out :=
  done s (runInstr h { word := encA 0b111100 rd 0 kf 0, grp := .law, bad := 3 < kf.toNat }
    (fun k s => match slotOf s (engOf h.eng) with
      | some n => .ok (setReg s k rd (BitVec.ofInt 32 (srcOf s n kf.toNat)))
      | none => .ok s) s)

/-- `lp.law` (R395). -/
def execLpLaw (h : Hdr) (rd : Reg) (s : State) : Out :=
  done s (runInstr h { word := encA 0b111100 rd 0 0 1, grp := .law }
    (fun k s => match slotOf s (engOf h.eng) with
      | some n =>
        let l := lawOf s n
        .ok (setReg (setSlot s n { getSlot s n with law := some l }) k rd (BitVec.ofInt 32 l.v))
      | none => .ok s) s)

/-- `lp.out` (R395); before `lp.law` in the run it traps ILLEGAL. -/
def execLpOut (h : Hdr) (ra : Reg) (s : State) : Out :=
  done s (runInstr h { word := encA 0b111100 0 ra 0 2, grp := .law }
    (fun k s => match slotOf s (engOf h.eng) with
      | some n =>
        match (getSlot s n).law with
        | some l => .ok (slotCommit s n l (reg s k ra).toInt)
        | none => .trap s { cause := 1 }
      | none => .ok s) s)

/-- `lp.hold` ends the run with nothing committed and the output kept (R395). -/
def execLpHold (h : Hdr) (s : State) : Out :=
  done s (runInstr h { word := encA 0b111100 0 0 0 3, grp := .law }
    (fun _ s => match slotOf s (engOf h.eng) with
      | some n =>
        let s := slotFlag (slotFlag s n 24 false) n 23 false
        .ok (slotEnd (setSlot s n { getSlot s n with bad := true }) n)
      | none => .ok s) s)

/-- The deadline passes before the commit (R390). -/
def execSlotDeadline (slot : Fin 512) (s : State) : Out :=
  done s (
    let x := getSlot s slot.val
    if x.run ≠ .idle ∧ x.dl < (s.clk.tick.toNat + 1) * 250 ∧ !s.pwr.asleep then slotMiss s slot.val else s)

/-- RUN of CLE was written (R401): 0 refuses triggers. -/
def cleRunWrite (s : State) (v : Word) : State :=
  if v.tst 0 then s
  else { s with cle := { s.cle with slots := s.cle.slots.map (fun e => (e.1, { e.2 with due := false })) } }

/-- What applies of CLE's pending set as soon as it is committed: fields of channels that do not run and the capture units,
which it arms or disarms, and, while CLE is stopped, the enabling of slots without a run (R107, R401, assumption 37). -/
def cleCommit (s : State) : State :=
  let s := if fBit s 0x10 1 0 then s
    else (List.range 512).foldl (fun s n => if (getSlot s n).run = .idle then slotEn s n else s) s
  let s := (List.range 32).foldl (fun s c =>
    if fBit s 0x10 (0x100 + 4 * c) 31 && domainOn s 4 then s else pwmZero s c) s
  (List.range 16).foldl (fun s c =>
    if (pendFind s 0x10 (0x020 + 2 * c)).isSome then fSet (pendTake s 0x10 (0x020 + 2 * c)) 0x10 (0x021 + 2 * c) 0 else s) s

/-- REF_CLK is lost: every slot holds and sets MISS (R36, R391). -/
def cleClockLoss (s : State) : State :=
  (List.range 512).foldl (fun s n =>
    if (getSlot s n).on then (if (getSlot s n).run = .idle then slotFlag s n 28 true else slotMiss s n) else s) s

/-- Runs that hold a generation of the inputs which must be freed end as misses (R323, R391). -/
def cleUnpin (s : State) (g : Nat) : State :=
  (s.cle.slots.filter (fun e => e.2.gen == g && e.2.run != .idle && slotW s e.1 3 != 0)).foldl (fun s e => slotMiss s e.1) s

/-- The CLE domain goes off (R95, R107). -/
def cleReset (s : State) : State :=
  { s with cle := { pls := s.cle.pls }, ctxs := Tbl.clear s.ctxs 32 8 }

end Sys2Proof.Machine
end

