-- ==== Sys2Proof/Machine/Saf.lean ====
section
/-! DEFINITION. The safety channel's cycle, inputs, outputs and restart (R403 to R420, R424). -/
namespace Sys2Proof.Machine

/-- Filtered state of SI_i. -/
def siFilt (s : State) (i : Nat) : Bool := s.saf.filt.getLsbD i

/-- SI_i is not faulted. -/
def siOk (s : State) (i : Nat) : Bool := !s.saf.faults.getLsbD i

/-- Mode of pair k: 0 two single inputs, 1 equivalent, 2 antivalent (R417, R422). -/
def pairMode (s : State) (k : Nat) : Nat := match s.saf.image with | some m => m.pairs.getD k 0 / 64 | none => 0

/-- The filtered states of pair k disagree with its mode (R417). -/
def pairDisagrees (s : State) (k : Nat) : Bool :=
  let a := siFilt s (2 * k)
  let b := siFilt s (2 * k + 1)
  if pairMode s k = 1 then a != b else if pairMode s k = 2 then a == b else false

/-- SI state of input i as the program reads it (R405, R415, R417). -/
def siRead (s : State) (i : Nat) : Bool :=
  let a := 2 * (i / 2)
  let ok := siOk s a && siOk s (a + 1)
  match pairMode s (i / 2) with
  | 1 => ok && siFilt s a && siFilt s (a + 1)
  | 2 => ok && siFilt s a && !siFilt s (a + 1)
  | _ => siOk s i && siFilt s i

/-- The input image at a release (R405). -/
def safImageWords (s : State) : List Word :=
  let si := (List.range 16).foldl (fun n i => n + bit (siRead s i) * 2 ^ i) 0
  let mask : Nat := match s.saf.image with | some m => m.mask.toNat | none => 0
  [Word.ofN si, Word.ofN s.saf.faults.toNat,
   Word.ofN (mask * 2 ^ 16 + (s.saf.soPins ^^^ s.saf.fbBad).toNat * 2 ^ 8 + s.saf.cmd.toNat),
   Word.ofN s.clk.tick.toNat]

/-- Detail of a readback fault of output n (R413). -/
def readbackDetail (s : State) (n : Nat) : Nat := bit (!s.saf.soPins.getLsbD n) * 128 + n

/-- A restart is requested and refused (R414). -/
def restartRefused (s : State) : Bool :=
  s.saf.image.isNone || !fBit s 0x0C 1 0 || (s.saf.cause == 6 && s.saf.fbBad != 0) || (s.saf.cause == 8 && !s.clk.refClk)

/-- A requested restart is accepted or refused (R414). -/
def safRestartNow (s : State) : State :=
  let s := fSetBit s 0x0C 2 0 false
  match s.saf.image with
  | some m =>
    if restartRefused s then raisePost s 0x0C 2 197 []
    else
      let s := safLoad s m
      let s := hwWords s 0x0C 0x0180070040 [0, 0]
      raisePost { s with saf := { s.saf with
        safe := false, cause := 0, detail := 0, ovf := false, cmd := 0, monitor := none } } 0x0C 1 196 []
  | none => raisePost s 0x0C 2 197 []

/-- The release of a safety cycle (R403, R405, R407, R410). -/
def safCycleStart (s : State) (codeFault checkerFault : Bool) : State :=
  if s.saf.inCycle then safEnter s 0x05 0
  else if codeFault then safEnter s 0x01 0
  else if checkerFault then safEnter s 0x09 0
  else
    let s := hwWords s 0x0C 0x0180070000 (safImageWords s)
    { s with saf := { s.saf with
      relTick := s.clk.tick.toNat, cyc := s.saf.cyc + 1, gen := curGen s, inCycle := true, ovfRec := false } }

/-- A safety-cycle instant: a tick that is a multiple of CYCLE_MS × 100, or, without an image, any tick for a requested restart
(R403, R412, R414). `codeFault` says that a checked operation has failed, `checkerFault` that the checker did not flag the
invalid word (R410): faults of the silicon, which the command reports. -/
def execSafetyRelease (codeFault checkerFault : Bool) (s : State) : Out :=
  done s (
    let now := s.clk.tick.toNat
    let due := match s.saf.image with | some m => now % (max 1 m.cycle * 100) == 0 | none => fBit s 0x0C 2 0
    if !due || s.saf.lastRel == some now || s.pwr.asleep then s
    else
      let s := { s with saf := { s.saf with lastRel := some now } }
      let s :=
        if s.saf.safe && s.saf.image.isSome then
          ((List.range 8).filter (fun n => s.saf.fbBad.getLsbD n)).foldl
            (fun s n => post s 0x0C 3 0x060F [2, 6, Word.ofN (readbackDetail s n)]) s
        else s
      let s := if fBit s 0x0C 2 0 then safRestartNow s else s
      if s.saf.safe || !s.clk.refClk then s else safCycleStart s codeFault checkerFault)

/-- The safety-time monitor expires (R408). -/
def execSafetyMonitorExpiry (s : State) : Out :=
  done s (match s.saf.monitor with
    | some d => if d ≤ s.clk.tick.toNat then safEnter s 0x04 0 else s
    | none => s)

/-- A filtered input state changes after its filter time (R415). -/
def execSiFilterChange (si : Fin 16) (level : Bool) (s : State) : Out :=
  done s { s with saf := { s.saf with filt := s.saf.filt &&& ~~~(1#16 <<< si.val) ||| (if level then 1#16 <<< si.val else 0) } }

/-- TP_n starts a test pulse; no two are low at once (R416). -/
def execTestPulse (p : Fin 4) (s : State) : Out :=
  done s (if s.saf.image.isSome && s.saf.tpLow == 0 then { s with saf := { s.saf with tpLow := 1#4 <<< p.val } } else s)

/-- Source of SI_i: 0 none, 1 to 4 TP_0 to TP_3 (R422). -/
def siSource (s : State) (i : Nat) : Nat := match s.saf.image with | some m => m.si.getD i 0 / 4096 % 8 | none => 0

/-- An input is faulted by a test pulse or a discrepancy: event 193 and its record for a new fault (R415). -/
def siFault (s : State) (i : Nat) (byPair : Bool) : State :=
  let b := 1#16 <<< i
  let old := if byPair then s.saf.fPair.getLsbD i else s.saf.fTest.getLsbD i
  let s := if byPair then { s with saf := { s.saf with fPair := s.saf.fPair ||| b } }
    else { s with saf := { s.saf with fTest := s.saf.fTest ||| b } }
  if old then s else raisePost s 0x0C 2 193 []

/-- The last tick of a test pulse: its inputs must read low (R416). `high` gives the raw levels of the inputs. -/
def execTestPulseEnd (p : Fin 4) (high : BitVec 16) (s : State) : Out :=
  done s (
    if !s.saf.tpLow.getLsbD p.val then s
    else
      let s := { s with saf := { s.saf with tpLow := 0 } }
      (List.range 16).foldl (fun s i =>
        if s.saf.enabled i && siSource s i == p.val + 1 then
          let b := 1#16 <<< i
          if high.getLsbD i then siFault { s with saf := { s.saf with passed := s.saf.passed &&& ~~~b } } i false
          else { s with saf := { s.saf with passed := s.saf.passed ||| b } }
        else s) s)

/-- A pair has disagreed with its mode for longer than its discrepancy time: both inputs are faulted (R417). -/
def execPairDiscrepancy (k : Fin 8) (s : State) : Out :=
  done s (if pairDisagrees s k.val then siFault (siFault s (2 * k.val) true) (2 * k.val + 1) true else s)

/-- SO_FB_n is sampled on two consecutive checked samples at `level` (R418): a mismatch with the pin forces the safe state, a
match clears it. -/
def execReadbackMismatch (n : Fin 8) (level : Bool) (s : State) : Out :=
  done s (
    let b := 1#8 <<< n.val
    if level = s.saf.soPins.getLsbD n.val then { s with saf := { s.saf with fbBad := s.saf.fbBad &&& ~~~b } }
    else
      let d := readbackDetail s n.val
      let s' := { s with saf := { s.saf with fbBad := s.saf.fbBad ||| b } }
      if s.saf.safe then (if s.saf.fbBad.getLsbD n.val then s' else safEnter s' 6 d)
      else
        let t := safEnter s' 6 d
        { t with saf := { t.saf with fbBad := if level then t.saf.fbBad else t.saf.fbBad &&& ~~~b } })

/-- The OP_INT interval of the present tick and the tick of SO_n's off-pulse in it (R419). -/
def opInterval (s : State) (n : Nat) : Nat × Nat :=
  let len : Nat := match s.saf.image with | some m => max 1 m.opInt * 10000 | none => 10000
  let i := s.clk.tick.toNat / len
  (i, i * len + n * len / 8)

/-- An off-pulse starts on an output that is enabled and on, once per interval (R419). -/
def execOffPulseStart (n : Fin 8) (s : State) : Out :=
  done s (
    let (i, t) := opInterval s n.val
    if !s.saf.safe && s.saf.cmd.getLsbD n.val && !s.saf.pulse.getLsbD n.val && t ≤ s.clk.tick.toNat &&
        Tbl.get 0 s.saf.pulsed n.val != i + 1 then
      { s with saf := { s.saf with pulse := s.saf.pulse ||| (1#8 <<< n.val), pulsed := Tbl.put 0 s.saf.pulsed n.val (i + 1) } }
    else s)

/-- An off-pulse ends: the pin is on again unless a `mer` has commanded it off (R419). -/
def execOffPulseEnd (n : Fin 8) (s : State) : Out :=
  done s { s with saf := { s.saf with pulse := s.saf.pulse &&& ~~~(1#8 <<< n.val) } }

/-- Acknowledged faults that may clear (R415). -/
def safAck (s : State) (ack : BitVec 16) : State :=
  let clr := (List.range 16).foldl (fun (m : BitVec 16) i =>
    if ack.getLsbD i && s.saf.passed.getLsbD i && !pairDisagrees s (i / 2) then m ||| (1#16 <<< i) else m) 0
  { s with saf := { s.saf with fTest := s.saf.fTest &&& ~~~clr, fPair := s.saf.fPair &&& ~~~clr } }

/-- REF_CLK periods from a tick to the instant `ns` nanoseconds into the present tick (R329). -/
def periodsSince (s : State) (t ns : Nat) : Word := Word.ofN ((s.clk.tick.toNat - t) * 250 + ns / 40)

/-- The present tick is a release instant of the safety cycle that has not been taken (R403). -/
def safReleaseNow (s : State) : Bool :=
  (match s.saf.image with | some m => s.clk.tick.toNat % (max 1 m.cycle * 100) == 0 | none => false) &&
    s.saf.lastRel != some s.clk.tick.toNat

/-- `mer` on SAF (R326, R403, R406, R408, R423). At the expiry of the safety-time monitor, or at the
next release, the deadline decides (R6). The request and acknowledge words are read, the outputs follow, the cycle ends
and SAF is at its boundary. -/
def safMer (s : State) (ns : Nat) : State :=
  if (match s.saf.monitor with | some d => decide (d ≤ s.clk.tick.toNat) | none => false) then safEnter s 0x04 0
  else if safReleaseNow s then safEnter s 0x05 0
  else
  let resp := periodsSince s s.saf.relTick ns
  let s := fSet s 0x0C 0x00B resp
  let s := if (fGet s 0x0C 0x00C).toNat < resp.toNat then fSet s 0x0C 0x00C resp else s
  let s := { s with
    saf := { s.saf with
      inCycle := false
      wbuf := s.saf.wbuf.map (fun w => if w.sealedAt.isNone then { w with sealedAt := some s.pi.merOrder } else w) }
    pi := { s.pi with merOrder := s.pi.merOrder + 1 } }
  match eccRead s 0x0180070040 with
  | (s, false) => safEnter (errorResp s { unit := 0x0C } .read .uncorr 0x0180070040 0) 0x07 0
  | (s, true) =>
    let req := given s 0x0180070040
    let ack := given s 0x0180070044
    if req.toNat ≥ 2 ^ 8 ∨ ack.toNat ≥ 2 ^ 16 then safEnter s 0x01 0
    else
      let mask : BitVec 8 := match s.saf.image with | some m => m.mask | none => 0
      let s := { s with saf := { s.saf with cmd := req.setWidth 8 &&& mask } }
      let s := hwW (safAck s (ack.setWidth 16)) 0x0C 0x0180070044 0
      let s := safBoundary s
      let cyc : Nat := match s.saf.image with | some m => m.cycle | none => 0
      { s with saf := { s.saf with monitor := some (s.clk.tick.toNat + 150 * cyc) } }

/-- RUN of SAF was written (R414). -/
def safRunWrite (s : State) (v : Word) : State := if v.tst 0 then s else safEnter s 0x0A 0

end Sys2Proof.Machine
end

