-- ==== Sys2Proof/Machine/SlotOps.lean ====
section
/-! DEFINITION. Edge, timer and counter slots (R71 to R75, R331, R354, R355). -/
namespace Sys2Proof.Machine

/-- The slot pools that an engine addresses: SAF's own, or the cluster's (R71). -/
def poolOf (s : State) : Eng → Slots
  | .saf => s.saf.slots
  | _ => s.cyc.slots

/-- Replaces the pools that an engine addresses. -/
def setPool (s : State) (e : Eng) (p : Slots) : State :=
  match e with
  | .saf => { s with saf := { s.saf with slots := p } }
  | _ => { s with cyc := { s.cyc with slots := p } }

/-- The kinds of slot. -/
inductive SlotKind where
  | edge | timer | counter
deriving DecidableEq, Repr

/-- The slot lies in the range assigned to the executing core (R71, R331). -/
def slotOk (s : State) (e : Eng) (kd : SlotKind) (i : Nat) : Bool :=
  match e with
  | .saf => match kd with | .edge => i < 1024 | .timer => i < 512 | .counter => i < 256
  | .cyc n =>
    let (f, ls, lc) := match kd with | .edge => (0x005, 14, 15) | .timer => (0x006, 13, 14) | .counter => (0x007, 12, 13)
    let lo := fPart s (4 + n.val) f 0 ls
    lo ≤ i && i < lo + fPart s (4 + n.val) f 16 lc
  | _ => false

/-- `now`: the tick latched at the release of the present cycle (R73, R316, R403). -/
def slotNow (s : State) (e : Eng) (k : Nat) : Nat :=
  match e with
  | .cyc n => (getTask s n.val (k % 16)).relTick
  | _ => s.saf.relTick

/-- Ticks from a stamp to `now`, of 48 bits (R73). -/
def since (now start : Nat) : Nat := (now + 2 ^ 48 - start) % 2 ^ 48

/-- One execution of `ton` (R73). -/
def tonStep (t : Timer) (inp : Bool) (pt now : Nat) : Timer :=
  let t := if inp && !t.prev then { t with start := now, run := true } else t
  let t :=
    if !inp then { t with run := false, et := 0, q := false }
    else
      let et := min pt (since now t.start)
      { t with et := et, q := pt ≤ et }
  { t with prev := inp, pt := pt }

/-- One execution of `tof` (R73). -/
def tofStep (t : Timer) (inp : Bool) (pt now : Nat) : Timer :=
  let t := if inp then { t with run := false, et := 0, q := true } else t
  let t := if !inp && t.prev then { t with start := now, run := true } else t
  let t :=
    if !inp && t.run then
      let et := min pt (since now t.start)
      if pt ≤ et then { t with et := et, q := false, run := false } else { t with et := et }
    else t
  { t with prev := inp, pt := pt }

/-- One execution of `tp` (R73). -/
def tpStep (t : Timer) (inp : Bool) (pt now : Nat) : Timer :=
  let t := if inp && !t.prev && !t.run then { t with start := now, run := true, q := true } else t
  let t :=
    if t.run then
      let et := min pt (since now t.start)
      if pt ≤ et then { t with et := et, run := false, q := false } else { t with et := et }
    else t
  let t := if !t.run && !inp then { t with et := 0 } else t
  { t with prev := inp, pt := pt }

/-- One execution of `ctu` (R74). -/
def ctuStep (c : Counter) (cu r : Bool) (_pv : Word) : Counter :=
  let cv := if r then 0 else if cu && !c.prev then satW (c.cv.toInt + 1) else c.cv
  { cv := cv, prev := cu }

/-- One execution of `ctd` (R74). -/
def ctdStep (c : Counter) (cd ld : Bool) (pv : Word) : Counter :=
  let cv := if ld then pv else if cd && !c.prev then satW (c.cv.toInt - 1) else c.cv
  { cv := cv, prev := cd }

/-- Goes on when the slot is in range, trapping SLOT_RANGE otherwise (R71). -/
def inRange (e : Eng) (kd : SlotKind) (i : Nat) (f : State → Res) (s : State) : Res :=
  if slotOk s e kd i then f s else .trap s { cause := 6 }

/-- An edge instruction (R72). A pending slot stores its input and gives no edge (R354). -/
def edgeOp (h : Hdr) (pd : PReg) (ra : Reg) (slot : BitVec 14) (falling : Bool) (s : State) : State :=
  runInstr h
    { word := encF 0b101100 [(pd.toNat, 20), (bit falling, 19), (ra.toNat, 14), (slot.toNat, 0)], grp := .slot }
    (fun k => inRange h.eng .edge slot.toNat fun s =>
      let p := poolOf s h.eng
      let e := Tbl.get {} p.edges slot.toNat
      let inp := reg s k ra != 0
      let out := !e.pending && (if falling then e.prev && !inp else inp && !e.prev)
      .ok (setPred (setPool s h.eng { p with edges := Tbl.put {} p.edges slot.toNat { prev := inp } }) k pd out)) s

/-- Rising edge (R72). -/
def execEdgR (h : Hdr) (pd : PReg) (ra : Reg) (slot : BitVec 14) (s : State) : Out := done s (edgeOp h pd ra slot false s)

/-- Falling edge (R72). -/
def execEdgF (h : Hdr) (pd : PReg) (ra : Reg) (slot : BitVec 14) (s : State) : Out := done s (edgeOp h pd ra slot true s)

/-- A timer instruction (R73): the preset is the second word, or the register that its bits [4:0] name. -/
def timerOp (h : Hdr) (kind : Nat) (pd pin : PReg) (src : Bool) (slot : BitVec 13) (w2 : Word)
    (f : Timer → Bool → Nat → Nat → Timer) (s : State) : State :=
  runInstr h
    { word := encF 0b111010 [(pd.toNat, 20), (pin.toNat, 17), (kind, 15), (bit src, 14), (slot.toNat, 0)], len := 8
      grp := .slot, bad := src && 31 < w2.toNat }
    (fun k => inRange h.eng .timer slot.toNat fun s =>
      let p := poolOf s h.eng
      let pt := if src then (reg s k (w2.setWidth 5)).toNat else w2.toNat
      let t := f (Tbl.get {} p.timers slot.toNat) (rdP (getCtx s k) pin) pt (slotNow s h.eng k)
      .ok (setPred (setPool s h.eng { p with timers := Tbl.put {} p.timers slot.toNat t }) k pd t.q)) s

/-- On-delay (R73). -/
def execTon (h : Hdr) (pd pin : PReg) (src : Bool) (slot : BitVec 13) (w2 : Word) (s : State) : Out :=
  done s (timerOp h 0 pd pin src slot w2 tonStep s)

/-- Off-delay (R73). -/
def execTof (h : Hdr) (pd pin : PReg) (src : Bool) (slot : BitVec 13) (w2 : Word) (s : State) : Out :=
  done s (timerOp h 1 pd pin src slot w2 tofStep s)

/-- Pulse (R73). -/
def execTp (h : Hdr) (pd pin : PReg) (src : Bool) (slot : BitVec 13) (w2 : Word) (s : State) : Out :=
  done s (timerOp h 2 pd pin src slot w2 tpStep s)

/-- A counter instruction (R74): pd becomes Q. -/
def counterOp (h : Hdr) (kind : Nat) (pd pin pr : PReg) (slot : BitVec 12) (pv : Word)
    (f : Counter → Bool → Bool → Word → Counter) (q : Word → Bool) (s : State) : State :=
  runInstr h
    { word := encF 0b111011 [(pd.toNat, 20), (pin.toNat, 17), (pr.toNat, 14), (kind, 12), (slot.toNat, 0)], len := 8
      grp := .slot }
    (fun k => inRange h.eng .counter slot.toNat fun s =>
      let p := poolOf s h.eng
      let c := f (Tbl.get {} p.counters slot.toNat) (rdP (getCtx s k) pin) (rdP (getCtx s k) pr) pv
      .ok (setPred (setPool s h.eng { p with counters := Tbl.put {} p.counters slot.toNat c }) k pd (q c.cv))) s

/-- Up-counter: q = (cv ≥ pv) (R74). -/
def execCtu (h : Hdr) (pd cu r : PReg) (slot : BitVec 12) (pv : Word) (s : State) : Out :=
  done s (counterOp h 0 pd cu r slot pv ctuStep (fun cv => pv.toInt ≤ cv.toInt) s)

/-- Down-counter: q = (cv ≤ 0) (R74). -/
def execCtd (h : Hdr) (pd cd ld : PReg) (slot : BitVec 12) (pv : Word) (s : State) : Out :=
  done s (counterOp h 1 pd cd ld slot pv ctdStep (fun cv => cv.toInt ≤ 0) s)

/-- Which slots a `slot.rd` or `slot.wr` names (R75). -/
def kindOf (kind : BitVec 2) : SlotKind := if kind = 3 then .edge else if kind = 2 then .counter else .timer

/-- A timer or counter number above the low 13 or 12 bits is out of range (R75). -/
def slotNumOk (kind : BitVec 2) (i : Nat) : Bool :=
  match kindOf kind with | .timer => i < 8192 | .counter => i < 4096 | .edge => true

/-- First word of `slot.rd` and `slot.wr` (R75). -/
def encSlot (rd : Reg) (wr : Bool) (kind : BitVec 2) (slot : BitVec 14) : Word :=
  encF 0b101101 [(rd.toNat, 18), (bit wr, 17), (kind.toNat, 14), (slot.toNat, 0)]

/-- Reads the state of a slot (R75, R354). -/
def execSlotRd (h : Hdr) (rd : Reg) (kind : BitVec 2) (slot : BitVec 14) (s : State) : Out :=
  done s (runInstr h { word := encSlot rd false kind slot, grp := .slot }
    (fun k => inRange h.eng (kindOf kind) slot.toNat fun s =>
      if !slotNumOk kind slot.toNat then .trap s { cause := 6 }
      else
        let p := poolOf s h.eng
        let t := Tbl.get {} p.timers slot.toNat
        let e := Tbl.get {} p.edges slot.toNat
        let v : Word :=
          if kind = 0 then Word.ofN (if t.run then min t.pt (since (slotNow s h.eng k) t.start) else t.et)
          else if kind = 1 then Word.ofN (bit t.q + 2 * bit t.run + 4 * bit t.prev)
          else if kind = 2 then (Tbl.get {} p.counters slot.toNat).cv
          else Word.ofN (bit (e.prev && !e.pending))
        .ok (setReg s k rd v)) s)

/-- Writes the state of a slot; the timer state is ILLEGAL (R75, R354). -/
def execSlotWr (h : Hdr) (rd : Reg) (kind : BitVec 2) (slot : BitVec 14) (s : State) : Out :=
  done s (runInstr h { word := encSlot rd true kind slot, grp := .slot, bad := kind == 1 }
    (fun k => inRange h.eng (kindOf kind) slot.toNat fun s =>
      if !slotNumOk kind slot.toNat then .trap s { cause := 6 }
      else
        let p := poolOf s h.eng
        let v := reg s k rd
        let t := Tbl.get {} p.timers slot.toNat
        let c := Tbl.get {} p.counters slot.toNat
        let et := min v.toNat t.pt
        let p' : Slots :=
          if kind = 0 then
            let t' : Timer := { t with et := et, start := since (slotNow s h.eng k) et }
            { p with timers := Tbl.put {} p.timers slot.toNat t' }
          else if kind = 2 then { p with counters := Tbl.put {} p.counters slot.toNat { c with cv := v } }
          else { p with edges := Tbl.put {} p.edges slot.toNat { prev := v != 0 } }
        .ok (setPool s h.eng p')) s)

end Sys2Proof.Machine
end

