-- ==== Sys2Proof/Machine/Cycle.lean ====
section
/-! DEFINITION. The cycle cores (R313 to R346): releases, the end of a cycle, load measurement, retained commits, restarts and
what a write to a core's fields does. -/
namespace Sys2Proof.Machine

/-! ## Cores and tasks -/

/-- A physical core is switched on (R314). -/
def corePowered (s : State) (n : Nat) : Bool := domainOn s 3 && s.pwr.cores.getLsbD n

/-- The core takes releases (R319, R340, R494). -/
def coreReleases (s : State) (n : Nat) : Bool :=
  (getCore s n).mode == .running && corePowered s n && s.clk.refClk && !s.pwr.asleep && !follower s

/-- A field of task t of core n. -/
def taskCfg (s : State) (n t k : Nat) : Word := fGet s (4 + n) (taskField t k)

/-- The task's cycle is in progress (R319). -/
def inCycle (s : State) (n t : Nat) : Bool := (getCtx s (taskCtx s n t)).live

/-- Task t of core n is the critical task (R317). -/
def isCritical (s : State) (n t : Nat) : Bool := t == 0 && fBit s (4 + n) 0x004 0

/-- A start cause is pending for the task's next release (R320); a cause already pending is not listed twice. -/
def addCause (s : State) (n t : Nat) (c : Nat × Nat) : State :=
  let k := getTask s n t
  if k.causes.contains c then s else setTask s n t { k with causes := c :: k.causes }

/-- The lowest pending cause with the lowest detail, (0, 0) without one (R320, R371). -/
def lowCause : List (Nat × Nat) → Nat × Nat
  | [] => (0, 0)
  | c :: l => l.foldl (fun b x => if x.1 < b.1 || (x.1 == b.1 && x.2 < b.2) then x else b) c

/-- The registers at the start of a cycle (R320); the latches are those of the context `c` (R43, assumption 175). -/
def cycleCtx (c : Ctx) (pc : Word) (cause detail : Nat) : Ctx :=
  wrG (wrG { restCtx c with pc := pc, live := true } 1 (Word.ofN cause)) 2 (Word.ofN detail)

/-- A task is released: registers, entry, release instant, pinned generation and release count (R42, R43, R316, R320, R321). -/
def startCycle (s : State) (n t : Nat) : State :=
  let k := getTask s n t
  let (cause, detail) := lowCause k.causes
  let err := (taskCfg s n t 4).field 0 20
  let pc := if cause ≠ 0 ∧ err ≠ 0 then err else (taskCfg s n t 3).field 0 20
  let now := s.clk.tick.toNat
  let s := setTask s n t { k with
    relTick := now, gen := curGen s, causes := [], skipped := 0, cyc := k.cyc + 1, prevRel := some now, ovfRec := false }
  let s := fSetPart s (4 + n) (taskField t 6) 8 8 cause
  setCtx s (taskCtx s n t) (cycleCtx (getCtx s (taskCtx s n t)) (Word.ofN pc) cause detail)

/-- A release is skipped: OVR, the overrun count, event 0, and a record for the first of a run (R327). -/
def skipRelease (s : State) (n t : Nat) : State :=
  let k := getTask s n t
  let s := setTask s n t { k with skipped := k.skipped + 1 }
  let s := fInc (fSetBit s (4 + n) (taskField t 6) 3 true) (4 + n) (taskField t 6) 16 16
  let s := raise s (64 + 16 * n)
  if k.skipped = 0 then post s (4 + n) 2 (64 + 16 * n) [] else s

/-- The present tick is a release instant of a periodic task that has not been taken yet (R315): the tick's count modulo its period is
its phase. -/
def releaseNow (s : State) (n t : Nat) : Bool :=
  let cfg := taskCfg s n t 0
  let now := s.clk.tick.toNat
  coreReleases s n && cfg.tst 31 && !cfg.tst 30 && now % max 1 (taskCfg s n t 1).toNat == (taskCfg s n t 2).toNat &&
    (getTask s n t).lastInst != some now

/-- Notes that the release instant of the present tick has been taken. -/
def instTaken (s : State) (n t : Nat) : State := setTask s n t { getTask s n t with lastInst := some s.clk.tick.toNat }

/-- A release instant of a periodic task (R315, R327). -/
def execTaskRelease (core : Fin 8) (task : Fin 16) (s : State) : Out :=
  let n := core.val
  let t := task.val
  done s (
    if !releaseNow s n t then s
    else if inCycle s n t then skipRelease (instTaken s n t) n t
    else startCycle (instTaken s n t) n t)

/-- An event task is released: its event is pending, its cycle has ended and MIN_INT has passed (R315). -/
def execEventTaskRelease (core : Fin 8) (task : Fin 16) (s : State) : Out :=
  let n := core.val
  let t := task.val
  done s (
    let cfg := taskCfg s n t 0
    let evt := (taskCfg s n t 5).field 0 10
    let gap := (taskCfg s n t 5).field 16 16
    let due := match (getTask s n t).prevRel with | some r => r + gap ≤ s.clk.tick.toNat | none => true
    if !coreReleases s n || !cfg.tst 31 || !cfg.tst 30 || inCycle s n t || !evtPending s (24 + n) evt || !due then s
    else startCycle (evtClear s (24 + n) evt) n t)

/-! ## The end of a cycle -/

/-- A cycle in progress is abandoned or aborted: its pin is released and its unsealed writes are discarded (R323, R338, R345). -/
def dropCycle (s : State) (n t : Nat) : State :=
  if !inCycle s n t then s
  else
    let s := setCtx s (taskCtx s n t) (restCtx (getCtx s (taskCtx s n t)))
    setCore s n { getCore s n with wbuf := (getCore s n).wbuf.filter (fun w => w.sealedAt.isSome || w.task != t) }

/-- The cycle of a task ends at its `mer`: its writes wait for the seal, times are measured, skipped releases are reported
(R325 to R329). A release instant of the present tick comes first: a `mer` at the same instant counts as late (R6, R327). EXEC_LAST lies within the response time; the model does not time instructions (assumption 39). -/
def endCycle (s : State) (n t ns : Nat) : State :=
  let s := if releaseNow s n t then skipRelease (instTaken s n t) n t else s
  let k := getTask s n t
  let f (i : Nat) : Nat := taskField t i
  let resp := periodsSince s k.relTick ns
  let (s, ex) := freeW s
  let s := fSet (fSet s (4 + n) (f 7) resp) (4 + n) (f 9) (Word.ofN (ex.toNat % (resp.toNat + 1)))
  let s := if (fGet s (4 + n) (f 8)).toNat < resp.toNat then fSet s (4 + n) (f 8) resp else s
  let core := getCore s n
  let s := setCore s n { core with
    wbuf := core.wbuf.map (fun w => if w.task == t && w.sealedAt.isNone then { w with sealedAt := some s.pi.merOrder } else w) }
  let s := { s with pi := { s.pi with merOrder := s.pi.merOrder + 1 } }
  let s := if 1 < k.skipped then post s (4 + n) 1 0x0609 [Word.ofN k.skipped] else s
  let s := if k.skipped ≠ 0 ∧ (taskCfg s n t 0).tst 29 then addCause s n t (1, k.skipped) else s
  setCtx s (taskCtx s n t) (restCtx (getCtx s (taskCtx s n t)))

/-! ## Load measurement -/

/-- A window of IDLE_WIN ticks ends (R330): the idle time lies within the window; the model does not time instructions
(assumption 39). -/
def execIdleWindowEnd (core : Fin 8) (s : State) : Out :=
  let n := core.val
  done s (
    let w := (fGet s (4 + n) 0x00F).field 0 20
    if !corePowered s n || s.pwr.asleep || !s.clk.refClk || s.clk.tick.toNat % max 1 w != 0 then s
    else
      let (s, v) := freeW s
      let idle := Word.ofN (v.toNat % (w * 250 + 1))
      let s := fSet s (4 + n) 0x010 idle
      if idle.toNat < (fGet s (4 + n) 0x011).toNat then fSet s (4 + n) 0x011 idle else s)

/-! ## Retained commits -/

/-- TMR_RET, CTR_RET and VAR_PAGES of a core (R344). -/
def tmrRet (s : State) (n : Nat) : Nat := fPart s (4 + n) 0x008 16 14
def ctrRet (s : State) (n : Nat) : Nat := fPart s (4 + n) 0x008 0 13
def varPages (s : State) (n : Nat) : Nat := fPart s (4 + n) 0x009 0 7

/-- First slot and number of slots of a core's range (R331): 0 edge, 1 timer, 2 counter. -/
def slotRange (s : State) (n k : Nat) : Nat × Nat :=
  if k = 0 then (fPart s (4 + n) 5 0 14, fPart s (4 + n) 5 16 15)
  else if k = 1 then (fPart s (4 + n) 6 0 13, fPart s (4 + n) 6 16 14)
  else (fPart s (4 + n) 7 0 12, fPart s (4 + n) 7 16 13)

/-- Bytes of one retained copy (R334). -/
def copyLen (s : State) (n : Nat) : Nat := (slotPages (fGet s (4 + n) 0x008) + varPages s n) * 0x1000

/-- Address of copy A or B (R334). -/
def copyBase (s : State) (n : Nat) (b : Bool) : Nat :=
  0x0C00200000 + fPart s (4 + n) 0x009 8 8 * 0x1000 + (if b then copyLen s n else 0)

/-- Home offset of a core's retained window (R334). -/
def windowStart (s : State) (n : Nat) : Nat := 0x100000 - varPages s n * 0x1000

/-- The base of the bank that a core runs (R313). -/
def bankBase (s : State) (n : Nat) : Nat := 0x0100000000 + coreBank s n * 0x100000

/-- The header of a copy (R335). -/
def copyHeader (s : State) (n : Nat) (seq : Word) : List Byte :=
  let b := leBytes 4 1 ++ leBytes 4 seq.toNat ++ leBytes 6 s.clk.opMs.toNat ++ leBytes 2 0 ++ leBytes 4 s.clk.pcc.toNat ++
    leBytes 4 (bankMeas s (coreBank s n)).toNat ++ leBytes 2 (tmrRet s n) ++ leBytes 2 (ctrRet s n) ++ leBytes 2 (varPages s n) ++
    leBytes 30 0
  b ++ leBytes 4 (crc32c b).toNat

/-- A timer as a copy holds it (R333, R335). -/
def timerBytes (now : Nat) (x : Timer) : List Byte :=
  leBytes 4 (if x.run then min x.pt (since now x.start) else x.et) ++ leBytes 4 x.pt ++
    leBytes 4 (bit x.q + 2 * bit x.run + 4 * bit x.prev) ++ leBytes 4 0

/-- The bytes of a copy as of now, by offset (R335). -/
def copyBytes (s : State) (n : Nat) (seq : Word) : List Host.Cell :=
  let (t0, _) := slotRange s n 1
  let (c0, _) := slotRange s n 2
  let timers := Tbl.slice s.cyc.slots.timers t0 (tmrRet s n)
  let counters := Tbl.slice s.cyc.slots.counters c0 (ctrRet s n)
  let page := slotPages (fGet s (4 + n) 0x008) * 0x1000
  toCells 0 (copyHeader s n seq) ++
  timers.flatMap (fun e => toCells (64 + 16 * e.1) (timerBytes s.clk.tick.toNat e.2)) ++
  counters.flatMap (fun e => toCells (64 + 16 * tmrRet s n + 8 * e.1) (leBytes 4 e.2.cv.toNat ++ leBytes 4 (bit e.2.prev))) ++
  (Tbl.slice s.mem.cells (bankBase s n + windowStart s n) (varPages s n * 0x1000)).map (fun c => (page + c.1, c.2))

/-- A copy's header is complete: state 1 and its CRC (R337). -/
def headerOk (s : State) (n : Nat) (b : Bool) : Bool :=
  let a := copyBase s n b
  readable s a 64 && memW s a == 1 && memW s (a + 60) == crc32c (memBytes s a 60)

/-- A copy belongs to the core's present configuration and image (R337). -/
def copyMatches (s : State) (n : Nat) (b : Bool) : Bool :=
  let a := copyBase s n b
  memN s (a + 24) 2 == tmrRet s n && memN s (a + 26) 2 == ctrRet s n && memN s (a + 28) 2 == varPages s n &&
    memW s (a + 20) == bankMeas s (coreBank s n)

/-- Sequence in a copy's header. -/
def copySeq (s : State) (n : Nat) (b : Bool) : Nat := (memW s (copyBase s n b + 4)).toNat

/-- The copy with the higher sequence among those that satisfy `p`. -/
def newestCopy (s : State) (n : Nat) (p : Bool → Bool) : Option Bool :=
  match p false, p true with
  | true, true => some (copySeq s n false < copySeq s n true)
  | true, false => some false
  | false, true => some true
  | false, false => none

/-- The latest valid commit (R337). Without one, the latest complete copy is kept as long as it can be (assumption 40). -/
def latestCopy (s : State) (n : Nat) : Option Bool :=
  match newestCopy s n (fun b => headerOk s n b && copyMatches s n b) with
  | some b => some b
  | none => newestCopy s n (headerOk s n)

/-- The sequence of the next commit: one above the highest in a complete copy, from 1 (R335, R343). -/
def nextCopySeq (s : State) (n : Nat) : Word :=
  Word.ofN (([false, true].filter (headerOk s n)).foldl (fun m b => max m (copySeq s n b)) 0 + 1)

/-- A commit point (R336, R356): the capture, to the copy that does not hold the latest valid commit, whose state becomes 0; or
the commit is skipped because an earlier one is still being written. -/
def commitPoint (s : State) (n : Nat) : State :=
  match (getCore s n).commit with
  | some _ => raise (fSetBit s (4 + n) 0x00D 5 true) (64 + 16 * n + 5)
  | none =>
    let b := match latestCopy s n with | some l => !l | none => false
    let seq := nextCopySeq s n
    let c : Commit := { copyB := b, seq := seq, base := copyBase s n b, len := copyLen s n, bytes := copyBytes s n seq }
    hwW (setCore s n { getCore s n with commit := some c }) (4 + n) c.base 0

/-- The commit has been written whole (R335, R336): RET_STATUS and event 4. A restart that waits for the new image's commit may
go on (R356). -/
def execRetCommitDone (core : Fin 8) (s : State) : Out :=
  let n := core.val
  done s (match (getCore s n).commit with
    | none => s
    | some c =>
      let s := loadRange s c.base c.len c.bytes
      let core := getCore s n
      let s := setCore s n { core with commit := none, needCommit := core.needCommit && !c.fresh }
      raise (fSet s (4 + n) 0x00B c.seq) (64 + 16 * n + 4))

/-! ## Restarts -/

/-- A restart begins at a Meridian (R338, R340): releases stop and cycles in progress are abandoned. -/
def restartBegin (s : State) (n : Nat) (warm : Bool) : State :=
  let s := abandonCycles s n
  actionDone (setCore s n { getCore s n with mode := .restarting, warm := warm, restartWaits := false }) (4 + n) 0x002 0 2

/-- Reads every word of a range that has bits in error: true when none is uncorrectable (R96). -/
def rangeReadable (s : State) (a len : Nat) : State × Bool :=
  (((s.mem.ecc.filter (fun e => a / 8 ≤ e.1 && e.1 < (a + len) / 8)).map (·.1)).foldl
    (fun (s, ok) w => let (s, r) := eccRead s (w * 8); (s, ok && r)) (s, true))

/-- Every word of a copy can be read (R337). -/
def copyReadable (s : State) (n : Nat) (b : Bool) : State × Bool := rangeReadable s (copyBase s n b) (copyLen s n)

/-- The copy to restore: the valid one with the higher sequence, or the other when a word of that one is uncorrectable (R337,
R338). -/
def pickCopy (s : State) (n : Nat) : State × Option Bool :=
  let ok (b : Bool) : Bool := headerOk s n b && copyMatches s n b
  match newestCopy s n ok with
  | none => (s, none)
  | some b =>
    match copyReadable s n b with
    | (s, true) => (s, some b)
    | (s, false) => if ok (!b) then (match copyReadable s n (!b) with | (s, true) => (s, some (!b)) | (s, false) => (s, none)) else (s, none)

/-- Clears the slots of the core's ranges (R338). -/
def clearSlots (s : State) (n : Nat) : State :=
  let (e0, ec) := slotRange s n 0
  let (t0, tc) := slotRange s n 1
  let (c0, cc) := slotRange s n 2
  let p := s.cyc.slots
  { s with cyc := { s.cyc with slots :=
      { edges := Tbl.clear p.edges e0 ec, timers := Tbl.clear p.timers t0 tc, counters := Tbl.clear p.counters c0 cc } } }

/-- What both restarts initialise (R338). -/
def restartInit (s : State) (n : Nat) (cause : Nat) : State :=
  let l := coreBank s n
  let win := windowStart s n
  let s := initBank s l win
  let s := zeroRange s (bankBase s n + win) (varPages s n * 0x1000)
  let s := clearSlots s n
  let s := { s with
    ctxs := Tbl.clear s.ctxs (64 + 16 * l) 16
    cyc := { s.cyc with mail := Tbl.clear s.cyc.mail (16 * l) 16 } }
  let s := evtClearAll s (24 + n)
  let s := dropRequests s (4 + n)
  let s := setCore s n { getCore s n with
    wbuf := [], merCount := 0, tasks := (List.range 16).map (fun t => (t, { causes := [(cause, 0)] })) }
  (List.range 16).foldl (fun s t => [6, 7, 8, 9].foldl (fun s k => fSet s (4 + n) (taskField t k) 0) s) s

/-- Restores the retained slots of a copy (R333). -/
def restoreSlots (s : State) (n a : Nat) : State :=
  let (t0, _) := slotRange s n 1
  let (c0, _) := slotRange s n 2
  let now := s.clk.tick.toNat
  let timer (i : Nat) : Timer :=
    let b := a + 64 + 16 * i
    let el := (memW s b).toNat
    let f := memW s (b + 8)
    let run := f.tst 1
    { q := f.tst 0, run := run, prev := f.tst 2, pt := (memW s (b + 4)).toNat, et := if run then 0 else el
      start := if run then since now el else 0 }
  let counter (j : Nat) : Counter :=
    let b := a + 64 + 16 * tmrRet s n + 8 * j
    { cv := memW s b, prev := (memW s (b + 4)).tst 0 }
  let p := s.cyc.slots
  { s with cyc := { s.cyc with slots := { p with
      timers := (List.range (tmrRet s n)).foldl (fun t i => Tbl.put {} t (t0 + i) (timer i)) p.timers
      counters := (List.range (ctrRet s n)).foldl (fun t j => Tbl.put {} t (c0 + j) (counter j)) p.counters } } }

/-- Restores the retained window of a copy (R338). -/
def restoreWindow (s : State) (n a : Nat) : State :=
  let len := varPages s n * 0x1000
  loadRange s (bankBase s n + windowStart s n) len
    (Tbl.slice s.mem.cells (a + slotPages (fGet s (4 + n) 0x008) * 0x1000) len)

/-- A warm restart with a valid copy (R338, R339). -/
def restoreCopy (s : State) (n : Nat) (b : Bool) : State :=
  let a := copyBase s n b
  let lost := (s.clk.opMs.toNat + 2 ^ 48 - memN s (a + 8) 6) % 2 ^ 48
  let s := restoreWindow (restoreSlots s n a) n a
  post s (4 + n) 1 0x0608 [Word.ofN (copySeq s n b), Word.ofN lost]

/-- A warm restart without one (R339). -/
def noRetain (s : State) (n : Nat) : State :=
  raisePost (fSetBit s (4 + n) 0x00D 6 true) (4 + n) 3 (64 + 16 * n + 9) []

/-- A restart completes (R338 to R340): event 6, and the core runs unless RUN is 0 (assumption 41). -/
def execRestartComplete (core : Fin 8) (s : State) : Out :=
  let n := core.val
  done s (
    let c := getCore s n
    if c.mode ≠ .restarting ∨ !corePowered s n then s
    else
      let (s, pick) := if c.warm then pickCopy s n else (s, none)
      let s := restartInit s n (if pick.isSome then 3 else 4)
      let s := match pick with
        | some b => restoreCopy s n b
        | none => if c.warm then noRetain s n else s
      let seq := match newestCopy s n (fun b => headerOk s n b && copyMatches s n b) with | some b => copySeq s n b | none => 0
      let s := fSet s (4 + n) 0x00B (Word.ofN seq)
      let s := setCore s n { getCore s n with mode := if fBit s (4 + n) 1 0 then .running else .stopped }
      raise s (64 + 16 * n + 6))

/-! ## Writes to a core's live fields -/

/-- RUN of a core was written (R341): 1 resumes releases; 0 acts at the next Meridian. -/
def cycRunWrite (s : State) (n : Nat) (v : Word) : State :=
  let s := fSet s (4 + n) 0x001 (v &&& 1)
  if v.tst 0 && (getCore s n).mode == .stopped && corePowered s n then
    setCore s n { getCore s n with mode := .running, merCount := 0 }
  else s

/-- A class L field of a core was written (R328, R344). -/
def cycLive (s : State) (n f : Nat) (v : Word) : State :=
  let u := 4 + n
  if f = 0x001 then cycRunWrite s n v
  else if f = 0x00E then
    [0, 1, 2].foldl (fun s i => if v.tst i then fSetBit s u 0x00D (4 + i) false else s) s
  else if f = 0x011 then fSet s u 0x011 0xFFFFFFFF
  else if 0x100 ≤ f ∧ f < 0x200 ∧ f % 16 = 8 then fSet s u f 0
  else if 0x100 ≤ f ∧ f < 0x200 ∧ f % 16 = 10 then
    if v.tst 0 then fSetPart (fSetPart s u (f - 4) 16 16 0) u (f - 4) 3 2 0 else s
  else fSet s u f v

end Sys2Proof.Machine
end

