-- ==== Sys2Proof/Machine/Water.lean ====
section
/-! DEFINITION. The default water table of the boot ROM (R163): h in 0.01 J/kg and the density in Q15.16 kg/m³ at 0 to 180 °C, from the
equations of IAPWS-IF97 region 1 at 1.6 MPa, each rounded to nearest. The spec names the formulation and does not list its coefficients
(assumption 2). -/
namespace Sys2Proof.Machine

/-- 0 °C to 30 °C. -/
def waterRom0 : List (Nat × Nat) :=
  [(158589, 65575676), (579627, 65579158), (1000360, 65581498), (1420815, 65582735), (1841014, 65582905), (2260979, 65582042),
   (2680729, 65580177), (3100282, 65577342), (3519655, 65573565), (3938860, 65568872), (4357913, 65563290), (4776825, 65556842),
   (5195607, 65549552), (5614269, 65541440), (6032821, 65532529), (6451272, 65522837), (6869628, 65512384), (7287898, 65501186),
   (7706087, 65489261), (8124203, 65476625), (8542251, 65463294), (8960236, 65449281), (9378163, 65434602), (9796036, 65419269),
   (10213861, 65403296), (10631641, 65386695), (11049381, 65369477), (11467083, 65351654), (11884751, 65333237), (12302388, 65314236),
   (12719999, 65294661)]

/-- 31 °C to 61 °C. -/
def waterRom1 : List (Nat × Nat) :=
  [(13137584, 65274523), (13555149, 65253829), (13972695, 65232590), (14390224, 65210814), (14807741, 65188509), (15225247, 65165683),
   (15642744, 65142343), (16060236, 65118499), (16477724, 65094156), (16895211, 65069321), (17312699, 65044002), (17730191, 65018204),
   (18147689, 64991935), (18565194, 64965200), (18982710, 64938006), (19400238, 64910357), (19817781, 64882260), (20235340, 64853720),
   (20652918, 64824742), (21070517, 64795331), (21488138, 64765493), (21905785, 64735231), (22323459, 64704551), (22741163, 64673457),
   (23158897, 64641954), (23576665, 64610046), (23994469, 64577736), (24412310, 64545029), (24830190, 64511930), (25248112, 64478440),
   (25666078, 64444566)]

/-- 62 °C to 92 °C. -/
def waterRom2 : List (Nat × Nat) :=
  [(26084090, 64410309), (26502149, 64375673), (26920258, 64340663), (27338419, 64305280), (27756634, 64269529), (28174905, 64233412),
   (28593234, 64196933), (29011622, 64160094), (29430073, 64122899), (29848588, 64085350), (30267169, 64047450), (30685817, 64009201),
   (31104536, 63970606), (31523327, 63931668), (31942193, 63892389), (32361134, 63852771), (32780154, 63812817), (33199254, 63772529),
   (33618436, 63731910), (34037702, 63690960), (34457055, 63649682), (34876496, 63608079), (35296028, 63566152), (35715652, 63523904),
   (36135370, 63481335), (36555185, 63438447), (36975099, 63395243), (37395113, 63351724), (37815229, 63307892), (38235451, 63263748),
   (38655779, 63219293)]

/-- 93 °C to 123 °C. -/
def waterRom3 : List (Nat × Nat) :=
  [(39076216, 63174530), (39496764, 63129459), (39917426, 63084082), (40338202, 63038401), (40759095, 62992415), (41180108, 62946128),
   (41601242, 62899539), (42022500, 62852650), (42443884, 62805462), (42865395, 62757977), (43287036, 62710194), (43708810, 62662115),
   (44130718, 62613742), (44552762, 62565074), (44974945, 62516113), (45397269, 62466859), (45819737, 62417313), (46242350, 62367477),
   (46665110, 62317350), (47088021, 62266933), (47511084, 62216226), (47934301, 62165231), (48357676, 62113948), (48781209, 62062377),
   (49204905, 62010519), (49628764, 61958374), (50052790, 61905943), (50476985, 61853225), (50901352, 61800222), (51325892, 61746932),
   (51750608, 61693358)]

/-- 124 °C to 154 °C. -/
def waterRom4 : List (Nat × Nat) :=
  [(52175504, 61639498), (52600581, 61585353), (53025842, 61530922), (53451290, 61476207), (53876927, 61421207), (54302756, 61365922),
   (54728779, 61310353), (55155000, 61254498), (55581421, 61198358), (56008045, 61141932), (56434875, 61085221), (56861914, 61028225),
   (57289163, 60970942), (57716628, 60913374), (58144309, 60855518), (58572211, 60797376), (59000336, 60738947), (59428688, 60680230),
   (59857269, 60621224), (60286083, 60561930), (60715133, 60502346), (61144422, 60442473), (61573953, 60382309), (62003730, 60321854),
   (62433756, 60261107), (62864035, 60200068), (63294569, 60138736), (63725363, 60077109), (64156419, 60015187), (64587743, 59952970),
   (65019336, 59890456)]

/-- 155 °C to 180 °C. -/
def waterRom5 : List (Nat × Nat) :=
  [(65451203, 59827644), (65883348, 59764534), (66315774, 59701124), (66748486, 59637413), (67181487, 59573400), (67614781, 59509084),
   (68048372, 59444464), (68482264, 59379538), (68916462, 59314306), (69350970, 59248765), (69785792, 59182916), (70220931, 59116755),
   (70656394, 59050282), (71092184, 58983495), (71528305, 58916393), (71964763, 58848974), (72401562, 58781236), (72838706, 58713178),
   (73276201, 58644799), (73714052, 58576095), (74152263, 58507066), (74590840, 58437710), (75029788, 58368024), (75469111, 58298007),
   (75908816, 58227657), (76348907, 58156971)]

/-- The default water table (R163). -/
def waterTable : List (Nat × Nat) :=
  waterRom0 ++ waterRom1 ++ waterRom2 ++ waterRom3 ++ waterRom4 ++ waterRom5

end Sys2Proof.Machine
end

