-- ==== Sys2Proof/Machine/Metering.lean ====
section
/-! DEFINITION. Energy metering (R142 to R178). The coefficients of the high-pass, Hilbert and fractional-delay filters are not given, so
what a filter makes of the samples it is given is left open, but for zero samples into a filter at rest; all that is computed from
filtered samples is exact. A result word lies at one of the two whole numbers next to its exact value (assumption 44). -/
namespace Sys2Proof.Machine

/-! ## Rounding -/

/-- Whole number next to a rational: below or above, as free value `k` says; the number itself when it is whole (assumption 44). -/
def nearQ (k : Nat) (q : Q) : Int :=
  let f := q.n.fdiv q.d
  if f * q.d = q.n then f else f + bit (Config.freeBool k)

/-- Whole number next to a square root. -/
def nearSqrt (k : Nat) (q : Q) : Nat :=
  if q.n ≤ 0 then 0
  else
    let r := isqrt (q.n.toNat / q.d)
    if r * r * q.d = q.n.toNat then r else r + bit (Config.freeBool k)

/-- An integer as a word of 32 bits. -/
def intWord (x : Int) : Word := BitVec.ofInt 32 x

/-! ## Channels -/

/-- Voltage group of feeder f (R142, R175). -/
def feederGroup (s : State) (f : Nat) : Nat := fPart s 0x12 5 (2 * f) 2

/-- Voltage and current channels of phase p of feeder f (R142). -/
def chV (s : State) (f p : Nat) : Nat := 3 * feederGroup s f + p
def chI (f p : Nat) : Nat := 12 + 4 * f + p

/-- The channel is enabled (R175). -/
def chOn (s : State) (ch : Nat) : Bool := fBit s 0x12 (0x100 + ch) 3

/-- A group's ZX_LOST (R157). -/
def zxLost (s : State) (g : Nat) : Bool := fBit s 0x12 7 g

/-- Gain and delay of a channel at a die temperature (R158): the first is Q1.30. -/
def compAt (s : State) (ch : Nat) (temp : Int) : Q × Q :=
  let pt (k : Nat) : Int × Int := Tbl.get (2 ^ 30, 0) s.mtr.comp (ch * 17 + k)
  let t := max (-40 * 65536) (min (120 * 65536) temp)
  let i := min 15 ((t + 40 * 65536) / (10 * 65536)).toNat
  let r : Q := { n := t - (10 * i - 40) * 65536, d := 10 * 65536 }
  let mix (a b : Int) : Q := (Q.ofInt a).add ((Q.ofInt (b - a)).mul r)
  (mix (pt i).1 (pt (i + 1)).1, mix (pt i).2 (pt (i + 1)).2)

/-- Delay of a channel in 1/655,360 ps, in which the interpolated value is whole (R158). -/
def chDelay (s : State) (ch : Nat) : Int := ((compAt s ch (fGet s 0x12 0xE).toInt).2.mul (Q.ofInt 655360)).round

/-- What one unit of a filtered sample stands for, in mV or mA: a filtered sample is in 2^-16 of a code, full scale 2^23 codes
(R143, R144, R158). -/
def chScale (s : State) (ch : Nat) : Q :=
  ((compAt s ch (fGet s 0x12 0xE).toInt).1).mul { n := (fGet s 0x12 (0x140 + ch)).toNat, d := 2 ^ 69 }

/-! ## Zero crossings -/

/-- Timeout of R157 in ns. -/
def zxTimeoutNs (s : State) : Nat :=
  let f := if fBit s 0x12 2 0 then 60 else 50
  fPart s 0x12 3 0 8 * 100000000 / f

/-- Phase p of group g has a counted crossing within the timeout (R156). -/
def zxRecent (s : State) (g p : Nat) : Bool :=
  match (Tbl.get {} s.mtr.zx (3 * g + p)).counted with
  | some t => netNs s ≤ t + zxTimeoutNs s
  | none => false

/-- The reference phase of a group follows (R156): the lowest phase with a counted crossing within the timeout; a change posts a
record. -/
def zxRef (s : State) (g : Nat) : State :=
  match (List.range 3).find? (zxRecent s g) with
  | some p =>
    if p = fPart s 0x12 7 (4 + 2 * g) 2 then s else post (fSetPart s 0x12 7 (4 + 2 * g) 2 p) 0x12 1 0x060F []
  | none => s

/-- A counted crossing (R156, R157): the frequency, and the end of the lost state at the second one in a row. -/
def zxCounted (s : State) (g p span : Nat) : State :=
  let s := zxRef s g
  let s :=
    if p = fPart s 0x12 7 (4 + 2 * g) 2 then
      let (n, f) := Tbl.get (0, 0) s.mtr.freq g
      let m := (nearQ s.free { n := 10 ^ 12, d := span }).toNat
      { s with free := s.free + 1, mtr := { s.mtr with freq := Tbl.put (0, 0) s.mtr.freq g (n + 1, f + m) } }
    else s
  if zxLost s g && 2 ≤ (Tbl.get {} s.mtr.zx (3 * g + p)).run then raisePost (fSetBit s 0x12 7 g false) 0x12 1 289 [] else s

/-- The detector of a voltage channel takes a sample (R156). A crossing lies at a free instant between this sample and the previous
one; the spacing of counted crossings is 1/70 s to 1/40 s. -/
def zxSample (s : State) (ch : Nat) (x : Int) (at_ : Nat) : State :=
  let h : Int := fPart s 0x12 4 0 16
  let z := Tbl.get {} s.mtr.zx ch
  let put (s : State) (z : Zx) : State := { s with mtr := { s.mtr with zx := Tbl.put {} s.mtr.zx ch z } }
  if x * 65536 < -h * 2 ^ 23 then put s { z with low := true }
  else if z.low && h * 2 ^ 23 < x * 65536 then
    let (s, w) := freeW s
    let t := at_ - w.toNat % 125000
    match z.last with
    | some l =>
      let span := t - l
      let ok := 1000000000 ≤ span * 70 && span * 40 ≤ 1000000000
      let s := put s { low := false, last := some t, counted := if ok then some t else z.counted, run := if ok then z.run + 1 else 0 }
      if ok then zxCounted s (ch / 3) (ch % 3) span else s
    | none => put s { z with low := false, last := some t, run := 0 }
  else s

/-- All phases of a group have passed the timeout without a counted crossing (R157). -/
def zxExpired (s : State) (g : Nat) : Bool :=
  (List.range 3).all (fun p =>
    (max s.mtr.start ((Tbl.get {} s.mtr.zx (3 * g + p)).counted.getD 0) + zxTimeoutNs s) * 2 ^ 48 < tickEnd s)

/-- The lost state of a group begins (R157). -/
def execZxTimeout (g : Fin 4) (s : State) : Out :=
  done s (
    let g := g.val
    if !mtrRuns s || zxLost s g || !zxExpired s g then s
    else
      let z := (List.range 3).foldl (fun t p => Tbl.put {} t (3 * g + p) { Tbl.get {} t (3 * g + p) with run := 0 }) s.mtr.zx
      let add (l : List Nat) : List Nat := if l.contains g then l else g :: l
      let s := { s with mtr := { s.mtr with zx := z, lostIn := add s.mtr.lostIn, harmLost := add s.mtr.harmLost } }
      raisePost (fSetBit s 0x12 7 g true) 0x12 2 288 [])

/-! ## Samples -/

/-- A channel's sample after its filters. -/
structure Filtered where
  /-- the filters' next state -/
  next : Int := 0
  /-- the filtered sample, in 2^-16 of a code -/
  y : Int := 0
  /-- the filtered sample shifted by 90° -/
  quad : Int := 0
deriving DecidableEq, Repr

/-- The filters of channel `ch` take sample `x` (R150, R158; assumption 44). A disabled channel gives zero samples (R175), and zero samples
leave a filter at rest where it is, so that zero current yields zero (R155). -/
def filtered (s : State) (ch : Nat) (x : Int) : Filtered :=
  let st := Tbl.get 0 s.mtr.filt ch
  if !chOn s ch || (st == 0 && x == 0) then {}
  else
    let d := chDelay s ch
    { next := Config.filterNext d st x, y := Config.filterOut d st x, quad := Config.filterQuad d st x }

/-- The sums of one sample of weight `w` (R150). -/
def addSample (s : State) (f : Nat → Filtered) (w : Nat) (t : Tbl Int) : Tbl Int :=
  let add (t : Tbl Int) (i : Nat) (x : Int) : Tbl Int := Tbl.put 0 t i (Tbl.get 0 t i + x * w)
  let t := (List.range 60).foldl (fun t ch => add t ch ((f ch).y * (f ch).y)) t
  (List.range 36).foldl (fun t i =>
    let v := chV s (i / 3) (i % 3)
    let c := chI (i / 3) (i % 3)
    add (add t (100 + i) ((f v).y * (f c).y)) (200 + i) ((f v).quad * (f c).y)) t

/-- Spacing in ns of the sample at multiple `i` of 125,000 ns from the one before it: after a step of network time the actual spacing on
the timebase (R145). -/
def sampleSpan (s : State) (i : Nat) : Nat :=
  match s.mtr.sample with
  | some p => if s.time.stepAcc = 0 then 125000 else ((i : Int) * 125000 - p * 125000 - roundQ s.time.stepAcc (2 ^ 48)).toNat
  | none => 125000

/-- The filtered samples enter the interval's sums and the harmonic windows in progress. -/
def takeSamples (s : State) (i : Nat) (fs : List Filtered) : State :=
  let w := sampleSpan s i
  let live := (List.range 60).filter (fun ch => (fs.getD ch {}).y != 0 && !s.mtr.harmLive.contains ch)
  { s with
    time := { s.time with stepAcc := 0 }
    mtr := { s.mtr with
      sample := some i, w := s.mtr.w + w, sums := addSample s (fun ch => fs.getD ch {}) w s.mtr.sums
      filt := (List.range 60).foldl (fun t ch => Tbl.put 0 t ch (fs.getD ch {}).next) s.mtr.filt
      harmLive := s.mtr.harmLive ++ live
      harmAt := (List.range 4).foldl (fun t g => if (Tbl.find t g).isSome then t else Tbl.ins t g (i * 125000)) s.mtr.harmAt } }

/-- A sample instant of network time (R143): `codes` are the 60 channels' signed 24-bit samples, clipped; a disabled channel gives
zero. A step of network time changes this sample's spacing (R145). -/
def execSampleInstant (codes : List (BitVec 24)) (s : State) : Out :=
  done s (
    match instantIn s 125000 with
    | none => s
    | some i =>
      if !mtrRuns s || (s.mtr.sample == some i && s.time.stepAcc == 0) then s
      else
        let x (ch : Nat) : Int := if chOn s ch then (codes.getD ch 0).toInt else 0
        let clipped := (List.range 60).filter (fun ch => x ch == 2 ^ 23 - 1 || x ch == -(2 ^ 23))
        let s := takeSamples s i ((List.range 60).map (fun ch => filtered s ch (x ch)))
        let s := { s with mtr := { s.mtr with clip := s.mtr.clip ++ clipped.filter (fun c => !s.mtr.clip.contains c) } }
        let s := (List.range 12).foldl (fun s ch => zxSample s ch (x ch) (i * 125000)) s
        (List.range 4).foldl zxRef s)

/-- Length in ns of a harmonic window of group g (R152): 10 periods of its measured frequency at 50 Hz, 12 at 60 Hz; of the nominal one
before any is measured. -/
def windowNs (s : State) (g : Nat) : Nat :=
  let sixty := fBit s 0x12 2 0
  let f := (fGet s 0x12 (0xA + g)).toNat
  let f := if f = 0 then (if sixty then 60000 else 50000) else f
  (if sixty then 12 else 10) * 10 ^ 12 / f

/-- The THD of harmonic groups `gs` of orders 1 to 50, as Q1.30: orders 2 to 50 relative to order 1 (R152, R167). Relative to 0 it has no
stated value: `w`. -/
def thdWord (gs : List Word) (w : Word) : Word :=
  let g1 := (gs.getD 0 0).toNat
  let sq := ((gs.drop 1).map (fun x => x.toNat * x.toNat)).sum
  if g1 = 0 then w else satW (roundSqrt (sq * 2 ^ 60) (g1 * g1))

/-- The harmonic block of channel `ch` for a window (R152, R167). The magnitudes are free values, since the spectrum is not computed from
the samples (assumption 44), but for a channel whose samples were all 0. -/
def harmonicBlock (s : State) (ch : Nat) (lost : Bool) : List Word :=
  let gs := (List.range 50).map (fun i => if s.mtr.harmLive.contains ch then Config.freeWord (s.free + 51 * ch + i) else 0)
  gs ++ [thdWord gs (Config.freeWord (s.free + 51 * ch + 50)), Word.ofN (bit lost)]

/-- A harmonic window of a group's channels ends (R152), in the tick in which its length has passed; the next one begins where it ends. -/
def execHarmonicWindowEnd (g : Fin 4) (s : State) : Out :=
  done s (
    let g := g.val
    match Tbl.find s.mtr.harmAt g with
    | none => s
    | some t =>
    if !mtrRuns s || tickEnd s ≤ (t + windowNs s g) * 2 ^ 48 then s
    else
      let mine (ch : Nat) : Bool := if ch < 12 then ch / 3 == g else feederGroup s ((ch - 12) / 4) == g
      let on (ch : Nat) : Bool := fBit s 0x13 (7 + ch / 32) (ch % 32)
      let lost := s.mtr.harmLost.contains g || zxLost s g
      let chs := (List.range 60).filter (fun ch => mine ch && on ch)
      { s with
        free := s.free + 51 * 60
        mtr := { s.mtr with
          harm := chs.foldl (fun t ch => Tbl.ins t ch (harmonicBlock s ch lost)) s.mtr.harm
          harmAt := Tbl.ins s.mtr.harmAt g (t + windowNs s g)
          harmLive := s.mtr.harmLive.filter (fun ch => !mine ch)
          harmLost := s.mtr.harmLost.filter (fun x => x != g || zxLost s g) } })

/-! ## Thermal energy -/

/-- Point k of the active water table: h in 0.01 J/kg, ρ in Q15.16 kg/m³ (R163). -/
def waterPoint (s : State) (k : Nat) : Nat × Nat :=
  match s.mtr.water with
  | some t => Tbl.get (0, 0) t k
  | none => waterTable.getD k (0, 0)

/-- h × 2^16 and ρ × 2^16 of the table's units at a temperature of Q15.16 °C, by linear interpolation; the end points beyond
(R163). -/
def waterAt (s : State) (t : Int) : Int × Int :=
  let t := max 0 (min (180 * 65536) t)
  let i := min 179 (t / 65536).toNat
  let r := t - i * 65536
  let a := waterPoint s i
  let b := waterPoint s (i + 1)
  let mix (x y : Nat) : Int := (x : Int) * 65536 + ((y : Int) - x) * r
  (mix a.1 b.1, mix a.2 b.2)

/-- A word of a sub-station slot that EQC reads, through its code (R96). -/
def slotRead (s : State) (slot w : Nat) : State × Int :=
  let a := slotAddr slot + 4 * w
  let s := (hwRead s { unit := 0x13 } .read a 4).1
  (s, (given s a).toInt)

/-- A temperature source of a calculator (R160, R177). -/
def thermalTemp (s : State) (w : Word) : State × Int :=
  if w.tst 31 then slotRead s (w.field 20 11) (w.field 0 20) else (s, (Tbl.get 0 s.pi.live (w.field 0 20 / 4)).toInt)

/-- One part of a thermal sample (R161, R162): mass `m` in g / (2^32 × 10^6), direction reverse or not. -/
def thermalPart (s : State) (c : Nat) (tf tr m : Int) (rev : Bool) : State :=
  let lim := fGet s 0x13 (0x103 + 4 * c)
  let period := fPart s 0x13 9 0 16
  let abs := m.natAbs
  let creep := lim.field 16 16
  if abs = 0 ∨ abs * 65536 < creep * period * 2 ^ 32 * 10 ^ 6 then s
  else
    let x := Tbl.get {} s.mtr.th c
    let s :=
      if x.dir = some (!rev) then
        let s := { s with mtr := { s.mtr with th := Tbl.put {} s.mtr.th c { x with fRev := true } } }
        raisePost s 0x13 1 307 [Word.ofN c, Word.ofN (bit rev), Word.ofN s.clk.opMs.toNat]
      else s
    let dt := tf - tr
    let dh := (waterAt s tf).1 - (waterAt s tr).1
    let base := 336 + 6 * c
    let k := s.free
    let dm := (nearQ k { n := abs, d := 10 ^ 6 }).toNat
    let e := (nearQ (k + 1) { n := abs * dh.natAbs, d := 2 ^ 16 * 10 ^ 6 * 360000 }).toNat
    let counts := !(dt.natAbs * 1000 < lim.field 0 16 * 65536) && dt ≠ 0
    let add (t : Tbl Nat) (id v : Nat) : Tbl Nat := Tbl.put 0 t id (Tbl.get 0 t id + v)
    let integ := add s.mtr.integ (base + 4 + bit rev) dm
    let integ := if counts then add integ (base + (if 0 < dt then 0 else 2) + bit rev) e else integ
    let x := Tbl.get {} s.mtr.th c
    let sE : Int := if !counts then 0 else if (0 ≤ dh) = !rev then (e : Int) else -(e : Int)
    let x := { x with dir := some rev, sM := x.sM + (if rev then -(abs : Int) else (abs : Int)), sE := x.sE + sE }
    { s with free := k + 2, mtr := { s.mtr with integ := integ, th := Tbl.put {} s.mtr.th c x } }

/-- The temperatures of a calculator enter the interval, with the flag and event of R163. -/
def thermalTemps (s : State) (c : Nat) (tf tr : Int) : State :=
  let x := Tbl.get {} s.mtr.th c
  let bad (t : Int) : Bool := t < 0 || 180 * 65536 < t
  let out := bad tf || bad tr
  let y := { x with out := out, fRange := x.fRange || out, n := x.n + 1, sTf := x.sTf + tf, sTr := x.sTr + tr }
  let s := { s with mtr := { s.mtr with th := Tbl.put {} s.mtr.th c y } }
  if out && !x.out then raise s 312 else s

/-- One calculator at a thermal sample (R160). -/
def thermalCalc (s : State) (c : Nat) : State :=
  let cfg := fGet s 0x13 (0x100 + 4 * c)
  let (s, tf) := thermalTemp s (fGet s 0x13 (0x101 + 4 * c))
  let (s, tr) := thermalTemp s (fGet s 0x13 (0x102 + 4 * c))
  let s := thermalTemps s c tf tr
  if cfg.tst 30 then
    let slot := cfg.field 13 11
    if (slotSt s slot).state ≠ 2 then
      { s with mtr := { s.mtr with th := Tbl.put {} s.mtr.th c { Tbl.get {} s.mtr.th c with fStale := true } } }
    else
      let (s, qm) := slotRead s slot (cfg.field 6 7)
      thermalPart s c tf tr (qm * fPart s 0x13 9 0 16 * 65536 * 10 ^ 6) (qm < 0)
  else
    let n := cfg.field 24 5
    let now := Tbl.get (0, 0) s.mtr.pin n
    let x := Tbl.get {} s.mtr.th c
    let df : Nat := (now.1 + 2 ^ 32 - x.fwd) % 2 ^ 32
    let dr : Nat := (now.2 + 2 ^ 32 - x.rev) % 2 ^ 32
    let s := { s with mtr := { s.mtr with th := Tbl.put {} s.mtr.th c { x with fwd := now.1, rev := now.2 } } }
    let rho := (waterAt s (if cfg.tst 29 then tf else tr)).2
    let unit := rho * (fGet s 0x13 (0x1C1 + 2 * n)).toNat
    let s := thermalPart s c tf tr (df * unit) false
    thermalPart s c tf tr (dr * unit) true

/-- A thermal sample (R160): at network-time multiples of TH_SAMPLE_MS, the enabled calculators in order. -/
def execThermalSample (s : State) : Out :=
  done s (
    let period := fPart s 0x13 9 0 16
    match instantIn s (period * 1000000) with
    | none => s
    | some i =>
      if !mtrRuns s || s.mtr.thLast == some (i * period) then s
      else
        let s := { s with mtr := { s.mtr with thLast := some (i * period) } }
        (List.range 48).foldl (fun s c => if fBit s 0x13 (0x100 + 4 * c) 31 then thermalCalc s c else s) s)

/-! ## The interval's electrical results -/

/-- Mean of a sum over the time sampled. -/
def meanOf (s : State) (i : Nat) : Q := if s.mtr.w = 0 then {} else { n := Tbl.get 0 s.mtr.sums i, d := s.mtr.w }

/-- Mean square of a channel in mV² or mA² (R150). -/
def meanSq (s : State) (ch : Nat) : Q := let c := chScale s ch; (meanOf s ch).mul (c.mul c)

/-- P and Q of a phase in µW and µvar (R150). -/
def phaseP (s : State) (f p : Nat) : Q := (meanOf s (100 + 3 * f + p)).mul ((chScale s (chV s f p)).mul (chScale s (chI f p)))
def phaseQ (s : State) (f p : Nat) : Q := (meanOf s (200 + 3 * f + p)).mul ((chScale s (chV s f p)).mul (chScale s (chI f p)))

/-- S of a phase in µVA, a whole number next to it (R150). -/
def phaseS (s : State) (k f p : Nat) : Nat := nearSqrt (k + 3 * f + p) ((meanSq s (chV s f p)).mul (meanSq s (chI f p)))

/-- Irms lies below the starting current (R153). -/
def belowStart (s : State) (f p : Nat) : Bool :=
  let ch := chI f p
  let lim : Q := { n := ((fGet s 0x13 2).toNat * (fGet s 0x12 (0x140 + ch)).toNat : Nat), d := 2 ^ 30 }
  ((meanSq s ch).mul (Q.ofInt 2)).lt (lim.mul lim)

/-- The kind to which an active and a reactive energy go (R151). -/
def energyKinds (p q : Q) : Nat × Nat :=
  let pos := 0 ≤ p.n
  let up := 0 ≤ q.n
  (if pos then 0 else 1, if pos then (if up then 2 else 5) else (if up then 3 else 4))

/-- Energy of a power in µW over the interval, in 2^-32 mWh (R151). -/
def energyOf (s : State) (k : Nat) (p : Q) : Nat := (nearQ k (p.abs.mul { n := s.mtr.w * 2 ^ 32, d := 36 * 10 ^ 14 })).toNat

/-- What a phase, or the total for p = 3, adds to its integrators (R151, R153): (quantity ID, 2^-32 mWh). `k` numbers the free
values. -/
def feederEnergy (s : State) (k f p : Nat) : List (Nat × Nat) :=
  let ps := if p < 3 then (if belowStart s f p then [] else [p]) else (List.range 3).filter (fun i => !belowStart s f i)
  if ps.isEmpty then []
  else
    let pw := Q.sum (ps.map (phaseP s f))
    let qw := Q.sum (ps.map (phaseQ s f))
    let sw := (ps.map (phaseS s k f)).sum
    let (ka, kr) := energyKinds pw qw
    let id := f * 28 + p * 7
    [(id + ka, energyOf s (k + 64 + id) pw), (id + kr, energyOf s (k + 65 + id) qw), (id + 6, energyOf s (k + 66 + id) (Q.ofInt sw))]

/-- Step 1 of R147: the interval's energy enters the integrators, and their whole parts the accumulators. The second answer
gives the increments by quantity ID. -/
def accumulate (s : State) (k : Nat) : State × Tbl Nat :=
  let adds := (List.range 48).flatMap (fun i => feederEnergy s k (i / 4) (i % 4))
  let integ := adds.foldl (fun t (id, v) => Tbl.put 0 t id (Tbl.get 0 t id + v)) s.mtr.integ
  let inc := (integ.map (fun (e : Nat × Nat) => (e.1, e.2 / 2 ^ 32))).filter (fun e => e.2 != 0)
  let rest := (integ.map (fun (e : Nat × Nat) => (e.1, e.2 % 2 ^ 32))).filter (fun e => e.2 != 0)
  let acc := inc.foldl (fun t (id, v) => Tbl.put 0 t id (min (2 ^ 64 - 1) (Tbl.get 0 t id + v))) s.mtr.acc
  ({ s with mtr := { s.mtr with integ := rest, acc := acc } }, inc)

/-! ## The metering set -/

/-- Flags of a quantity entry (R168). -/
def quantityFlags (s : State) (id : Nat) : Nat :=
  let common := bit s.mtr.restored * 64 + bit s.mtr.noSave * 128
  if id < 336 then
    let f := id / 28
    let p := id % 28 / 7
    let ph := if p < 3 then [p] else List.range 3
    bit (p < 3 && belowStart s f p) + bit (s.mtr.lostIn.contains (feederGroup s f)) * 2 +
      bit (ph.any (fun p => s.mtr.clip.contains (chV s f p) || s.mtr.clip.contains (chI f p))) * 4 + bit s.mtr.compOut * 8 + common
  else
    let x := Tbl.get {} s.mtr.th ((id - 336) / 6)
    bit x.fRange * 16 + bit x.fRev * 32 + bit x.fStale * 256 + common

/-- A quantity entry (R165, R167). -/
def quantityEntry (s : State) (flags : Nat) (id : Nat) : List Word :=
  let acc := Tbl.get 0 s.mtr.acc id
  let thermal := 336 ≤ id
  let units := acc / 10 ^ (if thermal then fPart s 0x13 0xA 4 3 else fPart s 0x13 0xA 0 3)
  [Word.ofN acc, Word.ofN (acc / 2 ^ 32), Word.ofN (units % 1000000000),
   Word.ofN (flags * 65536 + units / 1000000000 % 65536)]

/-- The words of a feeder's entry p (R167): Irms, P, Q, S. -/
def feederWords (s : State) (k f p : Nat) : List Word :=
  let i := (f * 4 + p) * 4
  let micro (n : Nat) (q : Q) : Word := intWord (nearQ (k + 512 + i + n) (q.mul { n := 1, d := 10 ^ 6 }))
  let ps := List.range 3
  let irms := Word.ofN (nearSqrt (k + 512 + i) (meanSq s (chI f p)))
  if p < 3 then [irms, micro 1 (phaseP s f p), micro 2 (phaseQ s f p), micro 3 (Q.ofInt (phaseS s k f p))]
  else [irms, micro 1 (Q.sum (ps.map (phaseP s f))), micro 2 (Q.sum (ps.map (phaseQ s f))),
        micro 3 (Q.ofInt (ps.map (phaseS s k f)).sum)]

/-- The words of a group (R167). -/
def groupWords (s : State) (k g : Nat) : List Word :=
  (List.range 3).map (fun p => Word.ofN (nearSqrt (k + 800 + 3 * g + p) (meanSq s (3 * g + p)))) ++ [fGet s 0x12 (0xA + g)]

/-- The words of a calculator (R167): means over the interval's samples; without a sample they are free (assumption 44). Forward
flow to a cooler return counts positive. -/
def thermalWords (s : State) (k c : Nat) : List Word :=
  let x := Tbl.get {} s.mtr.th c
  let i := k + 820 + 4 * c
  if x.n = 0 then (List.range 4).map (fun j => Config.freeWord (i + j))
  else
    let span := x.n * fPart s 0x13 9 0 16
    [intWord (nearQ i { n := x.sE * 3600, d := 2 ^ 32 * span }), satW (Q.round { n := x.sM * 65536, d := 2 ^ 32 * 10 ^ 6 * span }),
     intWord (Q.round { n := x.sTf, d := x.n }), intWord (Q.round { n := x.sTr, d := x.n })]

/-- The harmonic block of a channel (R167): zero when it is not enabled or has no window yet. -/
def harmonicWords (s : State) (ch : Nat) : List Word :=
  if fBit s 0x13 (7 + ch / 32) (ch % 32) then (Tbl.find s.mtr.harm ch).getD (List.replicate 52 0) else List.replicate 52 0

/-- The electrical means and the flags of the interval that ends, taken before its boundary's configuration applies (R147). -/
structure Ended where
  flags : List Nat
  feeders : List Word
  groups : List Word
  thermal : List Word
  harm : List Word
  tcomp : Nat
  water : Nat
  temp : Word
  zx : Nat

/-- Takes them. -/
def endedOf (s : State) (k : Nat) : Ended :=
  { flags := (List.range 624).map (quantityFlags s)
    feeders := (List.range 48).flatMap (fun i => feederWords s k (i / 4) (i % 4))
    groups := (List.range 4).flatMap (groupWords s k)
    thermal := (List.range 48).flatMap (thermalWords s k)
    harm := (List.range 60).flatMap (harmonicWords s)
    tcomp := fPart s 0x12 6 16 16, water := fPart s 0x13 0xB 16 16, temp := fGet s 0x12 0xE, zx := fPart s 0x12 7 0 4 }

/-- Backlog flag and overflow of pulse output n, and its backlog (R167, R173). -/
def pulseOutWord (s : State) (n : Nat) : Word :=
  Word.ofN ((Tbl.get {} s.mtr.po n).backlog + bit (fBit s 0x13 0xC n) * 65536 + bit (fBit s 0x13 0xC (16 + n)) * 131072)

/-- The metering set of a boundary at network time `at_` in ns (R167). -/
def meterSet (s : State) (e : Ended) (at_ : Nat) : List Word :=
  [s.mtr.interval, Word.ofN (at_ / 1000000000), Word.ofN (at_ % 1000000000), s.clk.opMs.setWidth 32, Word.ofN (e.tcomp * 65536 + e.zx), Word.ofN e.water,
   fGet s 0x13 5, e.temp] ++
  (List.range 624).flatMap (fun id => quantityEntry s (e.flags.getD id 0) id) ++ e.groups ++ e.feeders ++ e.thermal ++
  (List.range 16).map (pulseOutWord s) ++
  (List.range 32).flatMap (fun n => let c := Tbl.get (0, 0) s.mtr.pin n; [Word.ofN c.1, Word.ofN c.2]) ++
  e.harm

/-! ## Pulse outputs -/

/-- Step 3 of R147 for one output (R173). -/
def pulseFeed (s : State) (inc : Tbl Nat) (n : Nat) : State :=
  let cfg := fGet s 0x13 (0x200 + 2 * n)
  let x := Tbl.get {} s.mtr.po n
  let s := if x.backlog = 0 then fSetBit s 0x13 0xC n false else s
  if !cfg.tst 31 then s
  else
    let c := max 1 (fGet s 0x13 (0x201 + 2 * n)).toNat
    let r := x.residue + Tbl.get 0 inc (cfg.field 16 12)
    let new := r / c
    let total := x.backlog + new
    let s := { s with mtr := { s.mtr with po := Tbl.put {} s.mtr.po n { x with residue := r % c, backlog := min 65535 total } } }
    let s := if new ≠ 0 ∧ x.backlog ≠ 0 then raise (fSetBit s 0x13 0xC n true) 308 else s
    if 65535 < total then raisePost (fSetBit s 0x13 0xC (16 + n) true) 0x13 2 309 [] else s

/-- A pulse starts: the output is enabled, has a backlog, and has been idle for its width (R173). -/
def execPulseOutStart (n : Fin 16) (s : State) : Out :=
  done s (
    let n := n.val
    let cfg := fGet s 0x13 (0x200 + 2 * n)
    let x := Tbl.get {} s.mtr.po n
    if !mtrRuns s || !cfg.tst 31 || x.active || x.backlog == 0 || s.clk.tick.toNat < x.since then s
    else { s with mtr := { s.mtr with
      po := Tbl.put {} s.mtr.po n { x with active := true, backlog := x.backlog - 1, since := s.clk.tick.toNat } } })

/-- A pulse ends after its width; the output is then idle for at least that long (R173). -/
def execPulseOutEnd (n : Fin 16) (s : State) : Out :=
  done s (
    let n := n.val
    let x := Tbl.get {} s.mtr.po n
    let width := fPart s 0x13 (0x200 + 2 * n) 0 10 * 100
    if !x.active || s.pwr.asleep || s.clk.tick.toNat < x.since + width then s
    else { s with mtr := { s.mtr with po := Tbl.put {} s.mtr.po n { x with active := false, since := s.clk.tick.toNat + width } } })

/-- The input has changed to the other level and been stable for MIN_WIDTH_US since its edge before (R172). -/
def edgeCounts (s : State) (n : Nat) (rising : Bool) (at_ : Nat) : Bool :=
  match Tbl.find s.mtr.edge n with
  | some (level, t) => level != rising && fPart s 0x13 (0x1C0 + 2 * n) 0 16 * 1000 ≤ at_ - t
  | none => true

/-- The level of a pulse input's direction source: of another pulse input as its latest edge left it, of a GPIO as the command gives it
(R172, R177). -/
def dirLevel (s : State) (cfg : Word) (gpio : Bool) : Bool :=
  let src := cfg.field 23 6
  if src < 32 then ((Tbl.find s.mtr.edge src).map (·.1)).getD gpio else gpio

/-- An edge of PLS_IN_n (R172), with the level of its direction source where that is a GPIO; CLE counts rising edges by itself (R383).
`ns` is the edge's network time, in nanoseconds since the second's start. -/
def execPulseInEdge (n : Fin 32) (rising dir : Bool) (ns : Fin 1000000000) (s : State) : Out :=
  done s (
    let cfg := fGet s 0x13 (0x1C0 + 2 * n.val)
    let s :=
      if rising then
        let c := Tbl.get {} s.cle.pls n.val
        let now := s.time.sec * 1000000000 + ns.val
        let e : PlsCount := { n := c.n + 1, last := some now, gap := c.last.map (fun l => now - l) }
        { s with cle := { s.cle with pls := Tbl.put {} s.cle.pls n.val e } }
      else s
    let at_ := s.time.sec * 1000000000 + ns.val
    if !domainOn s 6 || !edgeCounts s n.val rising at_ then s
    else
    let s := { s with mtr := { s.mtr with edge := Tbl.ins s.mtr.edge n.val (rising, at_) } }
    if !mtrRuns s || !cfg.tst 31 || cfg.tst 30 == rising then s
    else
      let fwd := !cfg.tst 29 || (dirLevel s cfg dir != cfg.tst 22)
      let (a, b) := Tbl.get (0, 0) s.mtr.pin n.val
      let v := if fwd then ((a + 1) % 2 ^ 32, b) else (a, (b + 1) % 2 ^ 32)
      { s with mtr := { s.mtr with pin := Tbl.put (0, 0) s.mtr.pin n.val v } })

/-! ## Tables -/

/-- A compensation table, or none when it is refused (R159): its points for the channels of its mask. A value out of range refuses it
whole, in any channel's part (assumption 45). -/
def compParse (d : List Byte) : Option (Nat × List (Nat × Int × Int)) :=
  let mask := natAt d 4 8
  let at_ (i : Nat) : Int × Int := ((wordAt (d.drop (32 + 8 * i)) 0).toInt, (wordAt (d.drop (32 + 8 * i)) 1).toInt)
  let pts := (List.range (60 * 17)).map (fun i => (i, (at_ i).1, (at_ i).2))
  if d.length = 8196 ∧ natAt d 0 2 = 1 ∧ mask < 2 ^ 60 ∧ (List.range 20).all (fun i => natAt d (12 + i) 1 == 0) ∧
      pts.all (fun p => 2 ^ 29 ≤ p.2.1 && p.2.1 ≤ 3 * 2 ^ 29 && -62500000 ≤ p.2.2 && p.2.2 ≤ 62500000) ∧
      crc32c (d.take 8192) = wordAt d 2048 then
    some (natAt d 2 2, pts.filter (fun p => mask / 2 ^ (p.1 / 17) % 2 == 1)) else none

/-- A water table, or none when it is refused (R163). -/
def waterParse (d : List Byte) : Option (Nat × Tbl (Nat × Nat)) :=
  if d.length = 1484 ∧ natAt d 0 2 = 2 ∧ (List.range 24).all (fun i => natAt d (8 + i) 1 == 0) ∧
      crc32c (d.take 1480) = wordAt d 370 then
    some (natAt d 2 2, ((List.range 181).map (fun k => (k, natAt d (32 + 8 * k) 4, natAt d (36 + 8 * k) 4))).filter
      (fun (e : Nat × Nat × Nat) => e.2 != (0, 0)))
  else none

/-- A compensation table takes the place of the active one for its channels (R159). -/
def compLoad (s : State) (id : Nat) (pts : List (Nat × Int × Int)) : State :=
  let t := pts.foldl (fun t p => Tbl.put (2 ^ 30, 0) t p.1 p.2) s.mtr.comp
  fSet { s with mtr := { s.mtr with comp := t } } 0x12 6 (Word.ofN (id * 65536))

/-- A loaded table becomes active (R147, R159, R163). -/
def tableApply (s : State) (unit : Nat) : State :=
  match gateFind s (unit * 64) with
  | some g =>
    match g.change with
    | .payload 1 d =>
      match compParse d with
      | some (id, pts) => gateDone (raise (compLoad s id pts) 291) g
      | none => gateDrop s g.target
    | .payload 2 d =>
      match waterParse d with
      | some (id, t) => gateDone (fSet { s with mtr := { s.mtr with water := some t } } 0x13 0xB (Word.ofN (id * 65536))) g
      | none => gateDrop s g.target
    | _ => s
  | none => s

/-- The gate's part of an UPDATE with a table (R24, R159): loaded for the next boundary, or refused. -/
def tableAccept (s : State) (ty : Nat) (d : List Byte) (e : EnvInfo) : State :=
  let unit := if ty = 1 then 0x12 else 0x13
  let ok := if ty = 1 then (compParse d).isSome else (waterParse d).isSome
  if ok then
    let s := { s with gate := s.gate ++ [{ target := unit * 64, env := some e, change := .payload ty d }] }
    if ty = 1 then fSetBit s 0x12 6 0 true else s
  else if ty = 1 then raisePost s 0x12 2 292 [] else post s 0x13 2 0x0604 []

/-! ## Saves -/

/-- Address of a save copy (R169). -/
def saveBase (b : Bool) : Nat := if b then 0x0C00320000 else 0x0C00300000

/-- A save copy is valid (R169): every word of it can be read and its CRC is right. -/
def saveValid (s : State) (b : Bool) : Bool :=
  let d := memBytes s (saveBase b) 5284
  readable s (saveBase b) 5284 && natAt d 0 4 != 0 && crc32c (d.take 5280) == wordAt d 1320

/-- EQC checks both copies (R169, R171): the valid one with the higher sequence. -/
def saveLatest (s : State) : State × Option Bool :=
  let s := (rangeReadable (rangeReadable s (saveBase false) 5288).1 (saveBase true) 5288).1
  let q (b : Bool) : Nat := (memW s (saveBase b)).toNat
  (s, match saveValid s false, saveValid s true with
    | true, true => some (q false < q true)
    | true, false => some false
    | false, true => some true
    | false, false => none)

/-- The record of a save at a boundary at network time `at_` in ns (R169): the values that step 4 published (R147). -/
def saveRecord (s : State) (e : Ended) (seq : Word) (at_ : Nat) : List Byte :=
  let d := leBytes 4 seq.toNat ++ leBytes 6 s.clk.opMs.toNat ++ leBytes 2 0 ++ leBytes 4 s.clk.pcc.toNat ++ leBytes 4 s.mtr.interval.toNat ++
    leBytes 4 (at_ / 1000000000) ++ leBytes 2 e.tcomp ++ leBytes 2 e.water ++ leBytes 2 624 ++ leBytes 2 0 ++
    (List.range 624).flatMap (fun id => leBytes 8 (Tbl.get 0 s.mtr.acc id)) ++
    (List.range 32).flatMap (fun n => let c := Tbl.get (0, 0) s.mtr.pin n; leBytes 4 c.1 ++ leBytes 4 c.2)
  d ++ leBytes 4 (crc32c d).toNat

/-- Step 5 of R147: a save begins when one is due or asked for, or when `force` says so (R148, R169). -/
def saveBegin (s : State) (e : Ended) (force : Bool) (at_ : Nat) : State :=
  let due := s.mtr.lastSave + fPart s 0x13 3 0 12 * 100000 ≤ s.clk.tick.toNat
  if !(force || due || s.mtr.saveReq) then s
  else
    let (s, latest) := saveLatest s
    let (b, seq) : Bool × Word := match latest with
      | some l => (!l, memW s (saveBase l) + 1)
      | none => (false, 1)
    { s with mtr := { s.mtr with
      saveReq := false, lastSave := s.clk.tick.toNat, saving := some { copyB := b, seq := seq, bytes := saveRecord s e seq at_ } } }

/-- A save has been written and read back (R170). After a failed check the word read back as the copy's CRC is free, but not the right
one. -/
def execSaveDone (ok : Bool) (s : State) : Out :=
  done s (match s.mtr.saving with
    | none => s
    | some v =>
      if s.pwr.asleep then s
      else
      let s := { s with mtr := { s.mtr with saving := none } }
      let s := hwWrite s { unit := 0x13 } (saveBase v.copyB) v.bytes
      if ok then raise (fSet { s with mtr := { s.mtr with noSave := false } } 0x13 5 v.seq) 305
      else
        let (s, w) := freeW s
        let right := wordAt v.bytes 1320
        raisePost (hwW s 0x13 (saveBase v.copyB + 5280) (if w = right then ~~~right else w)) 0x13 2 306 [])

/-- Restores from a save copy (R171). -/
def saveRestore (s : State) (b : Bool) : State :=
  let d := memBytes s (saveBase b) 5284
  let acc := (List.range 624).foldl (fun t id => Tbl.put 0 t id (natAt d (32 + 8 * id) 8)) []
  let pin := (List.range 32).foldl (fun t n => Tbl.put (0, 0) t n (natAt d (5024 + 8 * n) 4, natAt d (5028 + 8 * n) 4)) []
  let th := (List.range 48).foldl (fun t c =>
    let p := Tbl.get (0, 0) pin (fPart s 0x13 (0x100 + 4 * c) 24 5)
    Tbl.put {} t c { fwd := p.1, rev := p.2 }) []
  let lost := (s.clk.opMs.toNat + 2 ^ 48 - natAt d 4 6) % 2 ^ 48
  let s := fSet { s with mtr := { s.mtr with acc := acc, pin := pin, th := th, restored := true } } 0x13 5 (wordAt d 0)
  raisePost s 0x13 1 310 [wordAt d 0, Word.ofN lost]

/-- EQC restores at start-up and when the MTR domain is switched on (R171); a copy with an uncorrectable word is not valid. -/
def eqcRestore (s : State) : State :=
  let s := { s with mtr := { lastSave := s.clk.tick.toNat } }
  match saveLatest s with
  | (s, none) => raisePost { s with mtr := { s.mtr with noSave := true } } 0x13 3 311 []
  | (s, some b) => saveRestore s b

/-! ## The boundary -/

/-- A changed QTY_ID or PO_CONST clears the output's backlog and residue (R174). -/
def pulseChanges (s0 s : State) : State :=
  (List.range 16).foldl (fun s n =>
    if fPart s0 0x13 (0x200 + 2 * n) 16 12 = fPart s 0x13 (0x200 + 2 * n) 16 12 ∧ fGet s0 0x13 (0x201 + 2 * n) = fGet s 0x13 (0x201 + 2 * n)
    then s
    else { s with mtr := { s.mtr with po := Tbl.put {} s.mtr.po n { Tbl.get {} s.mtr.po n with residue := 0, backlog := 0 } } }) s

/-- A calculator that is enabled, or takes another flow source, counts the pulses from now on (R160). -/
def calcChanges (s0 s : State) : State :=
  (List.range 48).foldl (fun s c =>
    let cfg := fGet s 0x13 (0x100 + 4 * c)
    if fPart s0 0x13 (0x100 + 4 * c) 24 8 = cfg.field 24 8 then s
    else
      let p := Tbl.get (0, 0) s.mtr.pin (cfg.field 24 5)
      { s with mtr := { s.mtr with th := Tbl.put {} s.mtr.th c { Tbl.get {} s.mtr.th c with fwd := p.1, rev := p.2 } } }) s

/-- What new fields of EQC mean for its pulse outputs and calculators (R160, R174). -/
def eqcChanges (s0 s : State) : State := calcChanges s0 (pulseChanges s0 s)

/-- A class L field of EQC was written (R169, R177). -/
def eqcLive (s : State) (f : Nat) (v : Word) : State :=
  if f = 4 then (if v.tst 0 then { s with mtr := { s.mtr with saveReq := true } } else s)
  else if f = 0xC then fSet s 0x13 0xC (fGet s 0x13 0xC &&& ~~~(v &&& 0xFFFF0000))
  else fSet s 0x13 f v

/-- The class L writes that the gate holds for the boundary of MTR and EQC take effect at it (R23, R85); a 0 in MTR.RUN stops them
there. -/
def meterHeld (s : State) : State :=
  (heldWrites s 0x12 ++ heldWrites s 0x13).foldl (fun s (g, f, v) =>
    gateDone (if g.target / 64 = 0x13 then eqcLive s (f % 1024) v else if v.tst 0 then s else fSet s 0x12 1 0) g) s

/-- Step 2 of R147: pending sets, held writes and loaded tables apply. -/
def mtrConfig (s : State) : State :=
  let s := meterHeld (eqcChanges s (applyFields (applyFields s 0x12) 0x13))
  tableApply (tableApply s 0x12) 0x13

/-- The clip map of the interval, and event 290 for a new bit (R143, R176). -/
def clipMap (s : State) : State :=
  let word (k : Nat) : Word := Word.ofN ((s.mtr.clip.filter (fun ch => ch / 32 == k)).foldl (fun n ch => n + 2 ^ (ch % 32)) 0)
  let new (k : Nat) : Bool := (word k &&& ~~~(fGet s 0x12 (8 + k))) != 0
  let t := fSet (fSet s 0x12 8 (word 0)) 0x12 9 (word 1)
  if new 0 || new 1 then raise t 290 else t

/-- The frequency of each group that is not lost (R156, R157). -/
def freqUpdate (s : State) (k : Nat) : State :=
  (List.range 4).foldl (fun s g =>
    let (n, f) := Tbl.get (0, 0) s.mtr.freq g
    if n = 0 ∨ zxLost s g then s else fSet s 0x12 (0xA + g) (intWord (nearQ (k + 816 + g) { n := f, d := n }))) s

/-- The next interval begins: sums and flags start over, and the measured temperature is used from now on (R158). -/
def intervalBegin (s : State) (temp : Word) : State :=
  let out := temp.toInt < -40 * 65536 || 120 * 65536 < temp.toInt
  let was := s.mtr.compOut
  let s := fSet { s with mtr := { s.mtr with
    w := 0, sums := [], clip := [], freq := [], restored := false, compOut := out
    lostIn := (List.range 4).filter (zxLost s)
    th := (s.mtr.th.map (fun e => (e.1, { e.2 with fRange := false, fRev := false, fStale := false, n := 0, sTf := 0, sTr := 0, sM := 0, sE := 0 }))).filter
      (fun e => e.2 != {}) } } 0x12 0xE temp
  if out && !was then raise s 293 else s

/-- Steps 1 to 5 of R147 at a boundary at network time `at_` in ns. -/
def intervalEnd (s : State) (temp : Word) (force : Bool) (at_ : Nat) : State :=
  let k := s.free
  let s := { s with free := s.free + 1100 }
  let s := freqUpdate s k
  let e := endedOf s k
  let (s, inc) := accumulate s k
  let s := { s with mtr := { s.mtr with interval := s.mtr.interval + 1 } }
  let s := mtrConfig (clipMap s)
  let s := (List.range 16).foldl (fun s n => pulseFeed s inc n) s
  let s := raise (deliverSet s (fPart s 0x13 6 0 19 / 4) (meterSet s e at_)) 304
  intervalBegin (saveBegin s e (force || !fBit s 0x12 1 0) at_) temp

/-- A boundary of the accumulation interval (R146): a network-time multiple of ACC_INT_MS; `temp` is the die temperature that MTR
measures there (R158). -/
def execAccBoundary (temp : Word) (s : State) : Out :=
  done s (
    let len := fPart s 0x13 1 0 16
    match instantIn s (len * 1000000) with
    | none => s
    | some i =>
      if !mtrRuns s || s.mtr.bound == some (i * len) then s
      else intervalEnd { s with mtr := { s.mtr with bound := some (i * len) } } temp false (i * len * 1000000))

/-! ## Writes -/

/-- RUN of MTR was written (R148): 0 closes the interval in progress with a save; 1 resumes. The temperature measured at such a
closing is a free value. -/
def mtrRunWrite (s : State) (v : Word) : State :=
  let was := fBit s 0x12 1 0
  if was && !v.tst 0 then
    let (s, t) := freeW s
    fSet (intervalEnd s t true (netNs s)) 0x12 1 0
  else if !was && v.tst 0 then
    let s := fSet s 0x12 1 1
    { s with mtr := { s.mtr with start := netNs s, interval := 0, sample := none, zx := [], harmAt := [], harmLive := [] } }
  else s

/-- MTR stops at the entry into sleep with its state retained (R149): the first sample after the wake is spaced as usual, and harmonic
windows begin anew with it. -/
def mtrPause (s : State) : State := { s with mtr := { s.mtr with sample := none, harmAt := [], harmLive := [] } }

end Sys2Proof.Machine
end

