-- ==== Sys2Proof/Machine/NetModel.lean ====
section
/-! DEFINITION. The network model in the model region: its tables, model images, parameter patches and the patch store
(R179 to R195, R615). -/
namespace Sys2Proof.Machine

/-! ## Tables -/

/-- Element counts of a model (R181). -/
structure Counts where
  n : Nat := 0
  m : Nat := 0
  ss : Nat := 0
  p : Nat := 0
  st : Nat := 0
  h : Nat := 0
  pu : Nat := 0
  off : Nat := 0
  k : Nat := 0
deriving DecidableEq, Repr

/-- A model as its checks read it: counts, and word `w` of entry `i` of a table. Tables are numbered as in a patch record:
0 branch, 1 node, 2 sub-station, 3 plant, 4 store, 5 pump, 6 descriptor, 7 offset (R183). -/
structure Mdl where
  c : Counts
  rd : Nat → Nat → Nat → Word

/-- Base of the model region (R179). -/
def mdlBase : Nat := 0x0400000000

/-- Offset of a table in the region (R179). -/
def tabBase (t : Nat) : Nat := [0x40000, 0x80000, 0x98000, 0xA0000, 0xA0800, 0xA1000, 0x100000, 0xA4000].getD t 0

/-- Words of an entry of a table (R179). -/
def tabWords (t : Nat) : Nat := [8, 4, 4, 8, 8, 4, 4, 1].getD t 1

/-- Entries of a table. -/
def Counts.of (c : Counts) (t : Nat) : Nat := [c.m, c.n, c.ss, c.p, c.st, c.pu, c.k, c.off].getD t 0

/-- Address of a word of an entry of the active model. -/
def mdlAddr (t i w : Nat) : Nat := mdlBase + tabBase t + 4 * (tabWords t * i + w)

/-- Word of an entry of the active model, as hardware takes it (R96). -/
def mdlW (s : State) (t i w : Nat) : Word := given s (mdlAddr t i w)

/-- Counts of the active model (R220). -/
def counts (s : State) : Counts :=
  let a := fGet s 0x14 3
  let b := fGet s 0x14 4
  let c := fGet s 0x14 5
  { n := a.field 16 16, m := a.field 0 16, ss := b.field 16 16, pu := b.field 8 8, p := b.field 0 8
    k := c.field 16 16, h := c.field 8 8, st := c.field 0 8, off := s.asm.offs }

/-- The active model. -/
def activeMdl (s : State) : Mdl := { c := counts s, rd := mdlW s }

/-- Counts of a model image (R181). -/
def imgCounts (d : List Byte) : Counts :=
  { n := natAt d 4 2, m := natAt d 6 2, ss := natAt d 8 2, p := natAt d 10 1, st := natAt d 11 1, h := natAt d 12 1
    pu := natAt d 13 1, off := natAt d 14 2, k := natAt d 16 4 }

/-- Byte at which a table starts in a model image: branches, nodes, sub-stations, plants, stores, pumps, offsets, descriptors
(R181). -/
def imgStart (c : Counts) (t : Nat) : Nat :=
  let before := match t with
    | 6 => [0, 1, 2, 3, 4, 5, 7]
    | 7 => [0, 1, 2, 3, 4, 5]
    | t => List.range t
  64 + (before.map (fun u => 4 * tabWords u * c.of u)).foldl (· + ·) 0

/-- A model image as its checks read it. -/
def imgMdl (d : List Byte) : Mdl :=
  let c := imgCounts d
  { c := c, rd := fun t i w => Word.ofN (natAt d (imgStart c t + 4 * (tabWords t * i + w)) 4) }

/-! ## Checks -/

/-- Place of a word in the tables: table, entry, word. -/
abbrev Place := Nat × Nat × Nat

/-- The measurement references of a model: the descriptor, the TYPE its role needs, and where the reference stands (R187 to
R192, R195). -/
def bindings (m : Mdl) : List (Nat × Nat × Place) :=
  let ref (t i w lo ty : Nat) : Nat × Nat × Place := ((m.rd t i w).field lo 16, ty, (t, i, w))
  let each (t : Nat) (f : Nat → List (Nat × Nat × Place)) : List (Nat × Nat × Place) := (List.range (m.c.of t)).flatMap f
  (each 0 (fun i => [ref 0 i 4 0 4, ref 0 i 6 16 2]) ++ each 1 (fun i => [ref 1 i 2 16 0, ref 1 i 2 0 1]) ++
    each 2 (fun i => [ref 2 i 1 0 1, ref 2 i 3 16 2, ref 2 i 3 0 1]) ++
    each 3 (fun i => [ref 3 i 6 16 1, ref 3 i 6 0 2, ref 3 i 7 16 3]) ++
    each 4 (fun i => [ref 4 i 6 16 4, ref 4 i 6 0 3, ref 4 i 7 16 1]) ++
    each 5 (fun i => [ref 5 i 3 16 4])).filter (fun b => b.1 != 0xFFFF)

/-- The indices of a model that have a limit: value, limit, place (R182). -/
def limits (m : Mdl) : List (Nat × Nat × Place) :=
  let ref (t i w lo len n : Nat) : Nat × Nat × Place := ((m.rd t i w).field lo len, n, (t, i, w))
  let each (t : Nat) (f : Nat → List (Nat × Nat × Place)) : List (Nat × Nat × Place) := (List.range (m.c.of t)).flatMap f
  each 0 (fun i => [ref 0 i 0 14 14 m.c.n, ref 0 i 0 0 14 m.c.n]) ++
    each 2 (fun i => [ref 2 i 0 14 14 m.c.n, ref 2 i 0 0 14 m.c.n]) ++
    each 3 (fun i => [ref 3 i 0 14 14 m.c.n, ref 3 i 0 0 14 m.c.n]) ++
    each 4 (fun i => if (m.rd 4 i 0).field 28 3 = 1 then [] else [ref 4 i 0 14 14 m.c.n, ref 4 i 0 0 14 m.c.n]) ++
    each 5 (fun i => [ref 5 i 0 0 13 m.c.m]) ++
    (bindings m).map (fun b => (b.1, m.c.k, b.2.2))

/-- The variable stable IDs of a model (R187 to R191). -/
def modelSids (m : Mdl) : List (Nat × Place) :=
  let each (t : Nat) (f : Nat → List (Nat × Place)) : List (Nat × Place) := (List.range (m.c.of t)).flatMap f
  let sid (t i w : Nat) : Nat × Place := ((m.rd t i w).field 0 16, (t, i, w))
  each 0 (fun i => [sid 0 i 6]) ++ each 1 (fun i => [sid 1 i 0, sid 1 i 3]) ++ each 2 (fun i => [sid 2 i 2]) ++
    each 3 (fun i => [sid 3 i 7]) ++ each 4 (fun i => if (m.rd 4 i 0).field 28 3 = 1 then [] else [sid 4 i 7])

/-- The first entry whose number has stood before. -/
def firstTwice : List Nat → List (Nat × Place) → Option Place
  | _, [] => none
  | seen, (x, pl) :: t => if seen.contains x || x == 0xFFFF then some pl else firstTwice (x :: seen) t

/-- Roughness range (R220). -/
def roughOk (s : State) (r : Nat) : Bool := fPart s 0x14 0xF 0 16 ≤ r && r ≤ fPart s 0x14 0xF 16 16

/-- Checks 2 to 9 of R182 in the order listed: the check code and the place of the offending word. -/
def mdlCheck (s : State) (m : Mdl) : Option (Nat × Place) :=
  let first (code : Nat) (l : List Place) : Option (Nat × Place) := l.head?.map (fun p => (code, p))
  let entries (t : Nat) : List Nat := List.range (m.c.of t)
  let b := bindings m
  let bound (d : Nat) : Nat := (b.filter (fun x => x.1 == d)).length
  (first 2 ([0, 1, 2, 3, 4, 5, 6].flatMap (fun t =>
      ((entries t).filter (fun i => !(m.rd t i 0).tst 31)).map (fun i => (t, i, 0))))).or <|
  (first 3 (((limits m).filter (fun r => r.2.1 ≤ r.1)).map (·.2.2))).or <|
  (first 4 (((entries 6).filter (fun d => bound d != 1)).map (fun d => (6, d, 0)))).or <|
  (first 5 ((b.filter (fun x => (m.rd 6 x.1 0).field 28 3 != x.2.1)).map (·.2.2))).or <|
  (first 6 (((entries 4).filter (fun i => (m.rd 4 i 0).field 28 3 != 1 && m.c.h ≤ i)).map (fun i => (4, i, 0)))).or <|
  ((firstTwice [] (modelSids m)).map (fun p => (7, p))).or <|
  (first 8 (((entries 0).filter (fun i => !roughOk s ((m.rd 0 i 2).field 0 16))).map (fun i => (0, i, 2)))).or <|
  (first 9 (((entries 0).filter (fun i => m.rd 0 i 7 != 0)).map (fun i => (0, i, 7))))

/-- What a refusal reports: the check code, the entry index and the offending word (R615). -/
abbrev Bad := Nat × Nat × Word

/-- Check 1 of R182: the CRC and the counts of a model image, with its length and its zero bytes. -/
def imgFormOk (d : List Byte) : Bool :=
  let c := imgCounts d
  let len := imgStart c 6 + 16 * c.k
  natAt d 0 2 = 3 && natAt d 2 2 ≠ 0 && 1 ≤ c.n && c.n ≤ 6144 && 1 ≤ c.m && c.m ≤ 8192 && c.ss ≤ 2048 && c.p ≤ 64 &&
    c.st ≤ 32 && c.h ≤ c.st && c.pu ≤ 128 && c.off ≤ 4095 && c.k ≤ 40000 && ((d.drop 20).take 44).all (· == 0) &&
    d.length = len + 4 && crc32c (d.take len) = wordAt (d.drop len) 0

/-- The first failed rule of a model image, none when it is accepted (R182). -/
def imgCheck (s : State) (d : List Byte) : Option Bad :=
  if !imgFormOk d then some (1, 0, 0)
  else
    let m := imgMdl d
    (mdlCheck s m).map (fun (code, t, i, w) => (code, i, m.rd t i w))

/-- The offset-table word, descriptor words and element words that a patch may write (R183): the bits that it may change, none
for any other word. -/
def patchMask (t w : Nat) : Option Nat :=
  match t with
  | 0 => if w = 2 ∨ w = 3 ∨ w = 5 then some 0xFFFFFFFF else if w = 4 then some (31 * 2 ^ 16) else none
  | 1 => if w = 1 then some 0xFFFFFFFF else none
  | 3 => if 1 ≤ w ∧ w ≤ 5 then some 0xFFFFFFFF else none
  | 4 => if 1 ≤ w ∧ w ≤ 5 then some 0xFFFFFFFF else none
  | 5 => if w = 1 ∨ w = 2 then some 0xFFFFFFFF else none
  | 6 => if w = 1 ∨ w = 2 then some 0xFFFFFFFF else if w = 3 then some 0xFFFFF else none
  | 7 => if w = 0 then some 0xFFFFFFFF else none
  | _ => none

/-- The records of a patch: their first words and new values (R183). -/
def patchRecs (d : List Byte) : List (Word × Word) :=
  (List.range (natAt d 4 4)).map (fun i => (wordAt d (8 + 2 * i), wordAt d (9 + 2 * i)))

/-- Where a record writes. -/
def recPlace (w : Word) : Place := (w.field 28 4, w.field 0 24, w.field 24 4)

/-- A model with records written over it. -/
def overlay (m : Mdl) (rs : List (Word × Word)) : Mdl :=
  { m with rd := fun t i w =>
      match (rs.filter (fun r => recPlace r.1 == (t, i, w))).getLast? with
      | some r => r.2
      | none => m.rd t i w }

/-- The first failed rule of patch records against the active model (R183). -/
def recsCheck (s : State) (rs : List (Word × Word)) : Option Bad :=
  let m := activeMdl s
  let numbered := (List.range rs.length).zip rs
  let word (r : Word × Word) : Bool :=
    let (t, i, w) := recPlace r.1
    match patchMask t w with
    | some k => ((m.rd t i w) ^^^ r.2).toNat &&& (0xFFFFFFFF - k) == 0
    | none => false
  match numbered.find? (fun (_, r) => (patchMask (recPlace r.1).1 (recPlace r.1).2.2).isNone) with
  | some (i, r) => some (11, i, r.1)
  | none =>
    match numbered.find? (fun (_, r) => m.c.of (recPlace r.1).1 ≤ (recPlace r.1).2.1) with
    | some (i, r) => some (3, i, r.1)
    | none =>
      match numbered.find? (fun (_, r) => !word r) with
      | some (i, r) => some (11, i, r.1)
      | none =>
        let o := overlay m rs
        (mdlCheck s { o with rd := fun t i w => if t = 0 ∧ w = 7 then 0 else o.rd t i w }).map (fun (code, pl) =>
          match numbered.find? (fun (_, r) => (recPlace r.1).1 == pl.1 && (recPlace r.1).2.1 == pl.2.1) with
          | some (i, r) => (code, i, r.1)
          | none => (code, 0, 0))

/-- The first failed rule of a parameter patch, none when it may be applied (R183). -/
def patchCheck (s : State) (d : List Byte) : Option Bad :=
  let n := natAt d 4 4
  if natAt d 0 2 ≠ 4 ∨ n = 0 ∨ 4096 < n ∨ !((d.drop 8).take 24).all (· == 0) ∨ d.length ≠ 36 + 8 * n ∨
      crc32c (d.take (32 + 8 * n)) ≠ wordAt d (8 + 2 * n) then some (1, 0, 0)
  else if natAt d 2 2 ≠ fPart s 0x14 6 0 16 then some (10, 0, 0)
  else recsCheck s (patchRecs d)

/-- Refusal of a model image or a patch: event 326 and its record (R182, R183). -/
def modelRefused (s : State) (b : Bad) : State :=
  raisePost s 0x14 2 326 [Word.ofN b.1, Word.ofN b.2.1, b.2.2]

/-! ## The patch store -/

/-- Address of a copy of the patch store (R185). -/
def patchStore (b : Bool) : Nat := if b then 0x0C007DFF80 else 0x0C007BFF80

/-- A copy's bytes, none when it is not valid (R185): every word of it can be read (R96). -/
def storeCopy (s : State) (b : Bool) : Option (List Byte) :=
  let n := memN s (patchStore b + 4) 4
  if 16379 < n then none
  else
    let d := memBytes s (patchStore b) (36 + 8 * n)
    if readable s (patchStore b) (36 + 8 * n) ∧ natAt d 0 2 = 4 ∧ ((d.drop 16).take 16).all (· == 0) ∧ crc32c (d.take (32 + 8 * n)) = wordAt d (8 + 2 * n) then some d
    else none

/-- The latest valid copy, with which one it is. -/
def storeLatest (s : State) : Option (Bool × List Byte) :=
  match storeCopy s false, storeCopy s true with
  | some a, some b => if natAt a 8 4 < natAt b 8 4 then some (true, b) else some (false, a)
  | some a, none => some (false, a)
  | none, some b => some (true, b)
  | none, none => none

/-- The bytes of a copy. -/
def storeBytes (id seq : Nat) (meas : Word) (rs : List (Word × Word)) : List Byte :=
  let d := leBytes 2 4 ++ leBytes 2 id ++ leBytes 4 rs.length ++ leBytes 4 seq ++ leBytes 4 meas.toNat ++ leBytes 16 0 ++
    rs.flatMap (fun r => leBytes 4 r.1.toNat ++ leBytes 4 r.2.toNat)
  d ++ leBytes 4 (crc32c d).toNat

/-- Writes a copy (R102, R185). -/
def storeWrite (s : State) (b : Bool) (seq : Nat) (rs : List (Word × Word)) : State :=
  let s := hwWrite s { unit := 0x14 } (patchStore b) (storeBytes (fPart s 0x14 6 0 16) seq s.asm.meas rs)
  fSetPart (fSetBit s 0x14 0x1B 2 false) 0x14 0x1B 16 16 rs.length

/-- New records replace those of the words that they write; the others follow in their order (R185). -/
def mergeRecs (old new : List (Word × Word)) : List (Word × Word) :=
  new.foldl (fun l r => if l.any (fun o => o.1 == r.1) then l.map (fun o => if o.1 = r.1 then r else o) else l ++ [r]) old

/-- A patch is merged into the store (R185). -/
def storeMerge (s : State) (rs : List (Word × Word)) : State :=
  let (b, seq, old) : Bool × Nat × List (Word × Word) := match storeLatest s with
    | some (b, d) =>
      if natAt d 2 2 = fPart s 0x14 6 0 16 ∧ wordAt d 3 = s.asm.meas then (!b, natAt d 8 4 + 1, patchRecs d) else (!b, natAt d 8 4 + 1, [])
    | none => (false, 1, [])
  let l := mergeRecs old rs
  if 16379 < l.length then post (fSetBit s 0x14 0x1B 2 true) 0x14 2 0x060F [] else storeWrite s b (seq % 2 ^ 32) l

/-- Both copies are written empty for a new model image (R185). -/
def storeEmpty (s : State) : State :=
  let seq := match storeLatest s with | some (_, d) => natAt d 8 4 | none => 0
  storeWrite (storeWrite s false ((seq + 1) % 2 ^ 32) []) true ((seq + 2) % 2 ^ 32) []

/-! ## Applying -/

/-- Writes patch records into the model. -/
def writeRecs (s : State) (rs : List (Word × Word)) : State :=
  rs.foldl (fun s r => let (t, i, w) := recPlace r.1; hwW s 0x14 (mdlAddr t i w) r.2) s

/-- A patch whose rules hold is applied with all of its records together, and merged (R183, R185): event 327. -/
def patchApply (s : State) (d : List Byte) : State :=
  raise (storeMerge (writeRecs s (patchRecs d)) (patchRecs d)) 327

/-- The bytes of a table in a model image. -/
def imgTable (d : List Byte) (t : Nat) : List Byte :=
  let c := imgCounts d
  (d.drop (imgStart c t)).take (4 * tabWords t * c.of t)

/-- Space of a table in the region (R179). -/
def tabSize (t : Nat) : Nat := [0x40000, 0x18000, 0x8000, 0x800, 0x400, 0x800, 640000, 16380].getD t 0

/-- The reinitialisation that a new model asks for, with one that still waits (R186). -/
def reinitFor (s : State) (d : List Byte) : Reinit :=
  let old := activeMdl s
  let new := imgMdl d
  let same (i : Nat) : Bool := [0, 1].all (fun w => old.rd 0 i w == new.rd 0 i w) &&
    (old.rd 0 i 2).field 16 16 == (new.rd 0 i 2).field 16 16
  let keep := (List.range (min old.c.m new.c.m)).filter same
  match s.asm.reinit with
  | none => { oldN := min old.c.n new.c.n, keep := keep }
  | some r => { oldN := min r.oldN (min old.c.n new.c.n), keep := keep.filter (fun i => r.keep.contains i) }

/-- PLUGS and the flags of a kept branch stay while the model changes under them (R179, R186). -/
def keptWord7 (s : State) (r : Reinit) : List (Nat × Word) := r.keep.map (fun i => (i, mdlW s 0 i 7))

/-- A model image replaces all tables at once (R181). -/
def imageLoad (s : State) (d : List Byte) (meas : Word) : State :=
  let r := reinitFor s d
  let k := keptWord7 s r
  let c := imgCounts d
  let s := (List.range 8).foldl (fun s t => loadRange s (mdlBase + tabBase t) (tabSize t) (toCells 0 (imgTable d t))) s
  let s := k.foldl (fun s e => hwW s 0x14 (mdlAddr 0 e.1 7) e.2) s
  let s := fSet s 0x14 3 (Word.ofN (c.n * 2 ^ 16 + c.m))
  let s := fSet s 0x14 4 (Word.ofN (c.ss * 2 ^ 16 + c.pu * 2 ^ 8 + c.p))
  let s := fSet s 0x14 5 (Word.ofN (c.k * 2 ^ 16 + c.h * 2 ^ 8 + c.st))
  let s := fSet s 0x14 6 (Word.ofN (natAt d 2 2))
  let s := fSetBit s 0x15 0x16 1 true
  { s with asm := { s.asm with offs := c.off, meas := meas, reinit := some r, prevTick := none, snapOk := false } }

/-- A model image switches: the patch store is emptied for it (R185), event 325. -/
def imageApply (s : State) (d : List Byte) (meas : Word) : State := raise (storeEmpty (imageLoad s d meas)) 325

/-- The patch store belongs to the loaded image (R185). -/
def storeMatches (s : State) : Bool :=
  match storeLatest s with
  | none => false
  | some (_, d) => natAt d 2 2 == fPart s 0x14 6 0 16 && wordAt d 3 == s.asm.meas

/-- At start-up the valid copy with the higher sequence is applied when it belongs to the loaded image; otherwise the store is
discarded with a record (R185). -/
def storeBoot (s : State) : State :=
  let s := (hwRead (hwRead s { unit := 0x14 } .read (patchStore false) 0x20000).1 { unit := 0x14 } .read (patchStore true) 0x20000).1
  if storeMatches s then
    match storeLatest s with
    | some (_, d) => fSetPart (writeRecs s (patchRecs d)) 0x14 0x1B 16 16 (natAt d 4 4)
    | none => s
  else post (zeroRange (zeroRange s (patchStore false) 0x20000) (patchStore true) 0x20000) 0x14 1 0x060F []

/-! ## Acceptance -/

/-- TRN has a model image waiting for it (R181, R216). -/
def modelPending (s : State) : Bool :=
  match gateFind s (0x14 * 64) with
  | some g => match g.change with | .payload 3 _ => true | _ => false
  | none => false

/-- The gate's part of an UPDATE with a model image or a patch (R24, R182, R183). -/
def modelAccept (s : State) (ty : Nat) (d : List Byte) (e : EnvInfo) : State :=
  match if ty = 3 then imgCheck s d else patchCheck s d with
  | some b => modelRefused s b
  | none => { s with gate := s.gate ++ [{ target := 0x14 * 64, env := some e, change := .payload ty d }] }

/-- PATCH_GO (R184): the gate copies the patch at once and checks it. -/
def patchSubmit (s : State) (v : Word) : State :=
  if !v.tst 0 then s
  else
    let a := fPart s 0x14 0x19 0 8 * 2 ^ 32 + (fGet s 0x14 0x18).toNat
    let d := givenBytes s a (36 + 8 * (given s (a + 4)).toNat)
    match patchCheck s d with
    | some b => fSetPart (modelRefused s b) 0x14 0x1B 0 2 3
    | none => fSetPart { s with gate := s.gate ++ [{ target := 0x14 * 64, change := .patch d }] } 0x14 0x1B 0 2 1

/-- ASM's own changes of the gate: a model image or a patch at ASM's boundary (R181 to R184). One whose rules no longer hold there is
refused. -/
def modelGate (s : State) : State :=
  match gateFind s (0x14 * 64) with
  | some g =>
    match g.change with
    | .payload 3 d =>
      match imgCheck s d with
      | some b => modelRefused (gateDrop s g.target) b
      | none => imageApply (gateDone s g) d (match g.env with | some e => digestWord e.digest | none => 0)
    | .payload 4 d =>
      match patchCheck s d with
      | some b => modelRefused (gateDrop s g.target) b
      | none => patchApply (gateDone s g) d
    | .patch d =>
      match patchCheck s d with
      | some b => fSetPart (modelRefused (gateDrop s g.target) b) 0x14 0x1B 0 2 3
      | none => fSetPart (patchApply (gateDone s g) d) 0x14 0x1B 0 2 2
    | _ => s
  | none => s

end Sys2Proof.Machine
end

