-- ==== Sys2Proof/Machine/Assembly.lean ====
section
/-! DEFINITION. The front stage ASM: snapshots and the assembly instructions with their range certificates (R196 to R214). -/
namespace Sys2Proof.Machine

/-! ## Snapshots -/

/-- The snapshot area is locked (R196). -/
def snapLocked (s : State) : Bool := fBit s 0x14 8 0

/-- Raw word of a descriptor and whether its slot is not current, as they stand now (R193, R197). -/
def rawMeas (s : State) (d : Nat) : Word × Bool :=
  let w := mdlW s 6 d 0
  if w.field 26 2 = 1 then
    (given s (slotAddr (w.field 7 11) + 4 * w.field 0 7), (slotSt s (w.field 7 11)).state != 2)
  else (Tbl.get 0 s.pi.done (w.field 0 19 / 4), false)

/-- A snapshot is taken (R196, R197): the area is locked, and the values are held as they stand at this instant. `ns` is its
network time within the tick. -/
def snapTake (s : State) (sec ns : Nat) : State :=
  let k := (counts s).k
  let s := fSetBit (fSet s 0x14 7 (fGet s 0x14 7 + 1)) 0x14 8 0 true
  { s with asm := { s.asm with
      copying := some { sec := sec, ns := ns, opMs := s.clk.opMs.toNat, raw := (List.range k).map (rawMeas s) }
      tick := s.clk.tick.toNat, sec := sec, ns := ns, released := false } }

/-- Address of a snapshot entry (R179). -/
def snapAddr (d : Nat) : Nat := 0x04001A0000 + 8 * d

/-- Corrected value of a descriptor (R194). -/
def corrected (s : State) (d : Nat) (raw : Word) : Word :=
  let i := (mdlW s 6 d 3).field 20 12
  if i = 0xFFF then raw else satW (raw.toInt - (mdlW s 7 i 0).toInt)

/-- Status of an entry (R198). -/
def entryStatus (s : State) (d : Nat) (v : Word) (stale : Bool) : Nat :=
  if stale then 3
  else if v.toInt < (mdlW s 6 d 1).toInt then 1
  else if (mdlW s 6 d 2).toInt < v.toInt then 2
  else 0

/-- One entry of a snapshot is written (R198): event 322 and a record when it turns from VALID to excluded. -/
def snapEntry (s : State) (d : Nat) (raw : Word × Bool) : State :=
  let v := corrected s d raw.1
  let st := entryStatus s d v raw.2
  let old := given s (snapAddr d + 4)
  let run := if st = 0 then 0 else satInc 16 (old.field 0 16)
  let s := hwWords s 0x14 (snapAddr d) [v, Word.ofN (st * 2 ^ 28 + run)]
  if st ≠ 0 && old.field 28 4 == 0 then raisePost s 0x14 1 322 [Word.ofN d, Word.ofN st, v] else s

/-- Status of a descriptor in the snapshot area. -/
def snapStatus (s : State) (d : Nat) : Nat := (given s (snapAddr d + 4)).field 28 4

/-- The corrected value of a descriptor in the snapshot, none when it is excluded or there is no descriptor (R198). -/
def snapVal (s : State) (d : Nat) : Option Int :=
  if d = 0xFFFF then none else if snapStatus s d = 0 then some (given s (snapAddr d)).toInt else none

/-- The copy ends (R196 to R199): entries 0 to K - 1, the header, EXCL_COUNT and event 320. -/
def snapEnd (s : State) (c : Snap) : State :=
  let k := c.raw.length
  let s := ((List.range k).zip c.raw).foldl (fun s e => snapEntry s e.1 e.2) s
  let bad := ((List.range k).filter (fun d => snapStatus s d != 0)).length
  let s := hwWords s 0x14 0x04001F0000
    [fGet s 0x14 7, Word.ofN c.sec, Word.ofN c.ns, Word.ofN c.opMs, Word.ofN k, Word.ofN (k - bad), Word.ofN bad, Word.ofN (fPart s 0x14 6 0 16)]
  let s := fSet s 0x14 0x16 (Word.ofN bad)
  raise { s with asm := { s.asm with copying := none, snapOk := true } } 320

/-- The lock is released once the program has released it and no advance on the snapshot runs (R196). -/
def snapUnlock (s : State) : State :=
  if s.asm.released && s.asm.adv.isNone then
    { fSetBit s 0x14 8 0 false with asm := { s.asm with released := false } }
  else s

/-- A periodic snapshot falls due (R196): an instant of network time, in ms, that is a multiple of SNAP_PERIOD_MS. -/
def execSnapshotDue (s : State) : Out :=
  done s (
    let period := fPart s 0x14 2 0 16
    if !unitOn s 0x14 || period == 0 || s.pwr.asleep then s
    else match instantIn s (period * 1000000) with
      | none => s
      | some i =>
        if s.asm.lastDue == some (i * period) then s
        else
          let s := { s with asm := { s.asm with lastDue := some (i * period) } }
          if snapLocked s then raise (fInc s 0x14 8 16 16) 321
          else snapTake s (i * period / 1000) (i * period % 1000 * 1000000))

/-- The snapshot copy ends. -/
def execSnapshotCopyEnd (s : State) : Out :=
  done s (match s.asm.copying with | some c => snapEnd s c | none => s)

/-! ## Numbers of the front stage -/

/-- π to 50 decimals. -/
def piQ : Q := { n := 314159265358979323846264338327950288419716939937510, d := 10 ^ 50 }

/-- Binary digits of log2 of m × 2^-128, 1 ≤ m × 2^-128 < 2. -/
def log2Bits : Nat → Nat → Nat → Nat
  | 0, _, acc => acc
  | n + 1, m, acc =>
    let q := m * m / 2 ^ 128
    if 2 ^ 129 ≤ q then log2Bits n (q / 2) (2 * acc + 1) else log2Bits n q (2 * acc)

/-- log2 of a positive rational number to 96 fractional bits. -/
def log2Q (a : Q) : Q :=
  let e := a.log2
  let m := a.mul (Q.scale 1 (-e))
  (Q.ofInt e).add { n := log2Bits 96 (m.n.toNat * 2 ^ 128 / m.d) 0, d := 2 ^ 96 }

/-- log10 of a positive rational number. -/
def log10Q (a : Q) : Q := (log2Q a).mul { n := 30102999566398119521373889472449302676818988146210854131, d := 10 ^ 56 }

/-- A free number, for what the spec gives no value (a division by zero of the model's own data). -/
def freeQ (k : Nat) : Q := { n := Config.freeInt k, d := 2 ^ 32 }

/-- a / b; where b is 0 the quotient has no stated value and is free. -/
def divFree (k : Nat) (a b : Q) : Q := if b.n = 0 then freeQ k else a.div b

/-- A value computed with a relative error of at most 2^-24 (R206): the error is free. -/
def withError (k : Nat) (a : Q) : Q :=
  let e := max (-(2 ^ 24)) (min (2 ^ 24) (Config.freeInt k))
  a.mul { n := 2 ^ 48 + e, d := 2 ^ 48 }

/-- Signed Q31.32, rounded and saturating (R10, R205). -/
def q32 (a : Q) : Int := clampS 64 (a.word (-32))

/-- An interval of numbers (R211). -/
structure Iv where
  lo : Q := {}
  hi : Q := {}
deriving DecidableEq, Repr

def ivPt (a : Q) : Iv := { lo := a, hi := a }
def ivAdd (a b : Iv) : Iv := { lo := a.lo.add b.lo, hi := a.hi.add b.hi }
def ivNeg (a : Iv) : Iv := { lo := a.hi.neg, hi := a.lo.neg }
def ivMul (a b : Iv) : Iv :=
  let p := [a.lo.mul b.lo, a.lo.mul b.hi, a.hi.mul b.lo, a.hi.mul b.hi]
  { lo := p.foldl Q.min (a.lo.mul b.lo), hi := p.foldl Q.max (a.lo.mul b.lo) }
def ivSub (a b : Iv) : Iv := ivAdd a (ivNeg b)
def ivSym (a : Q) : Iv := { lo := a.neg, hi := a }

/-- An entry before it is written to the staging area: of the matrix or the vector, row, column, value, interval; `bad` when an
excluded measurement has made it zero (R205, R206). -/
structure Ent where
  mat : Bool := true
  row : Nat := 0
  col : Nat := 0
  v : Int := 0
  lo : Int := 0
  hi : Int := 0
  bad : Bool := false
deriving DecidableEq, Repr

/-- An entry: its interval comes from ranges alone, and its value is held within it (R211, assumption 198). -/
def ent (mat : Bool) (row col : Nat) (v : Q) (r : Iv) : Ent :=
  { mat := mat, row := row, col := col, v := max (q32 r.lo) (min (q32 r.hi) (q32 v)), lo := q32 r.lo, hi := q32 r.hi }

/-- A zero-valued entry with the interval it would have (R211). -/
def entZero (mat : Bool) (row col : Nat) (r : Iv) (bad : Bool) : Ent := { ent mat row col {} r with v := 0, bad := bad }

/-! ## Linearisation values -/

/-- Pressure, flow and temperature words as numbers. -/
def pQ (w : Int) : Q := { n := w, d := 256 }
def q16 (w : Int) : Q := { n := w, d := 65536 }

/-- Flow bound of a branch in LSBs: 2^(QMAX_EXP - 8) kg/s (R187). -/
def branchMax (s : State) (b : Nat) : Int := (2 ^ ((mdlW s 0 b 4).field 16 5 + 8) : Nat)

/-- Range of a state column in its format (R211). -/
def colRange (s : State) (c : Nat) : Int × Int :=
  let m := counts s
  if c < m.n then ((fGet s 0x14 0x10).toInt, (fGet s 0x14 0x11).toInt)
  else if c < m.n + m.m then (-(branchMax s (c - m.n)), branchMax s (c - m.n))
  else if c < 2 * m.n + m.m then ((fGet s 0x14 0x12).toInt, (fGet s 0x14 0x13).toInt)
  else (-(fGet s 0x14 0x15).toNat, (fGet s 0x14 0x15).toNat)

/-- Temperature range. -/
def tRange (s : State) : Iv := { lo := q16 (fGet s 0x14 0x12).toInt, hi := q16 (fGet s 0x14 0x13).toInt }

/-- Address of the linearisation value of a column (R200, R220). -/
def linAddr (s : State) (c : Nat) : Nat := fPart s 0x14 0xA 0 8 * 2 ^ 32 + (fGet s 0x14 9).toNat + 4 * c

/-- A value within a range, with 1 when it had to be clamped (R212). -/
def clampTo (r : Int × Int) (v : Int) : Int × Nat :=
  if v < r.1 then (r.1, 1) else if r.2 < v then (r.2, 1) else (v, 0)

/-- Reads the linearisation values of columns, clamped to their ranges, going on with the values and the number of clamps; an
access that fails traps BUS_ERROR. -/
def readLin (k : Nat) : List Nat → (List Int → Nat → State → Res) → State → Res
  | [], f, s => f [] 0 s
  | c :: cs, f, s =>
    withAccess s { unit := 0x14 } .read false (linAddr s c) 4 (fun s =>
      let (v, n) := clampTo (colRange s c) (memW s (linAddr s c)).toInt
      readLin k cs (fun vs m s => f (v :: vs) (n + m) s) s)

/-! ## The staging area and the status codes -/

/-- Address of staging record i (R205, R220). -/
def stageAddr (s : State) (i : Nat) : Nat := fPart s 0x14 0xC 0 8 * 2 ^ 32 + (fGet s 0x14 0xB).toNat + 32 * i

/-- An entry lies within a block. -/
def Block.holds (b : Block) (e : Ent) : Bool :=
  b.rowBase ≤ e.row && e.row < b.rowBase + b.rows && (!e.mat || (b.colBase ≤ e.col && e.col < b.colBase + b.cols))

/-- The entry falls in the open block of its kind. -/
def inBlock (s : State) (e : Ent) : Bool :=
  match if e.mat then s.asm.mat else s.asm.vec with | some b => b.holds e | none => false

/-- A 64-bit number as it is stored. -/
def long (x : Int) : Nat := (x % 2 ^ 64).toNat

/-- The words of a staging record (R205). -/
def recBytes (e : Ent) : List Byte :=
  leBytes 4 e.row ++ leBytes 4 (if e.mat then e.col else 0) ++ leBytes 8 (long e.v) ++ leBytes 8 (long e.lo) ++ leBytes 8 (long e.hi)

/-- A block takes the records `[i, …]` of its entries and counts what was excluded and clamped (R206, R212, R213). -/
def Block.take (b : Block) (recs : List Nat) (excl : Bool) (clamps : Nat) : Block :=
  if recs.isEmpty then b
  else { b with recs := b.recs ++ recs, excl := min 65535 (b.excl + bit excl), clamp := min 65535 (b.clamp + clamps) }

/-- Clamped values are counted in CLAMP_COUNT and raise event 324 (R212, R220). -/
def countClamps (s : State) (n : Nat) : State :=
  if n = 0 then s else raise (fSet s 0x14 0x17 (Word.ofN (min (2 ^ 32 - 1) ((fGet s 0x14 0x17).toNat + n)))) 324

/-- Appends the entries that fall in the open blocks (R203, R205): status OK, NO_BLOCK or STAGE_FULL in rd. -/
def append (k : Nat) (rd : Reg) (es : List Ent) (clamps : Nat) (s : State) : Res :=
  let l := es.filter (inBlock s)
  if s.asm.mat.isNone && s.asm.vec.isNone then .ok (setReg s k rd 1)
  else if (fGet s 0x14 0xD).toNat < s.asm.staged + l.length then .ok (setReg s k rd 3)
  else
    let base := s.asm.staged
    let put (s : State) : Res :=
      let s := ((List.range l.length).zip l).foldl (fun s e => hwWrite s { unit := 0x14 } (stageAddr s (base + e.1)) (recBytes e.2)) s
      let nums (mat : Bool) : List Nat := (((List.range l.length).zip l).filter (fun e => e.2.mat == mat)).map (fun e => base + e.1)
      let excl (mat : Bool) : Bool := l.any (fun e => e.mat == mat && e.bad)
      let s := { s with asm := { s.asm with
        staged := base + l.length
        mat := s.asm.mat.map (·.take (nums true) (excl true) clamps)
        vec := s.asm.vec.map (·.take (nums false) (excl false) clamps) } }
      .ok (setReg (countClamps s clamps) k rd 0)
    if l.isEmpty then put s
    else withAccess s { unit := 0x14 } .write true (stageAddr s base) 8 (fun s =>
      withAccess s { unit := 0x14 } .write true (stageAddr s (base + l.length - 1) + 24) 8 put)

/-- The hardware of ASM reads an entry of a table, through its code (R96). -/
def entryRead (s : State) (t i : Nat) : State := (hwRead s { unit := 0x14 } .read (mdlAddr t i 0) (4 * tabWords t)).1

/-- It reads a snapshot entry. -/
def measRead (s : State) (d : Nat) : State := if d = 0xFFFF then s else (hwRead s { unit := 0x14 } .read (snapAddr d) 8).1

/-- An instruction of the front stage on element `i` of `n`: NO_SNAP and INDEX come before anything else (R202, R203). -/
def element (k : Nat) (rd : Reg) (i n : Nat) (f : State → Res) (s : State) : Res :=
  if !snapLocked s then .ok (setReg s k rd 4)
  else if s.asm.copying.isSome then .ok (setPc s k ((getCtx s k).pc - 4))
  else if n ≤ i then .ok (setReg s k rd 2)
  else f s

/-- An assembly instruction (R202). -/
def frontOp (h : Hdr) (func : Nat) (rd ra rb : Reg) (bad : Bool) (f : Nat → State → Res) (s : State) : State :=
  runInstr h { word := encA 0b111100 rd ra rb func, grp := .front, bad := bad } f s

/-! ## Hydraulic entries -/

/-- rough / (3.7 × diam), roughness in µm and diameter in 0.1 mm. -/
def roughRatio (rough : Q) (diam : Nat) : Q := rough.mul { n := 1, d := 370 * diam }

/-- Friction factor of a fully rough pipe (R206): roughness in µm, diameter in 0.1 mm. Where the logarithm is 0 it is free. -/
def friction (k : Nat) (rough : Q) (diam : Nat) : Q :=
  if diam = 0 ∨ rough.n ≤ 0 then freeQ k
  else
    let l := log10Q (roughRatio rough diam)
    divFree k { n := 1, d := 4 } (l.mul l)

/-- Friction over a range of roughness (R211). Where the logarithm passes through 0 the upper bound is free. -/
def frictionIv (k lo hi diam : Nat) : Iv :=
  let a := friction k (Q.ofInt lo) diam
  let b := friction k (Q.ofInt hi) diam
  if lo ≤ 370 * diam ∧ 370 * diam ≤ hi then { lo := a.min b, hi := (freeQ (k + 1)).max (a.max b) } else { lo := a.min b, hi := a.max b }

/-- Water density, kg/m³. -/
def rhoQ (s : State) : Q := q16 (fGet s 0x14 0xE).toNat

/-- d^5 of a branch in m^5, with π² ρ: the divisor of k (R206). -/
def pipeDiv (s : State) (b : Nat) : Q :=
  let d : Q := { n := (mdlW s 0 b 2).field 16 16, d := 10000 }
  let d2 := d.mul d
  (rhoQ s).mul ((piQ.mul piQ).mul ((d2.mul d2).mul d))

/-- k without a valve, from a friction factor (R206). -/
def pipeK (s : State) (b k : Nat) (lam : Q) : Q :=
  divFree k ((Q.ofInt 8).mul (lam.mul { n := (mdlW s 0 b 1).toNat, d := 1000 })) (pipeDiv s b)

/-- What an open valve adds to k (R206): `o` is its opening. -/
def valveK (s : State) (b k : Nat) (o : Q) : Q :=
  let kv := (q16 (mdlW s 0 b 5).toNat).mul o
  let x := divFree k (Q.ofInt 3600) ((rhoQ s).mul kv)
  (Q.ofInt 100000).mul (x.mul x)

/-- Smallest opening. -/
def valveMin (s : State) : Q := Q.scale (fGet s 0x14 0x14).toNat (-30)

/-- The pump of a branch (R192). -/
def pumpOf (s : State) (b : Nat) : Option Nat := (List.range (counts s).pu).find? (fun i => (mdlW s 5 i 0).field 0 13 == b)

/-- The entries of `hyd.br` (R206, R211) at roughness `rough` in µm and the linearisation values pA, pB and q; `k` numbers the free
values. -/
def hydEntries (s : State) (k b : Nat) (rough : Q) (pa pb q : Int) : List Ent :=
  let c := counts s
  let w0 := mdlW s 0 b 0
  let na := w0.field 14 14
  let nb := w0.field 0 14
  let diam := (mdlW s 0 b 2).field 16 16
  let valve := (mdlW s 0 b 4).tst 27
  let pump := pumpOf s b
  let opening := if valve then snapVal s ((mdlW s 0 b 4).field 0 16) else some 0
  let speed : Option Int := match pump with | some p => snapVal s ((mdlW s 5 p 3).field 16 16) | none => some 0
  let bad := opening.isNone || speed.isNone
  let o := (Q.scale (opening.getD 0) (-30)).max (valveMin s)
  let sp := Q.scale (speed.getD 0) (-30)
  let a0 := match pump with | some p => pQ (mdlW s 5 p 1).toInt | none => {}
  let b0 := match pump with | some p => pQ (mdlW s 5 p 2).toInt | none => {}
  let kv (o : Q) : Q := if valve then valveK s b (k + 1) o else {}
  let kq := (pipeK s b (k + 2) (friction k rough diam)).add (kv o)
  let fi := frictionIv (k + 3) (fPart s 0x14 0xF 0 16) (fPart s 0x14 0xF 16 16) diam
  let ki : Iv := { lo := (pipeK s b (k + 2) fi.lo).add (kv (Q.ofInt 1)), hi := (pipeK s b (k + 2) fi.hi).add (kv (valveMin s)) }
  let qm := q16 (branchMax s b)
  let qv := q16 q
  let qq := qv.mul qv.abs
  let height := ((rhoQ s).mul { n := 980665, d := 100000 }).mul
    { n := (mdlW s 1 na 1).toInt - (mdlW s 1 nb 1).toInt, d := 1000 }
  let r := ((((pQ pa).sub (pQ pb)).add height).sub (kq.mul qq)).add ((a0.mul (sp.mul sp)).sub (b0.mul qq))
  let pr : Iv := { lo := pQ (fGet s 0x14 0x10).toInt, hi := pQ (fGet s 0x14 0x11).toInt }
  let ri := ivAdd (ivAdd (ivSub pr pr) (ivPt height))
    (ivAdd (ivNeg (ivMul ki (ivSym (qm.mul qm))))
      (ivSub (ivMul (ivPt a0) { lo := {}, hi := Q.ofInt 1 }) (ivMul (ivPt b0) (ivSym (qm.mul qm)))))
  let deriv := ((Q.ofInt (-2)).mul (kq.add b0)).mul qv.abs
  let di := ivMul (ivMul (ivPt (Q.ofInt (-2))) (ivAdd ki (ivPt b0))) { lo := {}, hi := qm }
  let one := ivPt (Q.ofInt 1)
  let rowB : List Ent :=
    if bad then [entZero true b na one true, entZero true b nb (ivNeg one) true, entZero true b (c.n + b) di true,
      entZero false b 0 ri true]
    else [ent true b na (Q.ofInt 1) one, ent true b nb (Q.ofInt (-1)) (ivNeg one),
      ent true b (c.n + b) (withError (k + 5) deriv) di, ent false b 0 (withError (k + 6) r) ri]
  rowB ++ [ent true (c.m + na) (c.n + b) (Q.ofInt (-1)) (ivNeg one), ent true (c.m + nb) (c.n + b) (Q.ofInt 1) one,
    ent false (c.m + na) 0 qv.neg (ivSym qm), ent false (c.m + nb) 0 qv (ivSym qm)]

/-- What `hyd.br` reads of the model and the snapshot: the branch, its nodes, the pumps, and the opening and speed of their measurements
(R206). -/
def hydReads (s : State) (b : Nat) : State :=
  let s := entryRead s 0 b
  let s := entryRead (entryRead s 1 ((mdlW s 0 b 0).field 14 14)) 1 ((mdlW s 0 b 0).field 0 14)
  let s := (List.range (counts s).pu).foldl (fun s i => entryRead s 5 i) s
  let s := if (mdlW s 0 b 4).tst 27 then measRead s ((mdlW s 0 b 4).field 0 16) else s
  match pumpOf s b with | some p => measRead s ((mdlW s 5 p 3).field 16 16) | none => s

/-- `hyd.br` for branch b, its status in rd (R206). -/
def hydBr (k : Nat) (rd : Reg) (b : Nat) (s : State) : Res :=
  let c := counts s
  element k rd b c.m (fun s =>
    let s := hydReads s b
    let w0 := mdlW s 0 b 0
    readLin k [w0.field 14 14, w0.field 0 14, c.n + b] (fun vs n s =>
      append k rd (hydEntries s s.free b (Q.ofInt ((mdlW s 0 b 2).field 0 16)) (vs.getD 0 0) (vs.getD 1 0) (vs.getD 2 0)) n
        { s with free := s.free + 8 }) s) s

/-- `hyd.br` (R206). -/
def execHydBr (h : Hdr) (rd ra : Reg) (s : State) : Out :=
  done s (frontOp h 4 rd ra 0 false (fun k s => hydBr k rd (reg s k ra).toNat s) s)

/-! ## Thermal entries -/

/-- Transit branch result of branch b (R219). -/
def branchT (s : State) (b : Nat) : Word := given s (0x04000C8000 + 4 * b)

/-- The pair of thermal entries at a node and its vector entry (R207, R208): row of the node, the flow's column, the value of the
flow's entry, the flow and its bound, the temperature difference and its interval. `mag`: the flow is taken by its magnitude, so
that it is not negative and the flow's entry has either sign. -/
def thermalEntries (s : State) (n col : Nat) (mag : Bool) (sign : Q) (f fm : Q) (dT : Q) (dTi : Iv) (bad : Bool) : List Ent :=
  let c := counts s
  let row := c.m + c.n + n
  let tcol := c.n + c.m + n
  let fi : Iv := if mag then { lo := {}, hi := fm } else ivSym fm
  let di : Iv := if mag then { lo := dTi.lo.min dTi.hi.neg, hi := dTi.hi.max dTi.lo.neg } else dTi
  if bad then [entZero true row col di true, entZero true row tcol (ivNeg fi) true, entZero false row 0 (ivMul fi dTi) true]
  else [ent true row col (sign.mul dT) di, ent true row tcol f.neg (ivNeg fi), ent false row 0 (f.mul dT) (ivMul fi dTi)]

/-- Downstream and upstream end of branch b for a flow q (R207). -/
def branchEnds (s : State) (b : Nat) (q : Int) : Nat × Nat :=
  let w0 := mdlW s 0 b 0
  if 0 ≤ q then (w0.field 0 14, w0.field 14 14) else (w0.field 14 14, w0.field 0 14)

/-- The entries of `th.br` (R207) at flow q, outlet temperature `tout` and downstream temperature td. -/
def branchEntries (s : State) (b : Nat) (q : Int) (tout : Q) (td : Int) : List Ent :=
  let c := counts s
  let (d, u) := branchEnds s b q
  let qm := q16 (branchMax s b)
  let ti := ivSub (tRange s) (tRange s)
  let zero := thermalEntries s u (c.n + b) true {} {} qm {} ti true
  thermalEntries s d (c.n + b) true (Q.ofInt (if 0 ≤ q then 1 else -1)) (q16 q).abs qm (tout.sub (q16 td)) ti false ++
    (zero.filter (fun e => e.mat)).map (fun e => { e with bad := false })

/-- `th.br` for branch b, its status in rd (R207): it waits for a running advance. A Transit result outside T_LO to T_HI is clamped as
a linearisation value is (R211, R212). -/
def thBr (k : Nat) (rd : Reg) (b : Nat) (s : State) : Res :=
  let c := counts s
  if fBit s 0x15 0x16 0 && snapLocked s && b < c.m then .ok (setPc s k ((getCtx s k).pc - 4))
  else element k rd b c.m (fun s =>
    let s := (hwRead (entryRead s 0 b) { unit := 0x14 } .read (0x04000C8000 + 4 * b) 4).1
    readLin k [c.n + b] (fun qs n s =>
      let q := qs.getD 0 0
      readLin k [c.n + c.m + (branchEnds s b q).1] (fun ts m s =>
        let (tout, o) := clampTo ((fGet s 0x14 0x12).toInt, (fGet s 0x14 0x13).toInt) (branchT s b).toInt
        append k rd (branchEntries s b q (q16 tout) (ts.getD 0 0)) (n + m + o) s) s) s) s

/-- `th.br` (R207). -/
def execThBr (h : Hdr) (rd ra : Reg) (s : State) : Out :=
  done s (frontOp h 5 rd ra 0 false (fun k s => thBr k rd (reg s k ra).toNat s) s)

/-! ## Injections -/

/-- An injection: the node it draws from and the node it returns to in its positive direction, its column, and its temperature
descriptor (R189 to R191, R200). None beyond its count or for another kind. -/
structure Inj where
  source : Nat := 0
  target : Nat := 0
  col : Nat := 0
  meas : Nat := 0xFFFF
  tank : Bool := false
deriving DecidableEq, Repr

/-- Injection `i` of a kind: 0 sub-station, 1 plant, 2 tank. -/
def injection (s : State) (kind i : Nat) : Option Inj :=
  let c := counts s
  let w0 (t : Nat) : Word := mdlW s t i 0
  let base := 2 * c.n + c.m
  if kind = 0 ∧ i < c.ss then
    some { source := (w0 2).field 14 14, target := (w0 2).field 0 14, col := base + i, meas := (mdlW s 2 i 3).field 0 16 }
  else if kind = 1 ∧ i < c.p then
    some { source := (w0 3).field 0 14, target := (w0 3).field 14 14, col := base + c.ss + i, meas := (mdlW s 3 i 6).field 16 16 }
  else if kind = 2 ∧ i < c.h then
    some { source := (w0 4).field 0 14, target := (w0 4).field 14 14, col := base + c.ss + c.p + i, meas := (mdlW s 4 i 7).field 16 16, tank := true }
  else none

/-- Range of an injection temperature: its descriptor's limits, or T_LO to T_HI when it has none (R211). -/
def injRange (s : State) (d : Nat) : Iv :=
  if d = 0xFFFF then tRange s else { lo := q16 (mdlW s 6 d 1).toInt, hi := q16 (mdlW s 6 d 2).toInt }

/-- The entries of `inj.row` (R208). A tank's receiving node is HOT_NODE while it discharges and COLD_NODE while it charges; zero
entries stand at the other one. -/
def injEntries (s : State) (j : Inj) (q tn : Int) : List Ent :=
  let c := counts s
  let back := j.tank && q < 0
  let (recv, other) := if back then (j.source, j.target) else (j.target, j.source)
  let f := if j.tank then (q16 q).abs else q16 q
  let fm := q16 (fGet s 0x14 0x15).toNat
  let one := ivPt (Q.ofInt 1)
  let ti := snapVal s j.meas
  let dTi := ivSub (injRange s j.meas) (tRange s)
  let fl := thermalEntries s recv j.col j.tank (Q.ofInt (if back then -1 else 1)) f fm ((q16 (ti.getD 0)).sub (q16 tn)) dTi ti.isNone
  let zero := if j.tank then
      ((thermalEntries s other j.col true {} {} fm {} dTi true).filter (fun e => e.mat)).map (fun e => { e with bad := false })
    else []
  [ent true (c.m + recv) j.col (Q.ofInt 1) one, ent true (c.m + other) j.col (Q.ofInt (-1)) (ivNeg one),
    ent false (c.m + recv) 0 f (ivSym fm), ent false (c.m + other) 0 f.neg (ivSym fm)] ++ fl ++ zero

/-- The node that receives an injection's flow q (R208). -/
def Inj.recv (j : Inj) (q : Int) : Nat := if j.tank && q < 0 then j.source else j.target

/-- `inj.row` for injection i of a kind, its status in rd (R208). -/
def injRow (k : Nat) (rd : Reg) (kind i : Nat) (s : State) : Res :=
  let c := counts s
  match injection s kind i with
  | none => element k rd 0 0 .ok s
  | some j => element k rd 0 1 (fun s =>
      let s := measRead (entryRead s (kind + 2) i) j.meas
      readLin k [j.col] (fun qs n s =>
        let q := qs.getD 0 0
        readLin k [c.n + c.m + j.recv q] (fun ts m s => append k rd (injEntries s j q (ts.getD 0 0)) (n + m) s) s) s) s

/-- `inj.row` (R208). -/
def execInjRow (h : Hdr) (rd ra rb : Reg) (s : State) : Out :=
  done s (frontOp h 6 rd ra rb false (fun k s => injRow k rd (reg s k rb).toNat (reg s k ra).toNat s) s)

/-! ## Measurement rows -/

/-- State column of a descriptor (R195), none for one that is used otherwise. -/
def stateCol (s : State) (d : Nat) : Option Nat :=
  let c := counts s
  match (bindings (activeMdl s)).find? (fun b => b.1 == d) with
  | some (_, _, 0, i, 6) => some (c.n + i)
  | some (_, 0, 1, i, _) => some i
  | some (_, _, 1, i, _) => some (c.n + c.m + i)
  | some (_, _, 2, i, 1) => some (c.n + c.m + (mdlW s 2 i 0).field 14 14)
  | some (_, 2, 2, i, 3) => some (2 * c.n + c.m + i)
  | some (_, 2, 3, i, 6) => some (2 * c.n + c.m + c.ss + i)
  | _ => none

/-- Weight of a descriptor: 2^-e / m per LSB (R193, R209). -/
def weight (s : State) (d : Nat) : Q :=
  let w := mdlW s 6 d 3
  divFree s.free (Q.scale 1 (-(w.field 12 4 : Int))) (Q.ofInt (w.field 0 12))

/-- The entries of `meas.row` (R209). -/
def measEntries (s : State) (d c : Nat) (x : Int) : List Ent :=
  let n := counts s
  let row := n.m + 2 * n.n + d
  let w := weight s d
  let (lo, hi) := colRange s c
  let zi := ivSub { lo := Q.ofInt (mdlW s 6 d 1).toInt, hi := Q.ofInt (mdlW s 6 d 2).toInt } { lo := Q.ofInt lo, hi := Q.ofInt hi }
  match snapVal s d with
  | none => [entZero true row c (ivPt w) true, entZero false row 0 (ivMul (ivPt w) zi) true]
  | some z => [ent true row c w (ivPt w), ent false row 0 (w.mul (Q.ofInt (z - x))) (ivMul (ivPt w) zi)]

/-- `meas.row` for descriptor d, its status in rd (R209). -/
def measRow (k : Nat) (rd : Reg) (d : Nat) (s : State) : Res :=
  element k rd d (counts s).k (fun s =>
    let s := measRead (entryRead s 6 d) d
    match stateCol s d with
    | none => .ok (setReg s k rd 9)
    | some c => readLin k [c] (fun xs n s => append k rd (measEntries s d c (xs.getD 0 0)) n { s with free := s.free + 1 }) s) s

/-- `meas.row` (R209). -/
def execMeasRow (h : Hdr) (rd ra : Reg) (s : State) : Out :=
  done s (frontOp h 7 rd ra 0 false (fun k s => measRow k rd (reg s k ra).toNat s) s)

/-! ## Blocks -/

/-- Reads `n` words from a home offset as loads would (R63, R67). -/
def homeWords (e : Eng) (k : Nat) : Nat → Nat → (List Word → State → Res) → State → Res
  | 0, _, f, s => f [] s
  | n + 1, ea, f, s => nearAccess s e k .read false ea 4 (fun a s => homeWords e k n (ea + 4) (fun ws s => f (memW s a :: ws) s) s)

/-- A block from its header, none when the header is not valid (R204): which slot, and the block. -/
def blockOf (w : Nat → Word) : Option (Bool × Block) :=
  let vec := (w 0).tst 0
  let dest := (w 6).field 0 8 * 2 ^ 32 + (w 5).toNat
  if (w 0).field 1 7 = 0 ∧ w 2 ≠ 0 ∧ (if vec then w 4 = 1 else w 4 ≠ 0) ∧ (w 6).field 8 24 = 0 ∧ w 7 = 0 ∧
      0x0800000000 ≤ dest ∧ dest < 0x0803000000 then
    some (vec, { id := (w 0).field 16 16, kind := (w 0).field 8 8, rowBase := (w 1).toNat, rows := (w 2).toNat
                 colBase := (w 3).toNat, cols := (w 4).toNat, dest := dest })
  else none

/-- `blk.open` on a header of 8 words, its status in rd (R202, R204). -/
def blkOpen (k : Nat) (rd : Reg) (ws : List Word) (s : State) : Res :=
  match blockOf (fun i => ws.getD i 0) with
  | none => .ok (setReg s k rd 8)
  | some (vec, b) =>
    if (if vec then s.asm.vec else s.asm.mat).isSome then .ok (setReg s k rd 6)
    else
      let s := { s with asm := if vec then { s.asm with vec := some b } else { s.asm with mat := some b } }
      .ok (setReg s k rd 0)

/-- `blk.open` (R202, R204). -/
def execBlkOpen (h : Hdr) (rd ra : Reg) (s : State) : Out :=
  done s (frontOp h 2 rd ra 0 false (fun k s => homeWords h.eng k 8 (reg s k ra).toNat (blkOpen k rd) s) s)

/-- A closed or abandoned block's staging records are free once no block is open. -/
def stageFree (s : State) : State :=
  if s.asm.mat.isNone && s.asm.vec.isNone then { s with asm := { s.asm with staged := 0 } } else s

/-- A staging record as it stands in memory (R205). -/
def stageRec (s : State) (i : Nat) : Ent :=
  let a := stageAddr s i
  let q (o : Nat) : Int := (BitVec.ofNat 64 (memN s (a + o) 8)).toInt
  { row := memN s a 4, col := memN s (a + 4) 4, v := q 8, lo := q 16, hi := q 24 }

/-- Entries with the same row and column are summed, and so are their intervals (R205), in column-major order. -/
def sumInto : List Ent → Ent → List Ent
  | [], e => [e]
  | x :: t, e =>
    if x.row = e.row ∧ x.col = e.col then { x with v := x.v + e.v, lo := x.lo + e.lo, hi := x.hi + e.hi } :: t
    else if e.col < x.col ∨ (e.col = x.col ∧ e.row < x.row) then e :: x :: t
    else x :: sumInto t e

/-- The magnitude of an interval's larger bound; a saturated bound counts as 2^31 (R203, R213). -/
def entBound (e : Ent) : Nat := max e.lo.natAbs (if 2 ^ 63 - 1 ≤ e.hi then 2 ^ 63 else e.hi.natAbs)

/-- The words of a closed block after its certificate record: a matrix by compressed columns, a vector by rows (R213). -/
def blockArrays (b : Block) (vec : Bool) (es : List Ent) (word : Ent → Word) : List Word :=
  if vec then
    (List.range b.rows).map (fun r => match es.find? (fun e => e.row == b.rowBase + r) with | some e => word e | none => 0)
  else
    ((List.range (b.cols + 1)).map (fun j => Word.ofN (es.filter (fun e => e.col < b.colBase + j)).length)) ++
      es.map (fun e => Word.ofN (e.row - b.rowBase)) ++ es.map word

/-- The certificate record and the arrays of a block (R213). -/
def blockWords (s : State) (b : Block) (vec : Bool) (es : List Ent) : List Word :=
  let bound : Q := { n := ((es.map entBound).foldl max 0 : Nat), d := 2 ^ 32 }
  let e := bound.expFor 29
  let word (x : Ent) : Word := BitVec.ofInt 32 (Q.word { n := x.v, d := 2 ^ 32 } e)
  let up := bound.mul (Q.scale 1 (-e))
  let head := [Word.ofN (b.id * 2 ^ 16 + b.kind * 2 ^ 8 + (e % 256).toNat), Word.ofN b.rows, Word.ofN b.cols, Word.ofN es.length,
    Word.ofN ((up.n.toNat + up.d - 1) / up.d), Word.ofN (b.excl * 2 ^ 16 + b.clamp), fGet s 0x14 7]
  let arrays := blockArrays b vec es word
  head ++ crc32c ((head ++ arrays).flatMap (fun w => leBytes 4 w.toNat)) :: arrays

/-- `blk.close` of slot n, 0 matrix or 1 vector, its status in rd (R213): the block is scaled and written out; event 323. A block that
cannot be written stays open. -/
def blkClose (k : Nat) (rd : Reg) (n : Nat) (s : State) : Res :=
  match if n = 0 then s.asm.mat else if n = 1 then s.asm.vec else none with
  | none => .ok (setReg s k rd 1)
  | some b =>
    let es := (b.recs.map (stageRec s)).foldl sumInto []
    let words := 8 + (if n = 1 then b.rows else b.cols + 1 + 2 * es.length)
    if 0x0803000000 < b.dest + 4 * words then .ok (setReg s k rd 5)
    else if es.any (fun e => 2 ^ 63 ≤ entBound e) then .ok (setReg s k rd 7)
    else withAccess s { unit := 0x14 } .write true b.dest 4 (fun s =>
      withAccess s { unit := 0x14 } .write true (b.dest + 4 * words - 4) 4 (fun s =>
        let s := hwWords s 0x14 b.dest (blockWords s b (n == 1) es)
        let s := { s with asm := if n = 1 then { s.asm with vec := none } else { s.asm with mat := none } }
        .ok (setReg (raise (stageFree s) 323) k rd 0)))

/-- `blk.close` (R213). -/
def execBlkClose (h : Hdr) (rd ra : Reg) (s : State) : Out :=
  done s (frontOp h 3 rd ra 0 false (fun k s => blkClose k rd (reg s k ra).toNat s) s)

/-- `ent.w` of a record for a matrix or, with `vec`, for a vector, its status in rd (R210). -/
def entPut (k : Nat) (rd : Reg) (e : Ent) (s : State) : Res :=
  if s.asm.mat.isNone && s.asm.vec.isNone then .ok (setReg s k rd 1)
  else if e.v < e.lo ∨ e.hi < e.v then .ok (setReg s k rd 7)
  else if !inBlock s e then .ok (setReg s k rd 5)
  else append k rd [e] 0 s

/-- `ent.w` (R210): the program's record goes to the open block that it lies within; which of two is the device's. -/
def execEntW (h : Hdr) (rd ra : Reg) (s : State) : Out :=
  done s (frontOp h 8 rd ra 0 false (fun k s =>
    homeWords h.eng k 8 (reg s k ra).toNat (fun ws s =>
      let w (i : Nat) : Word := ws.getD i 0
      let q (i : Nat) : Int := (BitVec.ofNat 64 ((w (i + 1)).toNat * 2 ^ 32 + (w i).toNat)).toInt
      let e : Ent := { row := (w 0).toNat, col := (w 1).toNat, v := q 2, lo := q 4, hi := q 6 }
      let inMat := inBlock s e
      let inVec := e.col == 0 && inBlock s { e with mat := false }
      let (s, pick) := if inMat && inVec then freeB s else (s, inMat || e.col != 0)
      entPut k rd { e with mat := pick } s) s) s)

/-! ## The snapshot instructions -/

/-- `snap.now` (R196, R202). -/
def execSnapNow (h : Hdr) (rd : Reg) (s : State) : Out :=
  done s (frontOp h 0 rd 0 0 false (fun k s =>
    if snapLocked s then .ok (setReg s k rd 0)
    else
      let s := snapTake s s.time.sec s.time.ns
      .ok (setReg s k rd (fGet s 0x14 7))) s)

/-- `snap.rel` (R196, R202): open blocks are abandoned with a notice. -/
def execSnapRel (h : Hdr) (rd : Reg) (s : State) : Out :=
  done s (frontOp h 1 rd 0 0 false (fun k s =>
    if s.asm.copying.isSome then .ok (setPc s k ((getCtx s k).pc - 4))
    else
      let n := bit s.asm.mat.isSome + bit s.asm.vec.isSome
      let s := stageFree { s with asm := { s.asm with mat := none, vec := none } }
      let s := if n = 0 then s else post s 0x14 1 0x060F []
      let s := if snapLocked s then snapUnlock { s with asm := { s.asm with released := true } } else s
      .ok (setReg s k rd (Word.ofN n))) s)

/-! ## Transit's instructions -/

/-- Why `trn.go` is refused, 0 when it is not (R216, R222). -/
def trnRefusal (s : State) : Nat :=
  if !snapLocked s then 1
  else if fBit s 0x15 0x16 0 then 2
  else if modelPending s then 3
  else if !fBit s 0x15 1 0 then 4
  else 0

/-- dt of an advance in units of 10 µs (R216). -/
def advanceDt (s : State) : Nat :=
  match s.asm.prevTick with
  | some t => min ((s.asm.tick + 2 ^ 48 - t) % 2 ^ 48) (fPart s 0x15 3 0 16 * 100)
  | none => 0

/-- An advance starts on the state vector at an address, or on one that the network library gives (R216, R269). -/
def trnStart (s : State) (addr : Nat) (vec : Option (List Int)) : State :=
  let q := s.asm.advSeq + 1
  let s := fSetPart (fSetBit s 0x15 0x16 0 true) 0x15 0x16 16 16 q.toNat
  { s with asm := { s.asm with
      adv := some { addr := addr, vec := vec, dt := advanceDt s, seq := q, ground := (List.range 16).map (fun i => fGet s 0x15 (6 + i)) }, advSeq := q, prevTick := some s.asm.tick } }

/-- `trn.go` (R202, R216): rd takes the advance's sequence number, or 0 when it is refused. -/
def execTrnGo (h : Hdr) (rd ra : Reg) (s : State) : Out :=
  done s (frontOp h 9 rd ra 0 (oddReg ra) (fun k s =>
    match trnRefusal s with
    | 0 =>
      match farAddr (reg s k ra) (reg s k (pairReg ra)) with
      | none => refuse s (whoIs h.eng k) .read .unmapped ((reg s k (pairReg ra)).toNat % 256 * 2 ^ 32 + (reg s k ra).toNat) 0
      | some a => let s := trnStart s a none; .ok (setReg s k rd s.asm.advSeq)
    | n => .ok (setReg (fSetPart s 0x15 0x16 4 4 n) k rd 0)) s)

/-- `trn.st` (R202). -/
def execTrnSt (h : Hdr) (rd : Reg) (s : State) : Out :=
  done s (frontOp h 10 rd 0 0 false (fun k s => .ok (setReg s k rd (cfgGet s 0x15 0x16))) s)

/-! ## The program -/

/-- ASM is at its boundary (R201). -/
def asmAtBoundary (s : State) : Bool :=
  let c := getCtx s 3
  !c.live || (!c.inHandler && (match c.wait with | .event .. => true | .group .. => true | _ => false) &&
    s.asm.mat.isNone && s.asm.vec.isNone && !snapLocked s)

/-- TRN is between advances (R181, R222). -/
def trnAtBoundary (s : State) : Bool := !fBit s 0x15 0x16 0

/-- ASM.RUN (R201, R220): 1 releases the program at 0x400 when it is stopped, 0 stops it; a stopped ASM is at its boundary. -/
def asmRunWrite (s : State) (v : Word) : State :=
  let c := getCtx s 3
  if v.tst 0 then (if c.live then s else setCtx s 3 (freshCtx 0x400))
  else if c.live then applyFields (setCtx s 3 { c with live := false, wait := .none }) 0x14 else s

/-- TRN.RUN (R216, R222): a start forgets the previous advance; a stop after the running advance is a boundary. -/
def trnRunWrite (s : State) (old v : Word) : State :=
  if v.tst 0 then (if old.tst 0 then s else { s with asm := { s.asm with prevTick := none } })
  else if trnAtBoundary s then applyFields s 0x15 else s

end Sys2Proof.Machine
end

