-- ==== Sys2Proof/Machine/Transit.lean ====
section
/-! DEFINITION. The Transit engine TRN: plugs, one advance of the whole network, and the reinitialisation after a model image
(R186, R215 to R219). -/
namespace Sys2Proof.Machine

/-! ## Plugs -/

/-- A plug: temperature word, length in units of 2^-16 of the branch volume, and source time (R215). -/
structure Plug where
  t : Int := 0
  len : Nat := 0
  ts : Nat := 0
deriving DecidableEq, Repr

/-- Address of plug record i of branch b (R179, R215). -/
def plugAddr (b i : Nat) : Nat := 0x0400200000 + 256 * b + 8 * i

/-- The plugs of a branch, from the NODE_A end. -/
def getPlugs (s : State) (b : Nat) : List Plug :=
  (List.range ((mdlW s 0 b 7).field 0 6)).map (fun i =>
    let w := given s (plugAddr b i)
    { t := (given s (plugAddr b i + 4)).toInt, len := w.field 16 16 + 1, ts := w.field 0 16 })

/-- Writes the plugs of a branch; records beyond them are zero. -/
def setPlugs (s : State) (b : Nat) (l : List Plug) : State :=
  ((List.range l.length).zip l).foldl
    (fun s e => hwWords s 0x15 (plugAddr b e.1) [Word.ofN ((e.2.len - 1) * 2 ^ 16 + e.2.ts), BitVec.ofInt 32 e.2.t])
    (zeroRange s (plugAddr b 0) 256)

/-- Age of a plug at `now` (R215). -/
def plugAge (now : Nat) (p : Plug) : Nat := (now % 65536 + 65536 - p.ts) % 65536

/-- Source time of water of an age. -/
def sourceTime (now age : Nat) : Nat := (now % 65536 + 65536 - age % 65536) % 65536

/-- Removes units from the head of a list of plugs, splitting one if needed (R217): what is removed, and the rest. -/
def takeUnits : Nat → List Plug → List Plug × List Plug
  | 0, l => ([], l)
  | _, [] => ([], [])
  | n + 1, p :: t =>
    if p.len ≤ n + 1 then let (a, r) := takeUnits (n + 1 - p.len) t; (p :: a, r)
    else ([{ p with len := n + 1 }], { p with len := p.len - (n + 1) } :: t)

/-- The place, counted from the downstream end, of the adjacent pair with the smallest temperature difference; the one nearer the
downstream end on a tie (R218). -/
def closestPair : List Plug → Nat → Option (Nat × Nat) → Nat
  | a :: b :: t, i, best =>
    let d := (a.t - b.t).natAbs
    closestPair (b :: t) (i + 1) (match best with | some (j, e) => if d < e then some (i, d) else some (j, e) | none => some (i, d))
  | _, _, best => match best with | some (j, _) => j | none => 0

/-- Merges the pair at a place: summed length, volume-weighted mean temperature and age (R218). -/
def mergeAt (k now : Nat) (l : List Plug) (i : Nat) : List Plug :=
  match l.drop i with
  | a :: b :: t =>
    let n := a.len + b.len
    let tm := Q.round { n := a.t * a.len + b.t * b.len, d := n }
    let am := (nearQ k { n := plugAge now a * a.len + plugAge now b * b.len, d := n }).toNat
    l.take i ++ { t := tm, len := n, ts := sourceTime now am } :: t
  | _ => l

/-! ## One advance -/

/-- e^-x for x ≥ 0, to 96 fractional bits: a Taylor series of x / 2^12, squared twelve times; 0 beyond 90. -/
def expNeg (x : Q) : Q :=
  if (Q.ofInt 90).lt x then {}
  else
    let one := 2 ^ 160
    let y := x.n.toNat * one / (x.d * 2 ^ 12)
    let rec terms : Nat → Nat → Int → Nat → Int
      | 0, _, acc, _ => acc
      | n + 1, term, acc, i =>
        let next := term * y / one / i
        terms n next (if i % 2 = 1 then acc - next else acc + next) (i + 1)
    let e := (terms 24 one one 1).toNat
    let sq := (List.range 12).foldl (fun (v : Nat) _ => v * v / one) e
    { n := sq, d := one }

/-- What an advance does in one branch (R217). -/
structure BranchRun where
  b : Nat := 0
  /-- positive or zero flow: NODE_B is downstream -/
  fwd : Bool := true
  noFlow : Bool := false
  flush : Bool := false
  move : Nat := 0
  /-- what stays, from the downstream end -/
  rest : List Plug := []
deriving DecidableEq, Repr

/-- Mass that enters a node: node, mass in kg, temperature word, age in s, and whether its temperature is held (R217). -/
structure Inflow where
  node : Nat := 0
  mass : Q := {}
  t : Int := 0
  age : Nat := 0
  held : Bool := false
deriving DecidableEq, Repr

/-- Address of a Transit node result (R179, R219). -/
def nodeRes (n : Nat) : Nat := 0x04000B0000 + 16 * n

/-- Mass of a branch's water, kg (R217). -/
def branchMass (s : State) (b : Nat) : Q :=
  let d : Q := { n := (mdlW s 0 b 2).field 16 16, d := 10000 }
  ((piQ.mul { n := 1, d := 4 }).mul (d.mul d)).mul ((rhoQ s).mul { n := (mdlW s 0 b 1).toNat, d := 1000 })

/-- Flow of a column of the state vector, in kg/s. -/
def vectorQ (s : State) (a : Advance) (col : Nat) : Q :=
  match a.vec with | some x => q16 (x.getD col 0) | none => q16 (given s (a.addr + 4 * col)).toInt

/-- Phase 1 for a branch (R217): the branch's run, the new carry and the inflows of its downstream node. -/
def branchPhase1 (s : State) (a : Advance) (now k b : Nat) : BranchRun × Nat × List Inflow :=
  let q := vectorQ s a ((counts s).n + b)
  let fwd := 0 ≤ q.n
  let l := if fwd then (getPlugs s b).reverse else getPlugs s b
  let carry := Tbl.get 0 s.asm.carry b
  if q.abs.lt (q16 (fGet s 0x15 4).toNat) then ({ b := b, fwd := fwd, noFlow := true, rest := l }, carry, [])
  else
    let m := branchMass s b
    let u := (nearQ (k + b) ((divFree (k + b) (q.abs.mul { n := a.dt, d := 100000 }) m).mul (Q.scale 1 48))).toNat + carry
    let move := u / 2 ^ 32
    let out := min move 65536
    let (gone, rest) := takeUnits out l
    let w0 := mdlW s 0 b 0
    let (dn, up) := if fwd then (w0.field 0 14, w0.field 14 14) else (w0.field 14 14, w0.field 0 14)
    let unit (n : Nat) : Q := m.mul { n := n, d := 65536 }
    let ins := gone.map (fun p => ({ node := dn, mass := unit p.len, t := p.t, age := plugAge now p } : Inflow))
    let ins := if move > 65536 then
        ins ++ [{ node := dn, mass := unit (move - 65536), t := (given s (nodeRes up)).toInt, age := (given s (nodeRes up + 4)).field 0 16 }]
      else ins
    ({ b := b, fwd := fwd, flush := 65536 < move, move := out, rest := rest }, u % 2 ^ 32, ins)

/-- An injection's key in the table of held temperatures. -/
def injKey (kind i : Nat) : Nat := kind * 65536 + i

/-- Temperature of an injection: the snapshot's, or that of the previous advance when it is excluded; free before any. -/
def injTemp (s : State) (k kind i : Nat) (j : Inj) : Int × Bool :=
  match snapVal s j.meas with
  | some t => (t, false)
  | none => ((match Tbl.find s.asm.lastTi (injKey kind i) with | some w => w.toInt | none => (Config.freeWord (k + injKey kind i)).toInt), true)

/-- The injections of the model: kind and index. -/
def injections (s : State) : List (Nat × Nat × Inj) :=
  let c := counts s
  ([(0, c.ss), (1, c.p), (2, c.h)].flatMap (fun e => (List.range e.2).map (fun i => (e.1, i)))).filterMap (fun e =>
    (injection s e.1 e.2).map (fun j => (e.1, e.2, j)))

/-- Inflows of the injections with a flow above 0 (R217); a charging tank delivers to its cold node. -/
def injInflows (s : State) (a : Advance) (k : Nat) : List Inflow :=
  (injections s).filterMap (fun (kind, i, j) =>
    let q := vectorQ s a j.col
    let back := j.tank && q.n < 0
    let f := if j.tank then q.abs else q
    let (t, held) := injTemp s k kind i j
    if f.n ≤ 0 then none
    else some { node := if back then j.source else j.target, mass := f.mul { n := a.dt, d := 100000 }, t := t, held := held })

/-- Phase 2 for a node (R217): temperature word, age and mass in g, and the flags NO_INFLOW and SRC_HELD. -/
def nodePhase2 (s : State) (ins : List Inflow) (k n : Nat) : Int × Nat × Nat × Bool × Bool :=
  let l := ins.filter (fun x => x.node == n)
  let m := Q.sum (l.map (·.mass))
  if m.n ≤ 0 then ((given s (nodeRes n)).toInt, (given s (nodeRes n + 4)).field 0 16, 0, true, l.any (·.held))
  else
    let t := ((Q.sum (l.map (fun x => x.mass.mul (Q.ofInt x.t)))).div m).round
    let age := (nearQ (k + 4 * n + 1) ((Q.sum (l.map (fun x => x.mass.mul (Q.ofInt x.age)))).div m)).toNat
    (t, age, min (2 ^ 32 - 1) (nearQ (k + 4 * n + 2) (m.mul (Q.ofInt 1000))).toNat, false, l.any (·.held))

/-- The share of its excess temperature that a plug keeps in the advance (R217). -/
def decay (s : State) (a : Advance) (k b : Nat) : Q :=
  let d : Q := { n := (mdlW s 0 b 2).field 16 16, d := 10000 }
  let num := ((Q.ofInt 4).mul (q16 (mdlW s 0 b 3).toNat)).mul { n := a.dt, d := 100000 }
  let den := ((rhoQ s).mul (Q.ofInt (fPart s 0x15 2 0 16))).mul (piQ.mul (d.mul d))
  expNeg (divFree (k + b) num den).abs

/-- Phase 3 for a branch (R217, R218): its plugs from the downstream end and whether a merge was made. -/
def branchPhase3 (s : State) (a : Advance) (now k : Nat) (r : BranchRun) (node : Nat → Int × Nat) : List Plug × Bool :=
  let tg := (a.ground.getD ((mdlW s 0 r.b 4).field 28 4) 0).toInt
  let f := decay s a k r.b
  let cooled := r.rest.map (fun p => { p with t := ((Q.ofInt tg).add ((Q.ofInt (p.t - tg)).mul f)).round })
  let w0 := mdlW s 0 r.b 0
  let up := node (if r.fwd then w0.field 14 14 else w0.field 0 14)
  let l := if r.move = 0 then cooled else cooled ++ [{ t := up.1, len := r.move, ts := sourceTime now up.2 }]
  if 32 < l.length then (mergeAt (k + 600000 + 2 * r.b) now l (closestPair l 0 none), true) else (l, false)

/-- Ages of 65,000 s and more are set to 65,000 s (R217). -/
def satPlug (now : Nat) (p : Plug) : Plug := if 65000 ≤ plugAge now p then { p with ts := sourceTime now 65000 } else p

/-- Writes what phase 3 leaves of a branch: its plugs, word 7 and the branch result (R187, R219). -/
def writeBranch (s : State) (now : Nat) (r : BranchRun) (l : List Plug) (merged : Bool) : State :=
  let sat := l.any (fun p => 65000 ≤ plugAge now p)
  let l := l.map (satPlug now)
  let flags := bit r.noFlow + 2 * bit r.flush + 4 * bit merged + 8 * bit sat + 16 * bit (s.asm.initBr.contains r.b)
  let s := setPlugs s r.b (if r.fwd then l.reverse else l)
  let s := hwW s 0x15 (mdlAddr 0 r.b 7) (Word.ofN (flags * 2 ^ 16 + l.length))
  hwW s 0x15 (0x04000C8000 + 4 * r.b) (BitVec.ofInt 32 (match l with | p :: _ => p.t | [] => 0))

/-- Writes a node result (R219). -/
def writeNode (s : State) (a : Advance) (n : Nat) (x : Int × Nat × Nat × Bool × Bool) : State :=
  let (t, age, g, none_, held) := x
  let flags := bit none_ + 2 * bit (65000 ≤ age) + 4 * bit held + 8 * bit (s.asm.initNd.contains n)
  hwWords s 0x15 (nodeRes n) [BitVec.ofInt 32 t, Word.ofN (flags * 2 ^ 16 + min age 65000), Word.ofN g, a.seq]

/-- TRN reads the tables of the network, the plugs and the results of the previous advance, through their codes (R96). -/
def trnReads (s : State) : State :=
  let c := counts s
  [(mdlAddr 0 0 0, 32 * c.m), (mdlAddr 2 0 0, 16 * c.ss), (mdlAddr 3 0 0, 32 * c.p), (mdlAddr 4 0 0, 32 * c.h),
    (nodeRes 0, 16 * c.n), (plugAddr 0 0, 256 * c.m)].foldl (fun s r => (hwRead s { unit := 0x15 } .read r.1 r.2).1) s

/-- The three phases of an advance (R217 to R219), each finishing for the whole network before the next. -/
def advanceRun (s : State) (a : Advance) : State :=
  let s := trnReads s
  let c := counts s
  let now := s.asm.sec
  let k := s.free
  let runs := (List.range c.m).map (branchPhase1 s a now k)
  let ins := runs.flatMap (fun r => r.2.2) ++ injInflows s a (k + 800000)
  let nodes := (List.range c.n).map (nodePhase2 s ins (k + 10000))
  let node (n : Nat) : Int × Nat := let x := nodes.getD n (0, 0, 0, true, false); (x.1, min x.2.1 65000)
  let ends := runs.map (fun r => (r.1, branchPhase3 s a now (k + 40000) r.1 node))
  let held := (injections s).map (fun (kind, i, j) => (injKey kind i, BitVec.ofInt 32 (injTemp s (k + 800000) kind i j).1))
  let sat := ends.any (fun e => e.2.1.any (fun p => 65000 ≤ plugAge now p)) || nodes.any (fun x => 65000 ≤ x.2.1)
  let s := ends.foldl (fun s e => writeBranch s now e.1 e.2.1 e.2.2) s
  let s := ((List.range c.n).zip nodes).foldl (fun s e => writeNode s a e.1 e.2) s
  let flushes := (runs.filter (fun r => r.1.flush)).length
  let dry := (nodes.filter (fun x => x.2.2.2.1)).length
  let s := fSet s 0x15 0x17 (Word.ofN flushes)
  let s := fSet s 0x15 0x18 (Word.ofN (ends.filter (fun e => e.2.2)).length)
  let s := fSet s 0x15 0x19 (Word.ofN dry)
  let carry := runs.foldl (fun t r => Tbl.put 0 t r.1.b r.2.1) s.asm.carry
  let s := { s with free := k + 1000000, asm := { s.asm with
    carry := carry, lastTi := held.foldl (fun t e => Tbl.ins t e.1 e.2) s.asm.lastTi, initBr := [], initNd := [] } }
  let s := if flushes = 0 then s else raise s 337
  let s := if dry = 0 then s else raise s 338
  if sat then raise s 339 else s

/-- An advance ends (R196, R216 to R219): its results, event 336, and TRN's boundary. -/
def advanceEnd (s : State) : State :=
  match s.asm.adv with
  | none => s
  | some a =>
    let s := advanceRun s a
    let s := fSetBit { s with asm := { s.asm with adv := none } } 0x15 0x16 0 false
    applyFields (snapUnlock (raise s 336)) 0x15

/-- The advance in progress ends; a pending reinitialisation comes before it (R186). -/
def execTrnAdvanceEnd (s : State) : Out :=
  done s (if unitOn s 0x15 && s.asm.copying.isNone && s.asm.reinit.isNone then advanceEnd s else s)

/-! ## Reinitialisation -/

/-- The temperature at which a branch without plugs is filled (R186). -/
def fillT (s : State) (r : Reinit) (b : Nat) : Int :=
  let w0 := mdlW s 0 b 0
  let na := w0.field 14 14
  let nb := w0.field 0 14
  if na < r.oldN ∧ nb < r.oldN then roundQ ((given s (nodeRes na)).toInt + (given s (nodeRes nb)).toInt) 2
  else (fGet s 0x15 5).toInt

/-- The plug store takes the new model (R186). A new node's T_MEAS is valid when a snapshot of the new model holds it as valid. -/
def reinitRun (s : State) (r : Reinit) : State :=
  let c := counts s
  let fresh := (List.range c.m).filter (fun b => !r.keep.contains b)
  let new := (List.range c.n).filter (fun n => r.oldN ≤ n)
  let fills := fresh.map (fun b => (b, fillT s r b))
  let s := zeroRange s (plugAddr c.m 0) (256 * (8192 - c.m))
  let s := fills.foldl (fun s e =>
    hwW (setPlugs s e.1 [{ t := e.2, len := 65536, ts := s.time.sec % 65536 }]) 0x15 (mdlAddr 0 e.1 7) (Word.ofN (16 * 2 ^ 16 + 1))) s
  let s := new.foldl (fun s n =>
    let t := match if s.asm.snapOk then snapVal s ((mdlW s 1 n 2).field 0 16) else none with | some t => t | none => (fGet s 0x15 5).toInt
    hwWords s 0x15 (nodeRes n) [BitVec.ofInt 32 t, Word.ofN (8 * 2 ^ 16), 0, s.asm.advSeq]) s
  let s := zeroRange s (nodeRes c.n) (16 * (6144 - c.n))
  let s := fSetBit s 0x15 0x16 1 false
  raise { s with asm := { s.asm with
    reinit := none, initBr := fresh, initNd := new, carry := s.asm.carry.filter (fun e => r.keep.contains e.1) } } 340

/-- TRN reinitialises the plug store after a model image, before an advance runs (R186). -/
def execTrnReinit (s : State) : Out :=
  done s (match s.asm.reinit with
    | some r => if unitOn s 0x15 then reinitRun s r else s
    | none => s)

end Sys2Proof.Machine
end

