-- ==== Sys2Proof/Machine/Library.lean ====
section
/-! DEFINITION. What ASM's libraries share: the calling convention, the parts of a call, objects and programs in a work region, and jobs
that a library posts and waits for (R261 to R264, R268, R287). -/
namespace Sys2Proof.Machine

/-! ## Calling a library -/

/-- A free natural number. -/
def freeNat (k : Nat) : Nat := (Config.freeWord k).toNat

/-- A library's range in the ASM home passes its CRC (R261, R287). An untouched copy does, as it came from the boot ROM. -/
def libOk (s : State) (ofs len : Nat) : Bool :=
  readable s (mdlBase + ofs) len &&
  ((s.asm.lib && (Tbl.slice s.mem.cells (mdlBase + ofs) len).isEmpty) ||
    crc32c (memBytes s (mdlBase + ofs) (len - 4)) == memW s (mdlBase + ofs + len - 4))

/-- Word `i` of a library or dispatch block in the ASM home (R268, R289). -/
def blkW (s : State) (blk i : Nat) : Word := given s (mdlBase + blk + 4 * i)

/-- Writes a word of a block. -/
def setBlkW (s : State) (blk i : Nat) (v : Word) : State := hwW s 0x14 (mdlBase + blk + 4 * i) v

/-- Writes part of a word of a block. -/
def setBlkPart (s : State) (blk i lo len v : Nat) : State := setBlkW s blk i ((blkW s blk i).setField lo len v)

/-- The library returns (R262): status in g1, detail in g2, back to g31; g3 to g19, p1 to p7 and the accumulators are free. -/
def libReturn (s : State) (status : Nat) (detail : Word) : State :=
  let k := s.free
  let c := getCtx s 3
  let g := (List.range 17).foldl (fun (t : Tbl Word) i => Tbl.put 0 t (3 + i) (Config.freeWord (k + i))) c.g
  let g := Tbl.put 0 (Tbl.put 0 g 1 (Word.ofN status)) 2 detail
  let acc := (List.range 8).foldl (fun (t : Tbl Acc) i => Tbl.put 0 t i (BitVec.ofInt 80 (Config.freeInt (k + 20 + i)))) c.acc
  let p : BitVec 8 := BitVec.ofNat 8 ((List.range 7).foldl (fun n i => n + bit (Config.freeBool (k + 30 + i)) * 2 ^ (i + 1)) 0)
  setCtx { s with free := k + 40 } 3 { c with g := g, acc := acc, p := p, pc := rdG c 31 }

/-- The software event that a block names is raised (R263, R308). -/
def libEvent (s : State) (n : Nat) : State := if n = 0 then s else raise s n

/-- A call of a library entry (R262, R263): nothing while ASM does not stand at the entry; the block is read as the library's loads
read it. An access of the library that is refused traps as any of ASM's does, at a command of the library that is not given. -/
def libCall (s : State) (entry : Nat) (f : Nat → State → Res) : State :=
  match engReady s .asm with
  | some k =>
    let c := getCtx s k
    if c.pc.toNat ≠ entry then s
    else
      let blk := (rdG c 1).toNat
      match homeWords .asm k 32 blk (fun _ s => f blk s) s with
      | .ok s => s
      | .trap s t =>
        takeTrap { s with free := s.free + 2 } .asm k (Config.freeWord (s.free + 1)) (Config.freeWord s.free) t
  | none => s

/-! ## Parts of a call -/

/-- Why a call does not go on: it ends with a status and a detail, free where the spec gives none, or an access traps. -/
inductive LibEnd where
  | status (code : Nat) (detail : Option Word)
  | trap (t : Trap)
deriving DecidableEq, Repr

/-- What a part of a call comes to. -/
inductive Lib (α : Type) where
  | ok (s : State) (a : α)
  | stop (s : State) (e : LibEnd)

/-- Goes on after a part that did not end the call. -/
def Lib.bind {α β : Type} (r : Lib α) (f : State → α → Lib β) : Lib β :=
  match r with
  | .ok s a => f s a
  | .stop s e => .stop s e

/-- Does a part for each of a list. -/
def libEach {β : Type} (f : β → State → Lib Unit) : List β → State → Lib Unit
  | [], s => .ok s ()
  | x :: t, s => (f x s).bind fun s _ => libEach f t s

/-- An assembly instruction of the library, with its status in g3: STAGE_FULL and any other failure end the call (R264). -/
def libAsm (f : Nat → Reg → State → Res) (s : State) : Lib Unit :=
  match f 3 3 s with
  | .trap s t => .stop s (.trap t)
  | .ok s =>
    match (reg s 3 3).toNat with
    | 0 => .ok s ()
    | 3 => .stop s (.status 0x23 none)
    | n => .stop s (.status 0x24 (some (Word.ofN n)))

/-- The library reaches a range by loads or stores, which trap BUS_ERROR when they are refused (R67). -/
def libSpan (wr : Bool) (a len : Nat) (s : State) : Lib Unit :=
  let w : Who := { unit := 0x14 }
  let k : Kind := if wr then .write else .read
  match (accessCause s 0x14 wr a 4).orElse (fun _ => accessCause s 0x14 wr (a + len - 4) 4) with
  | some c => .stop (errorResp s w k c a 0) (.trap { cause := 3, resp := c.code, addr := a })
  | none =>
    if wr then .ok s ()
    else match hwRead s w k a len with
      | (s, true) => .ok s ()
      | (s, false) => .stop s (.trap { cause := 3, resp := Cause.uncorr.code, addr := a })

/-- Stores words in solver memory. -/
def libPut (a : Nat) (ws : List Word) (s : State) : Lib Unit :=
  (libSpan true a (4 * ws.length) s).bind fun s _ => .ok (hwWords s 0x14 a ws) ()

/-! ## The work region -/

/-- What a library knows of the work region that a block names (R268). -/
def getWork (s : State) (blk : Nat) : LibWork := Tbl.get {} s.asm.work (blkW s blk 1).toNat

/-- Replaces it. -/
def setWork (s : State) (blk : Nat) (x : LibWork) : State :=
  { s with asm := { s.asm with work := Tbl.put {} s.asm.work (blkW s blk 1).toNat x } }

/-- Size in 32-byte units of an object with `n` words of arrays. -/
def objUnits (n : Nat) : Nat := 1 + (n + 7) / 8

/-- Size of an assembled matrix with c columns: it has no more entries than the staging area holds records (R205, R213). -/
def matUnits (s : State) (c : Nat) : Nat := objUnits (c + 1 + 2 * (fGet s 0x14 0xD).toNat)

/-- Size of a program. -/
def progUnits : Nat := 256

/-- Size of a pivot log for n pivots (R245), of a dense matrix and of a Cholesky factor of order p (R233). -/
def logUnits (n : Nat) : Nat := objUnits (3 * n)
def denseUnits (p : Nat) : Nat := objUnits (p * p)
def cholUnits (p : Nat) : Nat := objUnits (p * p + (p + 3) / 4)

/-- Size of an LDLᵀ factor of order n with `nnz` entries (R234). -/
def factUnits (n nnz : Nat) : Nat := objUnits (3 * n + 1 + 2 * nnz + 2 * ((n + 3) / 4))

/-- Object address of part i of a work region whose parts have these sizes: after the space that the library keeps for itself, the
parts follow one another (assumption 200). -/
def partAt (s : State) (blk : Nat) (sizes : List Nat) (i : Nat) : Nat :=
  (blkW s blk 1).field 0 24 + (Config.workMore sizes.sum).toNat + (sizes.take i).sum

/-- Size of the work region that a call needs, in 32-byte units (R264). -/
def workNeed (sizes : List Nat) : Nat := (Config.workMore sizes.sum).toNat + sizes.sum

/-- Units that the region holds from part i on. -/
def regionRest (s : State) (blk : Nat) (sizes : List Nat) (i : Nat) : Nat :=
  (blkW s blk 2).toNat - ((Config.workMore sizes.sum).toNat + (sizes.take i).sum)

/-- The entries that a factor of order n may have in each of `k` equal shares of what the region holds from part i on. -/
def factCap (s : State) (blk : Nat) (sizes : List Nat) (i k n : Nat) : Nat :=
  (8 * (regionRest s blk sizes i / max 1 k - 1) - (3 * n + 1 + 2 * ((n + 3) / 4))) / 2

/-! ## Objects -/

/-- An object of the library's own: header words 0 to 6 with the arrays' largest magnitude, the CRC, and the arrays (R213, R233,
R235). -/
def objWords (kind : Nat) (e : Int) (rows cols : Nat) (nnz : Nat) (idx : List Nat) (vals : List Int) : List Word :=
  let arr := idx.map Word.ofN ++ vals.map (BitVec.ofInt 32)
  let head := [Word.ofN (kind * 2 ^ 8 + (e % 256).toNat), Word.ofN rows, Word.ofN cols, Word.ofN nnz,
    Word.ofN ((vals.map Int.natAbs).foldl max 0), 0, 0]
  head ++ crc32c (wordBytes (head ++ arr)) :: arr

/-- A vector of words at exponent e. -/
def vecWords (e : Int) (ws : List Int) : List Word := objWords 0x41 e ws.length 1 (ws.filter (· != 0)).length [] ws

/-- A dense matrix by columns at exponent e. -/
def denseWords (e : Int) (rows cols : Nat) (ws : List Int) : List Word := objWords 0x40 e rows cols (ws.filter (· != 0)).length [] ws

/-- A sparse matrix of the library's own by columns, each a list of rows and words in ascending order. -/
def sparseWords (e : Int) (rows : Nat) (cols : List (List (Nat × Int))) : List Word :=
  let ptr := (List.range (cols.length + 1)).map (fun j => ((cols.take j).map List.length).sum)
  objWords 0x3F e rows cols.length (cols.map List.length).sum (ptr ++ cols.flatMap (·.map (·.1))) (cols.flatMap (·.map (·.2)))

/-- Numbers as words at exponent e, saturated. -/
def atExp (e : Int) (l : List Q) : List Int := l.map (fun q => clampS 32 (q.word e))

/-- Stores an object at an object address. -/
def putObj (obj : Nat) (ws : List Word) (s : State) : Lib Unit := libPut (objAddr obj) ws s

/-- An empty pivot log for n pivots (R245). -/
def putLog (obj n : Nat) (s : State) : Lib Unit :=
  let head := [Word.ofN (0x46 * 2 ^ 8), Word.ofN n, 0, 0, 0, 0, 0]
  putObj obj (head ++ [crc32c (wordBytes head)]) s

/-- The rows that a pivot log names (R245). -/
def logRows (s : State) (obj : Nat) : List Nat :=
  (List.range (oHdr s obj 3).toNat).map (fun i => (memW s (objAddr obj + 32 + 12 * i)).field 0 20)

/-- A factor's header, unless the object is a factor of that order and capacity already, whose permutation may be used again (R234,
R239). -/
def putFactor (obj n cap : Nat) (s : State) : Lib Unit :=
  if oKind s obj = 0x42 ∧ oRows s obj = n ∧ (oHdr s obj 2).toNat = cap then .ok s ()
  else
    let head := [Word.ofN (0x42 * 2 ^ 8), Word.ofN n, Word.ofN cap, 0, 0, 0, 0]
    putObj obj (head ++ [crc32c (wordBytes head)]) s

/-! ## Assembled blocks -/

/-- Opens a block of the library whose destination is an object (R204). -/
def libOpen (vec : Bool) (kind rowBase rows colBase cols obj : Nat) (s : State) : Lib Unit :=
  libAsm (fun k rd => blkOpen k rd
    [Word.ofN (kind * 2 ^ 8 + bit vec), Word.ofN rowBase, Word.ofN rows, Word.ofN colBase, Word.ofN (if vec then 1 else cols),
     Word.ofN (objAddr obj), Word.ofN (objAddr obj / 2 ^ 32), 0]) s

/-- Closes a block of the library; the answer says whether a value was clamped for it (R212, R213). -/
def libClose (vec : Bool) (s : State) : Lib Bool :=
  let c := match if vec then s.asm.vec else s.asm.mat with | some b => decide (0 < b.clamp) | none => false
  (libAsm (fun k rd => blkClose k rd (bit vec)) s).bind fun s _ => .ok s c

/-- Scatters entries with `ent.w` (R210, R267). -/
def libEnts (es : List Ent) (s : State) : Lib Unit := libEach (fun e s => libAsm (fun k rd => entPut k rd e) s) es s

/-- Opens a block at row and column 0, scatters its entries and closes it. -/
def libBlock (vec : Bool) (kind rows cols obj : Nat) (es : List Ent) (s : State) : Lib Unit :=
  (libOpen vec kind 0 rows 0 cols obj s).bind fun s _ =>
  (libEnts es s).bind fun s _ => (libClose vec s).bind fun s _ => .ok s ()

/-- A call that fails leaves no block of its own open: those that were not open before are abandoned. -/
def libDrop (mat vec : Bool) (s : State) : State :=
  stageFree { s with asm := { s.asm with
    mat := if mat then s.asm.mat else none
    vec := if vec then s.asm.vec else none } }

/-- The largest magnitude that a closed block's certificate permits (R213). -/
def certBound (s : State) (obj : Nat) : Q := Q.scale (oHdr s obj 4).toNat (oExp s obj)

/-- An exact entry, with itself as its interval. -/
def entPoint (mat : Bool) (row col : Nat) (v : Q) : Ent := ent mat row col v (ivPt v)

/-! ## Programs -/

/-- A macro-op of a library's program; `jump` is the label that a branch goes to. -/
structure MOp where
  op : Nat
  mod_ : Nat := 0
  sa : Nat := 0
  sb : Nat := 0
  sd : Nat := 0
  a : Nat := 0
  b : Nat := 0
  d : Nat := 0
  jump : Option Nat := none
deriving DecidableEq, Repr

/-- A line of a program. -/
inductive Line where
  | label (l : Nat)
  | op (o : MOp)
deriving DecidableEq, Repr

/-- Index of the macro-op that follows a label. -/
def Line.target (l : Nat) : List Line → Nat
  | [] => 0
  | .label k :: t => if k = l then 0 else Line.target l t
  | .op _ :: t => 1 + Line.target l t

/-- The words of a program (R237). -/
def progWords (p : List Line) : List Word :=
  p.flatMap (fun x => match x with
    | .label _ => []
    | .op o =>
      [Word.ofN (o.op * 2 ^ 24 + o.mod_ * 2 ^ 16 + o.sa * 2 ^ 12 + o.sb * 2 ^ 8 + o.sd * 2 ^ 4),
       Word.ofN (match o.jump with | some l => Line.target l p | none => o.a), Word.ofN o.b, Word.ofN o.d])

def mFactor (a d : Nat) : Line := .op { op := 1, mod_ := 1, a := a, d := d }
def mChol (a d : Nat) : Line := .op { op := 2, a := a, d := d }
def mSolve (f b d : Nat) : Line := .op { op := 4, a := f, b := b, d := d }
def mSchur (f b d : Nat) : Line := .op { op := 5, a := f, b := b, d := d }
def mGemm (sa sb a b d : Nat) : Line := .op { op := 6, sa := sa, sb := sb, a := a, b := b, d := d }
def mSpmv (t : Bool) (sa sb a b d : Nat) : Line := .op { op := 7, mod_ := bit t, sa := sa, sb := sb, a := a, b := b, d := d }
def mAxpy (sa sb a b d : Nat) : Line := .op { op := 8, sa := sa, sb := sb, a := a, b := b, d := d }
def mClip (sd a b d : Nat) : Line := .op { op := 9, sd := sd, a := a, b := b, d := d }
/-- Infinity norm, and the dot product. -/
def mMax (sd a : Nat) : Line := .op { op := 10, mod_ := 1, sd := sd, a := a }
def mDot (sd a b : Nat) : Line := .op { op := 10, mod_ := 2, sd := sd, a := a, b := b }
/-- Scalar sd ← m × 2^x. -/
def mImm (sd : Nat) (m x : Int) : Line := .op { op := 12, mod_ := 7, sd := sd, a := (m % 2 ^ 32).toNat, b := (x % 256).toNat }
/-- Scalar arithmetic (R240). -/
def mSc (f sa sb sd : Nat) : Line := .op { op := 12, mod_ := f, sa := sa, sb := sb, sd := sd }
/-- A branch to a label: 0 sa < sb, 1 sa ≥ sb, 2 equal, 3 unequal, 4 always. -/
def mBr (c sa sb l : Nat) : Line := .op { op := 13, mod_ := c, sa := sa, sb := sb, jump := some l }
def mEnd (code : Nat) : Line := .op { op := 14, a := code }

/-! ## Jobs -/

/-- What became of a job that a library posted. -/
inductive JobEnd where
  | done (code : Nat)
  | failed (range : Bool)
  | timeout
deriving DecidableEq, Repr

/-- A descriptor of the library (R246). Its program is not held by a step limit of its own (assumption 200). -/
def libDesc (high : Bool) (cls prog rec log : Nat) : List Byte :=
  wordBytes [Word.ofN (2 ^ 28 + bit high * 2 ^ 27 + prog), Word.ofN rec, 0xFFFFFFFF, Word.ofN (cls * 2 ^ 16), 0, 0, 0, 0, Word.ofN log,
    0, 0, 0]

/-- A library posts a job and waits for it (R269, R271, R282, R302): its handle and its end. How much of the array's work fits into
JOB_TIMEOUT_MS is free; on a timeout the job is cancelled, and one that runs already goes on (R271, R312). -/
def libJob (s : State) (desc : List Byte) : State × Nat × JobEnd :=
  if 64 ≤ jobsHeld s then (raise s 354, 0, .failed false)
  else
    let (s, h) := issueHandle s
    let s := enterQueue s h { poster := 0x14, desc := desc }
    let s := arrayRun (freeNat s.free) { s with free := s.free + 1 } h
    match getJob s h with
    | some j =>
      if j.state = 4 then (s, h, .done j.code)
      else if !j.live then (s, h, .failed (j.code == 5))
      else (if j.state = 3 then s else cancelJob s h j, h, .timeout)
    | none => (s, h, .failed false)

/-- The statuses of a run whose job did not end DONE (R264): the detail is word 1 of the result record. -/
def jobStatus (s : State) (rec : Nat) : JobEnd → Option LibEnd
  | .done _ => none
  | .failed true => some (.status 0x11 none)
  | .failed false => some (.status 0x12 (some (given s (objAddr rec + 4))))
  | .timeout => some (.status 0x13 none)

/-- The job of a handle has not ended (R264). -/
def handleBusy (s : State) (h : Nat) : Bool := match getJob s h with | some j => j.live | none => false

end Sys2Proof.Machine
end

