-- ==== Sys2Proof/Machine/Estimate.lean ====
section
/-! DEFINITION. The network library's estimate: `est.run`, its rows, its gain matrix and gradient, the solves on the array, the test and
the removals, and the estimate set (R261 to R277). -/
namespace Sys2Proof.Machine

/-! ## The library block -/

/-- The first word of a library block that breaks R268. -/
def libBad (s : State) (blk : Nat) : Option Nat :=
  let w (i : Nat) : Word := blkW s blk i
  let pos (i : Nat) : Bool := 0 < (w i).toInt
  let ok (i : Nat) : Bool :=
    match i with
    | 0 => (w 0).field 28 4 = 1 && (w 0).field 2 26 = 0
    | 1 => (w 1).field 24 8 = 0
    | 3 => (w 3).field 19 13 = 0 && (w 3).field 0 6 = 0 && (w 3).toNat ≤ 0x53C40
    | 4 => (w 4).field 24 8 = 0 && 1 ≤ (w 4).field 16 8 && (w 4).field 16 8 ≤ 32 && (w 4).field 8 8 ≤ 32 &&
        1 ≤ (w 4).field 0 8 && (w 4).field 0 8 ≤ 16
    | 5 => pos 5 | 6 => pos 6 | 7 => pos 7 | 8 => pos 8 | 9 => pos 9 | 10 => pos 10
    | 11 => (w 11).toNat ≤ 8 * 65536
    | 12 => 65536 ≤ (w 12).toNat
    | 13 => pos 13 && (w 13).toNat < 2 ^ 30
    | 14 => pos 14
    | 15 => (w 15).field 26 6 = 0 && ((w 15).field 16 10 = 0 || (0x3C0 ≤ (w 15).field 16 10 && (w 15).field 16 10 ≤ 0x3DF)) &&
        1 ≤ (w 15).field 0 16
    | 16 => (w 16).field 18 14 = 0 &&
        (List.range ((w 19).field 0 12)).all (fun j => (given s (mdlBase + (w 16).toNat + 8 * j)).field 30 2 != 3)
    | 17 => (w 17).field 18 14 = 0
    | 18 => (w 18).field 18 14 = 0
    | 19 => 1 ≤ (w 19).field 24 8 && (w 19).field 24 8 ≤ 32 && 2 ≤ (w 19).field 16 8 && (w 19).field 16 8 ≤ 64 &&
        (w 19).field 12 4 = 0 && (w 19).field 0 12 ≤ 2048
    | 20 => (w 20).field 19 13 = 0 && 0x80000 ≤ outOfs (w 20) && outOfs (w 20) ≤ 0xF7F40 && (w 20).field 0 6 = 0
    | 21 => pos 21
    | 22 => w 22 = 0
    | 23 => w 23 = 0
    | _ => true
  (List.range 24).find? (fun i => !ok i)

/-- Columns of the state vector (R200). -/
def columns (s : State) : Nat := let c := counts s; 2 * c.n + c.m + c.ss + c.p + c.h

/-- Shared parameters of a block, and its kept-snapshot slots. -/
def parCount (s : State) (blk : Nat) : Nat := (blkW s blk 19).field 0 12
def ringSlots (s : State) (blk : Nat) : Nat := (blkW s blk 19).field 16 8

/-- Size of a kept-snapshot record in 32-byte units, a multiple of two (R279). -/
def keptUnits (s : State) : Nat :=
  let c := counts s
  2 * ((64 + 4 * (columns s + c.k + (c.k + 31) / 32 + c.m) + 63) / 64)

/-- The parts of the network library's work region (R268). The order is the model's (assumption 200). -/
inductive NetPart where
  | xAcc | xWork | dx | gMat | gVec | unitVec | sol | rowMat | rowVec | prog | result | log
  | calMat | calVec | derivs | cross | parMat | parVec | calSol | calTmp | calBounds
  | dense | denseSum | ident | parSum | step | chol | calProg | calResult | calLog
  | ring | iterates | factor
deriving DecidableEq, Repr

/-- Their sizes, but for the factor, which takes the rest. -/
def netSizes (s : State) (blk : Nat) : List Nat :=
  let c := counts s
  let n := columns s
  let p := parCount s blk
  let vec := objUnits
  [vec n, vec n, vec n, matUnits s n, vec n, vec n, vec n, matUnits s n, vec (c.m + c.n + c.k),
   progUnits, 2, logUnits n,
   matUnits s n, vec n, matUnits s p, matUnits s p, matUnits s p, vec p, vec n, vec n, 1,
   denseUnits p, denseUnits p, denseUnits p, vec p, vec p, cholUnits p, progUnits, 2, logUnits (max n p),
   ringSlots s blk * keptUnits s, ringSlots s blk * vec n, factUnits n 0]

/-- Object address of a part. -/
def netPart (s : State) (blk : Nat) (p : NetPart) : Nat := partAt s blk (netSizes s blk) p.ctorIdx

/-- The refusals of a call, in the order in which the model checks them: status and detail (R263, R264). -/
def libRefusal (s : State) (blk handle : Nat) (needSnap : Bool) : Option (Nat × Word) :=
  if !libOk s 0x30000 0x10000 then some (0x26, 0)
  else match libBad s blk with
    | some i => some (0x25, Word.ofN i)
    | none =>
      if handleBusy s handle then some (0x20, 0)
      else if needSnap && !snapLocked s then some (0x21, 0)
      else if (blkW s blk 2).toNat < workNeed (netSizes s blk) then some (0x22, Word.ofN (workNeed (netSizes s blk)))
      else none

/-! ## The network as a graph -/

/-- Joins the components of two nodes. -/
def joinComps (l : List Nat) (a b : Nat) : List Nat :=
  let x := l.getD a 0
  let y := l.getD b 0
  l.map (fun v => if v = y then x else v)

/-- Connected components of the graph whose edges are the branches, sub-stations, plants and thermal stores (R266). -/
def components (s : State) : Nat :=
  let c := counts s
  let ends (t i : Nat) : Nat × Nat := ((mdlW s t i 0).field 14 14, (mdlW s t i 0).field 0 14)
  let edges := (List.range c.m).map (ends 0) ++ (List.range c.ss).map (ends 2) ++ (List.range c.p).map (ends 3) ++
    (List.range c.h).map (ends 4)
  (edges.foldl (fun l e => joinComps l e.1 e.2) (List.range c.n)).eraseDups.length

/-! ## The start vector -/

/-- Mean of the VALID pressure measurements, or the middle of the range (R270). -/
def meanPressure (s : State) : Int :=
  let l := ((List.range (counts s).k).filter (fun d => (mdlW s 6 d 0).field 28 3 == 0)).filterMap (snapVal s)
  if l.isEmpty then roundQ ((fGet s 0x14 0x10).toInt + (fGet s 0x14 0x11).toInt) 2 else roundQ l.sum l.length

/-- A flat start (R270). -/
def flatStart (s : State) (blk : Nat) : List Int :=
  let c := counts s
  let q := (blkW s blk 14).toInt
  List.replicate c.n (meanPressure s) ++ List.replicate c.m q ++ List.replicate c.n (fGet s 0x15 5).toInt ++
    List.replicate (c.ss + c.p) q ++ List.replicate c.h 0

/-- The words of a vector object. -/
def objVec (s : State) (obj n : Nat) : List Int := (List.range n).map (oWord s obj)

/-! ## Rows, weights, the gain matrix and the gradient -/

/-- A row with its weight applied, in word units (R265): entries and their bounds by column, the vector entry with its sign and its
bound. `zero`: the row is removed, and its terms are scattered with value 0 (R267). -/
structure WRow where
  h : List (Nat × Q × Q) := []
  v : Q := {}
  vb : Q := {}
  zero : Bool := false
deriving DecidableEq, Repr

/-- One LSB of a state column in its natural unit (R200). -/
def colUnit (s : State) (c : Nat) : Q := Q.scale 1 (if c < (counts s).n then -8 else -16)

/-- Weight of a row (R265): 1/SIG_MOM, 1/SIG_BAL or 1/SIG_TH; a measurement row arrives weighted. -/
def rowWeight (s : State) (blk row : Nat) : Q :=
  let c := counts s
  let per (i : Nat) (e : Int) : Q := (Q.ofInt 1).div (Q.scale (blkW s blk i).toInt e)
  if row < c.m then per 8 (-8) else if row < c.m + c.n then per 9 (-16) else if row < c.m + 2 * c.n then per 10 (-16) else Q.ofInt 1

/-- Is the row a measurement row? Its entries are per LSB already (R209). -/
def isMeasRow (s : State) (row : Nat) : Bool := decide ((counts s).m + 2 * (counts s).n ≤ row)

/-- A weighted row from its entries (column, value, certified bound) and its vector entry with its bound (R265). -/
def weighted (s : State) (blk row : Nat) (es : List (Nat × Q × Q)) (v bv : Q) (zero : Bool) : WRow :=
  let w := rowWeight s blk row
  let meas := isMeasRow s row
  let u (c : Nat) : Q := if meas then w else w.mul (colUnit s c)
  { h := es.map (fun e => (e.1, e.2.1.mul (u e.1), e.2.2.mul (u e.1)))
    v := if meas then v.mul w else (v.mul w).neg
    vb := bv.mul w
    zero := zero }

/-- A term of a scatter with its interval, plus and minus its bound (R267). -/
def term (mat : Bool) (row col : Nat) (zero : Bool) (v b : Q) : Ent :=
  if zero then entZero mat row col (ivSym b) false else ent mat row col v (ivSym b)

/-- What a row adds to the gain matrix, of which the lower triangle with the diagonal is kept (R239, R267). -/
def gainTerms (r : WRow) : List Ent :=
  r.h.flatMap (fun x => (r.h.filter (fun y => y.1 ≤ x.1)).map (fun y =>
    term true x.1 y.1 r.zero (x.2.1.mul y.2.1) (x.2.2.mul y.2.2)))

/-- What a row adds to the gradient (R265, R267). -/
def gradTerms (r : WRow) : List Ent := r.h.map (fun x => term false x.1 0 r.zero (x.2.1.mul r.v) (x.2.2.mul r.vb))

/-- Scatters rows into G and g, of n columns (R267). -/
def scatterGain (n mat vec : Nat) (rows : List WRow) (s : State) : Lib Unit :=
  (libOpen false 0x21 0 n 0 n mat s).bind fun s _ =>
  (libOpen true 0x22 0 n 0 1 vec s).bind fun s _ =>
  (libEnts (rows.flatMap (fun r => gainTerms r ++ gradTerms r)) s).bind fun s _ =>
  (libClose false s).bind fun s _ =>
  (libClose true s).bind fun s _ => .ok s ()

/-- The classes of columns that the library assembles apart, each with its first column and its number (assumption 200): pressures, branch
flows, temperatures, injection flows. A certified bound is then that of one quantity. -/
def colClasses (s : State) : List (Nat × Nat) :=
  let c := counts s
  [(0, c.n), (c.n, c.m), (c.n + c.m, c.n), (2 * c.n + c.m, c.ss + c.p + c.h)].filter (fun x => 0 < x.2)

/-- Assembles a class of rows, class of columns by class of columns, into a matrix block (R200, R213): whether a value was clamped, and the
entries by row, with their column, value and certified bound. -/
def classCols (kind base rows mat : Nat) (body : State → Lib Unit) : List (Nat × Nat) → State → Lib (Bool × List (Nat × Nat × Q × Q))
  | [], s => .ok s (false, [])
  | (cb, n) :: t, s =>
    (libOpen false kind base rows cb n mat s).bind fun s _ =>
    (body s).bind fun s _ =>
    (libClose false s).bind fun s a =>
      let b := certBound s mat
      let es := (List.range n).flatMap (fun j => (colOf s mat j).map (fun e => (e.1, cb + j, e.2, b)))
      (classCols kind base rows mat body t s).bind fun s r => .ok s (a || r.1, es ++ r.2)

/-- A class of rows assembled and weighted (R265); `zero` names the rows that are scattered with value 0 (R267). -/
def classRows (blk kind base rows : Nat) (zero : Nat → Bool) (body : State → Lib Unit) (s : State) : Lib (Bool × List WRow) :=
  if rows = 0 then .ok s (false, [])
  else
    let vec := netPart s blk .rowVec
    (libOpen true 4 base rows 0 1 vec s).bind fun s _ =>
    (body s).bind fun s _ =>
    (libClose true s).bind fun s a =>
    (classCols kind base rows (netPart s blk .rowMat) body (colClasses s) s).bind fun s r =>
      let vs := vecOf s vec
      .ok s (a || r.1, (List.range rows).map (fun i =>
        weighted s blk (base + i) ((r.2.filter (fun e => e.1 == i)).map (·.2)) (vs.getD i {}) (certBound s vec) (zero (base + i))))

/-- `inj.row` for every injection of the model (R265). -/
def injRows (s : State) : Lib Unit :=
  let c := counts s
  libEach (fun (e : Nat × Nat) s => libAsm (fun k rd => injRow k rd e.1 e.2) s)
    ((List.range c.ss).map (0, ·) ++ (List.range c.p).map (1, ·) ++ (List.range c.h).map (2, ·)) s

/-- Descriptors bound to a state column (R195). -/
def stateMeas (s : State) : List Nat := (List.range (counts s).k).filter (fun d => (stateCol s d).isSome)

/-- Every element of the active model is assembled (R265): momentum, mass-balance, thermal and measurement rows; then all rows are
scattered into G and g. The answer says whether a value was clamped. -/
def estAssemble (s : State) (blk : Nat) (removed : List Nat) : Lib Bool :=
  let c := counts s
  let part := netPart s blk
  let mom (s : State) : Lib Unit := libEach (fun b s => libAsm (fun k rd => hydBr k rd b) s) (List.range c.m) s
  let bal (s : State) : Lib Unit := (mom s).bind fun s _ => injRows s
  let th (s : State) : Lib Unit :=
    (libEach (fun b s => libAsm (fun k rd => thBr k rd b) s) (List.range c.m) s).bind fun s _ => injRows s
  let meas (s : State) : Lib Unit := libEach (fun d s => libAsm (fun k rd => measRow k rd d) s) (stateMeas s) s
  let base := c.m + 2 * c.n
  (classRows blk 1 0 c.m (fun _ => false) mom s).bind fun s r1 =>
  (classRows blk 1 c.m c.n (fun _ => false) bal s).bind fun s r2 =>
  (classRows blk 2 (c.m + c.n) c.n (fun _ => false) th s).bind fun s r3 =>
  (classRows blk 3 base c.k (fun row => removed.contains (row - base)) meas s).bind fun s r4 =>
  (scatterGain (columns s) (part .gMat) (part .gVec) (r1.2 ++ r2.2 ++ r3.2 ++ r4.2) s).bind fun s _ =>
    .ok s (r1.1 || r2.1 || r3.1 || r4.1)

/-! ## Solves -/

/-- An estimate in progress. -/
structure EstRun where
  /-- X_WORK, and the start vector -/
  x : List Int := []
  start : List Int := []
  /-- iterations of all solves -/
  iters : Nat := 0
  /-- unobservable columns of the final factorisation -/
  unobs : List Nat := []
  clamped : Bool := false
  /-- removed descriptors with their normalised residuals, Q8.8 -/
  removed : List (Nat × Nat) := []
  /-- last job -/
  handle : Nat := 0
deriving DecidableEq, Repr

/-- ASM.LIN_ADDR is X_WORK, whose words follow its header (R271). -/
def linAtWork (s : State) (blk : Nat) : State :=
  let a := objAddr (netPart s blk .xWork) + 32
  fSetPart (fSet s 0x14 9 (Word.ofN a)) 0x14 0xA 0 8 (a / 2 ^ 32 % 256)

/-- Stores X_WORK. -/
def putWork (s : State) (blk : Nat) (x : List Int) : Lib Unit := putObj (netPart s blk .xWork) (vecWords 0 x) s

/-- The program of one iteration (R269, R271): Δx from G and g, and X_WORK + Δx. -/
def iterProg (part : NetPart → Nat) : List Line :=
  [mImm 1 1 0, mFactor (part .gMat) (part .factor), mSolve (part .factor) (part .gVec) (part .dx),
   mAxpy 1 1 (part .dx) (part .xWork) (part .xWork), mEnd 0]

/-- Posts a job of the network library and waits for it. -/
def netJob (s : State) (part : NetPart → Nat) (high : Bool) (pr rc lg : NetPart) : State × Nat × JobEnd :=
  libJob s (libDesc high 0 (part pr) (part rc) (part lg))

/-- The factor, emptied pivot log and program of a job are put in place. -/
def netPrepare (s : State) (blk : Nat) (pr lg : NetPart) (logN : Nat) (p : List Line) : Lib Unit :=
  let n := columns s
  let part := netPart s blk
  let cap := factCap s blk (netSizes s blk) NetPart.factor.ctorIdx 1 n
  (putFactor (part .factor) n cap s).bind fun s _ =>
  (putLog (part lg) logN s).bind fun s _ => putObj (part pr) (progWords p) s

/-- The steps of an iteration are within the tolerances in every observable column (R271, R274). -/
def stepSmall (s : State) (blk : Nat) (dx : List Int) (unobs : List Nat) : Bool :=
  let c := counts s
  let eps (j : Nat) : Int :=
    if j < c.n then (blkW s blk 5).toInt else if c.n + c.m ≤ j ∧ j < 2 * c.n + c.m then (blkW s blk 7).toInt else (blkW s blk 6).toInt
  (dx.zipIdx).all (fun e => unobs.contains e.2 || decide ((e.1.natAbs : Int) < eps e.2))

/-- One Gauss-Newton iteration (R271): the answer says whether it has converged. An error carries what is known of the run. -/
def estIter (s : State) (blk : Nat) (r : EstRun) : State × EstRun × Except LibEnd Bool :=
  let n := columns s
  let part := netPart s blk
  let r := { r with iters := r.iters + 1 }
  let ready := (estAssemble (linAtWork s blk) blk (r.removed.map (·.1))).bind fun s c =>
    (putObj (part .dx) (vecWords 0 (List.replicate n 0)) s).bind fun s _ =>
    (netPrepare s blk .prog .log n (iterProg part)).bind fun s _ => .ok s c
  match ready with
  | .stop s e => (s, r, .error e)
  | .ok s c =>
    let r := { r with clamped := r.clamped || c }
    let (s, h, e) := netJob s part true .prog .result .log
    let r := { r with handle := h }
    match jobStatus s (part .result) e with
    | some e => (s, r, .error e)
    | none =>
      let unobs := (logRows s (part .log)).eraseDups
      let dx := objVec s (part .dx) n
      (s, { r with x := objVec s (part .xWork) n, unobs := unobs }, .ok (stepSmall s blk dx unobs))

/-- Iterations until the steps are small (R271); after the last one, unobservable columns take their start values (R274). -/
def solveIters : Nat → State → Nat → EstRun → State × EstRun × Option LibEnd
  | 0, s, _, r => (s, r, some (.status 0x10 none))
  | k + 1, s, blk, r =>
    match estIter s blk r with
    | (s, r, .error e) => (s, r, some e)
    | (s, r, .ok false) => solveIters k s blk r
    | (s, r, .ok true) =>
      let x := (r.x.zipIdx).map (fun e => if r.unobs.contains e.2 then r.start.getD e.2 0 else e.1)
      match putWork s blk x with
      | .ok s _ => (s, { r with x := x }, none)
      | .stop s e => (s, r, some e)

/-- One Gauss-Newton solve from X_WORK (R271, R274). -/
def solve (s : State) (blk : Nat) (r : EstRun) : State × EstRun × Option LibEnd := solveIters ((blkW s blk 4).field 0 8) s blk r

/-! ## The test and bad data -/

/-- The measurements that a run uses: VALID and not removed (R266). -/
def usedMeas (s : State) (r : EstRun) : List Nat :=
  (List.range (counts s).k).filter (fun d => snapStatus s d == 0 && !(r.removed.any (fun x => x.1 == d)))

/-- The weighted residual of a measurement, for one that has a state column (R209, R272). -/
def residual (s : State) (r : EstRun) (d : Nat) : Option Q :=
  (stateCol s d).map (fun c => (weight s d).mul (Q.ofInt ((given s (snapAddr d)).toInt - r.x.getD c 0)))

/-- J of R272. -/
def chiSum (s : State) (r : EstRun) : Q :=
  Q.sum (((usedMeas s r).filterMap (residual s r)).map (fun v => v.mul v))

/-- Redundancy (R266). -/
def redundancy (s : State) (blk : Nat) (r : EstRun) : Int :=
  let c := counts s
  (usedMeas s r).length - (c.ss + c.p + c.h + (blkW s blk 29).field 0 16 : Nat) + r.unobs.length

/-- T of R272, for df ≥ 1. -/
def chiLimit (s : State) (blk : Nat) (df : Nat) : Q :=
  let a : Q := { n := 2, d := 9 * df }
  let root : Q := { n := roundSqrt (2 * 2 ^ 128) (9 * df), d := 2 ^ 64 }
  let b := ((Q.ofInt 1).sub a).add ((q16 (blkW s blk 11).toNat).mul root)
  (Q.ofInt df).mul (b.mul (b.mul b))

/-- Puts a candidate before those with a smaller residual. -/
def insertCand : List (Nat × Q) → Nat × Q → List (Nat × Q)
  | [], x => [x]
  | y :: t, x => if (y.2).lt x.2 then x :: y :: t else y :: insertCand t x

/-- Column c of the inverse of the matrix that a factor object holds. -/
def inverseCol (s : State) (obj n c : Nat) : List Q :=
  let f := factorOf s obj
  backwardPart f (forwardPart f ((List.range n).map (fun i => if i = c then Q.ofInt 1 else {})))

/-- Ω of a candidate, 1 - w²·(G⁻¹)[c][c], by one `solve.tri` on the factor of G (R273). The vector's exponent is the smallest that holds
the column (assumption 200). -/
def omega (s : State) (blk d c : Nat) : State × Nat × Except LibEnd Q :=
  let n := columns s
  let part := netPart s blk
  let e := ((inverseCol s (part .factor) n c).map Q.abs).foldl Q.max {} |>.expFor 30
  let ready := (putObj (part .unitVec) (vecWords 0 ((List.range n).map (fun i => if i = c then 1 else 0))) s).bind fun s _ =>
    (putObj (part .sol) (vecWords e (List.replicate n 0)) s).bind fun s _ =>
    (netPrepare s blk .prog .log n [mSolve (part .factor) (part .unitVec) (part .sol), mEnd 0])
  match ready with
  | .stop s e => (s, 0, .error e)
  | .ok s _ =>
    let (s, h, end_) := netJob s part true .prog .result .log
    match jobStatus s (part .result) end_ with
    | some e => (s, h, .error e)
    | none =>
      let w := weight s d
      (s, h, .ok ((Q.ofInt 1).sub ((w.mul w).mul (Q.scale (oWord s (part .sol) c) (oExp s (part .sol))))))

/-- Ω of every candidate, until a job is not done; a candidate without a state column is none. -/
def omegas (blk : Nat) : List (Nat × Q) → State → EstRun → State × EstRun × Except LibEnd (List (Nat × Q × Q))
  | [], s, r => (s, r, .ok [])
  | (d, v2) :: t, s, r =>
    match stateCol s d with
    | none => omegas blk t s r
    | some c =>
      match omega s blk d c with
      | (s, h, .error e) => (s, { r with handle := h }, .error e)
      | (s, h, .ok om) =>
        match omegas blk t s { r with handle := h } with
        | (s, r, .ok l) => (s, r, .ok ((d, v2, om) :: l))
        | x => x

/-- One removal pass's choice (R273): the non-critical candidate with the largest normalised residual, and that residual's square; none
when no candidate is left. -/
def pickBad (s : State) (blk : Nat) (r : EstRun) : State × EstRun × Except LibEnd (Option (Nat × Q)) :=
  let all := (usedMeas s r).filterMap (fun d => (residual s r d).map (fun v => (d, v.mul v)))
  let cand := (all.foldl insertCand []).take ((blkW s blk 4).field 16 8)
  let limit := Q.scale (blkW s blk 13).toInt (-30)
  match omegas blk cand s r with
  | (s, r, .error e) => (s, r, .error e)
  | (s, r, .ok l) =>
    let scored := (l.filter (fun x => !x.2.2.lt limit)).map (fun x => (x.1, x.2.1.div x.2.2))
    (s, r, .ok (scored.foldl insertCand []).head?)

/-- The test and the removal passes (R272, R273): the status of an accepted run, or why it ends. -/
def removals (blk : Nat) : Nat → State → EstRun → State × EstRun × Except LibEnd Nat
  | 0, s, r => (s, r, .ok 2)
  | n + 1, s, r =>
    let df := redundancy s blk r
    if df < 1 || !(blkW s blk 0).tst 1 then (s, r, .ok 3)
    else if (chiSum s r).le (chiLimit s blk df.toNat) then (s, r, .ok (if r.removed.isEmpty then 0 else 1))
    else
      let lim := q16 (blkW s blk 12).toNat
      match pickBad s blk r with
      | (s, r, .error e) => (s, r, .error e)
      | (s, r, .ok none) => (s, r, .ok 2)
      | (s, r, .ok (some (d, v2))) =>
        if v2.le (lim.mul lim) || (blkW s blk 4).field 8 8 ≤ r.removed.length then (s, r, .ok 2)
        else
          match solve s blk { r with removed := r.removed ++ [(d, min 65535 (v2.sqrtWord (-8)).toNat)] } with
          | (s, r, some e) => (s, r, .error e)
          | (s, r, none) => removals blk n s r

/-! ## The estimate set -/

/-- Unsigned Q23.8, saturating (R276). -/
def uq8 (a : Q) : Word := Word.ofN (min (2 ^ 32 - 1) (a.word (-8)).toNat)

/-- The header of the set (R276): words 0 to 15. -/
def estHeader (s : State) (blk : Nat) (r : EstRun) (flags status : Nat) (j t : Word) (accModel accSeq : Nat) : List Word :=
  [blkW s blk 24, Word.ofN (status + min 255 r.iters * 2 ^ 8 + r.removed.length * 2 ^ 16 + flags * 2 ^ 24), fGet s 0x14 7,
   Word.ofN s.asm.sec, Word.ofN s.asm.ns, j, t, BitVec.ofInt 32 (redundancy s blk r), Word.ofN (usedMeas s r).length,
   Word.ofN r.unobs.length, Word.ofN (fPart s 0x14 6 0 16 * 2 ^ 16 + accModel), Word.ofN accSeq, 0, 0, 0, 0]

/-- Pads a list of words. -/
def padTo (n : Nat) (l : List Word) : List Word := l ++ List.replicate (n - l.length) 0

/-- The body of the set (R276, R277): `old` is the previous accepted estimate. -/
def estBody (s : State) (r : EstRun) (old : List Int) : List Word :=
  let c := counts s
  let used := usedMeas s r
  let cols := used.filterMap (stateCol s)
  let pUsed (n : Nat) : Bool := cols.contains n
  let val (j : Nat) : Word := BitVec.ofInt 32 (r.x.getD j 0)
  let node (n : Nat) : List Word :=
    let res := given s (nodeRes n + 4)
    let f := bit (r.unobs.contains n) + 2 * bit (r.unobs.contains (c.n + c.m + n)) + 4 * bit (pUsed n) +
      8 * bit (cols.contains (c.n + c.m + n)) + res.field 16 4 * 16 + res.field 0 16 * 2 ^ 16
    [val n, val (c.n + c.m + n), Word.ofN f, 0]
  let branch (b : Nat) : List Word :=
    let j := c.n + b
    let rev := !old.isEmpty && decide (old.getD j 0 < 0) != decide (r.x.getD j 0 < 0)
    [val j, Word.ofN (bit (r.unobs.contains j) + 2 * bit (cols.contains j) + 4 * bit rev + (mdlW s 0 b 7).field 16 5 * 2 ^ 16)]
  let inj (j : Nat) : List Word := [val j, Word.ofN (bit (r.unobs.contains j) + 2 * bit (cols.contains j))]
  let base := 2 * c.n + c.m
  padTo 24576 ((List.range c.n).flatMap node) ++ padTo 16384 ((List.range c.m).flatMap branch) ++
    padTo 4096 ((List.range c.ss).flatMap (fun i => inj (base + i))) ++
    padTo 128 ((List.range c.p).flatMap (fun i => inj (base + c.ss + i))) ++
    padTo 64 ((List.range c.h).flatMap (fun i => inj (base + c.ss + c.p + i))) ++
    padTo 32 (r.removed.map (fun x => Word.ofN (x.2 * 2 ^ 16 + x.1)))

/-- A call ends with a status that raises the block's event, or traps (R263). -/
def libFinish (s : State) (event : Nat) : LibEnd → Res
  | .trap t => .trap s t
  | .status st (some d) => .ok (libReturn (libEvent s event) st d)
  | .status st none => let (s, d) := freeW s; .ok (libReturn (libEvent s event) st d)

/-- The event of a library block. -/
def estEvent (s : State) (blk : Nat) : Nat := (blkW s blk 15).field 16 10

/-- A run that is not accepted writes only the header and leaves the accepted estimate (R275). -/
def estFail (s : State) (blk : Nat) (r : EstRun) (flags : Nat) : LibEnd → Res
  | .trap t => .trap s t
  | .status st d =>
    let (s, j) := freeW s
    let s := deliverSet s ((blkW s blk 3).toNat / 4)
      (estHeader s blk r flags st j 0 ((blkW s blk 26).field 16 16) (blkW s blk 25).toNat)
    libFinish s (estEvent s blk) (.status st d)

/-- An accepted run (R275): X_ACC, ACC_SEQ, ACC_MODEL and the whole set. -/
def estAccept (s : State) (blk : Nat) (r : EstRun) (flags status : Nat) : Res :=
  let df := redundancy s blk r
  let t := if status = 3 then 0 else uq8 (chiLimit s blk df.toNat)
  let old := if blkW s blk 25 = 0 then [] else objVec s (netPart s blk .xAcc) (columns s)
  match putObj (netPart s blk .xAcc) (vecWords 0 r.x) s with
  | .stop s e => libFinish s (estEvent s blk) e
  | .ok s _ =>
    let s := setBlkW s blk 25 (blkW s blk 24)
    let s := setBlkPart s blk 26 16 16 (fPart s 0x14 6 0 16)
    let s := deliverSet s ((blkW s blk 3).toNat / 4)
      (estHeader s blk r flags status (uq8 (chiSum s r)) t (fPart s 0x14 6 0 16) (blkW s blk 25).toNat ++ estBody s r old)
    let s := setWork s blk { getWork s blk with accStatus := status, accSnap := fGet s 0x14 7, used := usedMeas s r }
    libFinish s (estEvent s blk) (.status status none)

/-- The library counts the components anew when the model has changed (R266). -/
def countComps (s : State) (blk : Nat) : State :=
  let w := getWork s blk
  let id := fPart s 0x14 6 0 16
  if w.compModel = id then s else setBlkPart (setWork s blk { w with compModel := id }) blk 29 0 16 (components s)

/-- The Transit advance of a run (R269, R270): with the start vector, or the existing results when it is refused; the second part
is TRN_SKIPPED. A running advance completes, since the assembly waits for it (R207). -/
def estTransit (s : State) (x : List Int) : State × Bool :=
  let settle (s : State) : State := match s.asm.reinit with | some r => reinitRun s r | none => s
  match trnRefusal s with
  | 0 => (evtClear (advanceEnd (settle (trnStart s 0 (some x)))) 2 336, false)
  | n => (advanceEnd (settle (fSetPart s 0x15 0x16 4 4 n)), true)

/-- `est.run` after its checks (R269). -/
def estRun (s : State) (blk : Nat) : Res :=
  let s := setBlkW (countComps s blk) blk 24 (blkW s blk 24 + 1)
  let flat := (blkW s blk 0).tst 0 || blkW s blk 25 == 0 || (blkW s blk 26).field 16 16 != fPart s 0x14 6 0 16
  let x := if flat then flatStart s blk else objVec s (netPart s blk .xAcc) (columns s)
  let (s, skipped) := estTransit s x
  let flags (r : EstRun) : Nat := bit flat + 2 * bit skipped + 4 * bit r.clamped
  let mat := s.asm.mat.isSome
  let vec := s.asm.vec.isSome
  let r0 : EstRun := { x := x, start := x, handle := (blkW s blk 26).field 0 16 }
  let (s, r, e) := match putWork s blk x with
    | .ok s _ => solve s blk r0
    | .stop s e => (s, r0, some e)
  let (s, r, e) := match e with
    | some e => (s, r, Except.error e)
    | none => removals blk ((blkW s blk 4).field 8 8 + 1) s r
  let s := setBlkPart (libDrop mat vec s) blk 26 0 16 r.handle
  match e with
  | .error e => estFail s blk r (flags r) e
  | .ok status => estAccept s blk r (flags r) status

/-- The network library's entry `est.run` (R262 to R277). While a snapshot is still being copied the call goes on. -/
def execEstRun (s : State) : Out :=
  done s (libCall s 0x30000 (fun blk s =>
    if s.asm.copying.isSome then .ok s
    else match libRefusal s blk ((blkW s blk 26).field 0 16) true with
      | some (st, d) => .ok (libReturn s st d)
      | none => estRun s blk))

end Sys2Proof.Machine
end

