-- ==== Sys2Proof/Machine/Calibrate.lean ====
section
/-! DEFINITION. The network library's calibration: `cal.keep`, `cal.step`, the bundle adjustment of kept snapshots and shared parameters
on the array, and the proposal (R278 to R286). -/
namespace Sys2Proof.Machine

/-! ## Kept snapshots -/

/-- A return that raises the block's event (R263). -/
def calReturn (s : State) (blk status : Nat) (detail : Option Word) : Res := libFinish s (estEvent s blk) (.status status detail)

/-- Address of a kept-snapshot record (R279). -/
def keptAddr (s : State) (blk slot : Nat) : Nat := objAddr (netPart s blk .ring + slot * keptUnits s)

/-- Word i of the record of a slot. -/
def keptW (s : State) (blk slot i : Nat) : Word := given s (keptAddr s blk slot + 4 * i)

/-- Column j of X_ACC, value d, use of descriptor d, and result of branch b, as a record holds them (R279). -/
def keptX (s : State) (blk slot j : Nat) : Int := (keptW s blk slot (16 + j)).toInt
def keptZ (s : State) (blk slot d : Nat) : Int := (keptW s blk slot (16 + columns s + d)).toInt
def keptUsed (s : State) (blk slot d : Nat) : Bool := (keptW s blk slot (16 + columns s + (counts s).k + d / 32)).tst (d % 32)
def keptT (s : State) (blk slot b : Nat) : Int :=
  (keptW s blk slot (16 + columns s + (counts s).k + ((counts s).k + 31) / 32 + b)).toInt

/-- Snapshots kept (R278). -/
def keptCount (s : State) (blk : Nat) : Nat := min ((blkW s blk 27).field 8 8) (ringSlots s blk)

/-- The record of the locked snapshot (R279). -/
def keptNow (s : State) (blk : Nat) : List Word :=
  let c := counts s
  let used := (getWork s blk).used
  let map (k : Nat) : Word := Word.ofN ((List.range 32).foldl (fun n b => n + bit (used.contains (32 * k + b)) * 2 ^ b) 0)
  let l := givenWords s 0x04001F0000 8 ++ [blkW s blk 25] ++ List.replicate 7 0 ++
    (objVec s (netPart s blk .xAcc) (columns s)).map (BitVec.ofInt 32) ++ (List.range c.k).map (fun d => given s (snapAddr d)) ++
    (List.range ((c.k + 31) / 32)).map map ++ (List.range c.m).map (branchT s)
  padTo (8 * keptUnits s) l

/-- `cal.keep` after its checks (R278, R284). -/
def calKeep (s : State) (blk : Nat) : Res :=
  let w := getWork s blk
  if (blkW s blk 29).field 24 8 ≠ 0 then calReturn s blk 0x47 none
  else if !(blkW s blk 25 != 0 && w.accSnap == fGet s 0x14 7 && w.accStatus < 2) then calReturn s blk 0x48 none
  else
    let model := (blkW s blk 26).field 16 16
    let n := ringSlots s blk
    let clear := keptCount s blk != 0 && w.keptModel != model
    let kept := if clear then 0 else keptCount s blk
    let slot := if clear then 0 else (blkW s blk 27).field 0 8 % max 1 n
    match libPut (keptAddr s blk slot) (keptNow s blk) s with
    | .stop s e => libFinish s (estEvent s blk) e
    | .ok s _ =>
      let s := setWork s blk { w with keptModel := model }
      let s := setBlkPart (setBlkPart s blk 27 8 8 (min n (kept + 1))) blk 27 0 8 ((slot + 1) % max 1 n)
      calReturn s blk 0 (some (Word.ofN (bit clear)))

/-- The network library's entry `cal.keep` (R262, R278). -/
def execCalKeep (s : State) : Out :=
  done s (libCall s 0x30008 (fun blk s =>
    if s.asm.copying.isSome then .ok s
    else match libRefusal s blk 0 true with
      | some (st, d) => .ok (libReturn s st d)
      | none => calKeep s blk))

/-! ## Shared parameters -/

/-- Kind, offset entry and word 1 of shared parameter i (R280). -/
def parKind (s : State) (blk i : Nat) : Nat := (given s (mdlBase + (blkW s blk 16).toNat + 8 * i)).field 30 2
def parEntry (s : State) (blk i : Nat) : Nat := (given s (mdlBase + (blkW s blk 16).toNat + 8 * i)).field 0 12
def parLimit (s : State) (blk i : Nat) : Nat := (given s (mdlBase + (blkW s blk 16).toNat + 8 * i + 4)).toNat

/-- The branches mapped to a parameter (R280, R281). -/
def parBranches (s : State) (blk i : Nat) : List Nat :=
  let map := (blkW s blk (if parKind s blk i = 0 then 17 else 18)).toNat
  (List.range (counts s).m).filter (fun b => (given s (mdlBase + map + 2 * b - b % 2 * 2)).field (16 * (b % 2)) 16 == i)

/-- Range of a parameter, in LSBs of the word it sets (R281). -/
def parRange (s : State) (blk i : Nat) : Int × Int :=
  match parKind s blk i with
  | 0 => (fPart s 0x14 0xF 0 16, fPart s 0x14 0xF 16 16)
  | 1 => (0, 655360)
  | _ => (-(parLimit s blk i), parLimit s blk i)

/-- The patch records that set a parameter to a value, and the words of the active model that they replace (R285). -/
def parRecs (s : State) (blk i : Nat) (v : Int) : List (Word × Word × Word) :=
  match parKind s blk i with
  | 0 => (parBranches s blk i).map (fun b =>
      (Word.ofN (2 * 2 ^ 24 + b), (mdlW s 0 b 2).setField 0 16 v.toNat, mdlW s 0 b 2))
  | 1 => (parBranches s blk i).map (fun b => (Word.ofN (3 * 2 ^ 24 + b), BitVec.ofInt 32 v, mdlW s 0 b 3))
  | _ => [(Word.ofN (7 * 2 ^ 28 + parEntry s blk i), BitVec.ofInt 32 v, mdlW s 7 (parEntry s blk i) 0)]

/-- Value of a parameter in the active model, in units of 2^-16 of its LSB (R282): that of its first branch. -/
def parNow (s : State) (blk i : Nat) : Int :=
  65536 * (match parKind s blk i with
    | 0 => ((mdlW s 0 ((parBranches s blk i).headD 0) 2).field 0 16 : Int)
    | 1 => (mdlW s 0 ((parBranches s blk i).headD 0) 3).toInt
    | _ => (mdlW s 7 (parEntry s blk i) 0).toInt)

/-- A parameter of the calibration as linearised, and its distance from the model's value at the first call, in LSBs. -/
def thetaOf (s : State) (blk i : Nat) : Q := { n := (getWork s blk).theta.getD i 0, d := 65536 }
def thetaOff (s : State) (blk i : Nat) : Q := { n := (getWork s blk).theta.getD i 0 - (getWork s blk).theta0.getD i 0, d := 65536 }

/-- The parameter of a kind that a branch or an offset entry is mapped to (R280). -/
def parOfBranch (s : State) (blk kind b : Nat) : Option Nat :=
  (List.range (parCount s blk)).find? (fun i => parKind s blk i == kind && (parBranches s blk i).contains b)
def parOfEntry (s : State) (blk e : Nat) : Option Nat :=
  (List.range (parCount s blk)).find? (fun i => 2 ≤ parKind s blk i && parEntry s blk i == e)

/-! ## Derivatives -/

/-- Natural logarithm of 10. -/
def ln10Q : Q := { n := 23025850929940456840179914546843642076011014886287729760333, d := 10 ^ 58 }

/-- ∂k/∂ROUGH, per µm, from the friction factor of R206 (R281). -/
def roughDeriv (s : State) (b : Nat) (rough : Q) : Q :=
  let k := s.free + 16 * b
  let diam := (mdlW s 0 b 2).field 16 16
  if diam = 0 ∨ rough.n ≤ 0 then freeQ k
  else
    let l := log10Q (roughRatio rough diam)
    let lam := friction k rough diam
    pipeK s b (k + 1) (divFree (k + 2) ((Q.ofInt (-2)).mul lam) (l.mul (rough.mul ln10Q)))

/-- ∂Tout/∂ULOSS, per W/(m·K) (R281): -(Tout - tg) × t_tr × 4 / (RHO_REF × CP_REF × π × DIAM²), with t_tr the branch's water mass over
the kept |q|. -/
def lossDeriv (s : State) (blk slot b : Nat) : Q :=
  let k := s.free + 16 * b + 8
  let d : Q := { n := (mdlW s 0 b 2).field 16 16, d := 10000 }
  let area4 := (piQ.mul d).mul d
  let mass := ((rhoQ s).mul (area4.mul { n := 1, d := 4 })).mul { n := (mdlW s 0 b 1).toNat, d := 1000 }
  let tg := q16 (fGet s 0x15 (6 + (mdlW s 0 b 4).field 28 4)).toInt
  let tr := divFree k mass (q16 (keptX s blk slot ((counts s).n + b))).abs
  let cp := Q.ofInt (fPart s 0x15 2 0 16)
  divFree (k + 1) ((((q16 (keptT s blk slot b)).sub tg).neg.mul tr).mul (Q.ofInt 4)) (((rhoQ s).mul cp).mul area4)

/-- Tout of a branch for the parameters as linearised: linear in ULOSS from the kept value (assumption 201). -/
def toutOf (s : State) (blk slot b : Nat) : Q :=
  let t := q16 (keptT s blk slot b)
  match parOfBranch s blk 1 b with
  | some i => t.add (((lossDeriv s blk slot b).mul (thetaOff s blk i)).mul (Q.scale 1 (-16)))
  | none => t

/-! ## One kept snapshot -/

/-- The snapshot area as the record of a slot has it: the values, with the descriptors that were not used excluded. -/
def calView (s : State) (blk slot : Nat) : State :=
  putWords s (snapAddr 0) ((List.range (counts s).k).flatMap (fun d =>
    [BitVec.ofInt 32 (keptZ s blk slot d), Word.ofN (if keptUsed s blk slot d then 0 else 2 ^ 28)]))

/-- The iterate x_s of a slot, clamped to the ranges of its columns (R212). -/
def iterateObj (s : State) (blk slot : Nat) : Nat := netPart s blk .iterates + slot * objUnits (columns s)
def iterate (s : State) (blk slot : Nat) : List Int :=
  ((objVec s (iterateObj s blk slot) (columns s)).zipIdx).map (fun e => (clampTo (colRange s e.2) e.1).1)

/-- Entries as a block would hold them (R205, R213): summed, scaled and rounded, with the bound that its certificate gives. -/
def closed (es : List Ent) : List (Nat × Nat × Q) × Q :=
  let l := es.foldl sumInto []
  let bound : Q := { n := ((l.map entBound).foldl max 0 : Nat), d := 2 ^ 32 }
  let e := bound.expFor 29
  (l.map (fun x => (x.row, x.col, Q.scale (Q.word { n := x.v, d := 2 ^ 32 } e) e)), bound)

/-- Weighted rows from assembled entries (R265). -/
def closedRows (s : State) (blk base rows : Nat) (es : List Ent) : List WRow :=
  let m := (colClasses s).flatMap (fun x =>
    let (l, b) := closed (es.filter (fun e => e.mat && base ≤ e.row && e.row < base + rows && x.1 ≤ e.col && e.col < x.1 + x.2))
    l.map (fun e => (e.1, e.2.1, e.2.2, b)))
  let (v, bv) := closed (es.filter (fun e => !e.mat && base ≤ e.row && e.row < base + rows))
  (List.range rows).map (fun r =>
    weighted s blk (base + r) ((m.filter (fun e => e.1 == base + r)).map (·.2))
      (((v.find? (fun e => e.1 == base + r)).map (·.2.2)).getD {}) bv false)

/-- The corrected value of a descriptor for the parameters as linearised. -/
def calZ (s : State) (blk slot d : Nat) : Q :=
  let z := Q.ofInt (keptZ s blk slot d)
  let i := (mdlW s 6 d 3).field 20 12
  match if i = 0xFFF then none else parOfEntry s blk i with
  | some p => z.sub (thetaOff s blk p)
  | none => z

/-- The weighted rows of a kept snapshot at its iterate and at θ (R265, R282). -/
def calRows (s : State) (blk slot : Nat) : List WRow :=
  let c := counts s
  let v := calView s blk slot
  let x := iterate s blk slot
  let at_ (j : Nat) : Int := x.getD j 0
  let rough (b : Nat) : Q := match parOfBranch s blk 0 b with
    | some i => thetaOf s blk i | none => Q.ofInt ((mdlW s 0 b 2).field 0 16)
  let hyd := (List.range c.m).flatMap (fun b =>
    let w0 := mdlW s 0 b 0
    hydEntries v (s.free + 16 * b) b (rough b) (at_ (w0.field 14 14)) (at_ (w0.field 0 14)) (at_ (c.n + b)))
  let inj := ((List.range c.ss).map (0, ·) ++ (List.range c.p).map (1, ·) ++ (List.range c.h).map (2, ·)).flatMap (fun (e : Nat × Nat) =>
    match injection v e.1 e.2 with
    | some j => injEntries v j (at_ j.col) (at_ (c.n + c.m + j.recv (at_ j.col)))
    | none => [])
  let th := (List.range c.m).flatMap (fun b =>
    branchEntries v b (at_ (c.n + b)) (toutOf s blk slot b) (at_ (c.n + c.m + (branchEnds v b (at_ (c.n + b))).1)))
  let meas := (List.range c.k).map (fun d =>
    match stateCol s d with
    | some col =>
      let w := weight s d
      let row := c.m + 2 * c.n + d
      let used := keptUsed s blk slot d
      let bound := closed ((measEntries v d col (at_ col)).filter (fun e => !e.mat))
      weighted s blk row [(col, if used then w else {}, w)]
        (if used then w.mul ((calZ s blk slot d).sub (Q.ofInt (at_ col))) else {}) bound.2 false
    | none => {})
  closedRows s blk 0 c.m hyd ++ closedRows s blk c.m c.n (hyd ++ inj) ++ closedRows s blk (c.m + c.n) c.n (th ++ inj) ++ meas

/-- The derivatives of a kept snapshot (R281) by row and parameter: ∂k/∂ROUGH in the momentum row, ∂Tout/∂ULOSS in the thermal row of
the downstream node, and -w in the measurement's row. -/
def calDerivs (s : State) (blk slot : Nat) : List Ent :=
  let c := counts s
  let x := iterate s blk slot
  (List.range (parCount s blk)).flatMap (fun i =>
    match parKind s blk i with
    | 0 => (parBranches s blk i).map (fun b => entPoint true b i (roughDeriv s b (thetaOf s blk i)))
    | 1 => (parBranches s blk i).map (fun b =>
        entPoint true (c.m + c.n + (branchEnds s b (x.getD (c.n + b) 0)).1) i (lossDeriv s blk slot b))
    | _ => ((stateMeas s).filter (fun d => (mdlW s 6 d 3).field 20 12 == parEntry s blk i)).map (fun d =>
        entPoint true (c.m + 2 * c.n + d) i (if keptUsed s blk slot d then (weight s d).neg else {})))

/-- Width of a parameter's range in its natural unit: µm, W/(m·K), or LSBs of the descriptors (R281). -/
def parWidth (s : State) (blk i : Nat) : Q :=
  let r := parRange s blk i
  if parKind s blk i = 1 then { n := r.2 - r.1, d := 65536 } else Q.ofInt (r.2 - r.1)

/-- What a row's entries change by per range width of each parameter, weighted (R281, R282): the derivatives times those of the row by
k, by Tout and by the offset, in the sign of the row's own entries (assumption 201). -/
def parTerms (s : State) (blk slot row : Nat) : List (Nat × Q) :=
  let c := counts s
  let x := iterate s blk slot
  let w := rowWeight s blk row
  let flow (b : Nat) : Q := q16 (x.getD (c.n + b) 0)
  let scaled (i : Nat) (v : Q) : Nat × Q := (i, (v.mul w).mul (parWidth s blk i))
  (List.range (parCount s blk)).flatMap (fun i =>
    match parKind s blk i with
    | 0 => if (parBranches s blk i).contains row && row < c.m then
        [scaled i ((roughDeriv s row (thetaOf s blk i)).mul ((flow row).mul (flow row).abs).neg)] else []
    | 1 => ((parBranches s blk i).filter (fun b => c.m + c.n + (branchEnds s b (x.getD (c.n + b) 0)).1 == row)).map (fun b =>
        scaled i ((lossDeriv s blk slot b).mul (flow b).abs))
    | _ =>
      let d := row - (c.m + 2 * c.n)
      if isMeasRow s row && (stateCol s d).isSome && (mdlW s 6 d 3).field 20 12 == parEntry s blk i then
        [scaled i (if keptUsed s blk slot d then weight s d else {})] else [])

/-- The rows with what their entries change by per parameter. -/
def jointRows (s : State) (blk slot : Nat) : List (WRow × List (Nat × Q)) :=
  ((calRows s blk slot).zipIdx).map (fun e => (e.1, parTerms s blk slot e.2))

/-- State by parameter, parameter by parameter, and the parameters' gradient (R282). -/
def crossTerms (l : List (WRow × List (Nat × Q))) : List Ent :=
  l.flatMap (fun r => r.1.h.flatMap (fun x => r.2.map (fun p => term true x.1 p.1 false (x.2.1.mul p.2) (x.2.2.mul p.2).abs)))
def parMatTerms (l : List (WRow × List (Nat × Q))) : List Ent :=
  l.flatMap (fun r => r.2.flatMap (fun p => r.2.map (fun q => entPoint true p.1 q.1 (p.2.mul q.2))))
def parVecTerms (l : List (WRow × List (Nat × Q))) : List Ent :=
  l.flatMap (fun r => r.2.map (fun p => term false p.1 0 false (p.2.mul r.1.v) (p.2.mul r.1.vb).abs))

/-- J of a kept snapshot, and the number of descriptors it used (R266, R272, R285). -/
def calChi (s : State) (blk slot : Nat) : Q :=
  let c := counts s
  let rows := calRows s blk slot
  Q.sum ((List.range c.k).map (fun d => let v := (rows.getD (c.m + 2 * c.n + d) {}).v; v.mul v))
def calUsed (s : State) (blk slot : Nat) : Nat := ((List.range (counts s).k).filter (keptUsed s blk slot)).length

/-! ## The bundle adjustment -/

/-- The calibration ends (R282 to R284). -/
def calEnd (s : State) (blk : Nat) : State := setBlkPart s blk 29 24 8 0

/-- The first call of a calibration takes θ from the active model and each x_s from its kept record (R282). -/
def calBegin (s : State) (blk : Nat) : Lib Unit :=
  let theta := (List.range (parCount s blk)).map (parNow s blk)
  let s := setWork (setBlkPart s blk 29 24 8 1) blk { getWork s blk with
    theta0 := theta, theta := theta, next := theta, unobs := [], unit := 0, small := false, calModel := fPart s 0x14 6 0 16 }
  libEach (fun slot s =>
    (libSpan false (keptAddr s blk slot) (32 * keptUnits s) s).bind fun s _ =>
      putObj (iterateObj s blk slot) (vecWords 0 ((List.range (columns s)).map (keptX s blk slot))) s) (List.range (keptCount s blk)) s

/-- Exponents of the reduced matrix and of its right-hand side: they hold what the snapshots' blocks permit in sum (assumption 200). -/
def reducedExp (s : State) (blk : Nat) : Int × Int :=
  let joint := (List.range (keptCount s blk)).map (jointRows s blk)
  let m := Q.sum (joint.map (fun l => (closed (parMatTerms l)).2))
  let v := Q.sum (joint.map (fun l => (closed (parVecTerms l)).2))
  (m.expFor 29, v.expFor 25)

/-- The sums of an iteration start at zero (R282). -/
def calClear (s : State) (blk : Nat) : Lib Unit :=
  let p := parCount s blk
  let (em, ev) := reducedExp s blk
  let zeros := List.replicate (p * p) 0
  let s := setWork s blk { getWork s blk with jNum := 0, jDen := 1, dfSum := 0 }
  if p = 0 then .ok s ()
  else
    (putObj (netPart s blk .dense) (denseWords em p p zeros) s).bind fun s _ =>
    (putObj (netPart s blk .denseSum) (denseWords em p p zeros) s).bind fun s _ =>
    (putObj (netPart s blk .ident) (denseWords 0 p p ((List.range p).flatMap (fun j => (List.range p).map (fun i => bit (i == j))))) s).bind
      fun s _ => putObj (netPart s blk .parSum) (vecWords ev (List.replicate p 0)) s

/-- Assembles a kept snapshot (R282): the derivatives, A_s with g_xs, B_s, and C_s with g_ts. -/
def calAssemble (s : State) (blk slot : Nat) : Lib Unit :=
  let c := counts s
  let n := columns s
  let p := parCount s blk
  let part := netPart s blk
  let joint := jointRows s blk slot
  (scatterGain n (part .calMat) (part .calVec) (joint.map (·.1)) s).bind fun s _ =>
  if p = 0 then .ok s ()
  else
    (libBlock false 0x20 (c.m + 2 * c.n + c.k) p (part .derivs) (calDerivs s blk slot) s).bind fun s _ =>
    (libBlock false 0x20 n p (part .cross) (crossTerms joint) s).bind fun s _ =>
    (libBlock false 0x20 p p (part .parMat) (parMatTerms joint) s).bind fun s _ =>
    libBlock true 0x22 p 1 (part .parVec) (parVecTerms joint) s

/-- C_s is added to the sum that the reduced job takes. -/
def sumParMat (s : State) (blk : Nat) : Lib Unit :=
  let p := parCount s blk
  let part := netPart s blk
  if p = 0 then .ok s ()
  else
    let e := oExp s (part .denseSum)
    let ws := (List.range p).flatMap (fun j => (List.range p).map (fun i =>
      clampS 32 (((denseAt s (part .denseSum) i j).add (matAt s (part .parMat) i j)).word e)))
    putObj (part .denseSum) (denseWords e p p ws) s

/-- The programs of the three kinds of jobs (R282). -/
def passOne (part : NetPart → Nat) (p : Nat) : List Line :=
  [mImm 1 1 0, mImm 2 (-1) 0, mFactor (part .calMat) (part .factor)] ++
  (if p = 0 then [] else
    [mSchur (part .factor) (part .cross) (part .dense), mAxpy 1 1 (part .parVec) (part .parSum) (part .parSum),
     mSolve (part .factor) (part .calVec) (part .calSol), mSpmv true 2 1 (part .cross) (part .calSol) (part .parSum)]) ++ [mEnd 0]
def reducedProg (part : NetPart → Nat) : List Line :=
  [mImm 1 1 0, mGemm 1 1 (part .denseSum) (part .ident) (part .dense), mChol (part .dense) (part .chol),
   mSolve (part .chol) (part .parSum) (part .step), mEnd 0]
def passTwo (part : NetPart → Nat) (p x : Nat) : List Line :=
  [mImm 1 1 0, mImm 2 (-1) 0, mFactor (part .calMat) (part .factor), mAxpy 1 0 (part .calVec) 0 (part .calTmp)] ++
  (if p = 0 then [] else [mSpmv false 2 1 (part .cross) (part .step) (part .calTmp)]) ++
  [mSolve (part .factor) (part .calTmp) (part .calSol), mAxpy 1 1 (part .calSol) x x, mEnd 0]

/-- Posts a unit's normal-priority job and waits for it (R282): its handle is kept, and a job that is not done ends the calibration. -/
def calJob (s : State) (blk : Nat) (p : List Line) (logN : Nat) : Lib Unit :=
  (netPrepare s blk .calProg .calLog logN p).bind fun s _ =>
    let part := netPart s blk
    let (s, h, e) := netJob s part false .calProg .calResult .calLog
    let s := setBlkPart s blk 27 16 16 h
    match e with
    | .done _ => .ok s ()
    | .timeout => .stop s (.status 0x13 none)
    | .failed _ => .stop s (.status 0x46 (some (given s (objAddr (part .calResult) + 4))))

/-- Pass 1 for a kept snapshot (R282); J and df are summed (R285). -/
def calPassOne (s : State) (blk slot : Nat) : Lib Unit :=
  (if slot = 0 then calClear s blk else .ok s ()).bind fun s _ =>
  (calAssemble s blk slot).bind fun s _ =>
  (sumParMat s blk).bind fun s _ =>
  (putObj (netPart s blk .calSol) (vecWords 0 (List.replicate (columns s) 0)) s).bind fun s _ =>
  (calJob s blk (passOne (netPart s blk) (parCount s blk)) (columns s)).bind fun s _ =>
    let c := counts s
    let w := getWork s blk
    let j := ({ n := w.jNum, d := w.jDen } : Q).add (calChi s blk slot)
    let u := ((logRows s (netPart s blk .calLog)).eraseDups).length
    let df := w.dfSum + (calUsed s blk slot : Int) - (c.ss + c.p + c.h + (blkW s blk 29).field 0 16 : Nat) + u
    let w := { w with jNum := j.n, jDen := j.d, dfSum := df }
    let w := if slot + 1 = keptCount s blk then
        { w with lastJ := uq8 j, firstJ := if (blkW s blk 29).field 24 8 = 1 then uq8 j else w.firstJ }
      else w
    .ok (setWork { s with free := s.free + 16 * (c.m + 1) } blk w) ()

/-- The reduced solve's step (R282): θ + dθ clipped to the ranges; an unobservable parameter keeps its model value. -/
def calReduced (s : State) (blk : Nat) : Lib Unit :=
  let p := parCount s blk
  let part := netPart s blk
  let update (s : State) (u : List Nat) : State :=
    let w := getWork s blk
    let step (i : Nat) : Q := if u.contains i then {} else Q.scale (oWord s (part .step) i) (oExp s (part .step))
    let next := (List.range p).map (fun i =>
      let r := parRange s blk i
      let moved := w.theta.getD i 0 + ((step i).mul (Q.ofInt (65536 * (r.2 - r.1)))).round
      if u.contains i then w.theta0.getD i 0 else max (65536 * r.1) (min (65536 * r.2) moved))
    let small := (List.range p).all (fun i => (step i).abs.lt (Q.scale (blkW s blk 21).toInt (-30)))
    setWork s blk { w with next := next, unobs := u, small := small }
  if p = 0 then .ok (update s []) ()
  else
    let chol := Word.ofN (0x43 * 2 ^ 8)
    (putObj (part .step) (vecWords (-20) (List.replicate p 0)) s).bind fun s _ =>
    (putObj (part .chol) [chol, Word.ofN p, Word.ofN p, 0, 0, 0, 0, 0] s).bind fun s _ =>
    (calJob s blk (reducedProg part) p).bind fun s _ => .ok (update s (logRows s (part .calLog)).eraseDups) ()

/-- Pass 2 for a kept snapshot (R282): x_s takes its step at the same linearisation. -/
def calPassTwo (s : State) (blk slot : Nat) : Lib Unit :=
  let part := netPart s blk
  let zeros := List.replicate (columns s) 0
  (calAssemble s blk slot).bind fun s _ =>
  (putObj (part .calSol) (vecWords 0 zeros) s).bind fun s _ =>
  (putObj (part .calTmp) (vecWords (oExp s (part .calVec) + 2) zeros) s).bind fun s _ =>
    calJob s blk (passTwo part (parCount s blk) (iterateObj s blk slot)) (columns s)

/-- The records of θ that would change the active model (R283, R285). -/
def calRecs (s : State) (blk : Nat) : List (Word × Word) :=
  let w := getWork s blk
  ((List.range w.theta.length).filter (fun i => !w.unobs.contains i)).flatMap (fun i =>
    ((parRecs s blk i (roundQ (w.theta.getD i 0) 65536)).filter (fun r => r.2.1 != r.2.2)).map (fun r => (r.1, r.2.1)))

/-- Parameters that the records change. -/
def calChanged (s : State) (blk : Nat) : Nat :=
  let w := getWork s blk
  ((List.range w.theta.length).filter (fun i => !w.unobs.contains i &&
    (parRecs s blk i (roundQ (w.theta.getD i 0) 65536)).any (fun r => r.2.1 != r.2.2))).length

/-- The patch of a proposal (R183, R285). -/
def calPatch (s : State) (rs : List (Word × Word)) : List Byte :=
  let d := leBytes 2 4 ++ leBytes 2 (fPart s 0x14 6 0 16) ++ leBytes 4 rs.length ++ leBytes 24 0 ++
    rs.flatMap (fun r => leBytes 4 r.1.toNat ++ leBytes 4 r.2.toNat)
  d ++ leBytes 4 (crc32c d).toNat

/-- The words of a list of bytes. -/
def toWords (d : List Byte) : List Word := (List.range (d.length / 4)).map (wordAt d)

/-- The proposal set, without the adoption record (R285). -/
def calPropose (s : State) (blk : Nat) (rs : List (Word × Word)) : Res :=
  let w := getWork s blk
  let s := setBlkW s blk 28 (blkW s blk 28 + 1)
  let p := calPatch s rs
  let df := w.dfSum - ((parCount s blk - w.unobs.length : Nat) : Int)
  let head : List Word :=
    [blkW s blk 28, Word.ofN (0x41 + (blkW s blk 29).field 24 8 * 2 ^ 8 + keptCount s blk * 2 ^ 16), Word.ofN (fPart s 0x14 6 0 16),
     Word.ofN (calChanged s blk), w.firstJ, w.lastJ, BitVec.ofInt 32 df, Word.ofN p.length]
  calReturn (calEnd (deliverSet s (outOfs (blkW s blk 20) / 4 + 16) (head ++ toWords p)) blk) blk 0x41 none

/-- The end of an iteration (R283). -/
def calIterEnd (s : State) (blk : Nat) : Res :=
  let s := setWork s blk { getWork s blk with theta := (getWork s blk).next, unit := 0 }
  let it := (blkW s blk 29).field 24 8
  if (getWork s blk).small then
    let rs := calRecs s blk
    if rs.isEmpty then calReturn (calEnd s blk) blk 0x42 none
    else if 4096 < rs.length then calReturn (calEnd s blk) blk 0x45 none
    else calPropose s blk rs
  else if (blkW s blk 19).field 24 8 ≤ it then calReturn (calEnd s blk) blk 0x43 none
  else calReturn (setBlkPart s blk 29 24 8 (it + 1)) blk 0x40 none

/-- One unit of work (R282): pass 1 over the kept snapshots, the reduced solve, pass 2 over them. A unit that cannot be done ends the
calibration. -/
def calUnit (s : State) (blk : Nat) : Res :=
  let u := (getWork s blk).unit
  let n := keptCount s blk
  let mat := s.asm.mat.isSome
  let vec := s.asm.vec.isSome
  match if u < n then calPassOne s blk u else if u = n then calReduced s blk else calPassTwo s blk (u - n - 1) with
  | .stop s e => libFinish (calEnd (libDrop mat vec s) blk) (estEvent s blk) e
  | .ok s _ =>
    if u + 1 = 2 * n + 1 then calIterEnd s blk
    else calReturn (setWork s blk { getWork s blk with unit := u + 1 }) blk 0x40 none

/-- `cal.step` after its checks (R282, R284): a change of the model ends the calibration and empties the ring. -/
def calStep (s : State) (blk : Nat) : Res :=
  let w := getWork s blk
  let active := (blkW s blk 29).field 24 8 ≠ 0
  if active ∧ w.calModel ≠ fPart s 0x14 6 0 16 then calReturn (setBlkPart (calEnd s blk) blk 27 0 16 0) blk 0x44 none
  else if !active ∧ keptCount s blk < 2 then calReturn s blk 0x44 none
  else
    let s := countComps s blk
    match if active then .ok s () else calBegin s blk with
    | .stop s e => libFinish (calEnd s blk) (estEvent s blk) e
    | .ok s _ => calUnit s blk

/-- The network library's entry `cal.step` (R262, R282). -/
def execCalStep (s : State) : Out :=
  done s (libCall s 0x30010 (fun blk s =>
    match libRefusal s blk ((blkW s blk 27).field 16 16) false with
    | some (st, d) => .ok (libReturn s st d)
    | none => calStep s blk))

end Sys2Proof.Machine
end

