-- ==== Sys2Proof/Machine/Horizon.lean ====
section
/-! DEFINITION. The dispatch library's problem: the block and its checks, the horizon, delays, bounds, rows and costs (R287 to R300). -/
namespace Sys2Proof.Machine

/-! ## The dispatch block -/

/-- A signed byte of a word. -/
def sByte (w : Word) (lo : Nat) : Int := (BitVec.ofNat 8 (w.field lo 8)).toInt

/-- The first word of a dispatch block that breaks R289. -/
def dspBad (s : State) (blk : Nat) : Option Nat :=
  let w (i : Nat) : Word := blkW s blk i
  let pos (i : Nat) : Bool := 0 < (w i).toInt
  let ok (i : Nat) : Bool :=
    match i with
    | 0 => (w 0).field 28 4 = 1 && (w 0).field 3 25 = 0 && (w 0).field 0 1 = 0
    | 1 => (w 1).field 24 8 = 0
    | 3 => (w 3).field 19 13 = 0 && 0x80000 ≤ outOfs (w 3) && outOfs (w 3) ≤ 0xFEF40 && (w 3).field 0 6 = 0
    | 4 => 60 ≤ (w 4).field 16 16 && (w 4).field 16 16 ≤ 3600 && 86400 % max 1 ((w 4).field 16 16) = 0 && (w 4).field 8 8 = 0 &&
        1 ≤ (w 4).field 0 8 && (w 4).field 0 8 ≤ 192
    | 5 => 1 ≤ (w 5).field 23 9 && (w 5).field 23 9 ≤ 256 && (w 5).field 18 5 = 0
    | 6 => (w 6).field 23 9 ≤ 256 && (w 6).field 18 5 = 0
    | 7 => (w 7).field 24 8 = 0
    | 8 => 1 ≤ (w 8).field 16 16 && 1 ≤ (w 8).field 8 8 && (w 8).field 8 8 ≤ 100 && (w 8).field 4 4 = 0
    | 9 => (w 9).field 24 8 = 0 && -24 ≤ sByte (w 9) 8 && sByte (w 9) 8 ≤ sByte (w 9) 0 && sByte (w 9) 0 ≤ sByte (w 9) 16 &&
        sByte (w 9) 16 ≤ 16
    | 10 => (w 10).field 8 24 = 0 && 4 ≤ (w 10).field 4 4 && 1 ≤ (w 10).field 0 4 && (w 10).field 0 4 ≤ 4
    | 11 => 131072 ≤ (w 11).toNat && (w 11).toNat ≤ 67108864
    | 12 => w 12 = 0
    | 13 => 2 ^ 30 ≤ (w 13).toNat && (w 13).toNat * 10 ≤ 19 * 2 ^ 30
    | 14 => pos 14 | 15 => pos 15 | 16 => pos 16
    | 17 => (w 17).field 26 6 = 0 && ((w 17).field 16 10 = 0 || (0x3C0 ≤ (w 17).field 16 10 && (w 17).field 16 10 ≤ 0x3DF)) &&
        1 ≤ (w 17).field 0 16
    | 18 => (w 18).field 16 16 = 0 && 1 ≤ (w 18).field 0 16
    | 19 => pos 19
    | 20 => (w 20).toNat ≤ 8
    | 21 => w 21 = 0 | 22 => w 22 = 0 | 23 => w 23 = 0
    | _ => true
  (List.range 24).find? (fun i => !ok i)

/-- Steps, step length and variables of a block. -/
def dspSteps (s : State) (blk : Nat) : Nat := (blkW s blk 4).field 0 8
def dspStepS (s : State) (blk : Nat) : Nat := (blkW s blk 4).field 16 16
def dspV (s : State) (blk : Nat) : Nat := (blkW s blk 5).field 23 9

/-- Word `i` of variable j's list entry (R291). -/
def varW (s : State) (blk j i : Nat) : Word := given s (mdlBase + (blkW s blk 5).field 0 18 + 12 * j + 4 * i)

/-- Kind, element and SID of a variable. -/
def varKind (s : State) (blk j : Nat) : Nat := (varW s blk j 0).field 28 4
def varElem (s : State) (blk j : Nat) : Nat := (varW s blk j 0).field 16 8
def varSid (s : State) (blk j : Nat) : Nat := (varW s blk j 0).field 0 14

/-- Word `i` of link row r (R299). -/
def rowW (s : State) (blk r i : Nat) : Word := given s (mdlBase + (blkW s blk 6).field 0 18 + 48 * r + 4 * i)

/-- Address of the forecast (R294). -/
def fcAddr (s : State) (blk : Nat) : Nat := 0x0800000000 + 32 * (blkW s blk 7).toNat

/-- Cluster c is marked cold (R294). -/
def coldCluster (s : State) (blk c : Nat) : Bool := (given s (fcAddr s blk + 12 + 4 * (c / 32))).tst (c % 32)

/-- KIND of a plant and of a store (R190, R191). -/
def plantKind (s : State) (p : Nat) : Nat := (mdlW s 3 p 0).field 28 3
def storeKind (s : State) (i : Nat) : Nat := (mdlW s 4 i 0).field 28 3

/-! ## Rows -/

/-- A coupling row of a step (R293): a balance, the ramp or the dynamics of the variable at an index of the list, or a link row. -/
inductive CRow where
  | heat | cold | elec
  | ramp (j : Nat)
  | dyn (j : Nat)
  | link (r : Nat)
deriving DecidableEq, Repr

/-- A variable takes part in the heat, in the cold or in the electric balance by its kind and element (R293, R296). -/
def inHeat (s : State) (blk j : Nat) : Bool :=
  let e := varElem s blk j
  match varKind s blk j with
  | 0 => plantKind s e != 1 | 1 => storeKind s e == 0 | 2 => storeKind s e == 0 | 3 => !coldCluster s blk e | _ => false
def inCold (s : State) (blk j : Nat) : Bool :=
  let e := varElem s blk j
  match varKind s blk j with
  | 0 => plantKind s e == 1 | 1 => storeKind s e == 2 | 2 => storeKind s e == 2 | 3 => coldCluster s blk e | _ => false
def inElec (s : State) (blk j : Nat) : Bool :=
  match varKind s blk j with
  | 1 => storeKind s (varElem s blk j) == 1 | 2 => storeKind s (varElem s blk j) == 1 | 5 => true | _ => false

/-- The coupling rows of a step, in order (R293). -/
def couplingRows (s : State) (blk : Nat) : List CRow :=
  let vs := List.range (dspV s blk)
  (if vs.any (inHeat s blk) then [.heat] else []) ++ (if vs.any (inCold s blk) then [.cold] else []) ++
    (if vs.any (inElec s blk) then [.elec] else []) ++
    (vs.filter (fun j => varKind s blk j == 0 || varKind s blk j == 2)).map (fun j => if varKind s blk j = 0 then .ramp j else .dyn j) ++
    (List.range ((blkW s blk 6).field 23 9)).map .link

/-- The dual SID of a coupling row (R293). -/
def CRow.sid (s : State) (blk : Nat) : CRow → Nat
  | .heat => 0xFF00
  | .cold => 0xFF01
  | .elec => 0xFF02
  | .ramp j => varSid s blk j + 0x8000
  | .dyn j => varSid s blk j + 0x8000
  | .link r => (rowW s blk r 0).field 0 16

/-- The dual SIDs of the coupling rows of a step (R293). -/
def couplingSids (s : State) (blk : Nat) : List Nat := (couplingRows s blk).map (CRow.sid s blk)

/-- A variable entry of the list that R292 refuses. -/
def varBad (s : State) (blk j : Nat) : Bool :=
  let c := counts s
  let kind := varKind s blk j
  let e := varElem s blk j
  let lim := [c.p, c.st, c.st, 64, c.pu, 1].getD kind 0
  let before := List.range j
  let others := (List.range (dspV s blk)).map (fun i => (varKind s blk i, varElem s blk i))
  lim ≤ e || before.any (fun i => varKind s blk i == kind && (varElem s blk i == e || kind == 5)) ||
    before.any (fun i => varSid s blk i == varSid s blk j) ||
    (kind == 1 && !others.contains (2, e)) || (kind == 2 && !others.contains (1, e))

/-- A link row that breaks R299. -/
def rowBad (s : State) (blk r : Nat) : Bool :=
  let w0 := rowW s blk r 0
  let n := w0.field 28 4
  !(1 ≤ n && n ≤ 8 && w0.field 16 12 == 0 && 0xC000 ≤ w0.field 0 16 && w0.field 0 16 ≤ 0xFEFF &&
    (rowW s blk r 1).toInt ≤ (rowW s blk r 2).toInt && rowW s blk r 11 == 0 &&
    !(List.range r).any (fun i => (rowW s blk i 0).field 0 16 == w0.field 0 16) &&
    (List.range 8).all (fun t => if t < n then (rowW s blk r (3 + t)).field 0 8 < dspV s blk && -64 ≤ sByte (rowW s blk r (3 + t)) 8 &&
      sByte (rowW s blk r (3 + t)) 8 ≤ 63 else rowW s blk r (3 + t) == 0))

/-- BAD_PARAM of a dispatch block: the failing word, or the naming word with an entry index (R287, R292, R299). -/
def dspParam (s : State) (blk : Nat) : Option Word :=
  match dspBad s blk with
  | some i => some (Word.ofN i)
  | none =>
    match (List.range (dspV s blk)).find? (varBad s blk) with
    | some j => some (Word.ofN (5 * 2 ^ 16 + j))
    | none =>
      match (List.range ((blkW s blk 6).field 23 9)).find? (rowBad s blk) with
      | some r => some (Word.ofN (6 * 2 ^ 16 + r))
      | none => if 512 < dspV s blk + (couplingSids s blk).length then some 5 else none

/-! ## The horizon -/

/-- Start of the horizon (R290). -/
def dspT0 (s : State) (blk : Nat) : Nat := s.asm.sec / max 1 (dspStepS s blk) * dspStepS s blk

/-- The forecast covers the horizon (R294). -/
def fcCovers (s : State) (blk : Nat) : Bool :=
  let d : Int := (dspT0 s blk % 2 ^ 32 : Nat) - ((given s (fcAddr s blk)).toNat : Int)
  let st : Int := dspStepS s blk
  0 ≤ d && d % st == 0 && d / st + dspSteps s blk ≤ ((given s (fcAddr s blk + 4)).toNat : Int)

/-- Row of the forecast that step k uses (R294). -/
def fcRow (s : State) (blk k : Nat) : Nat :=
  let j := (dspT0 s blk % 2 ^ 32 - (given s (fcAddr s blk)).toNat) / max 1 (dspStepS s blk)
  fcAddr s blk + 32 + 4 * (4 + 2 * (given s (fcAddr s blk + 8)).field 0 8) * (j + k)

/-- Delay of a cluster before the cap (R295): the Transit ages at its sub-stations' supply nodes, weighted by their flows. -/
def rawDelay (s : State) (blk c : Nat) : Nat :=
  let subs := (List.range (counts s).ss).filter (fun i => (mdlW s 2 i 2).field 26 6 == c)
  let age (i : Nat) : Nat := (given s (nodeRes ((mdlW s 2 i 0).field 14 14) + 4)).field 0 16
  let flow (i : Nat) : Nat := match snapVal s ((mdlW s 2 i 3).field 16 16) with | some q => q.toNat | none => 0
  let good := subs.filter (fun i => 0 < flow i)
  if subs.isEmpty then 0
  else if good.isEmpty then (roundQ ((subs.map age).sum) (subs.length * max 1 (dspStepS s blk))).toNat
  else (roundQ ((good.map (fun i => age i * flow i)).sum) ((good.map flow).sum * max 1 (dspStepS s blk))).toNat

/-- Delay of a cluster in steps (R295). -/
def delay (s : State) (blk c : Nat) : Nat := min (rawDelay s blk c) (dspSteps s blk - 1)

/-- Capacity of a store in Wh (R191). -/
def capWh (s : State) (i : Nat) : Q := { n := ((mdlW s 4 i 1).toNat + 2 ^ 32 * (mdlW s 4 i 2).toNat : Nat), d := 1000 }

/-- Reserve of a store in Wh. -/
def reserveWh (s : State) (i : Nat) : Q := (capWh s i).mul (Q.scale (mdlW s 4 i 5).toInt (-30))

/-- Initial energy of a store in Wh, and whether it is held (R297). -/
def energy0 (s : State) (blk i : Nat) : Q × Bool :=
  match snapVal s ((mdlW s 4 i 6).field 16 16) with
  | some v => ((capWh s i).mul (Q.scale v (-30)), false)
  | none =>
    match (getWork s blk).energy.find? (fun e => e.1 == i) with
    | some e => ({ n := e.2.1, d := e.2.2 }, true)
    | none => (reserveWh s i, true)

/-- Lower bound of a store's energy at step k (R297). -/
def energyLow (s : State) (blk j i k : Nat) : Q :=
  let n := dspSteps s blk
  let charge : Q := { n := (k + 1 : Nat) * (mdlW s 4 i 3).toInt * dspStepS s blk, d := 3600 }
  let floor := if k + 1 = n then (capWh s i).mul ((Q.scale (mdlW s 4 i 5).toInt (-30)).max (Q.scale (varW s blk j 2).toInt (-30)))
    else reserveWh s i
  floor.min ((energy0 s blk i).1.add charge)

/-- A word of the forecast row that step k uses (R294). -/
def fcW (s : State) (blk k i : Nat) : Word := given s (fcRow s blk k + 4 * i)

/-- Δh in hours (R290). -/
def stepH (s : State) (blk : Nat) : Q := { n := dspStepS s blk, d := 3600 }

/-- Bounds of a variable at step k in its natural unit (R291, R296, R297): W, Wh, or a ratio. -/
def natBounds (s : State) (blk j k : Nat) : Q × Q :=
  let e := varElem s blk j
  match varKind s blk j with
  | 0 => (Q.ofInt (mdlW s 3 e 1).toInt, Q.ofInt (mdlW s 3 e 2).toInt)
  | 1 => (Q.ofInt (-(mdlW s 4 e 3).toInt), Q.ofInt (mdlW s 4 e 4).toInt)
  | 2 => (energyLow s blk j e k, capWh s e)
  | 3 => ({}, if delay s blk e ≤ k then Q.ofInt (fcW s blk k (5 + 2 * e)).toInt else {})
  | 4 => (Q.scale (varW s blk j 1).toInt (-30), Q.ofInt 1)
  | _ => (Q.ofInt (-((varW s blk j 2).toNat : Int)), Q.ofInt (varW s blk j 1).toNat)

/-- The range that a variable's bounds have by its table values alone, where they have one (R301): the others' bounds are taken as they
are. -/
def tableRange (s : State) (blk j : Nat) : Option (Q × Q) :=
  match varKind s blk j with
  | 2 => some ({}, capWh s (varElem s blk j))
  | 3 => none
  | _ => some (natBounds s blk j 0)

/-- A variable's value as the proposal's word (R291, R309): W, a fraction of CAP, or a ratio. -/
def natWord (s : State) (blk j : Nat) (v : Q) : Int :=
  match varKind s blk j with
  | 2 => (v.div (capWh s (varElem s blk j))).word (-30)
  | 4 => v.word (-30)
  | _ => v.round

/-- A plant's power at the snapshot, none when it is excluded or absent (R298, R306). -/
def plantNow (s : State) (p : Nat) : Option Int := snapVal s ((mdlW s 3 p 7).field 16 16)

/-- Largest change of a plant's power in a step (R298). -/
def rampW (s : State) (blk p : Nat) : Q := { n := ((mdlW s 3 p 3).toNat * dspStepS s blk : Nat), d := 60 }

/-- Coefficients of a coupling row at step k (R296 to R299), by column: step × V + variable. -/
def rowCoef (s : State) (blk k : Nat) : CRow → List (Nat × Q)
  | .heat => balance (inHeat s blk)
  | .cold => balance (inCold s blk)
  | .elec => (List.range (dspV s blk)).filterMap (fun j =>
      if varKind s blk j = 0 then
        (if plantKind s (varElem s blk j) = 2 then some (at_ k j, Q.scale (varW s blk j 1).toInt (-30)) else none)
      else if inElec s blk j && varKind s blk j != 2 then some (at_ k j, Q.ofInt 1) else none)
  | .ramp j => (if k = 0 then [] else [(at_ (k - 1) j, Q.ofInt (-1))]) ++ [(at_ k j, Q.ofInt 1)]
  | .dyn j =>
    let power := (List.range (dspV s blk)).filter (fun i => varKind s blk i == 1 && varElem s blk i == varElem s blk j)
    (if k = 0 then [] else [(at_ (k - 1) j, (keepFactor j).neg)]) ++ [(at_ k j, Q.ofInt 1)] ++
      power.map (fun i => (at_ k i, stepH s blk))
  | .link r => (List.range ((rowW s blk r 0).field 28 4)).map (fun t =>
      let w := rowW s blk r (3 + t)
      (at_ k (w.field 0 8), Q.scale (BitVec.ofNat 16 (w.field 16 16)).toInt (sByte w 8)))
where
  /-- Column of a variable at a step. -/
  at_ (k j : Nat) : Nat := k * dspV s blk + j
  /-- What a store keeps of its energy over a step: 1 - λ·Δh. -/
  keepFactor (j : Nat) : Q := (Q.ofInt 1).sub ((Q.scale (varW s blk j 1).toInt (-30)).mul (stepH s blk))
  /-- The powers of a balance; a cluster's flexibility stands at the step at which the heat reaches it. -/
  balance (member : Nat → Bool) : List (Nat × Q) :=
    ((List.range (dspV s blk)).filter member).filterMap (fun j =>
      match varKind s blk j with
      | 2 => none
      | 3 =>
        let k' := k + delay s blk (varElem s blk j)
        if k' < dspSteps s blk then some (at_ k' j, Q.ofInt 1) else none
      | _ => some (at_ k j, Q.ofInt 1))

/-- The demand of the clusters that a balance serves, with its loss, at step k (R296). -/
def demand (s : State) (blk k : Nat) (cold : Bool) : Int :=
  let n := (given s (fcAddr s blk + 8)).field 0 8
  let cs := (List.range n).filter (fun c => coldCluster s blk c == cold)
  (cs.map (fun c => (fcW s blk (min (k + delay s blk c) (dspSteps s blk - 1)) (4 + 2 * c)).toInt)).sum +
    (fcW s blk k (if cold then 3 else 2)).toInt

/-- Bounds of a coupling row at step k, and their widest range (R296 to R299, R301). -/
def rowBounds (s : State) (blk k : Nat) : CRow → (Q × Q) × (Q × Q)
  | .heat => exact (Q.ofInt (demand s blk k false))
  | .cold => exact (Q.ofInt (demand s blk k true))
  | .elec => exact (Q.ofInt (fcW s blk k 0).toInt)
  | .ramp j =>
    let p := varElem s blk j
    let r := rampW s blk p
    if 0 < k then ((r.neg, r), (r.neg, r))
    else
      let d := (mdlW s 3 p 7).field 16 16
      let range : Q × Q := if d = 0xFFFF then natBounds s blk j 0
        else (Q.ofInt (mdlW s 6 d 1).toInt, Q.ofInt (mdlW s 6 d 2).toInt)
      let wide := (range.1.sub r, range.2.add r)
      match plantNow s p with
      | some u => (((Q.ofInt u).sub r, (Q.ofInt u).add r), wide)
      | none => (wide, wide)
  | .dyn j =>
    let e := varElem s blk j
    if k = 0 then
      let v := (rowCoef.keepFactor s blk j).mul (energy0 s blk e).1
      ((v, v), ((capWh s e).neg, capWh s e))
    else exact {}
  | .link r =>
    let b : Q × Q := (Q.ofInt (rowW s blk r 1).toInt, Q.ofInt (rowW s blk r 2).toInt)
    (b, b)
where
  /-- A row whose bounds are one value. -/
  exact (v : Q) : (Q × Q) × (Q × Q) := ((v, v), (v, v))

/-! ## The objective -/

/-- Cost of a variable at step k (R300): per natural unit, and per its square. -/
def costOf (s : State) (blk j k : Nat) : Q × Q :=
  let e := varElem s blk j
  let h := stepH s blk
  let cost (w : Word) (d : Nat) : Q := (q16 w.toInt).mul (h.mul { n := 1, d := d })
  match varKind s blk j with
  | 0 => (cost (mdlW s 3 e 4) (10 ^ 6), cost (mdlW s 3 e 5) (10 ^ 12))
  | 3 => (cost (varW s blk j 1) (10 ^ 6), {})
  | 4 => ({}, cost (varW s blk j 2) 1)
  | 5 => (cost (fcW s blk k 1) (10 ^ 6), {})
  | _ => ({}, {})

/-- The objective of a plan in natural units (R300). -/
def objective (s : State) (blk : Nat) (x : List Q) : Q :=
  Q.sum ((x.zipIdx).map (fun e =>
    let v := max 1 (dspV s blk)
    let c := costOf s blk (e.2 % v) (e.2 / v)
    (c.1.mul e.1).add (c.2.mul (e.1.mul e.1))))

/-! ## The cold point -/

/-- Energies that follow the dynamics from E0 without power (R306). -/
def coldEnergy (s : State) (blk j : Nat) : Nat → Q
  | 0 => (rowCoef.keepFactor s blk j).mul (energy0 s blk (varElem s blk j)).1
  | k + 1 => (rowCoef.keepFactor s blk j).mul (coldEnergy s blk j k)

/-- The cold point of a variable other than the grid's (R306). -/
def coldValue (s : State) (blk j k : Nat) : Q :=
  let b := natBounds s blk j k
  match varKind s blk j with
  | 0 => match plantNow s (varElem s blk j) with | some u => b.1.max ((Q.ofInt u).min b.2) | none => b.1
  | 2 => coldEnergy s blk j k
  | 4 => b.1
  | _ => {}

/-- The cold point of a step (R306): the grid takes the electric balance, clipped to its bounds. -/
def coldStep (s : State) (blk k : Nat) : List Q :=
  (List.range (dspV s blk)).map (fun j =>
    if varKind s blk j = 5 then
      let used := Q.sum ((rowCoef s blk k .elec).map (fun e => e.2.mul (coldValue s blk (e.1 % max 1 (dspV s blk)) k)))
      let b := natBounds s blk j k
      b.1.max (((Q.ofInt (fcW s blk k 0).toInt).sub used).min b.2)
    else coldValue s blk j k)

/-! ## The warm start -/

/-- The primal and dual identifiers of the problem: the step in [23:16], the SID in [15:0] (R249, R293). -/
def dspIds (s : State) (blk : Nat) : List Nat × List Nat :=
  let v := (List.range (dspV s blk)).map (varSid s blk)
  let each (l : List Nat) : List Nat := (List.range (dspSteps s blk)).flatMap (fun k => l.map (fun x => k * 65536 + x))
  (each v, each (v ++ couplingSids s blk))

/-- The shift of the warm start, none when `ag.ld` is not executed (R306). -/
def warmShift (s : State) (blk : Nat) : Option Nat :=
  let t0 := dspT0 s blk % 2 ^ 32
  let last := (blkW s blk 26).toNat
  if (blkW s blk 0).tst 1 ∨ last = 0 ∨ t0 < last ∨ (t0 - last) % max 1 (dspStepS s blk) ≠ 0 then none
  else
    let n := (t0 - last) / max 1 (dspStepS s blk)
    if dspSteps s blk ≤ n then none else some n

end Sys2Proof.Machine
end

