-- ==== Sys2Proof/Machine/Admm.lean ====
section
/-! DEFINITION. The dispatch library's run: the scaled problem and its blocks, the ADMM jobs, the polish and the proposal set (R301 to
R312). The layout of the work region, the scales and the exponents of the vectors that R301 does not declare are the library's own
(assumptions 200 and 203). -/
namespace Sys2Proof.Machine

/-! ## The scaled problem -/

/-- One unit of a variable's column: the largest magnitude of its range; 1 MW of a cluster's flexibility, whose bound is a forecast. -/
def varSize (s : State) (blk j : Nat) : Q :=
  let r := (tableRange s blk j).getD ({}, Q.ofInt 1000000)
  let m := r.1.abs.max r.2.abs
  if m.n = 0 then Q.ofInt 1 else m

/-- A row in its own scale (R304): entries by column, bounds, and their widest range. -/
structure DspRow where
  coef : List (Nat × Q) := []
  b : Q × Q := ({}, {})
  wide : Q × Q := ({}, {})
deriving DecidableEq, Repr

/-- Divides the two ends of a range. -/
def perUnit (u : Q) (r : Q × Q) : Q × Q := (r.1.div u, r.2.div u)

/-- The bound row of variable j at step k (R293). -/
def boundRow (s : State) (blk k j : Nat) : DspRow :=
  let u := varSize s blk j
  let b := natBounds s blk j k
  { coef := [(k * dspV s blk + j, Q.ofInt 1)], b := perUnit u b, wide := perUnit u ((tableRange s blk j).getD b) }

/-- A coupling row at step k; its scale is the largest magnitude that its entries permit. -/
def scaledRow (s : State) (blk k : Nat) (c : CRow) : DspRow :=
  let l := (rowCoef s blk k c).map (fun e => (e.1, e.2.mul (varSize s blk (e.1 % max 1 (dspV s blk)))))
  let sum := Q.sum (l.map (fun e => e.2.abs))
  let r := if sum.n = 0 then Q.ofInt 1 else sum
  let (b, wide) := rowBounds s blk k c
  { coef := l.map (fun e => (e.1, e.2.div r)), b := perUnit r b, wide := perUnit r wide }

/-- All rows, step by step: the bound rows, then the coupling rows. -/
def dspRows (s : State) (blk : Nat) : List DspRow :=
  (List.range (dspSteps s blk)).flatMap (fun k =>
    (List.range (dspV s blk)).map (boundRow s blk k) ++ (couplingRows s blk).map (scaledRow s blk k))

/-- Columns and rows of the problem. -/
def dspN (s : State) (blk : Nat) : Nat := dspSteps s blk * dspV s blk
def dspM (s : State) (blk : Nat) : Nat := dspSteps s blk * (dspV s blk + (couplingRows s blk).length)

/-- One unit of the costs: the largest magnitude of a gradient that the cost parameters permit; prices, being forecasts, are left out. -/
def costUnit (s : State) (blk : Nat) : Q :=
  let one (j : Nat) : Q :=
    let c := costOf s blk j 0
    let u := varSize s blk j
    ((c.1.mul u).abs).add (((c.2.mul (u.mul u)).mul (Q.ofInt 2)).abs)
  let m := (((List.range (dspV s blk)).filter (fun j => varKind s blk j != 5)).map one).foldl Q.max {}
  if m.n = 0 then Q.ofInt 1 else m

/-- The scaled costs by column: the entry of q and the diagonal entry of P. -/
def dspCosts (s : State) (blk : Nat) : List (Q × Q) :=
  let cu := costUnit s blk
  (List.range (dspSteps s blk)).flatMap (fun k => (List.range (dspV s blk)).map (fun j =>
    let c := costOf s blk j k
    let u := varSize s blk j
    ((c.1.mul u).div cu, ((c.2.mul (u.mul u)).mul (Q.ofInt 2)).div cu)))

/-! ## The work region -/

/-- The parts of the dispatch library's work region. -/
inductive DspPart where
  | xAcc | cost | grad | rows | bounds | kkt
  | x | y | z | yOld | low | up | posB | negB | one | iter | rhoLow | rhoHigh | ids | selX | selV | rho | rhoInv
  | t1 | t2 | rhs | sol | xh | v | dv | zh | zr | wz | dz | rp | ax | px | ay | rd | dy | ady | pos | neg
  | prog | result
  | polMat | polX | polY | polB | polRx | polRy | polRhs | polSol | polFix | polSelX | polSelY
  | factors
deriving DecidableEq, Repr

/-- Their sizes; the three factors share what the region holds. -/
def dspSizes (s : State) (blk : Nat) : List Nat :=
  let n := dspN s blk
  let m := dspM s blk
  let vec := objUnits
  let sel (k : Nat) : Nat := objUnits (3 * k + 1)
  [vec n, matUnits s n, vec n, matUnits s n, vec (2 * m), matUnits s (n + m),
   vec n, vec m, vec m, vec m, vec m, vec m, vec (2 * m), vec (2 * m), vec 1, vec 1, vec 1, vec 1, vec (n + m),
   sel n, sel m, sel m, sel m,
   vec n, vec m, vec (n + m), vec (n + m), vec n, vec m, vec m, vec m, vec m, vec m, vec m, vec m, vec m, vec n, vec n, vec n, vec m, vec n,
   vec m, vec m,
   progUnits, 2,
   matUnits s (n + m), vec n, vec m, vec m, vec n, vec m, vec (n + m), vec (n + m), vec (n + m), sel n, sel m,
   3 * factUnits (n + m) 0]

/-- Object address of a part. -/
def dspPart (s : State) (blk : Nat) (p : DspPart) : Nat := partAt s blk (dspSizes s blk) p.ctorIdx

/-- Object address of a factor: 0 and 1 hold a KKT factor, 2 the polish's. -/
def dspFactor (s : State) (blk f : Nat) : Nat :=
  dspPart s blk .factors + f * ((regionRest s blk (dspSizes s blk) DspPart.factors.ctorIdx) / 3)

/-- Readies a factor of order n. -/
def dspPutFactor (s : State) (blk f n : Nat) : Lib Unit :=
  putFactor (dspFactor s blk f) n (factCap s blk (dspSizes s blk) DspPart.factors.ctorIdx 3 n) s

/-! ## Assembly -/

/-- The smallest interval around a range and a value. -/
def hullIv (r : Q × Q) (v : Q) : Iv := { lo := r.1.min v, hi := r.2.max v }

/-- P, q, A and the bounds (R301). -/
def dspAssemble (s : State) (blk : Nat) : Lib Unit :=
  let n := dspN s blk
  let m := dspM s blk
  let rows := dspRows s blk
  let costs := dspCosts s blk
  let part := dspPart s blk
  let bound (r : DspRow) (i : Nat) (v : Q) : Ent := ent false i 0 v (hullIv r.wide v)
  (libBlock false 0x10 n n (part .cost) ((costs.zipIdx).map (fun e => entPoint true e.2 e.2 e.1.2)) s).bind fun s _ =>
  (libBlock true 0x11 n 1 (part .grad) ((costs.zipIdx).map (fun e => entPoint false e.2 0 e.1.1)) s).bind fun s _ =>
  (libBlock false 0x12 m n (part .rows) ((rows.zipIdx).flatMap (fun e => e.1.coef.map (fun a => entPoint true e.2 a.1 a.2))) s).bind fun s _ =>
  libBlock true 0x13 (2 * m) 1 (part .bounds)
    ((rows.zipIdx).map (fun e => bound e.1 e.2 e.1.b.1) ++ (rows.zipIdx).map (fun e => bound e.1 (m + e.2) e.1.b.2)) s

/-- The equality rows: those whose bounds are one word (R301). -/
def eqRows (s : State) (blk : Nat) : List Bool :=
  let o := dspPart s blk .bounds
  let m := dspM s blk
  (List.range m).map (fun i => oWord s o i == oWord s o (m + i))

/-- EQ_SHIFT (R289). -/
def eqShift (s : State) (blk : Nat) : Nat := (blkW s blk 10).field 4 4

/-- Exponent of ρᵢ of a row (R301). -/
def rowRho (s : State) (blk : Nat) (r : Int) (eq : Bool) : Int := if eq then r + eqShift s blk else r

/-- Exponent of σ for the entries of the KKT block: 2^-20 of the block's scale (R301). -/
def sigmaExp (costs : List (Q × Q)) (rows : List DspRow) (r : Int) : Int :=
  let p := (costs.map (·.2.abs)).foldl Q.max {}
  let a := (rows.flatMap (fun x => x.coef.map (·.2.abs))).foldl Q.max {}
  let e := ((p.max a).max (Q.scale 1 (-r))).expFor 29
  if (Q.scale 1 (e + 29)).lt (p.add (Q.scale 1 (e + 9))) then e + 10 else e + 9

/-- Entries of the KKT block's lower triangle (R301). -/
def kktEnts (s : State) (blk : Nat) (r : Int) : List Ent :=
  let n := dspN s blk
  let rows := dspRows s blk
  let costs := dspCosts s blk
  let sig := Q.scale 1 (sigmaExp costs rows r)
  let inv (eq : Bool) : Q := (Q.scale 1 (-(rowRho s blk r eq))).neg
  (costs.zipIdx).map (fun e => entPoint true e.2 e.2 (e.1.2.add sig)) ++
    (rows.zipIdx).flatMap (fun e => e.1.coef.map (fun a => entPoint true (n + e.2) a.1 a.2)) ++
    ((eqRows s blk).zipIdx).map (fun e => ent true (n + e.2) (n + e.2) (inv e.1) { lo := inv false, hi := inv true })

/-- The KKT block for ρ = 2^r. -/
def kktAssemble (s : State) (blk : Nat) (r : Int) : Lib Unit :=
  let k := dspN s blk + dspM s blk
  libBlock false 0x10 k k (dspPart s blk .kkt) (kktEnts s blk r) s

/-- The CRC that is kept with the factor: over the KKT block but for its snapshot number, which changes with every run (R305, assumption
202). -/
def kktCrc (s : State) (blk : Nat) : Word :=
  let o := dspPart s blk .kkt
  crc32c (memBytes s (objAddr o) 24 ++ memBytes s (objAddr o + 32) (oBody s o))

/-! ## The vectors -/

/-- Exponent of x and z (R301), and of q where a block of zeros has a scale of its own. -/
def xExp (s : State) (blk : Nat) : Int := oExp s (dspPart s blk .bounds) + 2
def gradExp (s : State) (blk : Nat) : Int :=
  let o := dspPart s blk .grad
  if oHdr s o 4 = 0 then -29 else oExp s o

/-- Vectors of zeros: part, exponent, rows. -/
def putZeros (s : State) (blk : Nat) (l : List (DspPart × Int × Nat)) : Lib Unit :=
  libEach (fun (x : DspPart × Int × Nat) s => putObj (dspPart s blk x.1) (vecWords x.2.1 (List.replicate x.2.2 0)) s) l s

/-- A diagonal matrix. -/
def diagWords (e : Int) (ws : List Int) : List Word := sparseWords e ws.length ((ws.zipIdx).map (fun w => [(w.2, w.1)]))

/-- A matrix that puts entry j of a vector into row `rows[j]` of k; none where the list has none. -/
def selectWords (k : Nat) (rows : List (Option Nat)) : List Word :=
  sparseWords 0 k (rows.map (fun r => match r with | some i => [(i, 1)] | none => []))

/-- The ID map (R249, R293). -/
def mapWords (s : State) (blk : Nat) : List Word :=
  let (p, d) := dspIds s blk
  let ids := (p ++ d).map Word.ofN
  let head := [Word.ofN (0x45 * 2 ^ 8), Word.ofN p.length, Word.ofN d.length, Word.ofN (dspPart s blk .kkt), Word.ofN (dspSteps s blk), 0, 0]
  head ++ crc32c (wordBytes (head ++ ids)) :: ids

/-- The cold point in the scaled problem (R306). -/
def coldPoint (s : State) (blk : Nat) : List Q :=
  (List.range (dspSteps s blk)).flatMap (fun k => ((coldStep s blk k).zipIdx).map (fun e => e.1.div (varSize s blk e.2)))

/-- A run in progress. -/
structure DspRun where
  /-- exponent of ρ, and of y -/
  rho : Int := 0
  ey : Int := 0
  /-- ρ changes and iterations of the run -/
  changes : Nat := 0
  iters : Nat := 0
  /-- outcome of the warm start, and shift of `ag.ld` while no job has run -/
  warm : Nat := 0
  shift : Option Nat := none
  /-- a job has been posted; its handle -/
  ran : Bool := false
  handle : Nat := 0
  /-- factor object in use, and whether it holds the factor of the KKT block -/
  slot : Bool := false
  ready : Bool := false
deriving DecidableEq, Repr

/-- What does not change in a run: x, y and z at the cold point, the bounds apart, the selections, the ID map (R306). -/
def dspStart (s : State) (blk : Nat) (r : DspRun) : Lib Unit :=
  let n := dspN s blk
  let m := dspM s blk
  let part := dspPart s blk
  let ex := xExp s blk
  let eb := oExp s (part .bounds)
  let ws := objVec s (part .bounds) (2 * m)
  let big : Int := 2 ^ 31 - 1
  (putObj (part .x) (vecWords ex (atExp ex (coldPoint s blk))) s).bind fun s _ =>
  (putZeros s blk [(.y, r.ey, m), (.z, ex, m), (.yOld, r.ey, m), (.iter, 0, 1), (.rhoLow, -24, 1), (.rhoHigh, -14, 1)]).bind fun s _ =>
  (putObj (part .low) (vecWords eb (ws.take m)) s).bind fun s _ =>
  (putObj (part .up) (vecWords eb (ws.drop m)) s).bind fun s _ =>
  (putObj (part .posB) (vecWords (r.ey + 1) (List.replicate m 0 ++ List.replicate m big)) s).bind fun s _ =>
  (putObj (part .negB) (vecWords (r.ey + 1) (List.replicate m (-big) ++ List.replicate m 0)) s).bind fun s _ =>
  (putObj (part .one) (vecWords 0 [1]) s).bind fun s _ =>
  (putObj (part .ids) (mapWords s blk) s).bind fun s _ =>
  (putObj (part .selX) (selectWords (n + m) ((List.range n).map some)) s).bind fun s _ =>
  putObj (part .selV) (selectWords (n + m) ((List.range m).map (fun i => some (n + i)))) s

/-- What goes with ρ: its matrices and the exponents of the temporaries. -/
def dspTemps (s : State) (blk : Nat) (r : DspRun) : Lib Unit :=
  let n := dspN s blk
  let m := dspM s blk
  let part := dspPart s blk
  let e : Int := eqShift s blk
  let up : Int := 2 ^ (eqShift s blk)
  let eq := eqRows s blk
  let ex := xExp s blk
  let ey := r.ey
  let eq' := gradExp s blk
  let e1 := max eq' (ex + sigmaExp (dspCosts s blk) (dspRows s blk) r.rho) + 1
  let e2 := max ex (ey - r.rho)
  (putObj (part .rho) (diagWords r.rho (eq.map (fun b => if b then up else 1))) s).bind fun s _ =>
  (putObj (part .rhoInv) (diagWords (-r.rho - e) (eq.map (fun b => if b then 1 else up))) s).bind fun s _ =>
  putZeros s blk [(.t1, e1, n), (.t2, e2, m), (.rhs, max e1 e2, n + m), (.sol, max ex ey, n + m), (.xh, ex, n), (.v, ey, m), (.dv, ey + 1, m),
    (.zh, ex, m), (.zr, ex, m), (.wz, e2 + 1, m), (.dz, ex + 1, m), (.rp, ex + 1, m), (.ax, ex, m), (.px, ex, n), (.ay, ey + 4, n),
    (.rd, max eq' (ey + 4) + 1, n), (.dy, ey + 1, m), (.ady, ey + 5, n), (.pos, ey + 1, m), (.neg, ey + 1, m)]

/-! ## The program of an ADMM job -/

/-- One iteration (R303). Registers: s1 = 1, s2 = -1, s3 = σ, s4 = α, s5 = 1 - α. -/
def iterOps (part : DspPart → Nat) (fact : Nat) : List Line :=
  [mAxpy 3 2 (part .x) (part .grad) (part .t1),
   mAxpy 1 0 (part .z) 0 (part .t2), mSpmv false 2 1 (part .rhoInv) (part .y) (part .t2),
   mSpmv false 1 0 (part .selX) (part .t1) (part .rhs), mSpmv false 1 1 (part .selV) (part .t2) (part .rhs),
   mSolve fact (part .rhs) (part .sol),
   mSpmv true 1 0 (part .selX) (part .sol) (part .xh), mSpmv true 1 0 (part .selV) (part .sol) (part .v),
   mAxpy 1 2 (part .v) (part .y) (part .dv),
   mAxpy 1 0 (part .z) 0 (part .zh), mSpmv false 1 1 (part .rhoInv) (part .dv) (part .zh),
   mAxpy 4 5 (part .xh) (part .x) (part .x),
   mAxpy 4 5 (part .zh) (part .z) (part .zr),
   mAxpy 1 0 (part .zr) 0 (part .wz), mSpmv false 1 1 (part .rhoInv) (part .y) (part .wz),
   mClip 11 (part .wz) (part .bounds) (part .z),
   mAxpy 1 2 (part .zr) (part .z) (part .dz),
   mSpmv false 1 1 (part .rho) (part .dz) (part .y)]

/-- Labels of the program, and the result codes of its ends. -/
def lIter : Nat := 0
def lCheck : Nat := 1
def lNext : Nat := 2
def lGoOn : Nat := 3
def lNoInf : Nat := 4
def lRun : Nat := 5
def lEnd (code : Nat) : Nat := 16 + code
def cConverged : Nat := 1
def cInfeasible : Nat := 2
def cUp : Nat := 3
def cDown : Nat := 4
def cLimit : Nat := 5
def cAgain : Nat := 6
def cRestored : Nat := 7

/-- `ag.ld` and `ag.st` of the problem's vectors (R306). -/
def mAg (op shift : Nat) (part : DspPart → Nat) : Line :=
  .op { op := op, mod_ := shift, sd := 11, a := part .x, b := part .y, d := part .ids }

/-- A parameter in Q1.30 as a scalar. -/
def mParam (s : State) (blk sd i : Nat) : Line := mImm sd (blkW s blk i).toNat (-30)

/-- Goes on unless the residual in s`r` is at most EPS_ABS + EPS_REL times the norm in s`n` (R304). -/
def withinOps (s : State) (blk r n : Nat) : List Line :=
  [mParam s blk 15 15, mSc 2 15 n 15, mParam s blk 11 14, mSc 0 15 11 15, mBr 0 15 r lGoOn]

/-- A change of ρ that is open to the run, up or down: the exponent that it leads to (R305). -/
def rhoChange (s : State) (blk : Nat) (r : DspRun) (up : Bool) : Option Int :=
  let step : Int := (blkW s blk 10).field 0 4
  let to_ := max (sByte (blkW s blk 9) 8) (min (sByte (blkW s blk 9) 16) (if up then r.rho + step else r.rho - step))
  if to_ ≠ r.rho ∧ r.changes < (blkW s blk 8).field 0 4 then some to_ else none

/-- A check: the residuals and the tests in order (R304, R305). s9 = rp, s10 = sp, s13 = rd, s14 = sd. -/
def checkOps (s : State) (blk : Nat) (r : DspRun) (part : DspPart → Nat) : List Line :=
  [mSpmv false 1 0 (part .rows) (part .x) (part .ax), mAxpy 1 2 (part .ax) (part .z) (part .rp),
   mMax 9 (part .rp), mMax 10 (part .ax), mMax 11 (part .z), mSc 6 10 11 10,
   mSpmv false 1 0 (part .cost) (part .x) (part .px), mSpmv true 1 0 (part .rows) (part .y) (part .ay),
   mAxpy 1 1 (part .px) (part .grad) (part .rd), mAxpy 1 1 (part .rd) (part .ay) (part .rd),
   mMax 13 (part .rd), mMax 14 (part .px), mMax 11 (part .ay), mSc 6 14 11 14, mMax 11 (part .grad), mSc 6 14 11 14] ++
  withinOps s blk 9 10 ++ withinOps s blk 13 14 ++
  [mImm 13 0 0, mImm 14 0 0, mImm 15 0 0, mAg 0x10 0 part, mBr 4 0 0 (lEnd cConverged),
   .label lGoOn,
   mAxpy 1 2 (part .y) (part .yOld) (part .dy), mAxpy 1 0 (part .y) 0 (part .yOld),
   mMax 11 (part .dy), mParam s blk 15 16, mSc 2 11 15 11,
   mSpmv true 1 0 (part .rows) (part .dy) (part .ady), mMax 15 (part .ady), mBr 0 11 15 lNoInf,
   mClip 7 (part .dy) (part .posB) (part .pos), mClip 7 (part .dy) (part .negB) (part .neg),
   mDot 15 (part .up) (part .pos), mDot 7 (part .low) (part .neg), mSc 0 15 7 15, mSc 2 11 2 11, mBr 0 15 11 (lEnd cInfeasible),
   .label lNoInf,
   mSc 3 9 10 9, mSc 3 13 14 13, mImm 11 (blkW s blk 11).toNat (-16)] ++
  (if (rhoChange s blk r true).isSome then [mSc 2 11 13 15, mBr 0 15 9 (lEnd cUp)] else []) ++
  (if (rhoChange s blk r false).isSome then [mSc 2 11 9 15, mBr 0 15 13 (lEnd cDown)] else []) ++
  [mImm 11 ((blkW s blk 8).field 16 16 : Nat) 0, mBr 1 6 11 (lEnd cLimit), mImm 7 ((blkW s blk 8).field 8 8 : Nat) 0, mBr 4 0 0 lNext]

/-- The load of the warm start in the first job (R306): with another ρ than that of the KKT block the job ends, and names it. -/
def warmOps (r : DspRun) (part : DspPart → Nat) : List Line :=
  match r.shift with
  | none => []
  | some n =>
    [mAg 0xF n part, mImm 9 1 r.rho, mBr 2 12 9 lRun,
     mSc 6 12 0 15, mImm 14 1 6, mSc 5 15 14 14, mAxpy 14 0 (part .one) 0 (part .rhoLow),
     mImm 14 1 16, mSc 5 15 14 14, mAxpy 14 0 (part .one) 0 (part .rhoHigh), mEnd cRestored, .label lRun]

/-- The end of a job with a code: it leaves the run's iterations. -/
def endOps (part : DspPart → Nat) (code : Nat) : List Line :=
  [.label (lEnd code), mAxpy 6 0 (part .one) 0 (part .iter), mEnd code]

/-- The program of an ADMM job (R302 to R306): at most 100 iterations, s8 of them left, s7 to the next check, s6 done in the run. -/
def admmProg (s : State) (blk : Nat) (r : DspRun) : List Line :=
  let part := dspPart s blk
  let fact := dspFactor s blk (bit r.slot)
  let every := (blkW s blk 8).field 8 8
  let alpha : Int := (blkW s blk 13).toNat
  [mImm 1 1 0, mImm 2 (-1) 0, mImm 3 1 (sigmaExp (dspCosts s blk) (dspRows s blk) r.rho), mImm 4 alpha (-30), mImm 5 (2 ^ 30 - alpha) (-30),
   mImm 6 r.iters 0, mImm 7 (every - r.iters % max 1 every : Nat) 0, mImm 8 100 0, mImm 12 1 r.rho] ++ warmOps r part ++
  (if r.iters = 0 then
    [mSpmv false 1 0 (part .rows) (part .x) (part .z), mClip 11 (part .z) (part .bounds) (part .z), mAxpy 1 0 (part .y) 0 (part .yOld)]
   else []) ++
  (if r.ready then [] else [mFactor (part .kkt) fact]) ++
  [.label lIter] ++ iterOps part fact ++
  [mSc 0 6 1 6, mSc 1 7 1 7, mSc 1 8 1 8, mBr 2 7 0 lCheck, .label lNext, mBr 3 8 0 lIter] ++ endOps part cAgain ++
  [.label lCheck] ++ checkOps s blk r part ++
  [cConverged, cInfeasible, cUp, cDown, cLimit].flatMap (endOps part)

/-! ## The ADMM jobs -/

/-- The KKT block for the run's ρ; a factor that belongs to it is used again (R305). -/
def dspKkt (s : State) (blk : Nat) (r : DspRun) : Lib DspRun :=
  (kktAssemble s blk r.rho).bind fun s _ =>
    match (getWork s blk).kkt with
    | some (c, e, slot) => .ok s (if c = kktCrc s blk ∧ e = r.rho then { r with slot := slot, ready := true }
        else { r with slot := !slot, ready := false })
    | none => .ok s { r with slot := false, ready := false }

/-- Readies an ADMM job: the result record is cleared, so that a job that leaves none shows none. -/
def admmPrepare (s : State) (blk : Nat) (r : DspRun) : Lib Unit :=
  let part := dspPart s blk
  (dspTemps s blk r).bind fun s _ =>
  (dspPutFactor s blk (bit r.slot) (dspN s blk + dspM s blk)).bind fun s _ =>
  (putObj (part .result) (List.replicate 16 0) s).bind fun s _ => putObj (part .prog) (progWords (admmProg s blk r)) s

/-- The exponent of ρ that a warm start has restored (R306); a record whose s12 is no power of two within reach leaves ρ as it was. -/
def restoredRho (s : State) (blk : Nat) (r : DspRun) : Int :=
  let hi := oWord s (dspPart s blk .rhoHigh) 0
  let lo := oWord s (dspPart s blk .rhoLow) 0
  if 0 < hi then (Nat.log2 hi.toNat : Int) - 14 else if 0 < lo then (Nat.log2 lo.toNat : Int) - 24 else r.rho

/-- The warm outcome after the first job (R306, R310): COLD where `ag.ld` was not executed or matched nothing; none for a job that was
cancelled before it ran. -/
def warmOutcome (s : State) (blk : Nat) : Nat :=
  let w (i : Nat) : Word := given s (objAddr (dspPart s blk .result) + 4 * i)
  if (w 1).field 24 4 = 7 then 0
  else if (w 3).field 24 8 = 0 ∨ w 8 = 0 then 3 else (w 3).field 24 8

/-- ADMM jobs until one has converged or the run cannot go on (R302 to R306). -/
def admmJobs (blk : Nat) : Nat → State → DspRun → State × DspRun × Option LibEnd
  | 0, s, r => (s, r, some (.status 0x10 none))
  | n + 1, s, r =>
    match admmPrepare s blk r with
    | .stop s e => (s, r, some e)
    | .ok s _ =>
      let part := dspPart s blk
      let (s, h, e) := libJob s (libDesc false 0x10 (part .prog) (part .result) 0)
      let r := { r with handle := h, shift := none, warm := if r.ran then r.warm else warmOutcome s blk, ran := h != 0 }
      match e with
      | .done 7 =>
        match dspKkt s blk { r with rho := restoredRho s blk r } with
        | .ok s r => admmJobs blk n s r
        | .stop s e => (s, r, some e)
      | .done code =>
        let r := { r with iters := (oWord s (part .iter) 0).toNat, ready := true }
        let change (up : Bool) : State × DspRun × Option LibEnd :=
          match dspKkt s blk { r with rho := (rhoChange s blk r up).getD r.rho, changes := r.changes + 1 } with
          | .ok s r => admmJobs blk n s r
          | .stop s e => (s, r, some e)
        if code = cConverged then (setBlkW s blk 26 (Word.ofN (dspT0 s blk)), r, none)
        else if code = cInfeasible then (s, r, some (.status 0x14 none))
        else if code = cUp then change true
        else if code = cDown then change false
        else if code = cLimit then (s, r, some (.status 0x10 none))
        else admmJobs blk n s r
      | e => (s, r, jobStatus s (part .result) e)

/-- The solution process of a run up to the polish (R302). -/
def admmRun (s : State) (blk : Nat) (r : DspRun) : State × DspRun × Option LibEnd :=
  let r := { r with rho := sByte (blkW s blk 9) 0, shift := warmShift s blk }
  let ready := (dspAssemble s blk).bind fun s _ =>
    (dspKkt s blk r).bind fun s r =>
      let r := { r with ey := max (oExp s (dspPart s blk .grad)) (oExp s (dspPart s blk .kkt)) + 4 }
      (dspStart s blk r).bind fun s _ => .ok s r
  match ready with
  | .stop s e => (s, r, some e)
  | .ok s r => admmJobs blk ((blkW s blk 8).field 16 16 + 20) s r

/-! ## Residuals -/

/-- A sparse object times a vector, and its transpose. -/
def objMul (s : State) (obj : Nat) (x : List Q) : List Q :=
  (List.range (oCols s obj)).foldl (fun acc j =>
    (colOf s obj j).foldl (fun acc e => acc.set e.1 ((acc.getD e.1 {}).add (e.2.mul (x.getD j {})))) acc)
    (List.replicate (oRows s obj) {})
def objMulT (s : State) (obj : Nat) (y : List Q) : List Q :=
  (List.range (oCols s obj)).map (fun j => Q.sum ((colOf s obj j).map (fun e => e.2.mul (y.getD e.1 {}))))

/-- The largest magnitude of a vector. -/
def qMax (l : List Q) : Q := (l.map Q.abs).foldl Q.max {}

/-- The sum of two vectors. -/
def qAdd (a b : List Q) : List Q := (a.zip b).map (fun e => e.1.add e.2)

/-- rp and sp of x and z, rd and sd of x and y (R304). -/
def primalRes (s : State) (blk : Nat) (x z : List Q) : Q × Q :=
  let ax := objMul s (dspPart s blk .rows) x
  (qMax (qAdd ax (z.map Q.neg)), (qMax ax).max (qMax z))
def dualRes (s : State) (blk : Nat) (x y : List Q) : Q × Q :=
  let px := objMul s (dspPart s blk .cost) x
  let q := vecOf s (dspPart s blk .grad)
  let ay := objMulT s (dspPart s blk .rows) y
  (qMax (qAdd (qAdd px q) ay), ((qMax px).max (qMax ay)).max (qMax q))

/-- A ratio in Q1.30, saturating; of a residual to a norm of 0 it saturates, unless both are 0. -/
def ratioWord (a : Q × Q) : Word :=
  if a.2.n = 0 then (if a.1.n = 0 then 0 else 0x7FFFFFFF) else BitVec.ofInt 32 (clampS 32 ((a.1.div a.2).word (-30)))

/-! ## The polish -/

/-- How the polish takes a row (R307). -/
inductive Active where
  | no | equal | lower | upper
deriving DecidableEq, Repr

/-- The rows as y and z show them, each with the bound at which it is active. -/
def polClass (s : State) (blk : Nat) : List (Active × Q) :=
  let part := dspPart s blk
  let t := Q.scale (blkW s blk 14).toNat (-30)
  let y := vecOf s (part .y)
  let z := vecOf s (part .z)
  let lo := vecOf s (part .low)
  let hi := vecOf s (part .up)
  ((eqRows s blk).zipIdx).map (fun e =>
    let l := lo.getD e.2 {}
    let u := hi.getD e.2 {}
    let v := z.getD e.2 {}
    let d := y.getD e.2 {}
    if e.1 then (.equal, l)
    else if d.n < 0 ∧ (v.sub l).le t then (.lower, l)
    else if 0 < d.n ∧ (u.sub v).le t then (.upper, u)
    else (.no, {}))

/-- Entries of the polish's matrix, whose active rows follow the columns in order (R307). -/
def polEnts (s : State) (blk : Nat) (act : List Nat) : List Ent :=
  let n := dspN s blk
  let rows := dspRows s blk
  let d := Q.scale (blkW s blk 19).toNat (-30)
  ((dspCosts s blk).zipIdx).map (fun e => entPoint true e.2 e.2 (e.1.2.add d)) ++
    (act.zipIdx).flatMap (fun a =>
      ((rows.getD a.1 {}).coef.map (fun e => entPoint true (n + a.2) e.1 e.2)) ++ [entPoint true (n + a.2) (n + a.2) d.neg])

/-- A solve of the polish's program: the residual of the system without δ, its solution at the exponent of `sol`, and the step. -/
def polPass (part : DspPart → Nat) (fact sol : Nat) : List Line :=
  [mAxpy 2 0 (part .grad) 0 (part .polRx), mSpmv false 2 1 (part .cost) (part .polX) (part .polRx),
   mSpmv true 2 1 (part .rows) (part .polY) (part .polRx),
   mAxpy 1 0 (part .polB) 0 (part .polRy), mSpmv false 2 1 (part .rows) (part .polX) (part .polRy),
   mSpmv false 1 0 (part .polSelX) (part .polRx) (part .polRhs), mSpmv false 1 1 (part .polSelY) (part .polRy) (part .polRhs),
   mSolve fact (part .polRhs) sol,
   mSpmv true 1 1 (part .polSelX) sol (part .polX), mSpmv true 1 1 (part .polSelY) sol (part .polY)]

/-- The program of the polish job (R307): from zero, so that the first solve takes [-q; the active bounds], then POL_PASSES refinements. -/
def polProg (s : State) (blk : Nat) : List Line :=
  let part := dspPart s blk
  let fact := dspFactor s blk 2
  [mImm 1 1 0, mImm 2 (-1) 0, mFactor (part .polMat) fact] ++ polPass part fact (part .polSol) ++
    (List.replicate ((blkW s blk 20).field 0 4) (polPass part fact (part .polFix))).flatten ++ [mEnd 0]

/-- Readies the polish job. -/
def polPrepare (s : State) (blk : Nat) (r : DspRun) (cls : List (Active × Q)) : Lib Unit :=
  let part := dspPart s blk
  let n := dspN s blk
  let m := dspM s blk
  let act := (List.range m).filter (fun i => (cls.getD i (.no, {})).1 != .no)
  let k := n + act.length
  let ex := xExp s blk
  let eb := oExp s (part .bounds)
  let e1 := max (max (gradExp s blk) (oExp s (part .cost))) (oExp s (part .rows)) + 1
  let e2 := max eb (oExp s (part .rows)) + 1
  let es := max ex r.ey
  (libBlock false 0x10 k k (part .polMat) (polEnts s blk act) s).bind fun s _ =>
  (putZeros s blk [(.polX, eb - 1, n), (.polY, r.ey, m), (.polRx, e1, n), (.polRy, e2, m), (.polRhs, max e1 e2, k), (.polSol, es, k),
    (.polFix, es - 8, k)]).bind fun s _ =>
  (putObj (part .polB) (vecWords eb (atExp eb (cls.map (·.2)))) s).bind fun s _ =>
  (putObj (part .polSelX) (selectWords k ((List.range n).map some)) s).bind fun s _ =>
  (putObj (part .polSelY) (selectWords k ((List.range m).map (fun i => (act.findIdx? (· == i)).map (n + ·)))) s).bind fun s _ =>
  (dspPutFactor s blk 2 k).bind fun s _ =>
  (putObj (part .result) (List.replicate 16 0) s).bind fun s _ => putObj (part .prog) (progWords (polProg s blk)) s

/-- The tests of the polish (R307). -/
def polAccept (s : State) (blk : Nat) (cls : List (Active × Q)) : Bool :=
  let part := dspPart s blk
  let t := Q.scale (blkW s blk 14).toNat (-30)
  let x := vecOf s (part .polX)
  let y := vecOf s (part .polY)
  let ax := objMul s (part .rows) x
  let lo := vecOf s (part .low)
  let hi := vecOf s (part .up)
  let rowOk (i : Nat) (c : Active) : Bool :=
    match c with
    | .no => ((lo.getD i {}).sub t).le (ax.getD i {}) && (ax.getD i {}).le ((hi.getD i {}).add t)
    | .lower => (y.getD i {}).n ≤ 0
    | .upper => 0 ≤ (y.getD i {}).n
    | .equal => true
  ((cls.zipIdx).all (fun e => rowOk e.2 e.1.1)) &&
    (dualRes s blk x y).1.le (dualRes s blk (vecOf s (part .x)) (vecOf s (part .y))).1

/-- The polish of a converged run (R307): whether it is accepted; a trap or a timeout of its job ends the run. -/
def polish (s : State) (blk : Nat) (r : DspRun) : State × DspRun × Except LibEnd Bool :=
  let part := dspPart s blk
  let cls := polClass s blk
  if !(blkW s blk 0).tst 2 then (s, r, .ok false)
  else
    let mat := s.asm.mat.isSome
    let vec := s.asm.vec.isSome
    match polPrepare s blk r cls with
    | .stop s (.trap t) => (s, r, .error (.trap t))
    | .stop s _ => (libDrop mat vec s, r, .ok false)
    | .ok s _ =>
      let (s, h, e) := libJob s (libDesc false 0 (part .prog) (part .result) 0)
      let r := { r with handle := h }
      match e with
      | .done _ => (s, r, .ok (polAccept s blk cls))
      | .failed _ => (s, r, .ok false)
      | .timeout => (s, r, .error (.status 0x13 none))

/-! ## The proposal set -/

/-- The flags of a run that its inputs give (R295, R297, R298, R310). -/
def dspFlags (s : State) (blk : Nat) : Nat :=
  let vs := List.range (dspV s blk)
  let ofKind (x : Nat) : List Nat := (vs.filter (fun j => varKind s blk j == x))
  let ramp := (ofKind 0).any (fun j => (plantNow s (varElem s blk j)).isNone)
  let held := (ofKind 2).any (fun j => (energy0 s blk (varElem s blk j)).2)
  let capped := (List.range 64).any (fun c => delay s blk c != rawDelay s blk c)
  let below := (ofKind 2).any (fun j =>
    (List.range (dspSteps s blk)).any (fun k => (energyLow s blk j (varElem s blk j) k).lt (reserveWh s (varElem s blk j))))
  bit ramp * 2 ^ 17 + bit held * 2 ^ 18 + bit capped * 2 ^ 19 + bit below * 2 ^ 20

/-- A scaled plan in natural units. -/
def natPlan (s : State) (blk : Nat) (x : List Q) : List Q :=
  (x.zipIdx).map (fun e => e.1.mul (varSize s blk (e.2 % max 1 (dspV s blk))))

/-- Words 0x40 to 0x7F of the proposal set (R309, R310). The residuals are those of the ADMM solution; in a run in which no job has run,
there are none, and they and the objective are free. -/
def dspHeader (s : State) (blk : Nat) (r : DspRun) (status : Nat) (plan : List Q) : List Word :=
  let part := dspPart s blk
  let x := vecOf s (part .x)
  let values : List Word :=
    if r.ran then
      [ratioWord (primalRes s blk x (vecOf s (part .z))), ratioWord (dualRes s blk x (vecOf s (part .y))),
       BitVec.ofInt 32 (clampS 32 ((objective s blk plan).word (-8)))]
    else [Config.freeWord s.free, Config.freeWord (s.free + 1), Config.freeWord (s.free + 2)]
  [blkW s blk 24, Word.ofN (status + r.warm * 2 ^ 8 + bit (status == 0x80) * 2 ^ 16 + dspFlags s blk + r.changes * 2 ^ 24),
   Word.ofN r.iters, fGet s 0x14 7, Word.ofN s.asm.sec, Word.ofN s.asm.ns, Word.ofN (dspT0 s blk),
   Word.ofN (s.asm.sec + (blkW s blk 18).toNat), Word.ofN (dspStepS s blk * 2 ^ 16 + dspSteps s blk)] ++ values ++
  [Word.ofN (dspV s blk * 2 ^ 16 + fPart s 0x14 6 0 16), blkW s blk 25, 0, 0]

/-- The entry of variable j (R309): AT_LOWER and AT_UPPER as its value and its bounds at step 0 read. A horizon of one step has no step 1,
whose value is free. -/
def dspEntry (s : State) (blk : Nat) (plan : List Q) (j : Nat) : List Word :=
  let v := natWord s blk j (plan.getD j {})
  let b := natBounds s blk j 0
  let next : Word := if 1 < dspSteps s blk then BitVec.ofInt 32 (clampS 32 (natWord s blk j (plan.getD (dspV s blk + j) {})))
    else Config.freeWord (s.free + 3 + j)
  [varW s blk j 0, BitVec.ofInt 32 (clampS 32 v), next,
   Word.ofN (bit (v ≤ natWord s blk j b.1) + 2 * bit (natWord s blk j b.2 ≤ v))]

/-- Energies of step 0 of a proposal, as its words give them (R297). -/
def dspEnergies (s : State) (blk : Nat) (plan : List Q) : List (Nat × Int × Nat) :=
  ((List.range (dspV s blk)).filter (fun j => varKind s blk j == 2)).map (fun j =>
    let e := (capWh s (varElem s blk j)).mul (Q.scale (natWord s blk j (plan.getD j {})) (-30))
    (varElem s blk j, e.n, e.d))

/-- Index of the process image's word 0x40 of the proposal set. -/
def dspAt (s : State) (blk : Nat) : Nat := outOfs (blkW s blk 3) / 4 + 16

/-- The event of a dispatch block. -/
def dspEvent (s : State) (blk : Nat) : Nat := (blkW s blk 17).field 16 10

/-- A run that is not accepted writes only the header (R308). -/
def dspFail (s : State) (blk : Nat) (r : DspRun) : LibEnd → Res
  | .trap t => .trap s t
  | .status st d =>
    let ws := dspHeader s blk r st (natPlan s blk (vecOf s (dspPart s blk .x)))
    libFinish (deliverSet { s with free := s.free + 3 } (dspAt s blk) ws) (dspEvent s blk) (.status st d)

/-- An accepted run (R305, R308, R309): X_ACC, the factor that is kept, ACC_SEQ and the whole set. -/
def dspAccept (s : State) (blk : Nat) (r : DspRun) (polished : Bool) : Res :=
  let part := dspPart s blk
  let x := vecOf s (if polished then part .polX else part .x)
  let ex := xExp s blk
  match putObj (part .xAcc) (vecWords ex (atExp ex x)) s with
  | .stop s e => libFinish s (dspEvent s blk) e
  | .ok s _ =>
    let plan := natPlan s blk x
    let status := if polished then 0x80 else 0x81
    let s := setBlkW s blk 25 (blkW s blk 24)
    let ds := (List.range 64).map (fun c => BitVec.ofNat 8 (delay s blk c))
    let ws := dspHeader s blk r status plan ++ padTo 1024 ((List.range (dspV s blk)).flatMap (dspEntry s blk plan)) ++ toWords ds
    let kept := { getWork s blk with energy := dspEnergies s blk plan, kkt := some (kktCrc s blk, r.rho, r.slot) }
    let s := setWork s blk kept
    libFinish (deliverSet { s with free := s.free + 3 + dspV s blk } (dspAt s blk) ws) (dspEvent s blk) (.status status none)

/-- `dsp.run` after its checks (R302). A running Transit advance completes first (R295); the forecast's rows are read by loads. -/
def dspRun (s : State) (blk : Nat) : Res :=
  let s := advanceEnd (match s.asm.adv, s.asm.reinit with | some _, some r => reinitRun s r | _, _ => s)
  let len := 4 * (4 + 2 * (given s (fcAddr s blk + 8)).field 0 8)
  match libSpan false (fcRow s blk 0) (len * dspSteps s blk) s with
  | .stop s e => libFinish s (dspEvent s blk) e
  | .ok s _ =>
    let s := setBlkW s blk 24 (blkW s blk 24 + 1)
    let mat := s.asm.mat.isSome
    let vec := s.asm.vec.isSome
    let (s, r, e) := admmRun s blk { handle := (blkW s blk 27).field 0 16 }
    let (s, r, e) := match e with
      | some e => (s, r, Except.error e)
      | none => polish s blk r
    let s := setBlkPart (libDrop mat vec s) blk 27 0 16 r.handle
    match e with
    | .error e => dspFail s blk r e
    | .ok p => dspAccept s blk r p

/-- The refusals of `dsp.run`, in the order in which the model checks them (R287, R288, R294). The forecast's header is read by loads. -/
def dspRefusal (s : State) (blk : Nat) : Lib (Option (Nat × Word)) :=
  if !libOk s 0x2C000 0x4000 then .ok s (some (0x26, 0))
  else match dspParam s blk with
    | some d => .ok s (some (0x25, d))
    | none =>
      let need := workNeed (dspSizes s blk)
      if handleBusy s ((blkW s blk 27).field 0 16) then .ok s (some (0x20, 0))
      else if !snapLocked s then .ok s (some (0x21, 0))
      else if (blkW s blk 2).toNat < need then .ok s (some (0x22, Word.ofN need))
      else (libSpan false (fcAddr s blk) 32 s).bind fun s _ => .ok s (if fcCovers s blk then none else some (0x28, 0))

/-- The dispatch library's entry `dsp.run` (R287 to R312). -/
def execDspRun (s : State) : Out :=
  done s (libCall s 0x2C000 (fun blk s =>
    if s.asm.copying.isSome then .ok s
    else match dspRefusal s blk with
      | .stop s e => libFinish s 0 e
      | .ok s (some (st, d)) => .ok (libReturn s st d)
      | .ok s none => dspRun s blk))

end Sys2Proof.Machine
end

