-- ==== Sys2Proof/Machine/Almanac.lean ====
section
/-! DEFINITION. Almanac, the event recorder: writing records, the counters' saves and their restore at start-up, the read window
and the authenticated clear (R498 to R511). -/
namespace Sys2Proof.Machine

/-! ## Records in MRAM -/

/-- Address of a slot of the area (R498). -/
def almAddr (n : Nat) : Nat := 0x0C00000000 + 64 * n

/-- The bytes of a record but its CRC (R498). -/
def recHead (r : Rec) (pin lost : Bool) : List Byte :=
  let (ns, sec) : Word × Word := match r.ptv with | some t => t | none => (0, 0)
  leBytes 4 r.seq.toNat ++ leBytes 1 (r.sev % 4 * 64 + r.src % 64) ++ leBytes 1 (bit r.ptv.isSome + 2 * bit pin + 4 * bit lost) ++
    leBytes 2 r.code ++ leBytes 6 r.opMs ++ leBytes 2 0 ++ leBytes 4 r.pcc.toNat ++ leBytes 4 ns.toNat ++ leBytes 4 sec.toNat ++
    (List.range 8).flatMap (fun i => leBytes 4 (r.payload.getD i 0).toNat)

/-- A record with its CRC. -/
def recWhole (d : List Byte) : List Byte := d ++ leBytes 4 (crc32c d).toNat

/-- Severity and PINNED of the record in a slot. -/
def slotSev (s : State) (n : Nat) : Nat := (memByte s (almAddr n + 4)).toNat / 64
def slotPinned (s : State) (n : Nat) : Bool := (memByte s (almAddr n + 5)).getLsbD 1

/-- The empty slot with the lowest index (R501). -/
def lowestEmpty (s : State) : Option Nat :=
  (List.range (min 32768 (s.alm.order.length + 1))).find? (fun n => !s.alm.order.contains n)

/-- Rule 1 has found no slot: event 578 the first time (R501). -/
def logFull (s : State) : State :=
  if s.alm.fullSeen then s else raise { s with alm := { s.alm with fullSeen := true } } 578

/-- The record goes into a slot, in place of an older one there (R500, R501): a critical one is pinned while fewer than 256 are. -/
def recPut (s : State) (r : Rec) (n : Nat) : State :=
  let pin := r.sev == 3 && s.alm.pinned.length < 256
  let d := recWhole (recHead r pin s.alm.lost)
  let s := putBytes s (almAddr n) d
  let s := { s with alm := { s.alm with
    order := s.alm.order.filter (· != n) ++ [n], pinned := if pin then s.alm.pinned ++ [n] else s.alm.pinned, lost := false } }
  if pin && s.alm.pinned.length == 256 then raise s 579 else s

/-- A record is dropped (R501): event 577. -/
def recDrop (s : State) (sev : Nat) : State :=
  raise { (fInc s 0x24 (4 + sev % 4) 0 32) with alm := { s.alm with lost := true } } 577

/-- Writes one record by the rules of R501. -/
def recWrite (s : State) (r : Rec) : State :=
  match lowestEmpty s with
  | some n => recPut s r n
  | none =>
    let s := logFull s
    match s.alm.order.find? (fun n => !s.alm.pinned.contains n && slotSev s n ≤ r.sev) with
    | some n => recPut s r n
    | none => recDrop s r.sev

/-- Takes the oldest record off the queue and writes it. -/
def almWriteNext (s : State) : State :=
  match s.alm.queue with
  | [] => s
  | r :: t => recWrite { s with alm := { s.alm with queue := t } } r

/-- Drains the queue. -/
def almDrain (s : State) : State := (List.range s.alm.queue.length).foldl (fun s _ => almWriteNext s) s

/-- ALM writes the next queued record (R500), once the counters have been restored (R504). -/
def execAlmRecordWrite (s : State) : Out :=
  done s (if s.alm.restored then almWriteNext s else s)

/-! ## The counter block -/

/-- Address of a copy (R503). -/
def ctrAddr (b : Bool) : Nat := if b then 0x0C007FFFC0 else 0x0C007FFF80

/-- The bytes of a copy: sequence, operating time, count, and a pending clear with its boundary (R503). -/
def ctrBytes (s : State) (seq : Word) (clear scope : Nat) (bound : Word) : List Byte :=
  recWhole (leBytes 4 seq.toNat ++ leBytes 6 s.clk.opMs.toNat ++ leBytes 2 0 ++ leBytes 4 s.clk.pcc.toNat ++
    leBytes 4 (clear + 2 * scope) ++ leBytes 4 bound.toNat ++ leBytes 36 0)

/-- Writes the copy that does not hold the latest valid save. -/
def ctrWrite (s : State) (clear scope : Nat) (bound : Word) : State :=
  let q := s.alm.copySeq + 1
  let s := putBytes s (ctrAddr s.alm.nextCopy) (ctrBytes s q clear scope bound)
  { s with alm := { s.alm with copySeq := q, nextCopy := !s.alm.nextCopy } }

/-- The backup domain's copy of the counters (R503, R526). -/
def bkpSave (s : State) : State :=
  let s := fSet s 0x25 0xD s.clk.pcc
  let s := fSet s 0x25 0xE (Word.ofN s.clk.opMs.toNat)
  let s := fSet s 0x25 0xF (Word.ofN (s.clk.opMs.toNat / 2 ^ 32))
  { s with rtc := { s.rtc with copyValid := true } }

/-- A save of the counters with its read-back (R503): one that fails leaves a copy that is not valid, raises event 582, and the next
save targets the same copy. -/
def counterSave (s : State) (ok : Bool) : State :=
  let s := bkpSave { s with alm := { s.alm with lastSave := s.clk.opMs.toNat } }
  if ok then ctrWrite s 0 0 0
  else
    let (s, w) := freeW s
    let a := ctrAddr s.alm.nextCopy
    let d := ctrBytes s (s.alm.copySeq + 1) 0 0 0
    let bad := if w = wordAt d 15 then w + 1 else w
    let s := putBytes s a (d.take 60 ++ leBytes 4 bad.toNat)
    post (raise s 582) 0x24 2 0x0702 []

/-- Every 60 s of operating time the counters are saved; in sleep only the backup domain's copy is (R503). `ok` is whether the
read-back passes. -/
def execCounterSave (ok : Bool) (s : State) : Out :=
  done s (
    let bkp := (fGet s 0x25 0xE).toNat + 2 ^ 32 * fPart s 0x25 0xF 0 16
    if !s.alm.restored then s
    else if s.pwr.asleep then (if bkp + 60000 ≤ s.clk.opMs.toNat then bkpSave s else s)
    else if s.alm.lastSave + 60000 ≤ s.clk.opMs.toNat then counterSave s ok
    else s)

/-- OP_SAVE (R503, R510): whether the read-back passes is the MRAM's. -/
def opSaveWrite (s : State) (v : Word) : State :=
  if v.tst 0 then let (s, ok) := freeB s; counterSave s ok else s

/-- WIN_CTRL (R506, R510). -/
def winCtrlWrite (s : State) (v : Word) : State :=
  if v.tst 0 then
    if s.alm.frozen.isSome then s
    else
      let l := s.alm.order.map (fun n => (n, Word.ofN ((memByte s (almAddr n)).toNat + 256 * (memByte s (almAddr n + 1)).toNat +
        65536 * (memByte s (almAddr n + 2)).toNat + 16777216 * (memByte s (almAddr n + 3)).toNat)))
      let newest := match l.getLast? with | some e => e.2 | none => 0
      fSet { s with alm := { s.alm with frozen := some l } } 0x24 0xB newest
  else { s with alm := { s.alm with frozen := none } }

/-- MIN_SEV has changed at ALM's boundary (R507, R508): the records filtered out so far. -/
def minSevChanged (s : State) : State :=
  let n := fGet s 0x24 0xE
  post { s with alm := { s.alm with filtAt := n } } 0x24 1 0x0703 [n - s.alm.filtAt]

/-! ## The authenticated clear -/

/-- Step 2 of R509 for the record of one slot. -/
def clearSlot (scope : Nat) (bound : Word) (s : State) (n : Nat) : State :=
  if scope = 1 then
    let seq := memW s (almAddr n)
    if seq ≠ 0 ∧ (seq - bound).toNat ≥ 2 ^ 31 then
      { hwW s 0x24 (almAddr n) 0 with alm := { s.alm with order := s.alm.order.filter (· != n), pinned := s.alm.pinned.filter (· != n) } }
    else s
  else
    let d := memBytes s (almAddr n) 60
    let b := (d.getD 5 0) &&& 0xFD
    let d := d.take 5 ++ [b] ++ d.drop 6
    { putBytes s (almAddr n) (recWhole d) with alm := { s.alm with pinned := [] } }

/-- Steps 2 and 3 of R509. -/
def clearRun (s : State) (scope : Nat) (bound : Word) : State :=
  let s := s.alm.order.foldl (clearSlot scope bound) s
  let s := [4, 5, 6, 7, 8, 0xE].foldl (fun s f => fSet s 0x24 f 0) s
  raise { s with alm := { s.alm with fullSeen := false, filtAt := 0 } } 580

/-- The clear of an accepted envelope (R509): the queue is drained, both copies mark the clear while it runs, and the clear record is
the first of the new set. -/
def almClear (s : State) (scope : Nat) : State :=
  let s := almDrain s
  let bound := s.alm.nextSeq
  let drops := [4, 5, 6, 7].map (fGet s 0x24)
  let s := ctrWrite (ctrWrite s 1 scope bound) 1 scope bound
  let s := ctrWrite (ctrWrite (clearRun s scope bound) 0 0 0) 0 0 0
  post s 0x24 3 0x0701 ([Word.ofN scope, bound] ++ drops ++ [0])

/-- The scope of a clear's payload, none when it is refused (R509). -/
def clearScope (d : List Byte) : Option Nat :=
  if d.length = 8 ∧ natAt d 0 2 = 7 ∧ natAt d 3 5 = 0 ∧ (natAt d 2 1 = 1 ∨ natAt d 2 1 = 2) then some (natAt d 2 1) else none

/-! ## Start-up -/

/-- What a valid counter source holds: count, operating time. -/
abbrev Counters := Nat × Nat

/-- A copy of the counter block when it is valid: its sequence, counters, and its pending clear as scope and boundary (R503). -/
def ctrCopy (s : State) (b : Bool) : Option (Nat × Counters × Option (Nat × Word)) :=
  let d := memBytes s (ctrAddr b) 64
  if natAt d 0 4 = 0 ∨ crc32c (d.take 60) ≠ wordAt d 15 ∨ !readable s (ctrAddr b) 64 then none
  else
    let w := wordAt d 4
    some (natAt d 0 4, (natAt d 12 4, natAt d 4 6), if w.tst 0 then some (w.field 1 2, wordAt d 5) else none)

/-- The valid copy with the higher sequence, and which it is. -/
def ctrLatest (s : State) : Option (Bool × Nat × Counters × Option (Nat × Word)) :=
  match ctrCopy s false, ctrCopy s true with
  | some a, some b => if a.1 < b.1 then some (true, b) else some (false, a)
  | some a, none => some (false, a)
  | none, some b => some (true, b)
  | none, none => none

/-- Slots that hold anything in word 0, lowest first. -/
def usedSlots (s : State) : List Nat :=
  ((s.mem.cells.filter (fun e => 0x0C00000000 ≤ e.1 && e.1 < 0x0C00200000)).map (fun e => (e.1 - 0x0C00000000) / 64)).eraseDups.filter
    (fun n => memW s (almAddr n) != 0)

/-- The record in a slot is valid (R504). -/
def slotValid (s : State) (n : Nat) : Bool :=
  let d := memBytes s (almAddr n) 64
  crc32c (d.take 60) == wordAt d 15 && readable s (almAddr n) 64

/-- The key of the record in a slot (R502). -/
def slotKey (s : State) (n : Nat) : Nat × Nat × Word := (memN s (almAddr n + 16) 4, memN s (almAddr n + 8) 6, memW s (almAddr n))

/-- Order of keys; sequences compare in serial arithmetic (R502). -/
def keyBefore (a b : Nat × Nat × Word) : Bool :=
  a.1 < b.1 || (a.1 == b.1 && (a.2.1 < b.2.1 || (a.2.1 == b.2.1 && decide ((a.2.2 - b.2.2).toNat ≥ 2 ^ 31))))

/-- Puts a slot in its place. -/
def insertSlot (s : State) (l : List Nat) (n : Nat) : List Nat :=
  match l with
  | [] => [n]
  | m :: t => if keyBefore (slotKey s n) (slotKey s m) then n :: m :: t else m :: insertSlot s t n

/-- Step 3 of R504: valid records in order, torn slots emptied and counted, pins and the next sequence. -/
def almScan (s : State) : State :=
  let used := usedSlots s
  let good := used.filter (slotValid s)
  let torn := used.filter (fun n => !slotValid s n)
  let order := good.foldl (insertSlot s) []
  let next := match order.getLast? with | some n => nextSeq (memW s (almAddr n)) | none => 1
  let s := torn.foldl (fun s n => putWords s (almAddr n) [0, memW s (almAddr n + 4)]) s
  let s := fSet s 0x24 8 (Word.ofN torn.length)
  { s with alm := { s.alm with order := order, pinned := order.filter (slotPinned s), nextSeq := next, fullSeen := false } }

/-- The counters that a start finds: source of R507, count and operating time (R504). -/
def foundCounters (s : State) : Nat × Nat × Nat :=
  let m := (ctrLatest s).map (fun c => c.2.2.1)
  let b : Option Counters :=
    if s.rtc.copyValid then some ((fGet s 0x25 0xD).toNat, (fGet s 0x25 0xE).toNat + 2 ^ 32 * fPart s 0x25 0xF 0 16) else none
  match m, b with
  | some m, some b => if m.1 < b.1 then (1, b.1, b.2) else if b.1 < m.1 then (0, m.1, m.2) else (0, m.1, max m.2 b.2)
  | some m, none => (0, m.1, m.2)
  | none, some b => (1, b.1, b.2)
  | none, none =>
    match s.alm.order.getLast? with
    | some n => (2, (slotKey s n).1, (slotKey s n).2.1)
    | none => (3, 0, 0)

/-- Records that waited are stamped with the restored counters, in order of posting (R498). -/
def stampWaiting (s : State) : State :=
  let go (acc : List Rec × Word) (r : Rec) : List Rec × Word :=
    if r.stamped then (acc.1 ++ [r], acc.2)
    else (acc.1 ++ [{ r with seq := acc.2, opMs := s.clk.opMs.toNat, pcc := s.clk.pcc, ptv := stampTime s, stamped := true }], nextSeq acc.2)
  let (q, n) := s.alm.queue.foldl go ([], s.alm.nextSeq)
  { s with alm := { s.alm with queue := q, nextSeq := n, restored := true } }

/-- ALM's start-up (R504, R505, R507, R509). -/
def almRestore (s : State) : State :=
  let copy := ctrLatest s
  let s := { s with alm := { s.alm with
    nextCopy := match copy with | some (b, _) => !b | none => false
    copySeq := match copy with | some (_, q, _) => Word.ofN q | none => 0 } }
  let s := almScan s
  let clear := copy.bind (fun c => c.2.2.2)
  let (src, c, o) := foundCounters s
  let cleared := match clear with
    | some (scope, bound) => s.alm.order.foldl (clearSlot scope bound) s
    | none => s
  let s := { cleared with clk := { s.clk with pcc := Word.ofN (c + 1), opMs := BitVec.ofNat 48 o, opSub := 0 } }
  let s := bkpSave (ctrWrite (ctrWrite s 0 0 0) 0 0 0)
  let s := stampWaiting { s with alm := { s.alm with lastSave := o } }
  let s := fSet s 0x24 0xF (Word.ofN src)
  let s := post s 0x24 (if 2 ≤ src then 3 else 1) 0x0700
    [Word.ofN src, s.clk.pcc, Word.ofN o, Word.ofN (o / 2 ^ 32), Word.ofN s.alm.order.length, fGet s 0x24 8]
  let s := raise s 581
  match clear with
  | some (scope, bound) =>
    let s := [4, 5, 6, 7, 8, 0xE].foldl (fun s f => fSet s 0x24 f 0) s
    post (raise s 580) 0x24 3 0x0701 [Word.ofN scope, bound, 0, 0, 0, 0, 1]
  | none => s

end Sys2Proof.Machine
end

