-- ==== Sys2Proof/Machine/Alu.lean ====
section
/-! DEFINITION. Integer, immediate, bit field, fixed-point and accumulator instructions (R53 to R60). -/
namespace Sys2Proof.Machine

/-- An ALU instruction of opcode 0b000001: rd takes `f ra rb` (R53). -/
def aluOp (h : Hdr) (rd ra rb : Reg) (func : Nat) (f : Word → Word → Word) (s : State) : State :=
  runInstr h { word := encA 1 rd ra rb func, grp := .alu } (fun k s => .ok (setReg s k rd (f (reg s k ra) (reg s k rb)))) s

/-- ra + rb, modulo 2^32 (R53). -/
def execAdd (h : Hdr) (rd ra rb : Reg) (s : State) : Out :=
  done s (aluOp h rd ra rb 0 (fun a b => a + b) s)

/-- ra - rb, modulo 2^32 (R53). -/
def execSub (h : Hdr) (rd ra rb : Reg) (s : State) : Out :=
  done s (aluOp h rd ra rb 1 (fun a b => a - b) s)

/-- ra AND rb (R53). -/
def execAnd (h : Hdr) (rd ra rb : Reg) (s : State) : Out :=
  done s (aluOp h rd ra rb 2 (fun a b => a &&& b) s)

/-- ra OR rb (R53). -/
def execOr (h : Hdr) (rd ra rb : Reg) (s : State) : Out :=
  done s (aluOp h rd ra rb 3 (fun a b => a ||| b) s)

/-- ra XOR rb (R53). -/
def execXor (h : Hdr) (rd ra rb : Reg) (s : State) : Out :=
  done s (aluOp h rd ra rb 4 (fun a b => a ^^^ b) s)

/-- ra AND NOT rb (R53). -/
def execAndn (h : Hdr) (rd ra rb : Reg) (s : State) : Out :=
  done s (aluOp h rd ra rb 5 (fun a b => a &&& ~~~b) s)

/-- NOT (ra OR rb) (R53). -/
def execNor (h : Hdr) (rd ra rb : Reg) (s : State) : Out :=
  done s (aluOp h rd ra rb 6 (fun a b => ~~~(a ||| b)) s)

/-- signed ra + rb, saturated (R53). -/
def execAddsat (h : Hdr) (rd ra rb : Reg) (s : State) : Out :=
  done s (aluOp h rd ra rb 7 (fun a b => satW (a.toInt + b.toInt)) s)

/-- signed ra - rb, saturated (R53). -/
def execSubsat (h : Hdr) (rd ra rb : Reg) (s : State) : Out :=
  done s (aluOp h rd ra rb 8 (fun a b => satW (a.toInt - b.toInt)) s)

/-- ra shifted left by rb[4:0] (R53). -/
def execSll (h : Hdr) (rd ra rb : Reg) (s : State) : Out :=
  done s (aluOp h rd ra rb 9 (fun a b => a <<< (b.toNat % 32)) s)

/-- ra shifted right logically by rb[4:0] (R53). -/
def execSrl (h : Hdr) (rd ra rb : Reg) (s : State) : Out :=
  done s (aluOp h rd ra rb 10 (fun a b => a >>> (b.toNat % 32)) s)

/-- ra shifted right arithmetically by rb[4:0] (R53). -/
def execSra (h : Hdr) (rd ra rb : Reg) (s : State) : Out :=
  done s (aluOp h rd ra rb 11 (fun a b => a.sshiftRight (b.toNat % 32)) s)

/-- ra rotated left by rb[4:0] (R53). -/
def execRol (h : Hdr) (rd ra rb : Reg) (s : State) : Out :=
  done s (aluOp h rd ra rb 12 (fun a b => a.rotateLeft (b.toNat % 32)) s)

/-- low 32 bits of ra times rb (R53). -/
def execMul (h : Hdr) (rd ra rb : Reg) (s : State) : Out :=
  done s (aluOp h rd ra rb 16 (fun a b => a * b) s)

/-- high 32 bits of the signed 64-bit product (R53). -/
def execMulh (h : Hdr) (rd ra rb : Reg) (s : State) : Out :=
  done s (aluOp h rd ra rb 17 (fun a b => BitVec.ofInt 32 ((a.toInt * b.toInt).fdiv (2 ^ 32 : Nat))) s)

/-- high 32 bits of the unsigned 64-bit product (R53). -/
def execMulhu (h : Hdr) (rd ra rb : Reg) (s : State) : Out :=
  done s (aluOp h rd ra rb 18 (fun a b => Word.ofN (a.toNat * b.toNat / 2 ^ 32)) s)

/-- signed quotient, truncated towards zero (R54). -/
def execDiv (h : Hdr) (rd ra rb : Reg) (s : State) : Out :=
  done s (aluOp h rd ra rb 19 (fun a b => divS a b) s)

/-- unsigned quotient (R54). -/
def execDivu (h : Hdr) (rd ra rb : Reg) (s : State) : Out :=
  done s (aluOp h rd ra rb 20 (fun a b => divU a b) s)

/-- signed remainder; its sign follows ra (R54). -/
def execRem (h : Hdr) (rd ra rb : Reg) (s : State) : Out :=
  done s (aluOp h rd ra rb 21 (fun a b => remS a b) s)

/-- unsigned remainder (R54). -/
def execRemu (h : Hdr) (rd ra rb : Reg) (s : State) : Out :=
  done s (aluOp h rd ra rb 22 (fun a b => remU a b) s)

/-- signed minimum (R53). -/
def execMin (h : Hdr) (rd ra rb : Reg) (s : State) : Out :=
  done s (aluOp h rd ra rb 23 (fun a b => if a.slt b then a else b) s)

/-- signed maximum (R53). -/
def execMax (h : Hdr) (rd ra rb : Reg) (s : State) : Out :=
  done s (aluOp h rd ra rb 24 (fun a b => if a.slt b then b else a) s)

/-- unsigned minimum (R53). -/
def execMinu (h : Hdr) (rd ra rb : Reg) (s : State) : Out :=
  done s (aluOp h rd ra rb 25 (fun a b => if a.ult b then a else b) s)

/-- unsigned maximum (R53). -/
def execMaxu (h : Hdr) (rd ra rb : Reg) (s : State) : Out :=
  done s (aluOp h rd ra rb 26 (fun a b => if a.ult b then b else a) s)

/-- A shift by the value of the rb field (R53). -/
def shiftOp (h : Hdr) (rd ra sh : Reg) (func : Nat) (f : Word → Nat → Word) (s : State) : State :=
  runInstr h { word := encA 1 rd ra sh func, grp := .alu } (fun k s => .ok (setReg s k rd (f (reg s k ra) sh.toNat))) s

/-- ra shifted left by the rb field value (R53). -/
def execSlli (h : Hdr) (rd ra sh : Reg) (s : State) : Out :=
  done s (shiftOp h rd ra sh 13 (fun a n => a <<< n) s)

/-- logical right shift by the rb field value (R53). -/
def execSrli (h : Hdr) (rd ra sh : Reg) (s : State) : Out :=
  done s (shiftOp h rd ra sh 14 (fun a n => a >>> n) s)

/-- arithmetic right shift by the rb field value (R53). -/
def execSrai (h : Hdr) (rd ra sh : Reg) (s : State) : Out :=
  done s (shiftOp h rd ra sh 15 (fun a n => a.sshiftRight n) s)

/-- Absolute value of ra, saturated; -2^31 gives 0x7FFF_FFFF (R53, R54). -/
def execAbs (h : Hdr) (rd ra : Reg) (s : State) : Out :=
  done s (aluOp h rd ra 0 27 (fun a _ => satW (if a.toInt < 0 then -a.toInt else a.toInt)) s)

/-- An I-format instruction: rd takes `f ra imm` (R46, R55). -/
def immOp (h : Hdr) (rd ra : Reg) (imm : BitVec 14) (op5 : Nat) (f : Word → Word) (s : State) : State :=
  runInstr h { word := encI op5 rd ra imm, grp := .alu } (fun k s => .ok (setReg s k rd (f (reg s k ra)))) s

/-- Adds a sign-extended immediate (R55). -/
def execAddi (h : Hdr) (rd ra : Reg) (imm : BitVec 14) (s : State) : Out :=
  done s (immOp h rd ra imm 4 (fun a => a + sext imm) s)

/-- ANDs a zero-extended immediate (R55). -/
def execAndi (h : Hdr) (rd ra : Reg) (imm : BitVec 14) (s : State) : Out :=
  done s (immOp h rd ra imm 5 (fun a => a &&& zext imm) s)

/-- ORs a zero-extended immediate (R55). -/
def execOri (h : Hdr) (rd ra : Reg) (imm : BitVec 14) (s : State) : Out :=
  done s (immOp h rd ra imm 6 (fun a => a ||| zext imm) s)

/-- XORs a zero-extended immediate (R55). -/
def execXori (h : Hdr) (rd ra : Reg) (imm : BitVec 14) (s : State) : Out :=
  done s (immOp h rd ra imm 7 (fun a => a ^^^ zext imm) s)

/-- rd takes the sign-extended 20-bit immediate (R55). -/
def execLi (h : Hdr) (rd : Reg) (imm : BitVec 20) (s : State) : Out :=
  done s (runInstr h { word := encL 4 rd imm, grp := .alu } (fun k s => .ok (setReg s k rd (sext imm))) s)

/-- rd takes the 20-bit immediate shifted left by 12 (R55). -/
def execLui (h : Hdr) (rd : Reg) (imm : BitVec 20) (s : State) : Out :=
  done s (runInstr h { word := encL 5 rd imm, grp := .alu } (fun k s => .ok (setReg s k rd (zext imm <<< 12))) s)

/-- An extended ALU instruction: the second word holds imm32 (R55). -/
def extOp (h : Hdr) (rd ra : Reg) (func : Nat) (f : Word → Word) (s : State) : State :=
  runInstr h { word := encA 0b111000 rd ra 0 func, len := 8, grp := .alu }
    (fun k s => .ok (setReg s k rd (f (reg s k ra)))) s

/-- rd takes imm32 (R55). -/
def execLi32 (h : Hdr) (rd : Reg) (imm : Word) (s : State) : Out := done s (extOp h rd 0 0 (fun _ => imm) s)

/-- rd takes ra + imm32 (R55). -/
def execAddi32 (h : Hdr) (rd ra : Reg) (imm : Word) (s : State) : Out := done s (extOp h rd ra 1 (fun a => a + imm) s)

/-- rd takes ra AND imm32 (R55). -/
def execAndi32 (h : Hdr) (rd ra : Reg) (imm : Word) (s : State) : Out := done s (extOp h rd ra 2 (fun a => a &&& imm) s)

/-- rd takes ra OR imm32 (R55). -/
def execOri32 (h : Hdr) (rd ra : Reg) (imm : Word) (s : State) : Out := done s (extOp h rd ra 3 (fun a => a ||| imm) s)

/-- rd takes ra XOR imm32 (R55). -/
def execXori32 (h : Hdr) (rd ra : Reg) (imm : Word) (s : State) : Out := done s (extOp h rd ra 4 (fun a => a ^^^ imm) s)

/-- A bit field instruction (R56): pos in [12:8], the operation in [7:5], width - 1 in [4:0]. -/
def fieldOp (h : Hdr) (rd ra pos wm1 : Reg) (op : Nat) (bad : Bool) (f : Word → Word → Word) (s : State) : State :=
  runInstr h { word := encF 5 [(rd.toNat, 18), (ra.toNat, 13), (pos.toNat, 8), (op, 5), (wm1.toNat, 0)], grp := .alu, bad := bad }
    (fun k s => .ok (setReg s k rd (f (reg s k rd) (reg s k ra)))) s

/-- pos + w exceeds 32 (R56). -/
def fieldTooWide (pos wm1 : Reg) : Bool := 32 < pos.toNat + wm1.toNat + 1

/-- Extracts a field, zero-extended (R56). -/
def execBext (h : Hdr) (rd ra pos wm1 : Reg) (s : State) : Out :=
  done s (fieldOp h rd ra pos wm1 0 (fieldTooWide pos wm1) (fun _ a => bext a pos.toNat (wm1.toNat + 1)) s)

/-- Extracts a field, sign-extended (R56). -/
def execBexts (h : Hdr) (rd ra pos wm1 : Reg) (s : State) : Out :=
  done s (fieldOp h rd ra pos wm1 1 (fieldTooWide pos wm1) (fun _ a => bexts a pos.toNat (wm1.toNat + 1)) s)

/-- Inserts the low bits of ra into a field of rd (R56). -/
def execBins (h : Hdr) (rd ra pos wm1 : Reg) (s : State) : Out :=
  done s (fieldOp h rd ra pos wm1 2 (fieldTooWide pos wm1) (fun d a => bins d a pos.toNat (wm1.toNat + 1)) s)

/-- Counts leading zeros of ra (R56). -/
def execClz (h : Hdr) (rd ra : Reg) (s : State) : Out :=
  done s (fieldOp h rd ra 0 0 3 false (fun _ a => Word.ofN (clz a)) s)

/-- Counts trailing zeros of ra (R56). -/
def execCtz (h : Hdr) (rd ra : Reg) (s : State) : Out :=
  done s (fieldOp h rd ra 0 0 4 false (fun _ a => Word.ofN (ctz a)) s)

/-- Counts ones of ra (R56). -/
def execPopc (h : Hdr) (rd ra : Reg) (s : State) : Out :=
  done s (fieldOp h rd ra 0 0 5 false (fun _ a => Word.ofN (popc a)) s)

/-- Reverses the bit order of ra (R56). -/
def execBrev (h : Hdr) (rd ra : Reg) (s : State) : Out :=
  done s (fieldOp h rd ra 0 0 6 false (fun _ a => brev a) s)

/-- Reverses the byte order of ra (R56). -/
def execBswap (h : Hdr) (rd ra : Reg) (s : State) : Out :=
  done s (fieldOp h rd ra 0 0 7 false (fun _ a => bswap a) s)

/-- `fmul.q`: the exact signed product shifted right by sh, rounded and saturated; with the trap bit, saturation traps
FXP_SAT and rd is not written (R57, R58). -/
def execFmulQ (h : Hdr) (rd ra rb : Reg) (mode : BitVec 2) (t : Bool) (sh : BitVec 5) (s : State) : Out :=
  done s (runInstr h { word := encA 2 rd ra rb (mode.toNat * 64 + bit t * 32 + sh.toNat), grp := .fixed }
    (fun k s =>
      let x := roundShift (modeOf mode) ((reg s k ra).toInt * (reg s k rb).toInt) sh.toNat
      if t ∧ outOf 32 x then .trap s { cause := 5 } else .ok (setReg s k rd (satW x))) s)

/-- The first word of an accumulator instruction (R59). -/
def encAcc (rd ra f12 : Nat) (acc : BitVec 3) (mode op : Nat) : Word :=
  encF 3 [(rd, 18), (ra, 13), (f12, 8), (acc.toNat, 5), (mode, 3), (op, 0)]

/-- Writes an accumulator from its signed value and ra (R59, R60). -/
def accOp (h : Hdr) (w : Word) (acc : BitVec 3) (ra : Reg) (bad : Bool) (f : Acc → Word → Word → Acc) (rb : Reg) (s : State) :
    State :=
  runInstr h { word := w, grp := .fixed, bad := bad }
    (fun k s =>
      let c := getCtx s k
      .ok (setCtx s k (wrA c acc (f (rdA c acc) (rdG c ra) (rdG c rb))))) s

/-- acc + ra × rb, saturating silently (R59, R60). -/
def execFmac (h : Hdr) (acc : BitVec 3) (ra rb : Reg) (s : State) : Out :=
  done s (accOp h (encAcc 0 ra.toNat rb.toNat acc 0 0) acc ra false (fun v a b => satAcc (v.toInt + a.toInt * b.toInt)) rb s)

/-- acc - ra × rb, saturating silently (R59, R60). -/
def execFmsc (h : Hdr) (acc : BitVec 3) (ra rb : Reg) (s : State) : Out :=
  done s (accOp h (encAcc 0 ra.toNat rb.toNat acc 0 1) acc ra false (fun v a b => satAcc (v.toInt - a.toInt * b.toInt)) rb s)

/-- acc becomes 0 (R59). -/
def execAccClr (h : Hdr) (acc : BitVec 3) (s : State) : Out :=
  done s (accOp h (encAcc 0 0 0 acc 0 2) acc 0 false (fun _ _ _ => 0) 0 s)

/-- acc becomes ra sign-extended and shifted left by sh, saturating silently (R59, R60). -/
def execAccLd (h : Hdr) (acc : BitVec 3) (ra : Reg) (sh : BitVec 5) (s : State) : Out :=
  done s (accOp h (encAcc 0 ra.toNat sh.toNat acc 0 3) acc ra false (fun _ a _ => satAcc (a.toInt * (2 ^ sh.toNat : Nat))) 0 s)

/-- rd takes acc shifted right by sh, rounded and saturated to 32 bits; with [13] set, saturation traps FXP_SAT (R59). -/
def execAccRd (h : Hdr) (rd : Reg) (acc : BitVec 3) (sh : BitVec 5) (mode : BitVec 2) (t : Bool) (s : State) : Out :=
  done s (runInstr h { word := encAcc rd.toNat (bit t) sh.toNat acc mode.toNat 4, grp := .fixed }
    (fun k s =>
      let x := roundShift (modeOf mode) (rdA (getCtx s k) acc).toInt sh.toNat
      if t ∧ outOf 32 x then .trap s { cause := 5 } else .ok (setReg s k rd (satW x))) s)

/-- rd takes raw word k of acc; k = 3 is ILLEGAL (R59). -/
def execAccRdw (h : Hdr) (rd : Reg) (acc : BitVec 3) (k : BitVec 2) (s : State) : Out :=
  done s (runInstr h { word := encAcc rd.toNat 0 k.toNat acc 0 5, grp := .fixed, bad := k == 3 }
    (fun c s => .ok (setReg s c rd (Word.ofN ((rdA (getCtx s c) acc).toNat / 2 ^ (32 * k.toNat))))) s)

/-- Raw word k of acc takes ra, ra[15:0] for k = 2; k = 3 is ILLEGAL (R59). -/
def execAccWrw (h : Hdr) (acc : BitVec 3) (ra : Reg) (k : BitVec 2) (s : State) : Out :=
  done s (accOp h (encAcc 0 ra.toNat k.toNat acc 0 6) acc ra (k == 3)
    (fun v a _ =>
      let lo := 32 * k.toNat
      let len := if k = 2 then 16 else 32
      BitVec.ofNat 80 (v.toNat - v.toNat / 2 ^ lo % 2 ^ len * 2 ^ lo + a.toNat % 2 ^ len * 2 ^ lo)) 0 s)

end Sys2Proof.Machine
end

