-- ==== Sys2Proof/Machine/Crypto.lean ====
section
/-! DEFINITION. The standard functions that KEY computes (R529, R535, R539, R547): SHA-384 and HMAC (FIPS 180-4, FIPS 198-1),
HKDF (RFC 5869), AES-256, GCM and CMAC (FIPS 197, SP 800-38D, SP 800-38B) and ECDSA P-384 (FIPS 186-5). Byte strings are in
the order that the standards define. -/
namespace Sys2Proof.Machine

/-! ## Byte strings -/

/-- Big-endian number of a byte string. -/
def beNat (l : List Byte) : Nat := l.foldl (fun n b => 256 * n + b.toNat) 0

/-- The `n` big-endian bytes of a number. -/
def beBytes (n v : Nat) : List Byte := (leBytes n v).reverse

/-- Splits a list into chunks of `k`, the last one maybe shorter. -/
def chunksOf {α : Type} (k : Nat) : Nat → List α → List (List α)
  | 0, _ => []
  | n + 1, l => if l.isEmpty then [] else l.take k :: chunksOf k n (l.drop k)

/-- Bytewise exclusive or. -/
def xorBytes (a b : List Byte) : List Byte := List.zipWith (· ^^^ ·) a b

/-! ## SHA-384 -/

/-- Largest natural whose cube is at most n. -/
def icbrtFrom (n : Nat) : Nat → Nat → Nat
  | 0, r => r
  | k + 1, r => let t := r + 2 ^ k; icbrtFrom n k (if t * t * t ≤ n then t else r)

/-- The first eighty primes. -/
def primes : List Nat :=
  [2, 3, 5, 7, 11, 13, 17, 19, 23, 29, 31, 37, 41, 43, 47, 53, 59, 61, 67, 71] ++
  [73, 79, 83, 89, 97, 101, 103, 107, 109, 113, 127, 131, 137, 139, 149, 151, 157, 163, 167, 173] ++
  [179, 181, 191, 193, 197, 199, 211, 223, 227, 229, 233, 239, 241, 251, 257, 263, 269, 271, 277, 281] ++
  [283, 293, 307, 311, 313, 317, 331, 337, 347, 349, 353, 359, 367, 373, 379, 383, 389, 397, 401, 409]

/-- The round constants: fractional parts of the cube roots of the first eighty primes. -/
def shaK : List (BitVec 64) := primes.map (fun p => BitVec.ofNat 64 (icbrtFrom (p * 2 ^ 192) 68 0))

/-- The initial hash of SHA-384: fractional parts of the square roots of the ninth to sixteenth primes. -/
def shaIv : List (BitVec 64) := ((primes.drop 8).take 8).map (fun p => BitVec.ofNat 64 (isqrt (p * 2 ^ 128)))

def rotr (x : BitVec 64) (n : Nat) : BitVec 64 := x.rotateRight n

/-- The message schedule, newest word first. -/
def shaSchedule : Nat → List (BitVec 64) → List (BitVec 64)
  | 0, l => l
  | n + 1, l =>
    let a := l.getD 1 0
    let b := l.getD 14 0
    let s1 := rotr a 19 ^^^ rotr a 61 ^^^ (a >>> 6)
    let s0 := rotr b 1 ^^^ rotr b 8 ^^^ (b >>> 7)
    shaSchedule n ((s1 + l.getD 6 0 + s0 + l.getD 15 0) :: l)

/-- One round. -/
def shaRound (h : List (BitVec 64)) (kw : BitVec 64 × BitVec 64) : List (BitVec 64) :=
  match h with
  | [a, b, c, d, e, f, g, x] =>
    let t1 := x + (rotr e 14 ^^^ rotr e 18 ^^^ rotr e 41) + ((e &&& f) ^^^ (~~~e &&& g)) + kw.1 + kw.2
    let t2 := (rotr a 28 ^^^ rotr a 34 ^^^ rotr a 39) + ((a &&& b) ^^^ (a &&& c) ^^^ (b &&& c))
    [t1 + t2, a, b, c, d + t1, e, f, g]
  | l => l

/-- The compression of one block of 128 bytes. -/
def shaBlock (h : List (BitVec 64)) (blk : List Byte) : List (BitVec 64) :=
  let w0 := (chunksOf 8 16 blk).map (fun c => BitVec.ofNat 64 (beNat c))
  let w := (shaSchedule 64 w0.reverse).reverse
  List.zipWith (· + ·) h ((shaK.zip w).foldl shaRound h)

/-- SHA-384 of a byte string, 48 bytes (FIPS 180-4). -/
def sha384 (m : List Byte) : List Byte :=
  let n := m.length
  let padded := m ++ [0x80] ++ List.replicate ((239 - n % 128) % 128) 0 ++ beBytes 16 (8 * n)
  let h := (chunksOf 128 (padded.length / 128) padded).foldl shaBlock shaIv
  (h.flatMap (fun x => beBytes 8 x.toNat)).take 48

/-- HMAC with SHA-384 (FIPS 198-1). -/
def hmac384 (key m : List Byte) : List Byte :=
  let k := if 128 < key.length then sha384 key else key
  let k := k ++ List.replicate (128 - k.length) 0
  sha384 (k.map (· ^^^ 0x5C) ++ sha384 (k.map (· ^^^ 0x36) ++ m))

/-- HKDF-Expand (RFC 5869). -/
def hkdfExpand (prk info : List Byte) (n : Nat) : List Byte :=
  let t1 := hmac384 prk (info ++ [1])
  let t2 := hmac384 prk (t1 ++ info ++ [2])
  (t1 ++ t2).take n

/-! ## AES-256 -/

/-- Multiplication by x in GF(2^8). -/
def xtime (b : Byte) : Byte := if b.getLsbD 7 then (b <<< 1) ^^^ 0x1B else b <<< 1

/-- Product in GF(2^8). -/
def gmul (a b : Byte) : Byte :=
  ((List.range 8).foldl (fun (acc : Byte × Byte) i => (if b.getLsbD i then acc.1 ^^^ acc.2 else acc.1, xtime acc.2)) (0, a)).1

/-- Inverse in GF(2^8), 0 for 0: the 254th power. -/
def ginv (a : Byte) : Byte :=
  let a2 := gmul a a
  let a4 := gmul a2 a2
  let a8 := gmul a4 a4
  let a16 := gmul a8 a8
  let a32 := gmul a16 a16
  let a64 := gmul a32 a32
  let a128 := gmul a64 a64
  gmul a2 (gmul a4 (gmul a8 (gmul a16 (gmul a32 (gmul a64 a128)))))

/-- The S-box. -/
def sbox (b : Byte) : Byte :=
  let i := ginv b
  i ^^^ i.rotateLeft 1 ^^^ i.rotateLeft 2 ^^^ i.rotateLeft 3 ^^^ i.rotateLeft 4 ^^^ 0x63

/-- The key schedule of AES-256: sixty four-byte words, newest first, and the round constant. -/
def aesSchedule : Nat → Nat → Byte → List (List Byte) → List (List Byte)
  | 0, _, _, l => l
  | n + 1, i, rc, l =>
    let t := l.getD 0 []
    let (t, rc) :=
      if i % 8 = 0 then
        (match (t.drop 1 ++ t.take 1).map sbox with | b :: r => (b ^^^ rc) :: r | [] => [], xtime rc)
      else if i % 8 = 4 then (t.map sbox, rc) else (t, rc)
    aesSchedule n (i + 1) rc (xorBytes (l.getD 7 []) t :: l)

/-- The fifteen round keys. -/
def aesKeys (key : List Byte) : List (List Byte) :=
  chunksOf 16 15 ((aesSchedule 52 8 1 (chunksOf 4 8 key).reverse).reverse.flatten)

def shiftRows (s : List Byte) : List Byte := (List.range 16).map (fun i => s.getD ((i + 4 * (i % 4)) % 16) 0)

def mixColumn (c : List Byte) : List Byte :=
  (List.range 4).map (fun i =>
    gmul 2 (c.getD i 0) ^^^ gmul 3 (c.getD ((i + 1) % 4) 0) ^^^ c.getD ((i + 2) % 4) 0 ^^^ c.getD ((i + 3) % 4) 0)

/-- AES-256 of one block (FIPS 197). -/
def aes256 (key blk : List Byte) : List Byte :=
  let ks := aesKeys key
  let s := xorBytes blk (ks.getD 0 [])
  let s := ((ks.drop 1).take 13).foldl (fun s k =>
    xorBytes ((chunksOf 4 4 (shiftRows (s.map sbox))).flatMap mixColumn) k) s
  xorBytes (shiftRows (s.map sbox)) (ks.getD 14 [])

/-- Product in GF(2^128) in GCM's bit order. -/
def ghMul (x y : BitVec 128) : BitVec 128 :=
  ((List.range 128).foldl (fun (acc : BitVec 128 × BitVec 128) i =>
    (if x.getMsbD i then acc.1 ^^^ acc.2 else acc.1,
     if acc.2.getLsbD 0 then (acc.2 >>> 1) ^^^ (0xE1#128 <<< 120) else acc.2 >>> 1)) (0, y)).1

/-- A byte string padded with zeros to whole blocks. -/
def pad16 (l : List Byte) : List Byte := l ++ List.replicate ((16 - l.length % 16) % 16) 0

/-- GHASH of a whole number of blocks. -/
def ghash (h : BitVec 128) (l : List Byte) : BitVec 128 :=
  (chunksOf 16 (l.length / 16) l).foldl (fun y b => ghMul (y ^^^ BitVec.ofNat 128 (beNat b)) h) 0

/-- The counter mode of GCM: `m` combined with the key stream from byte `ofs` on. -/
def gcmCtr (key iv : List Byte) (ofs : Nat) (m : List Byte) : List Byte :=
  let b0 := ofs / 16
  let nb := (ofs % 16 + m.length + 15) / 16
  let stream := (List.range nb).flatMap (fun i => aes256 key (iv ++ beBytes 4 ((2 + b0 + i) % 2 ^ 32)))
  xorBytes m (stream.drop (ofs % 16))

/-- The tag of GCM over the AAD and the ciphertext (SP 800-38D). -/
def gcmTag (key iv aad ct : List Byte) : List Byte :=
  let h := BitVec.ofNat 128 (beNat (aes256 key (List.replicate 16 0)))
  let s := ghash h (pad16 aad ++ pad16 ct ++ beBytes 8 (8 * aad.length) ++ beBytes 8 (8 * ct.length))
  xorBytes (aes256 key (iv ++ [0, 0, 0, 1])) (beBytes 16 s.toNat)

/-- Doubling in the field of CMAC. -/
def cmacDbl (x : BitVec 128) : BitVec 128 := if x.getLsbD 127 then (x <<< 1) ^^^ 0x87 else x <<< 1

/-- CMAC with AES-256 (SP 800-38B). -/
def cmac256 (key m : List Byte) : List Byte :=
  let k1 := cmacDbl (BitVec.ofNat 128 (beNat (aes256 key (List.replicate 16 0))))
  let full := m.length % 16 = 0 ∧ m ≠ []
  let n := if full then m.length / 16 else m.length / 16 + 1
  let body := m.take (16 * (n - 1))
  let last := m.drop (16 * (n - 1))
  let last := if full then xorBytes last (beBytes 16 k1.toNat)
    else xorBytes (pad16 (last ++ [0x80])) (beBytes 16 (cmacDbl k1).toNat)
  let c := (chunksOf 16 n body).foldl (fun c b => aes256 key (xorBytes c b)) (List.replicate 16 0)
  aes256 key (xorBytes c last)

/-! ## P-384 -/

/-- The field prime. -/
def p384 : Nat := 2 ^ 384 - 2 ^ 128 - 2 ^ 96 + 2 ^ 32 - 1
/-- The group order. -/
def n384 : Nat := 0xFFFFFFFFFFFFFFFFFFFFFFFFFFFFFFFFFFFFFFFFFFFFFFFFC7634D81F4372DDF581A0DB248B0A77AECEC196ACCC52973
/-- The curve's b. -/
def b384 : Nat := 0xB3312FA7E23EE7E4988E056BE3F82D19181D9C6EFE8141120314088F5013875AC656398D8A2ED19D2A85C8EDD3EC2AEF
/-- The base point. -/
def g384 : Nat × Nat :=
  (0xAA87CA22BE8B05378EB1C71EF320AD746E1D3B628BA79B9859F741E082542A385502F25DBF55296C3A545E3872760AB7,
   0x3617DE4A96262C6F5D9E98BF9292DC29F8F41DBD289A147CE9DA3113B5F0B8C00A60B1CE1D7E819D7A431D7C90EA0E5F)

/-- a^e mod m, by the bits of e from bit `k - 1` down. -/
def powMod (m a e : Nat) : Nat → Nat → Nat
  | 0, r => r
  | k + 1, r =>
    let r := r * r % m
    powMod m a e k (if e.testBit k then r * a % m else r)

/-- Inverse modulo a prime. -/
def invMod (m a : Nat) : Nat := powMod m (a % m) (m - 2) 384 1

/-- Sum of two points; none is the neutral one. -/
def ecAdd (a b : Option (Nat × Nat)) : Option (Nat × Nat) :=
  match a, b with
  | none, b => b
  | a, none => a
  | some (x1, y1), some (x2, y2) =>
    if x1 = x2 ∧ (y1 + y2) % p384 = 0 then none
    else
      let l :=
        if x1 = x2 then (3 * x1 * x1 + p384 - 3) * invMod p384 (2 * y1) % p384
        else (y2 + p384 - y1) * invMod p384 (x2 + p384 - x1) % p384
      let x3 := (l * l + 2 * p384 - x1 - x2) % p384
      some (x3, (l * (x1 + p384 - x3) + p384 - y1) % p384)

/-- k times a point, by the bits of k from bit `i - 1` down. -/
def ecMul (k : Nat) (p : Option (Nat × Nat)) : Nat → Option (Nat × Nat) → Option (Nat × Nat)
  | 0, r => r
  | i + 1, r =>
    let r := ecAdd r r
    ecMul k p i (if k.testBit i then ecAdd r p else r)

/-- The public key of a private one: x then y, 96 bytes (R529). -/
def ecPublic (d : List Byte) : List Byte :=
  match ecMul (beNat d) (some g384) 384 none with
  | some (x, y) => beBytes 48 x ++ beBytes 48 y
  | none => List.replicate 96 0

/-- ECDSA verification of a digest: public key x and y, signature r and s (FIPS 186-5). -/
def ecdsaVerify (pub digest sig : List Byte) : Bool :=
  let x := beNat (pub.take 48)
  let y := beNat (pub.drop 48)
  let r := beNat (sig.take 48)
  let t := beNat (sig.drop 48)
  let z := beNat digest
  let onCurve := x < p384 && y < p384 && (y * y) % p384 == (x * x * x + (p384 - 3) * x + b384) % p384
  if pub.length = 96 ∧ sig.length = 96 ∧ onCurve ∧ 0 < r ∧ r < n384 ∧ 0 < t ∧ t < n384 then
    let w := invMod n384 t
    match ecAdd (ecMul (z * w % n384) (some g384) 384 none) (ecMul (r * w % n384) (some (x, y)) 384 none) with
    | some (px, _) => px % n384 == r
    | none => false
  else false

/-- ECDSA signature of a digest with the per-message secret k (FIPS 186-5). -/
def ecdsaSign (d digest : List Byte) (k : Nat) : List Byte :=
  match ecMul k (some g384) 384 none with
  | some (x, _) =>
    let r := x % n384
    beBytes 48 r ++ beBytes 48 ((beNat digest + r * beNat d) * invMod n384 k % n384)
  | none => List.replicate 96 0

end Sys2Proof.Machine
end

