-- ==== Sys2Proof/Machine/KeySlots.lean ====
section
/-! DEFINITION. KEY's slots: states, withdrawal, use counters, the DRBG and the answers to the tamper inputs (R528 to R537,
R551 to R553). -/
namespace Sys2Proof.Machine

/-! ## Slots -/

/-- A slot (R529). -/
def keySlot (s : State) (n : Nat) : KeySlot := Tbl.get {} s.key.slots n

/-- Replaces a slot. -/
def setKeySlot (s : State) (n : Nat) (x : KeySlot) : State :=
  { s with key := { s.key with slots := Tbl.put {} s.key.slots n x } }

/-- The slot holds a key that is VALID or whose counter is exhausted (R535, R537). -/
def KeySlot.holds (x : KeySlot) : Bool := x.st == 1 || x.st == 5

/-- The public key of an ECDSA or ML-DSA slot (R529, R539). -/
def KeySlot.pub (x : KeySlot) : List Byte := if x.kind = 3 then ecPublic x.key else x.key

/-- SHA-384 of the public key of an ECDSA kind, zeros for another (R530, R543). -/
def KeySlot.print (x : KeySlot) : List Byte :=
  if x.kind = 3 ∨ x.kind = 4 then (if x.key.isEmpty then x.fp else sha384 x.pub) else List.replicate 48 0

/-- A slot whose cells are zeroised stands in a new state; an empty one holds no key at all (R530, R533). -/
def KeySlot.leave (x : KeySlot) (st : Nat) : KeySlot :=
  if st = 0 then { gen := x.gen } else { x with st := st, key := [], fp := if x.kind = 3 ∨ x.kind = 4 then x.print else [] }

/-- The slots with a key whose chain of parents meets one of `l`, by at most `fuel` links (R533). -/
def descendants (s : State) : Nat → List Nat → List Nat
  | 0, l => l
  | fuel + 1, l =>
    let more := (s.key.slots.filter (fun e => e.2.holds && l.contains e.2.parent && !l.contains e.1)).map (·.1)
    descendants s fuel (l ++ more)

/-- Slots are withdrawn in one step (R533, R541): each of `l` takes state `st`, every descendant of one that held a key becomes
ORPHANED, their cells are zeroised, and the next use of a stream of theirs answers `code` or ORPHANED; event 611 once. -/
def withdraw (s : State) (l : List Nat) (st code : Nat) : State :=
  let roots := l.filter (fun n => (keySlot s n).holds)
  let all := descendants s 8 roots
  let s1 := l.foldl (fun s n => setKeySlot s n ((keySlot s n).leave st)) s
  let s2 := (all.filter (fun n => !l.contains n)).foldl (fun s n => setKeySlot s n ((keySlot s n).leave 2)) s1
  let broke (e : Nat × KeyStream) : Nat × KeyStream :=
    if e.2.broken ≠ 0 ∨ !all.contains e.2.slot then e
    else (e.1, { op := e.2.op, slot := e.2.slot, broken := if l.contains e.2.slot then code else 6 })
  let s3 := { s2 with key := { s2.key with streams := s2.key.streams.map broke } }
  if roots.isEmpty then s3 else raise s3 611

/-- Status of an operation on a slot by its state (R540): 0 when it is VALID. -/
def KeySlot.refusal (x : KeySlot) : Nat :=
  match x.st with | 0 => 3 | 1 => 0 | 2 => 6 | 3 => 8 | 4 => 9 | _ => 10

/-- Status of an operation that needs a kind and a permission (R529, R531, R540); the order of the checks is the model's
(assumption 6). -/
def keyCheck (s : State) (n : Nat) (kinds : List Nat) (perm : Option Nat) : Nat :=
  let x := keySlot s n
  if x.st ≠ 1 then x.refusal
  else if !kinds.contains x.kind then 4
  else match perm with
    | some b => if x.perms.testBit b then 0 else 5
    | none => 0

/-- A use is counted before the operation begins; a counter at 0 refuses it, the slot becomes EXHAUSTED, event 613 (R537). -/
def countUse (s : State) (n : Nat) : State × Bool :=
  let x := keySlot s n
  if !x.counted then (s, true)
  else if x.uses = 0 then (raise (setKeySlot s n { x with st := 5 }) 613, false)
  else (setKeySlot s n { x with uses := x.uses - 1 }, true)

/-! ## Random bits -/

/-- `n` free words as bytes. -/
def freeBytes (s : State) : Nat → State × List Byte
  | 0 => (s, [])
  | n + 1 =>
    let (s, l) := freeBytes s n
    let (s, w) := freeW s
    (s, l ++ leBytes 4 w.toNat)

/-- One request to the DRBG for `n` words (R536): it reseeds after every 65,536 requests. -/
def drbgDraw (s : State) (n : Nat) : State × List Byte :=
  let s :=
    if s.key.drbg + 1 = 65536 then fIncMod { s with key := { s.key with drbg := 0 } } 0x26 0xB 0 16
    else { s with key := { s.key with drbg := s.key.drbg + 1 } }
  freeBytes s n

/-- A private number from 56 bytes: 1 to q - 1, as 48 bytes (R535). -/
def ecPrivate (okm : List Byte) : List Byte := beBytes 48 (beNat okm % (n384 - 1) + 1)

/-- Words of random bits that a key of a kind takes, and the key made of them (R529, R535). -/
def keyWords (kind : Nat) : Nat := if kind = 1 then 8 else if kind = 2 then 12 else 14
def keyOf (kind : Nat) (okm : List Byte) : List Byte := if kind = 3 then ecPrivate okm else okm

/-- Depth of a key with a parent (R533). -/
def childDepth (s : State) (parent : Nat) : Nat := if parent = 0xFF then 0 else (keySlot s parent).depth + 1

/-- Slot 1, derived from slot 0 with an empty label (R532, R535, assumption 71). -/
def deriveBytes (s : State) (parent kind child : Nat) (label : List Byte) : List Byte :=
  let p := keySlot s parent
  let prk := hmac384 (List.replicate 48 0) p.key
  let info := [BitVec.ofNat 8 kind, BitVec.ofNat 8 child] ++ leBytes 4 p.gen.toNat ++ label
  keyOf kind (hkdfExpand prk info (4 * keyWords kind))

/-- A new root, slot 1 derived again, and the root generation (R554). -/
def newRoot (s : State) : State :=
  let (s, k) := drbgDraw s 12
  let s := setKeySlot s 0 { st := 1, kind := 2, perms := 0x20, origin := 1, gen := (keySlot s 0).gen + 1, key := k }
  let s := setKeySlot s 1
    { st := 1, kind := 3, parent := 0, depth := 1, origin := 2, gen := (keySlot s 1).gen + 1, key := deriveBytes s 0 3 1 [] }
  { s with key := { s.key with rootGen := s.key.rootGen + 1 } }

/-! ## Tamper -/

/-- The response of a source (R552). -/
def tamperResponse (s : State) (src : Nat) : Nat := fPart s 0x26 2 (2 * src) 2

/-- A source's bit in the latch byte, in BKP and in KEY's array (R551). -/
def latchSet (s : State) (src : Nat) : State := { s with key := { s.key with latch := s.key.latch ||| BitVec.ofNat 8 (2 ^ src) } }

/-- A source's response acts (R552). -/
def tamperAct (s : State) (src : Nat) : State :=
  let r := tamperResponse s src
  if r = 0 then s
  else
    let s := raise { s with key := { s.key with fired := s.key.fired ||| BitVec.ofNat 8 (2 ^ src) } } 608
    if r = 1 then post s 0x26 2 608 []
    else
      let s := latchSet s src
      let s := { s with key := { s.key with streams := [], locked := true } }
      let s := post s 0x26 3 608 []
      if r = 3 then withdraw s [0] 3 8 else s

/-- Keys are unlocked: the boot sequence has ended, and not in tamper-hold (R553, R590). -/
def deviceRuns (s : State) : Bool := 2 ≤ fPart s 2 0xD 24 8

/-- A source fires (R551 to R553): before the keys are unlocked, as while unpowered, one with LOCK or ERASE only sets the latch;
in sleep it sets the latch and acts at the wake. -/
def tamperFire (s : State) (src : Nat) : State :=
  if !deviceRuns s then (if 2 ≤ tamperResponse s src then latchSet s src else s)
  else if s.pwr.asleep && 2 ≤ tamperResponse s src then
    let s := latchSet s src
    { s with key := { s.key with slept := s.key.slept ||| BitVec.ofNat 8 (2 ^ src) } }
  else tamperAct s src

/-- The sources that fired in sleep act at the wake (R553). -/
def tamperWake (s : State) : State :=
  let b := s.key.slept
  (List.range 8).foldl (fun s i => if b.getLsbD i then tamperAct s i else s) { s with key := { s.key with slept := 0 } }

/-- A tamper source fires; `levels` are the sources active then (R551, R556). -/
def execTamperFire (src : Fin 8) (levels : BitVec 8) (s : State) : Out :=
  done s (tamperFire { s with key := { s.key with active := levels } } src.val)

/-- Every 60 s KEY tests the check of every slot; `bad` are those that fail it (R534). A damaged slot found before a use is
such a test too (assumption 72). -/
def execKeyIntegritySweep (bad : BitVec 256) (s : State) : Out :=
  done s (
    let l := (List.range 256).filter (fun n => bad.getLsbD n && (keySlot s n).holds)
    if s.pwr.asleep || !deviceRuns s || l.isEmpty then s
    else l.foldl (fun s n => raisePost s 0x26 3 612 [Word.ofN n]) (withdraw s l 3 8))

/-- A continuous health test fails (R536). -/
def execEntropyHealthTestFail (s : State) : Out :=
  done s (
    if s.pwr.asleep || !deviceRuns s then s
    else raisePost (fInc { s with key := { s.key with entropyFail := true } } 0x26 0xB 16 16) 0x26 3 614 [])

/-- The start-up tests of the entropy source are repeated (R536). -/
def execEntropyRetest (pass : Bool) (s : State) : Out :=
  done s (
    if s.key.entropyFail && pass && !s.pwr.asleep && deviceRuns s then { s with key := { s.key with entropyFail := false } } else s)

end Sys2Proof.Machine
end

