-- ==== Sys2Proof/Machine/MlDsa.lean ====
section
/-! DEFINITION. ML-DSA-65 verification (FIPS 204, pure mode with an empty context) with the SHAKE functions it uses (FIPS 202), for
envelopes (R529, R544, R547). Byte strings are in the order that the standards define. -/
namespace Sys2Proof.Machine

/-! ## SHAKE -/

/-- A lane of the Keccak state, by its number x + 5 y. -/
def lane (a : List (BitVec 64)) (x y : Nat) : BitVec 64 := a.getD (x % 5 + 5 * (y % 5)) 0

/-- The rotation of each lane: the walk of FIPS 202 through the lanes from (1, 0), newest first. -/
def rhoWalk : Nat → Nat → Nat → Nat → List (Nat × Nat)
  | 0, _, _, _ => []
  | n + 1, t, x, y => (x + 5 * y, (t + 1) * (t + 2) / 2 % 64) :: rhoWalk n (t + 1) y ((2 * x + 3 * y) % 5)

/-- Rotation of lane `i`; lane 0 stays. -/
def rhoOf (i : Nat) : Nat := ((rhoWalk 24 0 1 0).find? (fun e => e.1 == i)).elim 0 (·.2)

/-- The round constants of Keccak. -/
def keccakRc : List (BitVec 64) :=
  [0x0000000000000001, 0x0000000000008082, 0x800000000000808A, 0x8000000080008000, 0x000000000000808B, 0x0000000080000001,
   0x8000000080008081, 0x8000000000008009, 0x000000000000008A, 0x0000000000000088, 0x0000000080008009, 0x000000008000000A] ++
  [0x000000008000808B, 0x800000000000008B, 0x8000000000008089, 0x8000000000008003, 0x8000000000008002, 0x8000000000000080,
   0x000000000000800A, 0x800000008000000A, 0x8000000080008081, 0x8000000000008080, 0x0000000080000001, 0x8000000080008008]

/-- One round of Keccak. -/
def keccakRound (a : List (BitVec 64)) (rc : BitVec 64) : List (BitVec 64) :=
  let c := (List.range 5).map (fun x => (List.range 5).foldl (fun v y => v ^^^ lane a x y) 0)
  let d := (List.range 5).map (fun x => c.getD ((x + 4) % 5) 0 ^^^ (c.getD ((x + 1) % 5) 0).rotateLeft 1)
  let b := (List.range 25).map (fun i => (a.getD i 0 ^^^ d.getD (i % 5) 0).rotateLeft (rhoOf i))
  let b' (x y : Nat) : BitVec 64 := lane b (x + 3 * y) x
  let e := (List.range 25).map (fun i => b' (i % 5) (i / 5) ^^^ (~~~b' (i % 5 + 1) (i / 5) &&& b' (i % 5 + 2) (i / 5)))
  e.set 0 (e.getD 0 0 ^^^ rc)

/-- Keccak-f[1600]. -/
def keccak (a : List (BitVec 64)) : List (BitVec 64) := keccakRc.foldl keccakRound a

/-- The state takes a block of `rate` bytes. -/
def absorbBlock (a : List (BitVec 64)) (blk : List Byte) : List (BitVec 64) :=
  keccak ((List.range 25).map (fun i => a.getD i 0 ^^^ BitVec.ofNat 64 (leNat ((blk.drop (8 * i)).take 8))))

/-- `n` blocks of output. -/
def squeeze (rate : Nat) : Nat → List (BitVec 64) → List Byte
  | 0, _ => []
  | n + 1, a => (a.flatMap (fun x => leBytes 8 x.toNat)).take rate ++ squeeze rate n (keccak a)

/-- SHAKE with a rate in bytes: 168 for SHAKE128, 136 for SHAKE256; `n` blocks of output. -/
def shake (rate n : Nat) (m : List Byte) : List Byte :=
  let z := rate - 1 - m.length % rate
  let padded := if z = 0 then m ++ [0x9F] else m ++ [0x1F] ++ List.replicate (z - 1) 0 ++ [0x80]
  squeeze rate n ((chunksOf rate (padded.length / rate) padded).foldl absorbBlock (List.replicate 25 0))

/-- H of FIPS 204: at most 136 bytes of SHAKE256. -/
def hashH (m : List Byte) (n : Nat) : List Byte := (shake 136 1 m).take n

/-! ## Polynomials: 256 coefficients below q -/

/-- The modulus of ML-DSA. -/
def mlQ : Nat := 8380417

/-- Reverses the low 8 bits. -/
def bitRev8 (m : Nat) : Nat := (List.range 8).foldl (fun v i => v + bit (m.testBit i) * 2 ^ (7 - i)) 0

/-- Power modulo q by squaring, with the bits of an exponent below 2^9. -/
def powQ (b e : Nat) : Nat :=
  ((List.range 9).foldl (fun (acc : Nat × Nat) i => (if e.testBit i then acc.1 * acc.2 % mlQ else acc.1, acc.2 * acc.2 % mlQ)) (1, b)).1

/-- The m-th root of the transform; `back` gives its inverse. -/
def mlZeta (m : Nat) (back : Bool) : Nat := powQ 1753 (if back then 512 - bitRev8 m else bitRev8 m)

/-- Sum, difference and product of coefficients. -/
def addQ (a b : Nat) : Nat := (a + b) % mlQ
def subQ (a b : Nat) : Nat := (a + mlQ - b) % mlQ
def mulQ (a b : Nat) : Nat := a * b % mlQ

/-- The number-theoretic transform, block m of its layer, with `n` layers to go. -/
def ntt : Nat → Nat → List Nat → List Nat
  | 0, _, w => w
  | n + 1, m, w =>
    let z := mlZeta m false
    let a := w.take (2 ^ n)
    let t := (w.drop (2 ^ n)).map (mulQ z)
    ntt n (2 * m) (List.zipWith addQ a t) ++ ntt n (2 * m + 1) (List.zipWith subQ a t)

/-- The inverse transform, without the factor 1/256. -/
def nttBack : Nat → Nat → List Nat → List Nat
  | 0, _, w => w
  | n + 1, m, w =>
    let z := mlZeta m true
    let a := nttBack n (2 * m) (w.take (2 ^ n))
    let b := nttBack n (2 * m + 1) (w.drop (2 ^ n))
    List.zipWith addQ a b ++ (List.zipWith subQ a b).map (mulQ z)

/-- Both on a whole polynomial; 8347681 is 1/256. -/
def toNtt (w : List Nat) : List Nat := ntt 8 1 w
def ofNtt (w : List Nat) : List Nat := (nttBack 8 1 w).map (mulQ 8347681)

/-! ## Sampling -/

/-- The coefficients that three bytes each give, those at or above q left out. -/
def rejThree : List Byte → List Nat
  | a :: b :: c :: l =>
    let z := c.toNat % 128 * 65536 + b.toNat * 256 + a.toNat
    if z < mlQ then z :: rejThree l else rejThree l
  | _ => []

/-- An entry of the matrix, in the transform's domain, from 1,008 bytes of SHAKE128. -/
def expandA (rho : List Byte) (r s : Nat) : List Nat :=
  (rejThree (shake 168 6 (rho ++ [BitVec.ofNat 8 s, BitVec.ofNat 8 r]))).take 256

/-- The steps of SampleInBall from coefficient i on: the signs that are left, the bytes that are left. -/
def ballSteps : Nat → Nat → List Byte → List Bool → List Nat → List Nat
  | 0, _, _, _, c => c
  | _, _, [], _, c => c
  | _, _, _, [], c => c
  | fuel + 1, i, j :: l, h :: hs, c =>
    if 256 ≤ i then c
    else if i < j.toNat then ballSteps fuel i l (h :: hs) c
    else ballSteps fuel (i + 1) l hs ((c.set i (c.getD j.toNat 0)).set j.toNat (if h then mlQ - 1 else 1))

/-- The challenge polynomial: 49 coefficients are 1 or -1. -/
def sampleInBall (seed : List Byte) : List Nat :=
  let b := shake 136 3 seed
  let signs := (List.range 64).map (fun i => (b.getD (i / 8) 0).getLsbD (i % 8))
  ballSteps b.length (256 - 49) (b.drop 8) signs (List.replicate 256 0)

/-! ## Encodings -/

/-- The values of `w` bits each that a byte string packs, the lowest bits first. -/
def unpackBits (w n : Nat) (l : List Byte) : List Nat :=
  let v := leNat l
  (List.range n).map (fun i => v / 2 ^ (w * i) % 2 ^ w)

/-- The hints of one polynomial: its positions must rise. -/
def risesFrom : List Byte → Bool
  | a :: b :: l => a.toNat < b.toNat && risesFrom (b :: l)
  | _ => true

/-- The positions of the hints of each polynomial; none when they are malformed. -/
def hintUnpack (y : List Byte) : Option (List (List Byte)) :=
  let ends := 0 :: (List.range 6).map (fun i => (y.getD (55 + i) 0).toNat)
  let parts := (List.range 6).map (fun i => (y.drop (ends.getD i 0)).take (ends.getD (i + 1) 0 - ends.getD i 0))
  let ok := (List.range 6).all (fun i => ends.getD i 0 ≤ ends.getD (i + 1) 0 && ends.getD (i + 1) 0 ≤ 55) && parts.all risesFrom &&
    ((y.take 55).drop (ends.getD 6 0)).all (· == 0)
  if ok then some parts else none

/-- High part of a coefficient, corrected by its hint; 2 γ2 = 523,776. -/
def useHint (hint : Bool) (r : Nat) : Nat :=
  let low := r % 523776
  let r0 : Int := if low ≤ 261888 then low else (low : Int) - 523776
  let top : Bool := (r : Int) - r0 == 8380416
  let r1 : Nat := if top then 0 else (((r : Int) - r0) / 523776).toNat
  let r0 := if top then r0 - 1 else r0
  if !hint then r1 else if 0 < r0 then (r1 + 1) % 16 else (r1 + 15) % 16

/-- Two values of four bits in a byte. -/
def packNibbles : List Nat → List Byte
  | a :: b :: l => BitVec.ofNat 8 (a + 16 * b) :: packNibbles l
  | _ => []

/-! ## Verification -/

/-- ML-DSA-65 verification of a message (FIPS 204, algorithms 3 and 8): public key of 1,952 bytes, message, signature of 3,309. -/
def mlDsaVerify (pub msg sig : List Byte) : Bool :=
  match hintUnpack (sig.drop 3248) with
  | none => false
  | some hints =>
    let rho := pub.take 32
    let t1 := (chunksOf 320 6 (pub.drop 32)).map (unpackBits 10 256)
    let seed := sig.take 48
    let z : List (List Int) := (chunksOf 640 5 ((sig.drop 48).take 3200)).map (fun c => (unpackBits 20 256 c).map (fun x => 524288 - (x : Int)))
    let mu := hashH (hashH pub 64 ++ [0, 0] ++ msg) 64
    let c := toNtt (sampleInBall seed)
    let zh := z.map (fun (p : List Int) => toNtt (p.map (fun (x : Int) => (x % (mlQ : Int)).toNat)))
    let w1 := (List.range 6).map (fun r =>
      let az := ((List.range 5).map (fun s => List.zipWith mulQ (expandA rho r s) (zh.getD s []))).foldl (fun a b => List.zipWith addQ a b)
        (List.replicate 256 0)
      let ct := List.zipWith mulQ c (toNtt ((t1.getD r []).map (fun x => mulQ x 8192)))
      let w := ofNtt (List.zipWith subQ az ct)
      let h := hints.getD r []
      (w.zipIdx).map (fun e => useHint (h.any (fun p => p.toNat == e.2)) e.1))
    pub.length == 1952 && sig.length == 3309 && z.all (fun p => p.all (fun x => decide (x.natAbs < 524092)))
      && hashH (mu ++ w1.flatMap packNibbles) 48 == seed

end Sys2Proof.Machine
end

