-- ==== Sys2Proof/Machine/Envelope.lean ====
section
/-! DEFINITION. Aqquel envelopes: verification, their bookkeeping and the payloads whose target is KEY (R542, R544 to R550, R554,
R555, R589). -/
namespace Sys2Proof.Machine

/-! ## Verification -/

/-- The permission that both signers of a payload type need (R531). -/
def envPerm (ty : Nat) : Nat := if ty = 6 then 8 else if ty = 7 ∨ 0x10 ≤ ty then 7 else 6

/-- The targets of a payload type, as unit × 1024 + index (R545). -/
def envTargetOk (ty target : Nat) : Bool :=
  let u := target / 1024
  let i := target % 1024
  match ty with
  | 1 => u == 0x12 && i == 0
  | 2 => u == 0x13 && i == 0
  | 3 => u == 0x14 && i == 1
  | 4 => u == 0x14 && i == 2
  | 5 => 4 ≤ u && u ≤ 0x0B && i == 0
  | 6 => u == 0x0C && i == 0
  | 7 => u == 0x24 && i == 0
  | 8 => u == 0 && i == 0
  | 9 => u == 0x14 && i == 0
  | 10 => u == 0x11 && i ≤ 15
  | 0x10 => u == 0x26 && 4 ≤ i && i ≤ 255
  | 0x11 => u == 0x26 && 4 ≤ i && i ≤ 255
  | 0x12 => u == 0x26 && i == 0x3FF
  | 0x13 => u == 0x26 && i == 0x3FE
  | _ => false

/-- All bytes of a part of an envelope are zero. -/
def envZero (d : List Byte) (ofs len : Nat) : Bool := ((d.drop ofs).take len).all (· == 0)

/-- Step 1 of R547: format, size, type, target and zero fields (R544). -/
def envFormatOk (d : List Byte) : Bool :=
  let l := natAt d 32 4
  let p := (l + 3) / 4 * 4
  80 ≤ d.length && natAt d 0 2 == 1 && 1 ≤ l && l ≤ 16773728 && d.length == p + 3488 && natAt d 36 1 ≤ 1 && envZero d 38 2 &&
  envZero d 68 12 && (natAt d 36 1 == 1 || (envZero d 37 1 && envZero d 40 28)) && envZero d (80 + l) (p - l) &&
  envZero d (176 + p + 3309) 3 && envTargetOk (natAt d 2 2) (natAt d 4 2)

/-- A signer slot is VALID, of its kind, and carries the permission (R547 step 4). -/
def signerOk (s : State) (n kind ty : Nat) : Bool := keyCheck s n [kind] (some (envPerm ty)) == 0

/-- The payload of an envelope: in the clear, or decrypted when the tag and the slot allow it (R547 step 7). -/
def envPayload (s : State) (d : List Byte) : State × Option (List Byte) :=
  let body := (d.drop 80).take (natAt d 32 4)
  if natAt d 36 1 = 0 then (s, some body)
  else
    let n := natAt d 37 1
    if keyCheck s n [1] (some 9) ≠ 0 then (s, none)
    else match countUse s n with
      | (s, false) => (s, none)
      | (s, true) =>
        let key := (keySlot s n).key
        let iv := (d.drop 40).take 12
        if gcmTag key iv (d.take 36) body = (d.drop 52).take 16 then (s, some (gcmCtr key iv 0 body)) else (s, none)

/-- Step 3 of R547: the reason of a counter that is refused. At start-up an image must reach its target's floor, and a
tamper clear must be above MONO. -/
def envCounter (s : State) (boot : Bool) (ty target c : Nat) : Nat :=
  if !boot || ty == 0x12 then (if s.key.mono < c then 0 else 3)
  else if Tbl.get 0 s.key.floors target ≤ c then 0 else 4

/-- The steps of R547 in order: the reason code of the first that fails, or 0 and the payload. The signers' use counters count
once step 4 has passed (R537). -/
def envSteps (s : State) (boot : Bool) (d : List Byte) : State × Nat × List Byte :=
  let ty := natAt d 2 2
  let p := (natAt d 32 4 + 3) / 4 * 4
  let es := natAt d 6 1
  let ms := natAt d 7 1
  let c := envCounter s boot ty (natAt d 4 2) (natAt d 24 8)
  if s.key.locked then (s, 9, [])
  else if !envFormatOk d then (s, 1, [])
  else if natAt d 8 16 ≠ Config.identity.toNat then (s, 2, [])
  else if c ≠ 0 then (s, c, [])
  else if !signerOk s es 4 ty || !signerOk s ms 5 ty then (s, 5, [])
  else
    let (s, okE) := countUse s es
    let (s, okM) := countUse s ms
    if !okE || !okM then (s, 5, [])
    else if !ecdsaVerify (keySlot s es).key (sha384 (d.take (80 + p))) ((d.drop (80 + p)).take 96) then (s, 6, [])
    else if !mlDsaVerify (keySlot s ms).key (d.take (80 + p)) ((d.drop (176 + p)).take 3309) then (s, 7, [])
    else match envPayload s d with
      | (s, some body) => (s, 0, body)
      | (s, none) => (s, 8, [])

/-- A refused envelope: ENV_STATUS, ENV_COUNT, event 609 and its record (R547, R556). -/
def envRefuse (s : State) (d : List Byte) (reason : Nat) : State :=
  let s := fSet s 0x26 8 (Word.ofN (natAt d 2 2 * 2 ^ 16 + reason))
  raisePost (fInc s 0x26 9 16 16) 0x26 2 609
    [Word.ofN (natAt d 2 2), Word.ofN (natAt d 4 2), Word.ofN (natAt d 24 4), Word.ofN (natAt d 28 4), Word.ofN reason]

/-- Verifies an envelope (R547): what an accepted one carries, and its payload. -/
def envVerify (s : State) (boot : Bool) (d : List Byte) : State × Option (EnvInfo × List Byte) :=
  match envSteps s boot d with
  | (s, 0, body) =>
    let s := fIncMod (fSet s 0x26 8 (Word.ofN (natAt d 2 2 * 2 ^ 16))) 0x26 9 0 16
    (s, some ({ ty := natAt d 2 2, target := natAt d 4 2, ctr := natAt d 24 8, digest := sha384 body, bytes := d }, body))
  | (s, reason, _) => (envRefuse s d reason, none)

/-! ## The images area -/

/-- Bytes of the images area that envelopes may take: MRAM above the journal and below the patch store (R101, R185, R589). -/
def imagesArea : Nat := 0x46FF80

/-- The images area can hold the envelope beside those stored or pending for other targets (R589, assumption 75). -/
def imagesFit (s : State) (e : EnvInfo) : Bool :=
  let pend := s.gate.filterMap (fun g => g.env.bind (fun x => if hasFloor x.ty then some x else none))
  let kept := s.key.stored.filter (fun x => x.1 != e.target && !pend.any (fun y => y.target == x.1))
  !hasFloor e.ty ||
    (kept.map (fun x => x.2.length)).sum + (pend.map (fun x => x.bytes.length)).sum + e.bytes.length ≤ imagesArea

/-! ## Payloads for KEY -/

/-- Key bytes of a kind (R529). -/
def kindBytes (kind : Nat) : Nat :=
  match kind with | 1 => 32 | 2 => 48 | 3 => 48 | 4 => 96 | 5 => 1952 | _ => 0

/-- A key-write payload is well formed for its slot, and its parent stands (R531, R533, R550). -/
def keyWriteOk (s : State) (enc : Bool) (d : List Byte) : Bool :=
  let kind := natAt d 0 1
  let parent := natAt d 1 1
  let perms := natAt d 2 2
  let flags := natAt d 8 1
  1 ≤ kind && kind ≤ 5 && perms < 0x800 && !(perms.testBit 8 && (perms.testBit 6 || perms.testBit 7)) &&
  flags < 4 && (flags.testBit 1 || natAt d 4 4 == 0) && natAt d 9 3 == 0 && natAt d 12 4 == kindBytes kind &&
  d.length == 16 + kindBytes kind && (enc || 4 ≤ kind) &&
  (parent == 0xFF || (kind ≤ 3 && keyCheck s parent [2] none == 0 && childDepth s parent < 8))

/-- A tamper-configuration payload (R555). -/
def tampCfgOk (d : List Byte) : Bool :=
  d.length == 9 && natAt d 0 2 == 0x13 && natAt d 4 4 < 0x100000 && natAt d 4 2 ≠ 0 && natAt d 8 1 ≤ 1

/-- A tamper-clear payload whose mask covers every latched source (R554). -/
def tampClearOk (s : State) (d : List Byte) : Bool :=
  d.length == 8 && natAt d 0 2 == 0x12 && natAt d 3 5 == 0 && (s.key.latch &&& ~~~ (d.getD 2 0)) == 0

/-- The payload's own rules for a payload whose target is KEY. -/
def keyPayloadOk (s : State) (e : EnvInfo) (d : List Byte) : Bool :=
  match e.ty with
  | 0x10 => keyWriteOk s (natAt e.bytes 36 1 == 1) d
  | 0x11 => d.length == 2 && natAt d 0 2 == 0x11
  | 0x12 => tampClearOk s d
  | _ => tampCfgOk d

/-- The gate's part of an UPDATE whose target is KEY (R24, R550): pending, or refused with reason FORMAT. -/
def keyAccept (s : State) (d : List Byte) (e : EnvInfo) : State × Bool :=
  if keyPayloadOk s e d then
    ({ s with gate := s.gate ++ [{ target := 0x26 * 64, env := some e, change := .payload e.ty d }] }, true)
  else (envRefuse s e.bytes 1, false)

/-- A key write (R541, R550). -/
def keyWrite (s : State) (n ctr : Nat) (d : List Byte) : State :=
  let s := if (keySlot s n).holds then withdraw s [n] 0 7 else s
  let flags := natAt d 8 1
  let parent := natAt d 1 1
  let s := setKeySlot s n
    { st := 1, kind := natAt d 0 1, parent := parent, depth := childDepth s parent, perms := natAt d 2 2
      counted := flags.testBit 1, expire := flags.testBit 0, origin := 3, uses := natAt d 4 4, gen := (keySlot s n).gen + 1
      ctr := ctr, key := d.drop 16 }
  raisePost s 0x26 2 610 []

/-- A key invalidation (R550). -/
def keyInvalidate (s : State) (n : Nat) : State := raisePost (withdraw s [n] 0 7) 0x26 2 610 []

/-- The tamper configuration as the array holds it (R528, R555). -/
def tampSave (s : State) : State :=
  { s with key := { s.key with tampNv := [fGet s 0x26 2, fGet s 0x26 3, fGet s 0x26 4] } }

/-- A tamper configuration from an envelope (R555): byte 8 keeps or opens the lock. -/
def tampConfigure (s : State) (d : List Byte) : State :=
  let s := fSet (fSet s 0x26 2 (Word.ofN (natAt d 2 2))) 0x26 3 (Word.ofN (natAt d 4 4))
  tampSave (if natAt d 8 1 = 0 then fSet s 0x26 4 0 else s)

/-- A tamper clear (R554). -/
def tampClear (s : State) : State := raisePost { s with key := { s.key with latch := 0 } } 0x26 3 615 []

/-- A payload whose target is KEY takes effect between two operations of KEY (R541, R550, R554, R555). A key write whose
parent has gone meanwhile is refused. -/
def keyApply (s : State) (e : EnvInfo) (d : List Byte) : State :=
  match e.ty with
  | 0x10 => keyWrite s (e.target % 1024) e.ctr d
  | 0x11 => keyInvalidate s (e.target % 1024)
  | 0x12 => tampClear s
  | _ => tampConfigure s d

/-- KEY's boundary for a change that the gate holds (R23, R541). -/
def keyGate (s : State) : State :=
  match gateFind s (0x26 * 64) with
  | some g =>
    match g.change, g.env with
    | .payload _ d, some e =>
      if keyPayloadOk s e d then gateDone (keyApply s e d) g else envRefuse (gateDrop s g.target) e.bytes 1
    | _, _ => s
  | none => s

end Sys2Proof.Machine
end

