-- ==== Sys2Proof/Machine/Images.lean ====
section
/-! DEFINITION. Cycle images, online change and forces (R347 to R360). -/
namespace Sys2Proof.Machine

/-! ## The image -/

/-- A symbol entry (R348). -/
def symOf (d : List Byte) : Sym :=
  let w := wordAt d 0
  { kind := w.field 28 4, ret := w.tst 21, initZero := w.tst 20, id := w.field 0 20, loc := natAt d 4 4, size := natAt d 8 4
    ty := wordAt d 3 }

/-- Why an image is refused: check code, symbol index or task number, offending value (R350, R615). -/
abbrev Refused := Nat × Nat × Nat

/-- Fields of the header with the rule of each, in the image's order (R347): check 1. -/
def imageFields (s : State) (n : Nat) (d : List Byte) : List (Bool × Nat) :=
  let z := natAt d 4 4
  let y := natAt d 8 4
  [(natAt d 0 2 == 5, natAt d 0 2), (natAt d 2 2 == 1, natAt d 2 2), (z % 4 == 0 && z ≤ windowStart s n, z),
   (y ≤ 65536, y), (natAt d 12 2 ≤ 127, natAt d 12 2), (natAt d 14 2 == 0, natAt d 14 2),
   ((List.range 16).all (fun i => natAt d (144 + i) 1 == 0), 0), (d.length == 160 + z + 16 * y + 4, d.length),
   (crc32c (d.take (d.length - 4)) == Word.ofN (natAt d (d.length - 4) 4), 0)]

/-- Check 2: the first entry outside the contents (R350). -/
def entryCheck (z : Nat) (es : List (Nat × Nat)) : Option Refused :=
  (es.zipIdx).findSome? (fun (e, t) =>
    if e.1 % 4 ≠ 0 ∨ z ≤ e.1 then some (2, t, e.1)
    else if e.2 ≠ 0 ∧ (e.2 % 4 ≠ 0 ∨ z ≤ e.2) then some (2, t, e.2) else none)

/-- Check 4: the first symbol whose ID an earlier one carries. -/
def dupCheck (syms : List Sym) : Option Refused :=
  (syms.zipIdx).findSome? (fun (x, i) => if (syms.take i).any (fun y => y.id == x.id) then some (4, i, x.id) else none)

/-- A location lies in its range, and a variable does not extend past it (R349, R350). The sizes of slots and image words are
not among the checks of R350 (assumption 42). -/
def locOk (s : State) (n : Nat) (x : Sym) : Bool :=
  let win := windowStart s n
  let inSlots (k : Nat) : Bool := let (a, c) := slotRange s n k; a ≤ x.loc && x.loc < a + c
  match x.kind with
  | 0 => x.loc + x.size ≤ win
  | 1 => win ≤ x.loc && x.loc + x.size ≤ 0x100000
  | 2 => inSlots 1
  | 3 => inSlots 2
  | 4 => inSlots 0
  | 5 => x.loc ≤ 0x7FFF8
  | 6 => 0x80000 ≤ x.loc && x.loc ≤ 0xFFFF8
  | _ => true

/-- RET and INIT_ZERO obey check 6: the value is the slot when it lies outside the retained ones, else word 0. -/
def flagBad (s : State) (n : Nat) (x : Sym) (w0 : Nat) : Option Nat :=
  let outside (k m : Nat) : Bool := let (a, _) := slotRange s n k; !(a ≤ x.loc && x.loc < a + m)
  if (x.ret && x.kind ≠ 2 && x.kind ≠ 3) || (x.initZero && x.kind ≠ 4) then some w0
  else if x.ret && ((x.kind = 2 && outside 1 (tmrRet s n)) || (x.kind = 3 && outside 2 (ctrRet s n))) then some x.loc
  else none

/-- A cycle image for core n, or the first failed check of R350. -/
def cycParse (s : State) (n : Nat) (d : List Byte) : Except Refused CycImage :=
  match (imageFields s n d).find? (fun f => !f.1) with
  | some f => .error (1, 0, f.2)
  | none =>
    let z := natAt d 4 4
    let entries := (List.range 16).map (fun t => (natAt d (16 + 8 * t) 4, natAt d (20 + 8 * t) 4))
    let raw := (List.range (natAt d 8 4)).map (fun i => (d.drop (160 + z + 16 * i)).take 16)
    let syms := raw.map symOf
    let ret := natAt d 12 2
    let word0 (i : Nat) : Nat := natAt (raw.getD i []) 0 4
    let checks : List (Option Refused) :=
      [entryCheck z entries,
       if varPages s n < ret then some (3, 0, ret) else none,
       dupCheck syms,
       (syms.zipIdx).findSome? (fun (x, i) => if locOk s n x then none else some (5, i, x.loc)),
       (syms.zipIdx).findSome? (fun (x, i) => (flagBad s n x (word0 i)).map (fun v => (6, i, v))),
       (syms.zipIdx).findSome? (fun (x, i) =>
         if 6 < x.kind ∨ word0 i / 2 ^ 22 % 64 ≠ 0 then some (7, i, word0 i) else none)]
    match checks.findSome? id with
    | some r => .error r
    | none => .ok { z := z, retPages := ret, entries := entries, content := toCells 0 ((d.drop 160).take z), syms := syms }

/-- The gate's part of an UPDATE with a cycle image (R24, R350): pending with its contents in the shadow bank, or refused with a
record. -/
def cycAccept (s : State) (n : Nat) (d : List Byte) (e : EnvInfo) : State :=
  match cycParse s n d with
  | .error (c, i, v) =>
    post (fSetPart s (4 + n) 0x026 0 2 3) (4 + n) 2 0x0604 [Word.ofN c, Word.ofN i, Word.ofN v]
  | .ok img =>
    let img := { img with meas := digestWord e.digest }
    let l := coreBank s n
    let bank := Tbl.get {} s.cyc.banks l
    let s := { s with
      cyc := { s.cyc with banks := Tbl.put {} s.cyc.banks l { bank with shadow := img.content } }
      gate := s.gate ++ [{ target := (4 + n) * 64, env := some e, change := .image img 0 }] }
    fSetPart s (4 + n) 0x026 0 2 1

/-! ## Forces -/

/-- The forces of a bank. -/
def bankForces (s : State) (l : Nat) : List Force := s.cyc.forces.filter (fun f => f.bank == l)

/-- A released force leaves its value in an output word until a task writes it (R358). -/
def forceKeep (s : State) (f : Force) : State :=
  if f.idx < 0x20000 then s
  else
    let p := Tbl.put 0 s.pi.pub f.idx f.lo
    let q := Tbl.del s.pi.prop f.idx
    { s with pi := { s.pi with
      pub := if f.pair then Tbl.put 0 p (f.idx + 1) f.hi else p, prop := if f.pair then Tbl.del q (f.idx + 1) else q } }

/-- Takes forces off the table. -/
def forceDrop (s : State) (fs : List Force) : State :=
  let s := fs.foldl forceKeep s
  { s with cyc := { s.cyc with forces := s.cyc.forces.filter (fun f => !fs.contains f) } }

/-- The record of an applied force operation (R357). -/
def forceRecord (s : State) (n : Nat) (f : Force) : State :=
  post s (4 + n) 1 0x0605 [Word.ofN f.bank, Word.ofN f.id, Word.ofN (4 * f.idx), f.lo]

/-- Two forces act on a common word. -/
def forceMeets (f g : Force) : Bool :=
  let last (x : Force) : Nat := x.idx + bit x.pair
  f.idx ≤ last g && g.idx ≤ last f

/-- Sets a force (R357): the state after it, and the result. -/
def forceSet (s : State) (n : Nat) (x : Sym) : State × Nat :=
  let l := coreBank s n
  let f : Force :=
    { bank := l, id := x.id, idx := x.loc / 4, pair := x.size == 8, lo := fGet s (4 + n) 0x021, hi := fGet s (4 + n) 0x022 }
  let same (g : Force) : Bool := g.bank == l && g.id == x.id
  if s.cyc.forces.any same then
    (forceRecord { s with cyc := { s.cyc with forces := s.cyc.forces.map (fun g => if same g then f else g) } } n f, 0)
  else if s.cyc.forces.any (forceMeets f) then (s, 5)
  else if 1024 ≤ s.cyc.forces.length then (s, 2)
  else (forceRecord { s with cyc := { s.cyc with forces := s.cyc.forces ++ [f] } } n f, 0)

/-- The force operation that a core's fields hold is applied (R357). -/
def forceOp (s : State) (n : Nat) : State :=
  let u := 4 + n
  let op := fPart s u 0x023 0 2
  if op = 0 then s
  else
    let l := coreBank s n
    let sym := match (Tbl.get {} s.cyc.banks l).image with
      | some img => img.syms.find? (fun (x : Sym) => x.id == fPart s u 0x020 0 20)
      | none => none
    let (s, res) : State × Nat :=
      if op = 3 then ((bankForces s l).foldl (fun s f => forceRecord s n f) (forceDrop s (bankForces s l)), 0)
      else match sym with
        | none => (s, 1)
        | some x =>
          if x.kind ≠ 5 ∧ x.kind ≠ 6 then (s, 3)
          else if op = 1 then forceSet s n x
          else match (bankForces s l).find? (fun (f : Force) => f.id == x.id) with
            | none => (s, 4)
            | some f => (forceRecord (forceDrop s [f]) n f, 0)
    actionDone (fSetPart s u 0x024 0 8 res) u 0x023 0 2

/-- Re-resolves the forces of a bank to a new image's symbols (R360): a force that moves, or is dropped, releases its old address
under R358. -/
def forceResolve (s : State) (n : Nat) (img : CycImage) : State :=
  let l := coreBank s n
  let target (f : Force) : Option Sym :=
    img.syms.find? (fun x => x.id == f.id && x.kind == (if f.idx < 0x20000 then 5 else 6) && x.size == (if f.pair then 8 else 4))
  let gone := (bankForces s l).filter (fun f => (target f).isNone)
  let moved := (bankForces s l).filter (fun f => match target f with | some x => x.loc / 4 != f.idx | none => false)
  let s := moved.foldl forceKeep (gone.foldl forceKeep s)
  let move (f : Force) : Force := match target f with | some x => { f with idx := x.loc / 4 } | none => f
  let s := { s with cyc := { s.cyc with
    forces := (s.cyc.forces.filter (fun f => !gone.contains f)).map (fun f => if f.bank == l then move f else f) } }
  gone.foldl (fun s f => post s (4 + n) 2 0x0606 [Word.ofN f.bank, Word.ofN f.id, Word.ofN (4 * f.idx)]) s

/-! ## The switch -/

/-- The old symbol that a new one takes its value or state from (R353, R354). -/
def carries (old : List Sym) (x : Sym) : Option Sym :=
  old.find? (fun o => o.id == x.id && o.kind == x.kind && x.kind ≤ 4 && (1 < x.kind || (o.size == x.size && o.ty == x.ty)))

/-- Old variables and slots that the new image does not take (R353). -/
def notCarried (old new : List Sym) : List Sym :=
  old.filter (fun o => o.kind ≤ 4 && !new.any (fun x => (carries [o] x).isSome))

/-- The slots after a switch: carried over, pending, or cleared (R354). -/
def mapSlots (s0 s : State) (n : Nat) (old new : List Sym) : State :=
  let p := s0.cyc.slots
  let s := clearSlots s n
  let q := new.foldl (fun (q : Slots) x =>
    match x.kind, carries old x with
    | 2, some o => { q with timers := Tbl.put {} q.timers x.loc (Tbl.get {} p.timers o.loc) }
    | 3, some o => { q with counters := Tbl.put {} q.counters x.loc (Tbl.get {} p.counters o.loc) }
    | 4, some o => { q with edges := Tbl.put {} q.edges x.loc (Tbl.get {} p.edges o.loc) }
    | 4, none => { q with edges := Tbl.put {} q.edges x.loc { pending := !x.initZero } }
    | _, _ => q) s.cyc.slots
  { s with cyc := { s.cyc with slots := q } }

/-- Entry fields of a core take the image's entry table, active and shadow (R347, R352). -/
def setEntries (s : State) (n : Nat) (es : List (Nat × Nat)) : State :=
  let put (s : State) (f : Nat) (v : Nat) : State :=
    let s := fSet s (4 + n) f (Word.ofN v)
    { s with cfg := { s.cfg with
        shadow := Tbl.del s.cfg.shadow (fid (4 + n) f), rewritten := s.cfg.rewritten.filter (· != fid (4 + n) f) } }
  (es.zipIdx).foldl (fun s (e, t) => put (put s (taskField t 3) e.1) (taskField t 4) e.2) s

/-- Abandons the cycles in progress; each task's next cycle starts with cause 0x00 (R351). -/
def dropCycles (s : State) (n : Nat) : State :=
  (List.range 16).foldl (fun s t =>
    if inCycle s n t then
      let s := dropCycle s n t
      setTask s n t { getTask s n t with causes := [] }
    else s) s

/-- An image switches (R352 to R356, R360). -/
def switchImage (s : State) (n : Nat) (g : GateItem) (img : CycImage) : State :=
  let s := dropCycles s n
  let l := coreBank s n
  let base := bankBase s n
  let bank := Tbl.get {} s.cyc.banks l
  let old : List Sym := match bank.image with | some i => i.syms | none => []
  let was := Tbl.slice s.mem.cells base 0x100000
  let s0 := s
  let s := loadRange s base 0x100000 (img.content.filter (fun c => c.1 < min img.z (windowStart s n)))
  let s := { s with cyc := { s.cyc with banks := Tbl.put {} s.cyc.banks l { image := some img, shadow := was } } }
  let s := setEntries s n img.entries
  let s := img.syms.foldl (fun s x =>
    match carries old x with
    | some o =>
      if x.kind ≤ 1 then
        { s with mem := { s.mem with cells := Tbl.replace 0 s.mem.cells (base + x.loc) x.size (Tbl.slice was o.loc x.size) } }
      else s
    | none => s) s
  let s := mapSlots s0 s n old img.syms
  let s := forceResolve s n img
  let lost := notCarried old img.syms
  let s := match lost with | [] => s | x :: _ => post s (4 + n) 1 0x0607 [Word.ofN lost.length, Word.ofN x.id]
  let s := fSetPart (fSetPart (fIncMod s (4 + n) 0x026 16 16) (4 + n) 0x026 8 8 (min 255 lost.length)) (4 + n) 0x026 0 2 2
  let s := gateDone s g
  let core := getCore s n
  commitPoint (setCore s n { core with
    needCommit := true, commit := core.commit.map (fun c => { c with fresh := false }) }) n

end Sys2Proof.Machine
end

