-- ==== Sys2Proof/Machine/Clock.lean ====
section
/-! DEFINITION. The real-time clock and the backup domain: the calendar, its setting, the alarm, PWR_ON and WAKE_BTN (R512 to
R526). -/
namespace Sys2Proof.Machine

/-! ## The calendar -/

/-- Steps a BCD field by the rules of R516: its new value and whether it carries. -/
def bcdStep (v tensBits endV start : Nat) : Nat × Bool :=
  if v = endV then (start, true)
  else
    let units := v % 16
    let (t, u) := if units = 9 ∨ units = 15 then (v / 16 + 1, 0) else (v / 16, units + 1)
    if 2 ^ tensBits ≤ t then (start, true) else (16 * t + u, false)

/-- The number that two decimal digits stand for, none for another value. -/
def bcdVal (v : Nat) : Option Nat := if v % 16 ≤ 9 ∧ v / 16 ≤ 9 then some (v / 16 * 10 + v % 16) else none

/-- A leap year (R517). -/
def leapYear (century year : Nat) : Bool :=
  match bcdVal century, bcdVal year with
  | some c, some y => let n := 100 * c + y; n % 4 == 0 && (n % 100 != 0 || n % 400 == 0)
  | _, _ => false

/-- Month length as a BCD value (R517). -/
def monthEnd (century year month : Nat) : Nat :=
  if month = 2 then (if leapYear century year then 0x29 else 0x28)
  else if month = 4 ∨ month = 6 ∨ month = 9 ∨ month = 0x11 then 0x30
  else 0x31

/-- One second of the calendar (R516): CAL_TIME and CAL_DATE. -/
def calStep_ (time date : Word) : Word × Word :=
  let (sec, c) := bcdStep (time.field 0 8) 3 0x59 0
  let (min_, c) := if c then bcdStep (time.field 8 8) 3 0x59 0 else (time.field 8 8, false)
  let (hour, c) := if c then bcdStep (time.field 16 8) 2 0x23 0 else (time.field 16 8, false)
  let (day, c) := if c then bcdStep (date.field 0 8) 2 (monthEnd (date.field 24 8) (date.field 16 8) (date.field 8 8)) 1
    else (date.field 0 8, false)
  let (mon, c) := if c then bcdStep (date.field 8 8) 1 0x12 1 else (date.field 8 8, false)
  let (year, c) := if c then bcdStep (date.field 16 8) 4 0x99 0 else (date.field 16 8, false)
  let cent := if c then (bcdStep (date.field 24 8) 4 0x99 0).1 else date.field 24 8
  (Word.ofN (hour * 65536 + min_ * 256 + sec), Word.ofN (cent * 2 ^ 24 + year * 65536 + mon * 256 + day))

/-- A calendar value as the number by which the alarm orders it (R522): century, year, month, day, hours, minutes, seconds. -/
def calKey (time date : Word) : Nat := date.toNat * 2 ^ 24 + time.toNat

/-- The calendar (R519). -/
def calTime (s : State) : Word := fGet s 0x25 1
def calDate (s : State) : Word := fGet s 0x25 2

/-! ## PWR_ON and the alarm -/

/-- PWR_ON is driven from the backup domain (R524). -/
def pwrOn (s : State) (b : Bool) : State := fSetBit s 0x25 0xB 4 b

/-- The alarm fires (R522). -/
def alarmFire (s : State) : State :=
  let s := fSetBit (fSetBit s 0x25 0xB 0 false) 0x25 0xB 1 true
  let s := raise s 592
  if fBit s 0x25 8 2 then pwrOn s true else s

/-- The alarm value's key. -/
def alarmKey (s : State) : Nat := calKey (fGet s 0x25 6) (fGet s 0x25 7)

/-- The alarm is armed and enabled. -/
def alarmArmed (s : State) : Bool := fBit s 0x25 0xB 0 && fBit s 0x25 8 0

/-- The alarm rules for an adjusted clock (R523). -/
def alarmAdjust (s : State) (a0 a1 : Nat) : State :=
  let al := alarmKey s
  if alarmArmed s && a0 < al && al ≤ a1 then (if fBit s 0x25 8 1 then alarmFire s else s)
  else if a1 < al && fBit s 0x25 8 0 then fSetBit s 0x25 0xB 0 true
  else s

/-- The prescaler completes a second (R516, R519, R522): the calendar steps, and the alarm fires when the step makes it equal. -/
def rtcSecond (s : State) : State :=
  let (t, d) := calStep_ (calTime s) (calDate s)
  let s := fSet (fSet s 0x25 1 t) 0x25 2 d
  if alarmArmed s && calKey t d == alarmKey s then alarmFire s else s

/-- A second of the calendar; the oscillator's periods within it are not shown (assumption 61). -/
def execRtcSecond (s : State) : Out := done s (rtcSecond s)

/-- A read of CAL_TIME latches the date and the prescaler (R520); where the prescaler stands within the second is free. -/
def rtcLatch (s : State) : State :=
  let (s, w) := freeW s
  { s with rtc := { s.rtc with latchDate := calDate s, latchSub := w.toNat % 32768 } }

/-- RTC's boundary applies a pending set (R519): the calendar shadows only with CAL_SET; an alarm value that changes arms the alarm
(R522); a set calendar is an adjustment (R523). -/
def rtcCommit (s : State) : State :=
  match Tbl.find s.cfg.pend 0x25 with
  | none => s
  | some p =>
    let v (f : Nat) : Option Word := Tbl.find p (fid 0x25 f)
    let set := match v 3 with | some w => w.tst 0 | none => false
    let a6 := fGet s 0x25 6
    let a7 := fGet s 0x25 7
    let s := [5, 6, 7, 8, 0xA].foldl (fun s f => if (v f).isSome then pendTake s 0x25 f else s) s
    let s := if (a6 ≠ fGet s 0x25 6 ∨ a7 ≠ fGet s 0x25 7) ∧ fBit s 0x25 8 0 then fSetBit s 0x25 0xB 0 true else s
    let s := { s with cfg := { s.cfg with pend := s.cfg.pend.filter (fun e => e.1 != 0x25) } }
    if !set then s
    else
      let t0 := calTime s
      let d0 := calDate s
      let t1 := (v 1).getD t0
      let d1 := (v 2).getD d0
      let keep := fun (e : Nat × Word) => (e.1 != fid 0x25 1 && e.1 != fid 0x25 2 && e.1 != fid 0x25 3) || s.cfg.rewritten.contains e.1
      let s := { s with cfg := { s.cfg with shadow := s.cfg.shadow.filter keep } }
      let s := fSetBit (fSet (fSet s 0x25 1 t1) 0x25 2 d1) 0x25 0xB 5 true
      alarmAdjust (raisePost s 0x25 1 596 [t0, d0, t1, d1]) (calKey t0 d0) (calKey t1 d1)

/-- PWR_CTRL (R524): a write that sets both bits has been refused. -/
def pwrCtrlWrite (s : State) (v : Word) : State := if v.tst 1 then pwrOn s false else if v.tst 0 then pwrOn s true else s

/-- FLAG_CLR (R526). -/
def flagClrWrite (s : State) (v : Word) : State :=
  let clr (b n : Nat) (s : State) : State := if v.tst b then fSetBit s 0x25 0xB n false else s
  clr 3 7 (clr 2 6 (clr 1 2 (clr 0 1 s)))

/-! ## The oscillator, the backup domain and WAKE_BTN -/

/-- No crystal edge for 1 ms while MAIN is powered (R514). -/
def execOscStop (s : State) : Out :=
  done s (if fBit s 0x25 0xB 6 then s else raisePost (fSetBit s 0x25 0xB 6 true) 0x25 2 594 [])

/-- A backup-domain reset (R513): every item of the backup domain takes its reset value. -/
def bkpReset (s : State) : State :=
  let s := (List.range 16).foldl (fun s i => fSet s 0x25 (i + 1) (fieldReset (fid 0x25 (i + 1)))) s
  { s with
    rtc := { s.rtc with copyValid := false, lostNew := true }
    twin := { s.twin with epBkp := 0 }, key := { s.key with latch := 0 } }

/-- VBAT is first applied, or recovers (R513). -/
def execBackupDomainReset (s : State) : Out := done s (bkpReset s)

/-- A debounced press of WAKE_BTN (R525): only after a low level. -/
def execWakeBtnPress (s : State) : Out :=
  done s (
    if fBit s 0x25 0xB 3 then s
    else
      let s := raise (fSetBit (fSetBit s 0x25 0xB 3 true) 0x25 0xB 2 true) 593
      if fBit s 0x25 0xA 16 then pwrOn s true else s)

/-- A low level of WAKE_BTN has been stable for WAKE_DEB periods (R525). -/
def execWakeBtnRelease (s : State) : Out := done s (fSetBit s 0x25 0xB 3 false)

/-- Start-up after a backup-domain reset (R513). -/
def rtcStartup (s : State) : State :=
  if s.rtc.lostNew then raisePost { s with rtc := { s.rtc with lostNew := false } } 0x25 2 595 [] else s

end Sys2Proof.Machine
end

