-- ==== Sys2Proof/Machine/Panel.lean ====
section
/-! DEFINITION. The panel driver: the segment LCD, the bistable panel with its journal and recovery, the Nightlight area and
the Halo loop (R558 to R575). -/
namespace Sys2Proof.Machine

/-- Base of the panel frame memory (R558). -/
def panelBase : Nat := 0x0D00000000

/-- HMI is powered and awake. -/
def hmiOn (s : State) : Bool := domainOn s 9 && !s.pwr.asleep

/-! ## Segment LCD -/

/-- Driven commons by DUTY (R559). -/
def LcdFrame.commons (f : LcdFrame) : Nat := [1, 2, 3, 4, 8].getD f.duty 1

/-- a of the bias 1/a; static duty knows two levels (R559). -/
def LcdFrame.top (f : LcdFrame) : Nat := if f.duty = 0 then 1 else f.bias + 2

/-- Polarity of a slot and, in dot inversion, of a half of it (R560). -/
def LcdFrame.polarity (f : LcdFrame) (slot half : Nat) : Bool :=
  if f.duty = 0 ∨ f.inv = 0 then f.positive
  else if f.inv = 1 then f.positive != (slot % 2 == 1)
  else half % 2 == 0

/-- A level in the polarity of the slot (R559). -/
def LcdFrame.turn (f : LcdFrame) (slot half k : Nat) : Nat := if f.polarity slot half then k else f.top - k

/-- Level k, in k × VLCD / a, of COM_r in a slot; none when it is high-impedance (R559). -/
def LcdFrame.com (f : LcdFrame) (slot half r : Nat) : Option Nat :=
  if f.commons ≤ r then none else some (f.turn slot half (if r = slot then f.top else 1))

/-- COM_r × SEG_j is on (R558). -/
def LcdFrame.on (f : LcdFrame) (r j : Nat) : Bool := (f.bits.getD (12 * r + j / 8) 0).getLsbD (j % 8)

/-- Level of SEG_j in a slot (R559). -/
def LcdFrame.seg (f : LcdFrame) (slot half j : Nat) : Nat :=
  f.turn slot half (if f.on slot j then 0 else if f.duty = 0 then 1 else 2)

/-- The frame that starts now, drawn whole from the LCD frame that FRAME_SEL names (R560, R561). -/
def nextFrame (s : State) (old : Option LcdFrame) : LcdFrame :=
  let cfg := fGet s 0x27 2
  let inv := cfg.field 6 2
  { bits := givenBytes s (panelBase + 0x80 * fPart s 0x27 5 0 1) 96, duty := cfg.field 1 3, bias := cfg.field 4 2, inv := inv
    positive := match old with | some f => !f.positive | none => true }

/-- Drive may start: RUN is 1, and the pump, where it is used, is ready (R562). -/
def mayDrive (s : State) : Bool := fBit s 0x27 1 0 && (!fBit s 0x27 2 8 || fBit s 0x27 0xE 5)

/-- The panel starts: an LCD with a new frame, a bistable one with its recovery unless that has been done (R562, R570). -/
def hmiStart (s : State) : State :=
  if !mayDrive s || s.hmi.lcd.isSome || s.hmi.bistable then s
  else if !fBit s 0x27 2 0 then { s with hmi := { s.hmi with lcd := some (nextFrame s none) } }
  else { s with hmi := { s.hmi with bistable := true, rcv := if s.hmi.recovered then .none else .scan } }

/-- RUN is written (R573): a start at once, a stop at the next frame boundary. -/
def hmiRunWrite (s : State) : State := if hmiOn s then hmiStart s else s

/-- The charge pump reaches its level (R562). -/
def execChargePumpReady (s : State) : Out :=
  done s (if hmiOn s && fBit s 0x27 2 8 then hmiStart (fSetBit s 0x27 0xE 5 true) else s)

/-- A frame boundary of the LCD (R23, R561, R573): committed fields apply, and the next frame starts or the panel stops. -/
def execFrameBoundary (s : State) : Out :=
  done s (
    if !hmiOn s || s.hmi.lcd.isNone then s
    else
      let s := applyFields s 0x27
      let next := if fBit s 0x27 1 0 then some (nextFrame s s.hmi.lcd) else none
      { s with hmi := { s.hmi with lcd := next } })

/-! ## Rectangles -/

/-- Bounds of a rectangle (R566). -/
def rectCols (r : Nat) : Nat × Nat := (r % 16, r / 16 % 16)
def rectRows (r : Nat) : Nat × Nat := (r / 256 % 8, r / 2048 % 8)

/-- Cell (c, r) lies in a rectangle. -/
def inRect (rect c r : Nat) : Bool :=
  (rectCols rect).1 ≤ c && c ≤ (rectCols rect).2 && (rectRows rect).1 ≤ r && r ≤ (rectRows rect).2

/-- The segments of a rectangle: SEG_8c+r (R563). -/
def rectSegs (rect : Nat) : List Nat := (List.range 96).filter (fun j => inRect rect (j / 8) (j % 8))

/-- Two rectangles overlap. -/
def rectMeet (a b : Nat) : Bool := (rectSegs a).any (fun j => inRect b (j / 8) (j % 8))

/-- Bits of twelve bytes inside a rectangle. -/
def rectMask (rect : Nat) (d : List Byte) : List Byte :=
  (List.range 12).map (fun c => BitVec.ofNat 8
    ((List.range 8).foldl (fun n r => n + bit (inRect rect c r && (d.getD c 0).getLsbD r) * 2 ^ r) 0))

/-- The target of a segment is dark. -/
def HmiReq.dark (q : HmiReq) (j : Nat) : Bool := (q.target.getD (j / 8) 0).getLsbD (j % 8)

/-! ## Journal -/

/-- Address of a ring entry (R568). -/
def ringAddr (i : Nat) : Nat := 0x0C00340100 + 64 * i

/-- The CRC of an entry covers all but the progress word and itself (R568). -/
def ringCrc (d : List Byte) : Word := crc32c (d.take 24 ++ (d.drop 28).take 32)

/-- Ring positions of open BEGIN entries, which the ring skips (R568). -/
def openSlots (s : State) : List Nat := s.hmi.running.map (fun e => e.2.slot) ++ s.hmi.opens.map (·.slot)

/-- The next ring position that holds no open BEGIN. -/
def ringNext (s : State) : Nat :=
  ((List.range 1020).map (fun k => (s.hmi.ringPos + k) % 1020)).find? (fun i => !(openSlots s).contains i) |>.getD s.hmi.ringPos

/-- Writes an entry (R568): the state and its ring position. -/
def ringWrite (s : State) (kind runner : Nat) (q : HmiReq) (phaseN : Nat) : State × Nat :=
  let i := ringNext s
  let n := (nextSeq (Word.ofN s.hmi.jseq)).toNat
  let d := leBytes 4 n ++ leBytes 1 kind ++ leBytes 1 runner ++ leBytes 2 q.rect ++ leBytes 2 q.seq ++ leBytes 2 phaseN ++
    (if kind = 2 then leBytes 12 0 else q.target) ++ leBytes 4 0 ++ leBytes 4 s.clk.opMs.toNat ++ leBytes 28 0
  let s := putBytes s (ringAddr i) (d ++ leBytes 4 (ringCrc d).toNat)
  ({ s with hmi := { s.hmi with jseq := n, ringPos := (i + 1) % 1020 } }, i)

/-- Balance of a segment, a signed byte (R558, R565). -/
def balance (s : State) (j : Nat) : Int := (givenByte s (panelBase + 0x120 + j)).toInt

/-- Sets the balance of a segment. -/
def setBalance (s : State) (j : Nat) (v : Int) : State := hwWrite s { unit := 0x27 } (panelBase + 0x120 + j) [BitVec.ofInt 8 v]

/-- Address of a balance copy (R568, R569). -/
def balAddr (b : Bool) : Nat := if b then 0x0C00340080 else 0x0C00340000

/-- Saves the balances into the copy that does not hold the latest (R569). -/
def balSave (s : State) : State :=
  let n := s.hmi.balSeq + 1
  let d := leBytes 4 n ++ givenBytes s (panelBase + 0x120) 96 ++ leBytes 24 0
  let s := putBytes s (balAddr s.hmi.balNext) (d ++ leBytes 4 (crc32c d).toNat)
  { s with hmi := { s.hmi with balSeq := n, balNext := !s.hmi.balNext } }

/-- Sequence of a balance copy when it is valid (R569). -/
def balValid (s : State) (b : Bool) : Option Nat :=
  let d := memBytes s (balAddr b) 128
  if !readable s (balAddr b) 128 || crc32c (d.take 124) ≠ wordAt d 31 then none else some (natAt d 0 4)

/-! ## Updates -/

/-- A free runner (R567). -/
def freeRunner (s : State) : Option Nat := (List.range 4).find? (fun i => (Tbl.find s.hmi.running i).isNone)

/-- A request starts on a runner: its BEGIN is complete before its first frame; one that cannot be written drops it (R568).
`drives` is whether its first frame is the one in progress. -/
def updBegin (s : State) (q : HmiReq) (drives ok : Bool) : State :=
  match freeRunner s with
  | none => s
  | some i =>
    if !ok then raisePost s 0x27 2 629 []
    else
      let n := fPart s 0x27 6 16 6
      let (s, slot) := ringWrite s 1 i q n
      { s with hmi := { s.hmi with
          running := Tbl.ins s.hmi.running i { req := q, phaseN := n, frame := 0, slot := slot, drives := drives } } }

/-- A request may start beside the running updates and the given older requests (R567). -/
def updFree (s : State) (older : List HmiReq) (rect : Nat) : Bool :=
  (freeRunner s).isSome && !s.hmi.running.any (fun e => rectMeet e.2.req.rect rect) && !older.any (fun q => rectMeet q.rect rect)

/-- The queue is scanned from its oldest request (R567); `seen` are older ones that stay. -/
def scanQueue (s : State) (ok : Bool) : List HmiReq → List HmiReq → State
  | _, [] => s
  | seen, q :: t =>
    if updFree s seen q.rect then
      scanQueue (updBegin { s with hmi := { s.hmi with queue := s.hmi.queue.filter (fun x => x.seq != q.seq) } } q true ok) ok seen t
    else scanQueue s ok (seen ++ [q]) t

/-- UPD_STATUS's result of a write (R566). -/
def updResult (s : State) (code : Nat) : State := fSetPart s 0x27 8 0 8 code

/-- UPD_REQ is written (R566, R567). -/
def updReqWrite (s : State) (v : Word) (ok : Bool) : State :=
  let rect := v.field 0 14
  if !fBit s 0x27 2 0 then updResult s 3
  else if s.hmi.rcv != .none then updResult s 4
  else
    let seq := (s.hmi.reqSeq + 1) % 65536
    let q : HmiReq := { rect := rect, target := rectMask rect (givenBytes s (panelBase + 0x100) 12), seq := seq }
    let accept (s : State) (code : Nat) : State := updResult { s with hmi := { s.hmi with reqSeq := seq } } code
    if s.hmi.queue.any (fun x => x.rect == rect) then
      accept { s with hmi := { s.hmi with queue := s.hmi.queue.map (fun x => if x.rect = rect then q else x) } } 1
    else if s.hmi.bistable && fBit s 0x27 1 0 && updFree s s.hmi.queue rect then
      accept (updBegin s q s.hmi.running.isEmpty ok) 0
    else if s.hmi.queue.length < 8 then accept { s with hmi := { s.hmi with queue := s.hmi.queue ++ [q] } } 0
    else raise (updResult s 2) 625

/-- How a running update drives a segment of its rectangle in its next frame (R564): dark? Away from the target in phase A,
towards it in phase B. -/
def HmiUpd.drivesDark (u : HmiUpd) (j : Nat) : Bool := if u.frame < u.phaseN then !u.req.dark j else u.req.dark j

/-- How a bistable panel's segment is driven in the frame in progress: dark, light, or not at all (R563, R564, R570). -/
def segDrive (s : State) (j : Nat) : Option Bool :=
  match s.hmi.rcv, s.hmi.opens with
  | .balance, o :: _ =>
    if inRect o.req.rect (j / 8) (j % 8) && balance s j != 0 then some (decide (balance s j < 0)) else none
  | _, _ =>
    (s.hmi.running.find? (fun e => e.2.drives && inRect e.2.req.rect (j / 8) (j % 8))).map (fun e => e.2.drivesDark j)

/-- The frame in progress completes for the segments: each drive counts in its balance (R565). -/
def countDrives (s : State) : State :=
  let l := (List.range 96).map (fun j => (j, segDrive s j))
  l.foldl (fun s e => match e.2 with
    | some true => setBalance s e.1 (balance s e.1 + 1)
    | some false => setBalance s e.1 (balance s e.1 - 1)
    | none => s) s

/-- The rectangle's cells take their targets in the image (R564). -/
def imageTake (s : State) (q : HmiReq) : State :=
  (List.range 12).foldl (fun s c =>
    let old := givenByte s (panelBase + 0x110 + c)
    let new := BitVec.ofNat 8 ((List.range 8).foldl (fun n r =>
      n + bit (if inRect q.rect c r then q.dark (8 * c + r) else old.getLsbD r) * 2 ^ r) 0)
    hwWrite s { unit := 0x27 } (panelBase + 0x110 + c) [new]) s

/-- An update has completed a frame: progress, or its end (R564, R568, R569). -/
def updFrame (s : State) (i : Nat) : State :=
  match Tbl.find s.hmi.running i with
  | none => s
  | some u =>
    if !u.drives then { s with hmi := { s.hmi with running := Tbl.ins s.hmi.running i { u with drives := true } } }
    else
      let u := { u with frame := u.frame + 1 }
      let s := hwW s 0x27 (ringAddr u.slot + 24) (Word.ofN u.frame)
      if u.frame < 2 * u.phaseN then { s with hmi := { s.hmi with running := Tbl.ins s.hmi.running i u } }
      else
        let s := imageTake { s with hmi := { s.hmi with running := Tbl.del s.hmi.running i } } u.req
        let s := (ringWrite s 2 i u.req u.phaseN).1
        raise (balSave s) 624

/-! ## Recovery -/

/-- Uncorrectable words of an entry. -/
def ringBad (s : State) (i k : Nat) : Bool := 3 ≤ Tbl.get 0 s.mem.ecc ((ringAddr i + 8 * k) / 8)

/-- A valid entry: its bytes. An uncorrectable progress word does not make it invalid (R570). -/
def ringEntry (s : State) (i : Nat) : Option (List Byte) :=
  let d := memBytes s (ringAddr i) 64
  if natAt d 0 4 = 0 ∨ ringCrc d ≠ wordAt d 15 ∨ (List.range 8).any (fun k => k != 3 && ringBad s i k) then none else some d

/-- Inserts an open entry in ascending journal sequence. -/
def openInsert (o : HmiOpen) : List HmiOpen → List HmiOpen
  | [] => [o]
  | x :: t => if o.jseq < x.jseq then o :: x :: t else x :: openInsert o t

/-- Step 2 of R570: the open BEGIN entries in ascending journal sequence. -/
def openEntries (s : State) : List HmiOpen :=
  let l := (List.range 1020).filterMap (fun i => (ringEntry s i).map (fun d => (i, d)))
  let closed := (l.filter (fun e => natAt e.2 4 1 ≠ 1)).map (fun e => natAt e.2 8 2)
  (l.filter (fun e => natAt e.2 4 1 == 1 && !closed.contains (natAt e.2 8 2))).foldl
    (fun acc e =>
      let d := e.2
      let q : HmiReq := { rect := natAt d 6 2, target := (d.drop 12).take 12, seq := natAt d 8 2 }
      let k := if ringBad s e.1 3 then 0 else natAt d 24 4
      openInsert { jseq := natAt d 0 4, req := q, phaseN := natAt d 10 2, progress := k, slot := e.1 } acc) []

/-- Step 3 of R570: balances of an open rectangle. -/
def openBalance (s : State) (o : HmiOpen) : State :=
  let s := if ringBad s o.slot 3 then fSetBit s 0x27 0xE 4 true else s
  (rectSegs o.req.rect).foldl (fun s j =>
    let sg : Int := if o.req.dark j then 1 else -1
    let k := if o.progress ≤ o.phaseN then o.progress else 2 * o.phaseN - o.progress
    setBalance s j (balance s j - sg * k)) s

/-- The first open rectangle goes on: to its redraw once its balances are 0 (R570). -/
def recoverNext (s : State) (ok : Bool) : State :=
  match s.hmi.opens with
  | [] => { s with hmi := { s.hmi with rcv := .none } }
  | o :: t =>
    if (rectSegs o.req.rect).all (fun j => balance s j == 0) then
      let seq := (s.hmi.reqSeq + 1) % 65536
      let s := updBegin { s with hmi := { s.hmi with reqSeq := seq } } { o.req with seq := seq } true ok
      if ok then { s with hmi := { s.hmi with rcv := .redraw } }
      else { s with hmi := { s.hmi with opens := t, rcv := if t.isEmpty then .none else .balance } }
    else { s with hmi := { s.hmi with rcv := .balance } }

/-- Steps 1 to 3 of R570. -/
def recoverScan (s : State) : State :=
  let a := balValid s false
  let b := balValid s true
  let pick : Option Bool := match a, b with
    | none, none => none
    | some _, none => some false
    | none, some _ => some true
    | some x, some y => some (decide (x < y))
  let bal : List Byte := match pick with
    | some c => (memBytes s (balAddr c) 100).drop 4
    | none => List.replicate 96 0
  let s := putBytes s (panelBase + 0x120) bal
  let entries := (List.range 1020).filterMap (fun i => (ringEntry s i).map (fun d => (natAt d 0 4, natAt d 8 2, i)))
  let last := entries.foldl (fun m e => if m.1 < e.1 then e else m) (0, 0, 1019)
  let s := { s with hmi := { s.hmi with
    balSeq := max (a.getD 0) (b.getD 0), balNext := (match pick with | some c => !c | none => false)
    jseq := last.1, reqSeq := last.2.1, ringPos := (last.2.2 + 1) % 1020, recovered := true, opens := openEntries s } }
  recoverNext (s.hmi.opens.foldl openBalance s) true

/-- A bistable HMI that has started reads the journal and begins to balance what was interrupted (R570). -/
def execHmiRecovery (s : State) : Out :=
  done s (if hmiOn s && s.hmi.rcv == .scan then recoverScan s else s)

/-- Step 6 of R570. -/
def recoverDone (s : State) (ok : Bool) : State :=
  match s.hmi.opens with
  | [] => s
  | o :: t =>
    let s := (ringWrite s 3 0 o.req o.phaseN).1
    let s := balSave { s with hmi := { s.hmi with opens := t } }
    let s := post (raise (fInc s 0x27 0x10 16 16) 626) 0x27 1 626 []
    recoverNext s ok

/-- A drive frame of the bistable panel completes (R563 to R570): balances, progress and ends; committed fields apply, and the
queue is scanned. `ok` is whether a BEGIN can be written. -/
def execBistableFrame (ok : Bool) (s : State) : Out :=
  done s (
    if !hmiOn s || !s.hmi.bistable || s.hmi.rcv == .scan then s
    else
      let was := s.hmi.rcv
      let s := countDrives s
      let s := (List.range 4).foldl updFrame s
      let s := if was == .balance then recoverNext s ok
        else if was == .redraw && s.hmi.running.isEmpty then recoverDone s ok else s
      let s := applyFields s 0x27
      if fBit s 0x27 1 0 then (if s.hmi.rcv == .none then scanQueue s ok [] s.hmi.queue else s)
      else if s.hmi.running.isEmpty && s.hmi.rcv == .none then { s with hmi := { s.hmi with bistable := false } }
      else s)

/-! ## Sleep and the Nightlight area -/

/-- The Halo conversion frees the converter: a plan conversion that waited for it begins (R572). -/
def haloFree (s : State) : State :=
  match (getConv s 15).run with
  | some x => setConv s 15 { getConv s 15 with run := some { x with halo := false } }
  | none => s

/-- LCD drive stops at the entry into sleep, and so do the pump and the Halo loop (R571, R572). -/
def hmiSleep (s : State) : State :=
  fSetBit { haloFree s with hmi := { s.hmi with lcd := none, haloReq := false } } 0x27 0xE 5 false

/-- On wake normal drive resumes at the start of a new frame (R571). -/
def hmiWake (s : State) : State := if domainOn s 9 && !s.hmi.bistable then hmiStart s else s

/-- SEG_0 to SEG_15 in sleep, `t` in 1/64 s: driven in antiphase to COM_0 (R571). -/
def nightOn (s : State) (j t : Nat) : Bool :=
  let m := fPart s 0x27 9 (2 * j) 2
  let period := fPart s 0x27 0xA 8 8 * 8
  m == 1 || (m == 2 && t % max 1 period < fPart s 0x27 0xA 0 8)

/-! ## The Halo loop -/

/-- HALO_PERIOD_MS has passed: a conversion of channel 100 on SAR_15 is requested, or refused while AFE is off (R572). -/
def execHaloMeasure (s : State) : Out :=
  done s (
    if !hmiOn s || !fBit s 0x27 0xB 31 then s
    else if domainOn s 5 then { s with hmi := { s.hmi with haloReq := true, haloRefused := 0 } }
    else
      let n := s.hmi.haloRefused + 1
      let s := { s with hmi := { s.hmi with haloRefused := n } }
      if n = 3 then raise (fSetBit s 0x27 0xE 3 true) 628 else s)

/-- SAR_15 is Halo's: it serves no urgent request, and no plan conversion that began before runs on it (R572). -/
def haloHas (s : State) : Bool :=
  let c := getConv s 15
  !c.urgRun && (match c.run with | none => true | some x => x.halo)

/-- The result of a Halo conversion of `nv` nV, once the converter has become free for it (R572). -/
def execHaloResult (nv : Int) (s : State) : Out :=
  let code := adcCode nv
  done s (
    if !hmiOn s || !s.hmi.haloReq || !domainOn s 5 || !haloHas s then s
    else
      let s := haloFree s
      let s := fSet { s with hmi := { s.hmi with haloReq := false } } 0x27 0xD (Word.ofN (2 ^ 31 + code))
      let s := fSetBit s 0x27 0xE 3 false
      if fPart s 0x27 0xB 0 16 ≤ code then
        let n := s.hmi.haloOpen + 1
        let s := { s with hmi := { s.hmi with haloOpen := n } }
        if fPart s 0x27 0xB 16 8 ≤ n ∧ !fBit s 0x27 0xE 2 then raisePost (fSetBit s 0x27 0xE 2 true) 0x27 3 627 [] else s
      else { s with hmi := { s.hmi with haloOpen := 0 } })

/-- FLAG_CLR (R572, R574): after a clear of CRACK the open readings count again. -/
def hmiFlagClr (s : State) (v : Word) : State :=
  let s := if v.tst 0 then { fSetBit s 0x27 0xE 2 false with hmi := { s.hmi with haloOpen := 0 } } else s
  let s := if v.tst 1 then fSetBit s 0x27 0xE 3 false else s
  if v.tst 2 then fSetBit s 0x27 0xE 4 false else s

end Sys2Proof.Machine
end

