-- ==== Sys2Proof/Machine/Power.lean ====
section
/-! DEFINITION. Power: domains, sleep and wake, core voltage, the resets and the loss of REF_CLK (R36, R95, R107, R576 to R587). -/
namespace Sys2Proof.Machine

/-! ## Domains -/

/-- The regions of a switched domain (R93): base and size. -/
def domainRegions (d : Nat) : List (Nat × Nat) :=
  (regions.zipIdx.filter (fun e => regionDomain e.2 == some d)).map (·.1)

/-- A write or store that is held for the boundary of unit `u` (R85). -/
def heldFor (u : Nat) (g : GateItem) : Bool := match g.change with | .live .. => g.target / 64 == u | .store .. => g.target / 64 == u | _ => false

/-- A unit whose domain goes off loses its active fields, its shadow, its pending set and the writes held for it; a lost set or
held write leaves a record (R107). -/
def unitFieldsLost (s : State) (u : Nat) : State :=
  let inSet : Nat := match Tbl.find s.cfg.pend u with | some p => p.length | none => 0
  let held := s.gate.countP (fun g => heldFor u g)
  let out {α : Type} (t : Tbl α) : Tbl α := t.filter (fun e => e.1 / 1024 != u)
  let s := { s with
    cfg := { s.cfg with act := out s.cfg.act, shadow := out s.cfg.shadow, pend := Tbl.del s.cfg.pend u
                        rewritten := s.cfg.rewritten.filter (fun f => f / 1024 != u) }
    gate := s.gate.filter (fun g => !heldFor u g) }
  if (Tbl.find s.cfg.pend u).isSome || inSet != 0 || held != 0 then post s u 1 0x0602 [Word.ofN inSet, Word.ofN held] else s

/-- The gate holds a loaded compensation or water table for the next boundary; the table is lost with MTR's state (R149). -/
def waitingTable (g : GateItem) : Bool :=
  (g.target / 64 == 0x12 || g.target / 64 == 0x13) && (match g.change with | .payload .. => true | _ => false)

/-- What a domain's units lose beside their fields (R95, R124, R149, R255, R573). -/
def domainState (s : State) (d : Nat) : State :=
  match d with
  | 1 => agShow { s with asm := { s.asm with work := [] } }
  | 2 => { s with asm := {}, ctxs := Tbl.del s.ctxs 3 }
  | 3 =>
    let s := (List.range 8).foldl (fun s n => dropRequests s (4 + n)) s
    { s with cyc := {}, ctxs := Tbl.clear s.ctxs 64 128 }
  | 4 => cleReset s
  | 5 => afeReset s
  | 6 => { s with mtr := {}, gate := s.gate.filter (fun g => !waitingTable g) }
  | 7 => { s with net := {} }
  | 8 => { s with can := [], stn := [] }
  | 9 => { haloFree s with hmi := {} }
  | _ => s

/-- A domain goes off (R95, R107, R255). -/
def domainDown (s : State) (d : Nat) : State :=
  let s := if d = 0 then solvPowerOff s else s
  let s := (domainRegions d).foldl (fun s r => zeroRange s r.1 r.2) s
  let s := domainState s d
  ((List.range 64).filter (fun u => domainOf u == some d)).foldl unitFieldsLost s

/-- A domain has come up (R171, R228, R578). -/
def domainUp (s : State) (d : Nat) : State := if d = 0 then lanesReset s else if d = 6 then eqcRestore s else s

/-- The first waiting switch goes into its transition (R577, R578). -/
def switchStart (s : State) : State :=
  match s.pwr.switches with
  | [] => s
  | w :: _ =>
    if w.core then
      let s := { s with pwr := { s.pwr with cores := s.pwr.cores &&& ~~~ (1#8 <<< w.idx) } }
      if w.on then s else setCore s w.idx {}
    else
      let s := fSetBit s 2 2 (16 + w.idx) true
      if w.on then s else domainDown s w.idx

/-- The switches of a committed set: offs first, then ons, in ascending bit order (R577); a core only while CYC stays on (R314). -/
def switchList (dom0 dom1 cp0 cp1 : Word) : List PwrSwitch :=
  let cyc := dom0.tst 3 && dom1.tst 3
  let doms (on : Bool) : List PwrSwitch :=
    ((List.range 10).filter (fun d => dom0.tst d != dom1.tst d && dom1.tst d == on)).map (fun d => { idx := d, on := on })
  let cores (on : Bool) : List PwrSwitch :=
    if cyc then ((List.range 8).filter (fun n => cp0.tst n != cp1.tst n && cp1.tst n == on)).map
      (fun n => { core := true, idx := n, on := on }) else []
  doms false ++ cores false ++ doms true ++ cores true

/-- PWR's boundary applies a pending set (R577, R585, R593). -/
def pwrCommit (s : State) : State :=
  if !s.pwr.switches.isEmpty then s
  else
    let dom0 := fGet s 2 2
    let cp0 := fGet s 2 3
    let avs := (pendFind s 2 4).isSome && pendOk s 2
    let s := applyFields s 2
    let dom1 := fGet s 2 1
    let cp1 := fGet s 2 3
    let s := { s with pwr := { s.pwr with
      switches := switchList dom0 dom1 cp0 cp1
      cores := if dom0.tst 3 && dom1.tst 3 then s.pwr.cores else cp1.setWidth 8 } }
    let s := switchStart s
    if !avs then s
    else
      let on := fBit s 2 4 31
      let s := { s with pwr := { s.pwr with avsFails := 0 } }
      fSetBit (fSetBit (fSetBit s 2 5 3 false) 2 5 2 on) 2 5 0 on

/-- The transition in progress ends: event 32 or 33 and the record that names the domain, or CYC and the core (R314, R578). -/
def execDomainSwitchDone (s : State) : Out :=
  done s (match s.pwr.switches with
    | [] => s
    | w :: t =>
      let s := { s with pwr := { s.pwr with switches := t } }
      let s :=
        if w.core then
          (if w.on then { s with pwr := { s.pwr with cores := s.pwr.cores ||| (1#8 <<< w.idx) } } else s)
        else
          let s := fSetBit (fSetBit s 2 2 (16 + w.idx) false) 2 2 w.idx w.on
          if w.on then domainUp s w.idx else s
      let names : List Word := if w.core then [3, Word.ofN w.idx] else [Word.ofN w.idx]
      switchStart (raisePost s 2 1 (if w.on then 32 else 33) names))

/-! ## Core voltage -/

/-- The next voltage on the way to the target: a step of at most 10 mV (R585). -/
def avsNext (s : State) : Nat :=
  let t := fPart s 2 4 0 10
  if s.pwr.mv < t then min t (s.pwr.mv + 10) else max t (s.pwr.mv - 10)

/-- An AVSBus step has been sent and read back as `mv`, or failed (R584, R585). -/
def execAvsStep (ok : Bool) (mv : BitVec 10) (s : State) : Out :=
  done s (
    if s.pwr.asleep || !fBit s 2 5 0 || !fBit s 2 5 2 then s
    else
      let s := fSetBit s 2 5 1 ok
      if ok then
        let n := avsNext s
        let s := fSetPart { s with pwr := { s.pwr with mv := n, avsFails := 0 } } 2 5 12 10 mv.toNat
        if n = fPart s 2 4 0 10 then raise (fSetBit s 2 5 2 false) 38 else s
      else
        let n := s.pwr.avsFails + 1
        let s := { s with pwr := { s.pwr with avsFails := n } }
        if n < 3 then s else raisePost (fSetBit (fSetBit s 2 5 2 false) 2 5 3 true) 2 2 36 [])

/-! ## Sleep -/

/-- The first reason that refuses `sleep`, 0 for none (R579). -/
def sleepRefusal (s : State) : Nat :=
  let pend (f : Nat) : Bool := (pendFind s 2 f).isSome
  if fBit s 0x0C 1 0 then 1
  else if hmiBusy s then 2
  else if fBit s 0x23 1 0 && roleCfg s != 0 then 3
  else if !s.gate.isEmpty then 4
  else if !s.pwr.switches.isEmpty || pend 1 || pend 3 then 5
  else if fPart s 2 6 0 13 = 0 then 6
  else 0

/-- The device goes to sleep: the ports and the CAN controllers stop, the panel follows R571, VDD_CORE goes to SLEEP_MV (R581,
R582). -/
def sleepEnter (s : State) : State :=
  let s := (List.range 4).foldl (fun s p => fSet s 0x18 (portField p 3) 0) s
  let s := mtrPause (hmiSleep ((List.range 8).foldl canAbandon s))
  { s with pwr := { s.pwr with
      asleep := true, sleptAt := s.clk.tick.toNat, mv := if fBit s 2 5 0 then fPart s 2 4 16 10 else s.pwr.mv } }

/-- `sleep` (R86, R579, R580): refused with a code and event 35, or entered; the wake writes 0 to rd. -/
def execSleep (h : Hdr) (rd : Reg) (s : State) : Out :=
  done s (runInstr h { word := encA 0b110101 rd 0 0 2, grp := .sleep }
    (fun k s =>
      match sleepRefusal s with
      | 0 => .ok (sleepEnter (suspend s k (.asleep rd.toNat)))
      | c =>
        let s := fSetPart (fInc s 2 0xE 16 16) 2 0xE 0 8 c
        .ok (setReg (raise s 35) k rd (Word.ofN c))) s)

/-- A context of MGT that `sleep` suspended goes on with rd = 0 (R579). -/
def sleepReturn (s : State) (k : Nat) : State :=
  match (getCtx s k).wait with
  | .asleep rd => setReg (suspend s k .none) k (BitVec.ofNat 5 rd) 0
  | _ => s

/-- The active wake sources: the RTC's two latches, and the ones that the environment asserts (R583). -/
def wakeSources (s : State) (ext : BitVec 11) : Nat :=
  bit (fBit s 0x25 0xB 1) + 2 * bit (fBit s 0x25 0xB 2) + 4 * ext.toNat

/-- The device wakes (R448, R471, R553, R571, R582): an enabled source is active, or the tamper latch is set. -/
def execWake (ext : BitVec 11) (s : State) : Out :=
  done s (
    let src := wakeSources s ext
    if !s.pwr.asleep || (src &&& fPart s 2 6 0 13 == 0 && s.key.latch == 0) then s
    else
      let ms := (s.clk.tick.toNat - s.pwr.sleptAt) / 100
      let n := fPart s 2 8 16 16 + 1
      let s := { s with pwr := { s.pwr with asleep := false, mv := if fBit s 2 5 0 then fPart s 2 4 0 10 else s.pwr.mv } }
      let s := fSet s 2 8 (Word.ofN (n % 65536 * 2 ^ 16 + bit (s.key.latch != 0) * 2 ^ 13 + src))
      let s := fSet s 2 9 (Word.ofN (min full ms))
      let s := hmiWake (timeWake ((List.range 8).foldl canWake (tamperWake s)))
      sleepReturn (sleepReturn (raise s 34) 0) 1)

/-! ## Resets -/

/-- What a reset leaves (R101, R512, R528, R587): the backup domain, MRAM, KEY's array and the witness epoch; everything else
takes its reset value, and the boot ROM runs. -/
def deviceReset (s : State) (cause : Nat) : State :=
  let bkp (f : Nat) : Bool := 0x9401 ≤ f && f ≤ 0x9410
  let r : State := {
    pending := s.pending
    free := s.free
    cfg := { act := s.cfg.act.filter (fun e => bkp e.1) }
    mem := { cells := s.mem.cells.filter (fun c => 0x0C00000000 ≤ c.1 && c.1 < 0x0C00800000)
             ecc := s.mem.ecc.filter (fun c => 0x0C00000000 ≤ 8 * c.1 && 8 * c.1 < 0x0C00800000) }
    twin := { epBkp := s.twin.epBkp, ew := s.twin.ew }
    rtc := { copyValid := s.rtc.copyValid, lostNew := s.rtc.lostNew }
    key := { slots := s.key.slots, mono := s.key.mono, floors := s.key.floors, meas := s.key.meas, stored := s.key.stored
             latch := s.key.latch, rootGen := s.key.rootGen, tampNv := s.key.tampNv } }
  let r := fSet r 2 0xA (Word.ofN cause)
  [2, 3, 4].foldl (fun r f => fSet r 0x26 f (s.key.tampNv.getD (f - 2) 0)) r

/-- RESET_N has been held low (R587). -/
def execResetN (s : State) : Out := done s (deviceReset s 2)

/-- A supply was below its threshold (R587): VDD_CORE alone, or another supply with it. -/
def execSupplyMonitorReset (core : Bool) (s : State) : Out := done s (deviceReset s (if core then 4 else 1))

/-- SYS_RESET (R593): the value has been checked. -/
def sysResetWrite (s : State) : State := deviceReset s 3

/-! ## The loss of REF_CLK -/

/-- REF_CLK is lost (R36): the safety outputs are forced off, ZENITH_OUT is released and the unit demotes, every loop slot holds
and sets MISS, releases stop, and a critical record is posted. An active abdicates (R488) and so never asks the witness (R493). A single
unit demotes when it drives ZENITH_OUT; that one which does not drive it stays SINGLE is the model's reading (assumption 193). -/
def execRefClkLoss (s : State) : Out :=
  done s (
    if !s.clk.refClk then s
    else
      let s := { s with clk := { s.clk with refClk := false } }
      let s := cleClockLoss (safEnter s 0x08 0)
      let s := if s.twin.role = .active then abdicate (clearTx s)
        else if s.twin.role = .single && s.twin.zenithOut then { s with twin := { s.twin with role := .demoted, zenithOut := false } }
        else s
      post s 0x19 3 0x060F [])

/-- REF_CLK returns and the tick resumes from its held count (R36). -/
def execRefClkReturn (s : State) : Out := done s { s with clk := { s.clk with refClk := true } }

end Sys2Proof.Machine
end

