-- ==== Sys2Proof/Machine/Boot.lean ====
section
/-! DEFINITION. The boot sequence and the release of the engines (R424, R537, R549, R554, R588 to R591). -/
namespace Sys2Proof.Machine

/-! ## The external flash -/

/-- `n` bytes of the external flash from `a`: a byte of no given part is erased, 0xFF (assumption 76). -/
def flashRead (fl : List (Nat × List Byte)) (a n : Nat) : List Byte :=
  match fl.find? (fun p => p.1 ≤ a && a + n ≤ p.1 + p.2.length) with
  | some p => (p.2.drop (a - p.1)).take n
  | none => (List.range n).map (fun i =>
      match fl.find? (fun p => p.1 ≤ a + i && a + i < p.1 + p.2.length) with
      | some p => p.2.getD (a + i - p.1) 0xFF
      | none => 0xFF)

/-- An entry of the flash directory: type, target and the envelope (R588). -/
abbrev FlashEntry := Nat × Nat × List Byte

/-- A copy of the directory when it is valid: its sequence and bytes (R588). -/
def flashDir (fl : List (Nat × List Byte)) (a : Nat) : Option (Nat × List Byte) :=
  let d := flashRead fl a 4096
  let n := natAt d 2 2
  if natAt d 0 2 = 1 ∧ 1 ≤ n ∧ n ≤ 126 ∧ envZero d 8 24 ∧ crc32c (d.take (32 + 32 * n)) = wordAt (d.drop (32 + 32 * n)) 0 then
    some (natAt d 4 4, d)
  else none

/-- The entries of the valid copy with the higher sequence (R588). -/
def flashEntries (fl : List (Nat × List Byte)) : List FlashEntry :=
  let dir : Option (Nat × List Byte) := match flashDir fl 0, flashDir fl 0x1000 with
    | some a, some b => if a.1 < b.1 then some b else some a
    | some a, none => some a
    | none, b => b
  match dir with
  | none => []
  | some (_, d) => (List.range (natAt d 2 2)).map (fun i =>
      let e := (d.drop (32 + 32 * i)).take 32
      (natAt e 0 2, natAt e 2 2, flashRead fl (natAt e 4 4) (natAt e 8 4)))

/-! ## Loading -/

/-- The job entries of an MGT image (R112, R546). -/
def jobEntries (home : List Byte) : List (Nat × Nat) :=
  ((List.range 256).map (fun i => (i, natAt home (0x800 + 4 * i) 4))).filter (fun e => e.2 != 0)

/-- A cycle image as the boot sequence places it (R347, R590); what R350 checks against a configuration is not asked here
(assumption 77). -/
def cycBootImage (d : List Byte) (meas : Word) : Option CycImage :=
  let z := natAt d 4 4
  let y := natAt d 8 4
  if natAt d 0 2 = 5 ∧ natAt d 2 2 = 1 ∧ z % 4 = 0 ∧ z ≤ 0x100000 ∧ d.length = 164 + z + 16 * y ∧
      crc32c (d.take (160 + z + 16 * y)) = wordAt (d.drop (160 + z + 16 * y)) 0 then
    some {
      z := z, retPages := natAt d 12 2
      entries := (List.range 16).map (fun t => (natAt d (16 + 8 * t) 4, natAt d (20 + 8 * t) 4))
      content := toCells 0 ((d.drop 160).take z)
      syms := (List.range y).map (fun i => symOf ((d.drop (160 + z + 16 * i)).take 16))
      meas := meas }
  else none

/-- Places a verified image (R590 step 5); none when its payload cannot be loaded. -/
def bootPlace (s : State) (e : EnvInfo) (d : List Byte) : Option State :=
  let meas := digestWord e.digest
  match e.ty with
  | 8 => (engineImage 8 0x180000 d).map (fun home =>
      let s := loadRange s 0x0010000000 0x200000 (toCells 0 home)
      { s with mgt := { s.mgt with entries := jobEntries home } })
  | 6 => match safParse d with
    | .ok m =>
      let m := { m with meas := meas }
      some (safFields { s with saf := { s.saf with image := some m } } m)
    | .error _ => none
  | 5 => (cycBootImage d meas).map (fun img =>
      let n := e.target / 1024 - 4
      let s := loadRange s (0x0100000000 + n * 0x100000) 0x100000 (img.content.filter (fun c => c.1 < windowStart s n))
      setEntries { s with cyc := { s.cyc with banks := Tbl.put {} s.cyc.banks n { image := some img } } } n img.entries)
  | 9 => (engineImage 9 0x2C000 d).map (fun home => loadRange s 0x0400000000 0x40000 (toCells 0 home))
  | 10 => (engineImage 10 0x10000 d).map (fun home =>
      loadRange s (0x0600000000 + e.target % 1024 * 0x10000) 0x10000 (toCells 0 home))
  | 1 => (compParse d).map (fun t => compLoad s t.1 t.2)
  | 2 => (waterParse d).map (fun t => fSet { s with mtr := { s.mtr with water := some t.2 } } 0x13 0xB (Word.ofN (t.1 * 65536)))
  | 3 => if (imgCheck s d).isNone then some (imageLoad s d meas) else none
  | _ => none

/-- Bit of BOOT_STATUS that shows a loaded image (R593). -/
def loadedBit (ty target : Nat) : Nat :=
  match ty with
  | 8 => 0 | 6 => 1 | 5 => 2 + (target / 1024 - 4) | 9 => 10 | 10 => 11 | 1 => 12 | 2 => 13 | _ => 14

/-- A loaded image's bookkeeping (R542, R549): a counter above the floor raises the floor and MONO. -/
def bootAdvance (s : State) (e : EnvInfo) : State :=
  let s := if Tbl.get 0 s.key.floors e.target < e.ctr then
      { s with key := { s.key with mono := max s.key.mono e.ctr, floors := Tbl.put 0 s.key.floors e.target e.ctr } }
    else s
  fSetBit (measPut s { ty := e.ty, target := e.target, ctr := e.ctr, digest := e.digest }) 2 0xD (loadedBit e.ty e.target) true

/-- The better of two verified candidates: the higher counter, on equal counters the earlier one, which is MRAM's (R589). -/
def betterCand (a : Option (EnvInfo × List Byte)) (b : EnvInfo × List Byte) : Option (EnvInfo × List Byte) :=
  match a with
  | some x => if x.1.ctr < b.1.ctr then some b else a
  | none => some b

/-- Loads the image of one target (R589, R590). -/
def bootLoad (dir : List FlashEntry) (s : State) (t : Nat × Nat) : State :=
  let stored := match Tbl.find s.key.stored t.2 with | some d => [d] | none => []
  let flash := (dir.filter (fun e => e.1 == t.1 && e.2.1 == t.2)).map (fun e => e.2.2)
  let cands := (stored ++ flash).filter (fun d => natAt d 2 2 == t.1 && natAt d 4 2 == t.2)
  let (s, best) := cands.foldl (fun (acc : State × Option (EnvInfo × List Byte)) d =>
    match envVerify acc.1 true d with
    | (s, some x) => (s, betterCand acc.2 x)
    | (s, none) => (s, acc.2)) (s, none)
  match best with
  | none => s
  | some (e, d) => match bootPlace s e d with | some s => bootAdvance s e | none => s

/-- The targets in the order of R590: payload type and target. -/
def bootOrder : List (Nat × Nat) :=
  [(8, 0), (6, 0x3000)] ++ (List.range 8).map (fun n => (5, (4 + n) * 1024)) ++ [(9, 0x5000)] ++
  (List.range 16).map (fun n => (10, 0x4400 + n)) ++ [(1, 0x4800), (2, 0x4C00), (3, 0x5001)]

/-! ## Steps 2 and 6 -/

/-- Inserts an envelope before those with a lower counter. -/
def clearInsert (d : List Byte) : List (List Byte) → List (List Byte)
  | [] => [d]
  | x :: t => if natAt x 24 8 < natAt d 24 8 then d :: x :: t else x :: clearInsert d t

/-- Looks for a tamper clear in the flash, in descending order of counter (R554): true when one is accepted. -/
def bootClear (dir : List FlashEntry) (s : State) : State × Bool :=
  let l := (dir.filter (fun e => e.1 == 0x12 && e.2.1 == 0x9BFF)).foldl (fun acc e => clearInsert e.2.2 acc) []
  l.foldl (fun (acc : State × Bool) d =>
    if acc.2 || natAt d 2 2 ≠ 0x12 then acc
    else match envVerify acc.1 true d with
      | (s, some (e, body)) =>
        if tampClearOk s body then
          ({ s with key := { s.key with latch := 0, mono := max s.key.mono e.ctr } }, true)
        else (s, false)
      | (s, none) => (s, false)) (s, false)

/-- The latched sources whose response is ERASE act before the keys are unlocked (R553). -/
def bootErase (s : State) : State :=
  if (List.range 8).any (fun i => s.key.latch.getLsbD i && tamperResponse s i == 3) then withdraw s [0] 3 8 else s

/-- Slots with EXPIRE_AT_RESET expire at a power-on reset (R537). -/
def bootExpire (s : State) : State :=
  if fPart s 2 0xA 0 4 ≠ 1 then s
  else withdraw s ((s.key.slots.filter (fun e => e.2.expire && e.2.holds)).map (·.1)) 4 9

/-- A backup-domain reset found at start-up fires BKPR (R551). -/
def bootBkpr (s : State) : State :=
  if !s.rtc.lostNew then s
  else if tamperResponse s 7 = 1 then tamperAct s 7
  else tamperFire s 7

/-- Step 2 goes on after the latch (R536, R537): slots expire, and the DRBG reseeds. -/
def bootKeys (s : State) : State :=
  fIncMod { bootExpire s with key := { (bootExpire s).key with drbg := 0 } } 0x26 0xB 0 16

/-- Step 6: a lost root is made anew, and the libraries are copied (R261, R554). -/
def bootUnlock (s : State) : State :=
  let s := if (keySlot s 0).st ≠ 1 ∧ s.key.latch = 0 then newRoot s else s
  { s with asm := { s.asm with lib := true } }

/-- The boot state (R591). -/
def bootState (s : State) : Nat := fPart s 2 0xD 24 8

/-- Steps 3 to 7 of R590. `cleared` is whether step 2 has cleared the tamper latch. -/
def bootRest (dir : List FlashEntry) (s : State) (cleared : Bool) : State :=
  let s := rtcStartup (almRestore (bootKeys s))
  let s := bootOrder.foldl (bootLoad dir) (eqcRestore s)
  let s := if fBit s 2 0xD 14 then fSetBit (storeBoot s) 2 0xD 15 (storeMatches s) else s
  let s := bootUnlock s
  let s := if cleared then raisePost s 0x26 3 615 [] else s
  if fBit s 2 0xD 0 then fSetPart (setCtx s 0 (freshCtx 0x400)) 2 0xD 24 8 3 else fSetPart s 2 0xD 24 8 2

/-- The boot sequence (R553, R554, R590, R591), with what the external flash holds: to the release of MGT, to tamper-hold, or to
the wait for an MGT image. The solver array is tested first (R228). -/
def execBoot (flash : List (Nat × List Byte)) (s : State) : Out :=
  done s (
    if bootState s ≠ 0 then s
    else
      let dir := flashEntries flash
      let s := bootBkpr (lanesReset s)
      if s.key.latch = 0 then bootRest dir s false
      else match bootClear dir (bootErase s) with
        | (s, true) => bootRest dir s true
        | (s, false) => fSetPart { s with key := { s.key with hold := true } } 2 0xD 24 8 1)

/-! ## Release -/

/-- SAF starts (R424, R426): a restart with the loaded image, or the safe state with cause IMAGE. -/
def releaseSaf (s : State) : State :=
  let s := fSet s 0x0C 1 1
  if s.saf.image.isSome then safRestartNow s else { s with saf := { s.saf with cause := 0x0B, detail := 0 } }

/-- A cycle core starts (R338, R590). -/
def releaseCore (s : State) (n : Nat) : State :=
  if (Tbl.get {} s.cyc.banks (coreBank s n)).image.isNone then post s (4 + n) 2 0x060F []
  else
    let m := fPart s (4 + n) 3 0 2
    if m = 2 || !corePowered s n then s else restartBegin (fSet s (4 + n) 1 1) n (m == 0)

/-- RELEASE is written (R590, R593); only MGT released alone waits for it. -/
def releaseWrite (s : State) (v : Word) : State :=
  if !v.tst 0 || bootState s ≠ 3 then s
  else
    let s := (List.range 8).foldl releaseCore (releaseSaf s)
    raise (fSet (fSetPart s 2 0xD 24 8 4) 2 0xC 1) 37

end Sys2Proof.Machine
end

