-- ==== Sys2Proof/Machine/Control.lean ====
section
/-! DEFINITION. Compare, branch and call instructions (R61, R62). -/
namespace Sys2Proof.Machine

/-- Writes pd by the combine mode (R61). -/
def cmpBody (pd : PReg) (comb : BitVec 2) (cond : BitVec 8) (a b : Word) (k : Nat) (s : State) : Res :=
  .ok (setPred s k pd (combine comb (rdP (getCtx s k) pd) (condOf cond a b)))

/-- Compares ra with rb (R61); a condition above 7 is ILLEGAL (R51). -/
def execCmp (h : Hdr) (pd : PReg) (comb : BitVec 2) (ra rb : Reg) (cond : BitVec 8) (s : State) : Out :=
  done s (runInstr h
    { word := encF 4 [(pd.toNat, 20), (comb.toNat, 18), (ra.toNat, 13), (rb.toNat, 8), (cond.toNat, 0)], grp := .alu
      bad := 7 < cond.toNat }
    (fun k s => cmpBody pd comb cond (reg s k ra) (reg s k rb) k s) s)

/-- Compares ra with imm32 (R61). -/
def execCmpi (h : Hdr) (pd : PReg) (comb : BitVec 2) (ra : Reg) (imm : Word) (cond : BitVec 8) (s : State) : Out :=
  done s (runInstr h
    { word := encF 0b111001 [(pd.toNat, 20), (comb.toNat, 18), (ra.toNat, 13), (cond.toNat, 0)], len := 8, grp := .alu
      bad := 7 < cond.toNat }
    (fun k s => cmpBody pd comb cond (reg s k ra) imm k s) s)

/-- Continues at a home-relative offset; one that is not a multiple of 4 traps ALIGN and shows
home base + target as its address (R62, R89, assumption 186). -/
def jumpTo (e : Eng) (k : Nat) (target : Word) (s : State) : Res :=
  if target.toNat % 4 ≠ 0 then .trap s { cause := 2, addr := (homeOf s e).1 + target.toNat } else .ok (setPc s k target)

/-- The target of `br` and `call`: the branch's own offset plus the word offset times four; the pc already stands behind
the instruction (R62). -/
def branchTarget (s : State) (k : Nat) (off : BitVec 20) : Word := (getCtx s k).pc - 4 + sext off * 4

/-- Branches by a signed word offset (R62). -/
def execBr (h : Hdr) (off : BitVec 20) (s : State) : Out :=
  done s (runInstr h { word := encB 0b011000 off, grp := .branch } (fun k s => jumpTo h.eng k (branchTarget s k off) s) s)

/-- Branches and writes the offset of the next instruction to g31; a misaligned target traps before g31 is written (R62, R89). -/
def execCall (h : Hdr) (off : BitVec 20) (s : State) : Out :=
  done s (runInstr h { word := encB 0b011001 off, grp := .branch }
    (fun k s => (jumpTo h.eng k (branchTarget s k off) s).andThen fun s' => .ok (setReg s' k 31 (getCtx s k).pc)) s)

/-- Jumps to the offset in ra (R62). -/
def execJr (h : Hdr) (ra : Reg) (s : State) : Out :=
  done s (runInstr h { word := encA 6 0 ra 0 0, grp := .branch } (fun k s => jumpTo h.eng k (reg s k ra) s) s)

/-- Jumps to the offset in ra and writes the offset of the next instruction to rd; a misaligned target traps before rd is
written (R62, R89). -/
def execJalr (h : Hdr) (rd ra : Reg) (s : State) : Out :=
  done s (runInstr h { word := encA 6 rd ra 0 1, grp := .branch }
    (fun k s => (jumpTo h.eng k (reg s k ra) s).andThen fun s' => .ok (setReg s' k rd (getCtx s k).pc)) s)

end Sys2Proof.Machine
end

