-- ==== Sys2Proof/Machine/KeyUse.lean ====
section
/-! DEFINITION. The operations of `key.use` (R87, R538 to R543). -/
namespace Sys2Proof.Machine

/-- The descriptor of `key.use` (R538). -/
structure KeyDesc where
  w0 : Word
  a : Nat
  b : Nat
  handle : Nat
  inOfs : Nat
  inLen : Nat
  outOfs : Nat
  cap : Nat
  auxOfs : Nat
  auxLen : Nat
deriving DecidableEq, Repr

/-- Base of MGT's home (R63). -/
def mgtHome : Nat := 0x0010000000

/-- Reads the descriptor at a home offset. -/
def readKeyDesc (s : State) (o : Nat) : KeyDesc :=
  let w (i : Nat) : Nat := memN s (mgtHome + o + 4 * i) 4
  { w0 := Word.ofN (w 0), a := w 0 % 256, b := w 0 / 256 % 256, handle := w 0 / 65536 % 256
    inOfs := w 1, inLen := w 2, outOfs := w 3, cap := w 4, auxOfs := w 6, auxLen := w 7 }

/-- No range leaves the home region, and the zero byte is zero (R538). -/
def KeyDesc.fits (d : KeyDesc) : Bool :=
  let ok (o l : Nat) : Bool := l == 0 || o + l ≤ 0x200000
  d.w0.field 24 8 == 0 && ok d.inOfs d.inLen && ok d.outOfs d.cap && ok d.auxOfs d.auxLen

/-- Input and aux bytes. -/
def KeyDesc.input (s : State) (d : KeyDesc) : List Byte := memBytes s (mgtHome + d.inOfs) d.inLen
def KeyDesc.aux (s : State) (d : KeyDesc) : List Byte := memBytes s (mgtHome + d.auxOfs) d.auxLen

/-- What an operation comes to: the state, its status, its output and the handle it opened. -/
structure KeyRes where
  st : State
  code : Nat := 0
  out : List Byte := []
  handle : Option Nat := none

/-- A refusal: only a status. -/
def KeyRes.no (s : State) (code : Nat) : KeyRes := { st := s, code := code }

/-- KEY reads or writes a range in MGT's home word by word: the first word that cannot be read, if any (R96 to R98). A write of
whole words reads none. -/
def scanWords (s : State) (wr : Bool) (a len : Nat) : State × Option Nat :=
  ((s.mem.ecc.filter (fun e => 0 < len && a / 8 ≤ e.1 && e.1 * 8 < a + len)).map (·.1)).foldl
    (fun (s, bad) x =>
      if bad.isSome then (s, bad)
      else if wr && a ≤ x * 8 && x * 8 + 8 ≤ a + len then (eccFresh s (x * 8), none)
      else match eccRead s (x * 8) with
        | (s, true) => (s, none)
        | (s, false) => (errorResp s { unit := 0 } (if wr then .write else .read) .uncorr (x * 8) 0, some (x * 8)))
    (s, none)

/-- A range without an error response, or the trap BUS_ERROR of MGT (R67, assumption 73). -/
def withWords (s : State) (wr : Bool) (a len : Nat) (f : State → Res) : Res :=
  match scanWords s wr a len with
  | (s, none) => f s
  | (s, some x) => .trap s { cause := 3, resp := 5, addr := x }

/-- Runs an operation and writes what one that answered OK leaves: its output, the output length and a handle (R538, R540). The words
that its output covers in part are read first: an instruction that traps on one has had no effect (R89). -/
def keyFinish (o : Nat) (d : KeyDesc) (body : State → KeyRes) (k : Nat) (rd : Reg) (s : State) : Res :=
  withWords s true (mgtHome + d.outOfs) (if (body s).code = 0 then (body s).out.length else 0) fun s =>
    let r := body s
    if r.code ≠ 0 then .ok (setReg r.st k rd (Word.ofN r.code))
    else
      let s' := setBytes r.st (mgtHome + d.outOfs) r.out
      let s' := setW s' (mgtHome + o + 20) (Word.ofN r.out.length)
      let s' := match r.handle with
        | some h => setByte s' (mgtHome + o + 2) (BitVec.ofNat 8 h)
        | none => s'
      .ok (setReg s' k rd 0)

/-- `key.use` (R87, R538 to R541). `struck` is a tamper source that fires while the operation runs: with LOCK or ERASE the
operation ends with TAMPER. -/
def keyUse (h : Hdr) (rd ra : Reg) (op : Nat) (struck : Option (Fin 8)) (body : KeyDesc → State → KeyRes) (s : State) : State :=
  runInstr h { word := encA 0b110110 rd ra 0 op, grp := .key }
    (fun k s =>
      let o := (reg s k ra).toNat
      if s.key.locked then .ok (setReg s k rd 0x13)
      else if 0x200000 < o + 32 then .ok (setReg s k rd 2)
      else
        withWords s false (mgtHome + o) 32 fun s =>
          let d := readKeyDesc s o
          if !d.fits then .ok (setReg s k rd 2)
          else
            withWords s false (mgtHome + d.inOfs) d.inLen fun s =>
              withWords s false (mgtHome + d.auxOfs) d.auxLen fun s =>
                match struck with
                | some src =>
                  if 2 ≤ tamperResponse s src.val then .ok (setReg (tamperFire s src.val) k rd 0x12)
                  else keyFinish o d (body d) k rd (tamperFire s src.val)
                | none => keyFinish o d (body d) k rd s) s

/-! ## Operations on a slot -/

/-- The record of a slot (R530). -/
def slotRecord (s : State) (n : Nat) : List Byte :=
  let x := keySlot s n
  let w (v : Nat) : List Byte := leBytes 4 v
  w (x.st * 2 ^ 28 + x.kind * 2 ^ 24 + x.parent * 2 ^ 16 + x.depth * 2 ^ 13 + n) ++
  w (x.perms * 2 ^ 16 + bit (n < 4) * 32 + bit x.counted * 16 + bit x.expire * 8 + x.origin) ++
  w (if x.counted then x.uses else 0) ++ w x.gen.toNat ++ leBytes 8 x.ctr ++ x.print.take 4 ++ w 0

/-- An output that must fit its capacity (R540). -/
def keyOut (s : State) (d : KeyDesc) (out : List Byte) : KeyRes :=
  if d.cap < out.length then .no s 0x10 else { st := s, out := out }

/-- An operation that uses the key of slot A: checks, capacity, entropy, the use counter, then the output (R536, R537, R540). -/
def withKey (s : State) (d : KeyDesc) (kinds : List Nat) (perm : Option Nat) (len : Nat) (random : Bool)
    (f : KeySlot → State → KeyRes) : KeyRes :=
  match keyCheck s d.a kinds perm with
  | 0 =>
    if d.cap < len then .no s 0x10
    else if random && s.key.entropyFail then .no s 0x11
    else
      let x := keySlot s d.a
      match countUse s d.a with
      | (s, true) => f x s
      | (s, false) => .no s 0xA
  | c => .no s c

/-- DESCRIBE (R530, R539). -/
def execDescribe (h : Hdr) (rd ra : Reg) (struck : Option (Fin 8)) (s : State) : Out :=
  done s (keyUse h rd ra 1 struck (fun d s => keyOut s d (slotRecord s d.a)) s)

/-- The lowest free handle; which one a stream gets is the model's choice (assumption 74). -/
def freeHandle (s : State) : Option Nat := ((List.range 8).map (· + 1)).find? (fun h => (Tbl.find s.key.streams h).isNone)

/-- Opens a stream on slot A (R537, R539, R541). -/
def openStream (s : State) (d : KeyDesc) (op perm : Nat) : KeyRes :=
  let gcm := op != 4
  if gcm && (d.auxLen != 12 || 65536 < d.inLen) then .no s 2
  else
    let iv := if gcm then d.aux s else []
    let aad := if gcm then d.input s else []
    match freeHandle s with
    | none => match keyCheck s d.a [1] (some perm) with | 0 => .no s 0xD | c => .no s c
    | some hd =>
      withKey s d [1] (some perm) 0 false (fun _ s =>
        { st := { s with key := { s.key with streams := Tbl.ins s.key.streams hd { op := op, slot := d.a, iv := iv, aad := aad } } }
          handle := some hd })

/-- GCM_ENC (R539). -/
def execGcmEnc (h : Hdr) (rd ra : Reg) (struck : Option (Fin 8)) (s : State) : Out :=
  done s (keyUse h rd ra 2 struck (fun d s => openStream s d 2 0) s)

/-- GCM_DEC (R539). -/
def execGcmDec (h : Hdr) (rd ra : Reg) (struck : Option (Fin 8)) (s : State) : Out :=
  done s (keyUse h rd ra 3 struck (fun d s => openStream s d 3 1) s)

/-- CMAC (R539). -/
def execCmac (h : Hdr) (rd ra : Reg) (struck : Option (Fin 8)) (s : State) : Out :=
  done s (keyUse h rd ra 4 struck (fun d s => openStream s d 4 2) s)

/-- Frees a handle. -/
def closeStream (s : State) (hd : Nat) : State := { s with key := { s.key with streams := Tbl.del s.key.streams hd } }

/-- Goes on with the stream of a handle; one whose key was withdrawn ends with its code (R541). -/
def withStream (s : State) (d : KeyDesc) (f : KeyStream → KeyRes) : KeyRes :=
  match Tbl.find s.key.streams d.handle with
  | none => .no s 0xE
  | some x => if x.broken ≠ 0 then .no (closeStream s d.handle) x.broken else f x

/-- CHUNK (R539). -/
def execChunk (h : Hdr) (rd ra : Reg) (struck : Option (Fin 8)) (s : State) : Out :=
  done s (keyUse h rd ra 5 struck (fun d s =>
    withStream s d fun x =>
      let m := d.input s
      let key := (keySlot s x.slot).key
      if d.inLen = 0 ∨ 65536 < d.inLen then .no s 2
      else if x.op ≠ 4 ∧ d.cap < d.inLen then .no s 0x10
      else
        let out := if x.op = 4 then [] else gcmCtr key x.iv x.data.length m
        let add := if x.op = 2 then out else m
        { st := { s with key := { s.key with streams := Tbl.ins s.key.streams d.handle { x with data := x.data ++ add } } }
          out := out }) s)

/-- FINISH (R539). -/
def execFinishStream (h : Hdr) (rd ra : Reg) (struck : Option (Fin 8)) (s : State) : Out :=
  done s (keyUse h rd ra 6 struck (fun d s =>
    withStream s d fun x =>
      let key := (keySlot s x.slot).key
      let tag := if x.op = 4 then cmac256 key x.data else gcmTag key x.iv x.aad x.data
      if x.op = 3 then
        if d.inLen ≠ 16 then .no s 2
        else { st := closeStream s d.handle, code := if d.input s = tag then 0 else 0xF }
      else if d.cap < 16 then .no s 0x10
      else { st := closeStream s d.handle, out := tag }) s)

/-- ABORT (R539). -/
def execAbortStream (h : Hdr) (rd ra : Reg) (struck : Option (Fin 8)) (s : State) : Out :=
  done s (keyUse h rd ra 7 struck (fun d s => withStream s d fun _ => { st := closeStream s d.handle }) s)

/-- SIGN (R539). -/
def execSign (h : Hdr) (rd ra : Reg) (struck : Option (Fin 8)) (s : State) : Out :=
  done s (keyUse h rd ra 8 struck (fun d s =>
    if d.inLen ≠ 48 then .no s 2
    else
      let digest := d.input s
      withKey s d [3] (some 3) 96 true fun x s =>
        let (s, k) := drbgDraw s 14
        { st := s, out := ecdsaSign x.key digest (beNat (ecPrivate k)) }) s)

/-- VERIFY (R539). -/
def execVerify (h : Hdr) (rd ra : Reg) (struck : Option (Fin 8)) (s : State) : Out :=
  done s (keyUse h rd ra 9 struck (fun d s =>
    if d.inLen ≠ 48 ∨ d.auxLen ≠ 96 then .no s 2
    else
      let ok := ecdsaVerify (keySlot s d.a).key (d.input s) (d.aux s)
      withKey s d [4] (some 4) 0 false fun _ s => { st := s, code := if ok then 0 else 0xF }) s)

/-- HASH (R539). -/
def execHash (h : Hdr) (rd ra : Reg) (struck : Option (Fin 8)) (s : State) : Out :=
  done s (keyUse h rd ra 0xA struck (fun d s => keyOut s d (sha384 (d.input s))) s)

/-! ## Keys made inside -/

/-- The aux block of GENERATE and DERIVE (R538). -/
structure KeyAux where
  kind : Nat
  perms : Nat
  expire : Bool
  counted : Bool
  uses : Nat
  label : List Byte
deriving DecidableEq, Repr

/-- Reads it; none when its length or permissions are out of range (R531, R538). -/
def readKeyAux (l : List Byte) : Option KeyAux :=
  let perms := natAt l 2 2
  if l.length < 12 ∨ 76 < l.length ∨ 0x800 ≤ perms ∨ (perms.testBit 8 ∧ (perms.testBit 6 ∨ perms.testBit 7)) then none
  else some { kind := natAt l 0 1 % 16, perms := perms, expire := (natAt l 4 1).testBit 0, counted := (natAt l 4 1).testBit 1,
              uses := natAt l 8 4, label := l.drop 12 }

/-- Slot B may be written by GENERATE and DERIVE (R535). -/
def slotFree (s : State) (n : Nat) : Bool := 4 ≤ n && !(keySlot s n).holds

/-- A key made inside fills slot B (R530, R535). -/
def fillSlot (s : State) (n parent origin : Nat) (x : KeyAux) (key : List Byte) : State :=
  setKeySlot s n
    { st := 1, kind := x.kind, parent := parent, depth := childDepth s parent, perms := x.perms, counted := x.counted
      expire := x.expire, origin := origin, uses := if x.counted then x.uses else 0, gen := (keySlot s n).gen + 1, key := key }

/-- Checks of GENERATE and DERIVE after those of the parent (R535, R540). -/
def makeCheck (s : State) (d : KeyDesc) (parent : Nat) (x : KeyAux) : Nat :=
  if !(1 ≤ x.kind && x.kind ≤ 3) then 4
  else if !slotFree s d.b then 0xB
  else if 8 ≤ childDepth s parent then 0xC
  else 0

/-- DERIVE (R535, R539). -/
def execDeriveKey (h : Hdr) (rd ra : Reg) (struck : Option (Fin 8)) (s : State) : Out :=
  done s (keyUse h rd ra 0xB struck (fun d s =>
    match readKeyAux (d.aux s) with
    | none => .no s 2
    | some x =>
      match keyCheck s d.a [2] (some 5), makeCheck s d d.a x with
      | 0, 0 =>
        withKey s d [2] (some 5) 0 false fun _ s =>
          { st := fillSlot s d.b d.a 2 x (deriveBytes s d.a x.kind d.b x.label) }
      | 0, c => .no s c
      | c, _ => .no s c) s)

/-- GENERATE (R535, R539). -/
def execGenerate (h : Hdr) (rd ra : Reg) (struck : Option (Fin 8)) (s : State) : Out :=
  done s (keyUse h rd ra 0xC struck (fun d s =>
    match readKeyAux (d.aux s) with
    | none => .no s 2
    | some x =>
      match (if d.a = 0xFF then 0 else keyCheck s d.a [2] none), makeCheck s d d.a x with
      | 0, 0 =>
        if s.key.entropyFail then .no s 0x11
        else
          let (s, l) := drbgDraw s (keyWords x.kind)
          { st := fillSlot s d.b d.a 1 x (keyOf x.kind l) }
      | 0, c => .no s c
      | c, _ => .no s c) s)

/-- INVALIDATE (R533, R539, R541). -/
def execInvalidate (h : Hdr) (rd ra : Reg) (struck : Option (Fin 8)) (s : State) : Out :=
  done s (keyUse h rd ra 0xD struck (fun d s =>
    let x := keySlot s d.a
    if d.a < 4 then .no s 5
    else if !x.holds then .no s x.refusal
    else if !x.perms.testBit 10 then .no s 5
    else { st := withdraw s [d.a] 0 7 }) s)

/-! ## Attestation -/

/-- The statement without its signature (R543). -/
def statement (s : State) (nonce : List Byte) (keys : List Nat) : List Byte :=
  let l := 1 :: keys
  [1, 0, 0xA1, BitVec.ofNat 8 s.key.rootGen] ++ leBytes 16 Config.identity.toNat ++ nonce ++ leBytes 8 s.key.mono ++
  leBytes 4 s.clk.pcc.toNat ++ leBytes 6 s.clk.opMs.toNat ++ leBytes 1 s.key.meas.length ++ leBytes 1 l.length ++
  [s.key.latch] ++ leBytes 7 0 ++
  s.key.meas.flatMap (fun m => leBytes 2 m.ty ++ leBytes 2 m.target ++ leBytes 8 m.ctr ++ m.digest) ++
  l.flatMap (fun n =>
    let x := keySlot s n
    [BitVec.ofNat 8 n, BitVec.ofNat 8 (x.origin * 16 + x.kind),
     BitVec.ofNat 8 (bit (x.origin ≤ 2) + 2 * bit (1 ≤ x.kind && x.kind ≤ 3)), BitVec.ofNat 8 x.st] ++
    leBytes 4 x.gen.toNat ++ x.print)

/-- ATTEST (R543). -/
def execAttest (h : Hdr) (rd ra : Reg) (struck : Option (Fin 8)) (s : State) : Out :=
  done s (keyUse h rd ra 0xE struck (fun d s =>
    if d.auxLen < 32 ∨ 48 < d.auxLen then .no s 2
    else
      let aux := d.aux s
      let body := statement s (aux.take 32) ((aux.drop 32).map (·.toNat))
      withKey s { d with a := 1 } [3] none (body.length + 96) true fun x s =>
        let (s, k) := drbgDraw s 14
        { st := s, out := body ++ ecdsaSign x.key (sha384 body) (beNat (ecPrivate k)) }) s)

/-- RANDOM (R536, R539). -/
def execRandom (h : Hdr) (rd ra : Reg) (struck : Option (Fin 8)) (s : State) : Out :=
  done s (keyUse h rd ra 0xF struck (fun d s =>
    if d.cap = 0 ∨ 4096 < d.cap then .no s 2
    else if s.key.entropyFail then .no s 0x11
    else
      let (s, l) := drbgDraw s ((d.cap + 3) / 4)
      { st := s, out := l.take d.cap }) s)

/-- PUBLIC (R539). -/
def execPublicKey (h : Hdr) (rd ra : Reg) (struck : Option (Fin 8)) (s : State) : Out :=
  done s (keyUse h rd ra 0x10 struck (fun d s =>
    withKey s d [3, 4, 5] none (if (keySlot s d.a).kind = 5 then 1952 else 96) false fun x s => { st := s, out := x.pub }) s)

/-- An op that R539 does not list: BAD_OP, before its descriptor is read (R540). A listed op is not this command's. -/
def execKeyBadOp (h : Hdr) (rd ra : Reg) (op : BitVec 8) (s : State) : Out :=
  done s (
    if 1 ≤ op.toNat && op.toNat ≤ 0x10 then s
    else runInstr h { word := encA 0b110110 rd ra 0 op.toNat, grp := .key }
      (fun k s => .ok (setReg s k rd (if s.key.locked then 0x13 else 1))) s)

end Sys2Proof.Machine
end

