-- ==== Sys2Proof/Machine/Memory.lean ====
section
/-! DEFINITION. Loads, stores, far accesses and atomics (R63 to R67, R96 to R98). -/
namespace Sys2Proof.Machine

/-- A near load of `n` bytes, the value of which `f` makes from the address (R63, R64). -/
def loadOp (h : Hdr) (w : Word) (rb : Reg) (off : BitVec 12) (n : Nat) (bad : Bool)
    (f : Nat → Nat → State → State) (s : State) : State :=
  runInstr h { word := w, grp := .near, bad := bad }
    (fun k s => nearAccess s h.eng k .read false (effective (reg s k rb) off n) n (fun a s => .ok (f k a s))) s

/-- A near store of `n` bytes from rd (R63, R64). -/
def storeOp (h : Hdr) (w : Word) (rb : Reg) (off : BitVec 12) (n : Nat) (bad : Bool)
    (f : Nat → Nat → State → State) (s : State) : State :=
  runInstr h { word := w, grp := .near, bad := bad }
    (fun k s => nearAccess s h.eng k .write true (effective (reg s k rb) off n) n (fun a s => .ok (f k a s))) s

/-- `n` bytes at `a`, zero- or sign-extended to 32 bits (R64). -/
def loadExt (s : State) (a n : Nat) (x : Bool) : Word :=
  if x then bexts (Word.ofN (memN s a n)) 0 (8 * n) else Word.ofN (memN s a n)

/-- Loads a byte (R63, R64). -/
def execLdB (h : Hdr) (rd rb : Reg) (x : Bool) (off : BitVec 12) (s : State) : Out :=
  done s (loadOp h (encM 0b100000 rd rb x off) rb off 1 false (fun k a s => setReg s k rd (loadExt s a 1 x)) s)

/-- Loads a halfword (R63, R64). -/
def execLdH (h : Hdr) (rd rb : Reg) (x : Bool) (off : BitVec 12) (s : State) : Out :=
  done s (loadOp h (encM 0b100001 rd rb x off) rb off 2 false (fun k a s => setReg s k rd (loadExt s a 2 x)) s)

/-- Loads a word (R63). -/
def execLdW (h : Hdr) (rd rb : Reg) (off : BitVec 12) (s : State) : Out :=
  done s (loadOp h (encM 0b100010 rd rb false off) rb off 4 false (fun k a s => setReg s k rd (memW s a)) s)

/-- Loads a doubleword into the pair rd, rd+1, the low word in rd (R64). -/
def execLdD (h : Hdr) (rd rb : Reg) (off : BitVec 12) (s : State) : Out :=
  done s (loadOp h (encM 0b100011 rd rb false off) rb off 8 (oddReg rd)
    (fun k a s => setReg (setReg s k rd (memW s a)) k (pairReg rd) (memW s (a + 4))) s)

/-- Stores the low byte of rd (R63, R97). -/
def execStB (h : Hdr) (rd rb : Reg) (off : BitVec 12) (s : State) : Out :=
  done s (storeOp h (encM 0b100100 rd rb false off) rb off 1 false (fun k a s => setN s a 1 (reg s k rd).toNat) s)

/-- Stores the low halfword of rd (R63, R97). -/
def execStH (h : Hdr) (rd rb : Reg) (off : BitVec 12) (s : State) : Out :=
  done s (storeOp h (encM 0b100101 rd rb false off) rb off 2 false (fun k a s => setN s a 2 (reg s k rd).toNat) s)

/-- Stores rd (R63, R97). -/
def execStW (h : Hdr) (rd rb : Reg) (off : BitVec 12) (s : State) : Out :=
  done s (storeOp h (encM 0b100110 rd rb false off) rb off 4 false (fun k a s => setW s a (reg s k rd)) s)

/-- Stores the pair rd, rd+1 as one full word with a fresh code (R64, R97). -/
def execStD (h : Hdr) (rd rb : Reg) (off : BitVec 12) (s : State) : Out :=
  done s (storeOp h (encM 0b100111 rd rb false off) rb off 8 (oddReg rd)
    (fun k a s => setW (setW s a (reg s k rd)) (a + 4) (reg s k (pairReg rd))) s)

/-- The plane that owns an address, none when it is unmapped (R93, R101). -/
def ownerPlane (a : Nat) : Option Plane := (regionOf a).map (fun r => if r = 18 then mramPlane a else regionPlane r)

/-- A read by MGT of another plane's memory passes the update gate (R94); one that is refused does not wait for it. -/
def viaGate (s : State) (e : Eng) (a n : Nat) : Bool :=
  unitOf e == 0 && (ownerPlane a).any (fun p => p != .management) && (accessCause s 0 false a n).isNone

/-- The gate's target for a store by MGT into memory of another plane: STN for a station table, CLE for its own memory (R93, R378). -/
def storeTarget (e : Eng) (a : Nat) : Option Nat :=
  if unitOf e ≠ 0 then none
  else match regionOf a with
    | some 7 => some (0x22 * 64)
    | some 10 => some (0x10 * 64)
    | _ => none

/-- A store by MGT into memory of another plane passes the gate (R24, R85): refused while a change for the target is pending, done at once
while the target is stopped, and otherwise held for its boundary. -/
def gateStore (s : State) (w : Who) (target a : Nat) (bs : List Byte) : Res :=
  let g : GateItem := { target := target, change := .store a bs }
  match accessCause s 0 true a bs.length with
  | some c => refuse s w .write c a 0
  | none =>
    if s.gate.any (fun x => x.target == target) then refuse s w .write .gateBusy a 0
    else if unitStopped s (target / 64) then .ok (gateDone (storeNow s a bs) g)
    else .ok { s with gate := s.gate ++ [g] }

/-- A far access of `n` bytes at the address in the pair ra, ra+1: in the process image by the rules of R68, elsewhere in
memory (R65, R67, R94). A load of MGT from another plane waits for the gate, and so does a store there (R85). -/
def farOp (h : Hdr) (func : Nat) (r ra : Reg) (wr : Bool) (n : Nat) (f : Nat → Nat → State → State) (s : State) : State :=
  let w := if wr then encA 0b101010 0 ra r func else encA 0b101010 r ra 0 func
  runInstr h { word := w, grp := .far, bad := oddReg ra || (n == 8 && oddReg r) }
    (fun k s =>
      let kd := if wr then Kind.write else Kind.read
      let lo := reg s k ra
      let hi := reg s k (pairReg ra)
      let a40 := hi.toNat % 256 * 2 ^ 32 + lo.toNat
      if a40 % n ≠ 0 then .trap s { cause := 2, addr := a40 }
      else match farAddr lo hi with
        | none => refuse s (whoIs h.eng k) kd .unmapped a40 0
        | some a =>
          if 0x0200000000 ≤ a ∧ a < 0x0200100000 then
            if wr then piWriteOp h.eng k r (a - 0x0200000000) (n / 4) s else piReadOp h.eng k r (a - 0x0200000000) (n / 4) s
          else if !wr ∧ viaGate s h.eng a n then
            .ok (setCtx s k { getCtx s k with wait := .gate r.toNat a n (fullWord h { word := w, grp := .far }) })
          else match wr, storeTarget h.eng a with
            | true, some t =>
              gateStore s (whoIs h.eng k) t a
                (leBytes 4 (reg s k r).toNat ++ (if n = 8 then leBytes 4 (reg s k (pairReg r)).toNat else []))
            | _, _ => withAccess s (whoIs h.eng k) kd wr a n (fun s => .ok (f k a s))) s

/-- The owner of the memory that a load of MGT waits for is at its boundary (R94): the load ends with the registers written, or
traps. -/
def gateLoad (s : State) (e : Eng) (k : Nat) : State :=
  match (getCtx s k).wait with
  | .gate rd a n w =>
    let s := setCtx s k { getCtx s k with wait := .none }
    let r := BitVec.ofNat 5 rd
    match access s (whoIs e k) .gateRead false a n with
    | (s, none) =>
      let s := setReg s k r (memW s a)
      if n = 8 then setReg s k (pairReg r) (memW s (a + 4)) else s
    | (s, some c) =>
      let pc0 := (getCtx s k).pc - 4
      takeTrap (setPc s k pc0) e k pc0 w { cause := 3, resp := c.code, addr := a }
  | _ => s

/-- A far store into a sub-station slot has bound it or taken its binding away (R436, R439). -/
def slotStored (s : State) (a : Nat) : State :=
  if 0x0300100000 ≤ a ∧ a < 0x0300200000 then slotRebind s ((a - 0x0300100000) / 0x200) else s

/-- Loads a word from a far address (R65). -/
def execLdF (h : Hdr) (rd ra : Reg) (s : State) : Out :=
  done s (farOp h 0 rd ra false 4 (fun k a s => setReg s k rd (memW s a)) s)

/-- Stores a word to a far address (R65). -/
def execStF (h : Hdr) (rb ra : Reg) (s : State) : Out :=
  done s (farOp h 1 rb ra true 4 (fun k a s => slotStored (setW s a (reg s k rb)) a) s)

/-- Loads a pair from a far address (R65). -/
def execLdFd (h : Hdr) (rd ra : Reg) (s : State) : Out :=
  done s (farOp h 2 rd ra false 8 (fun k a s => setReg (setReg s k rd (memW s a)) k (pairReg rd) (memW s (a + 4))) s)

/-- Stores a pair to a far address (R65). -/
def execStFd (h : Hdr) (rb ra : Reg) (s : State) : Out :=
  done s (farOp h 3 rb ra true 8 (fun k a s => slotStored (setW (setW s a (reg s k rb)) (a + 4) (reg s k (pairReg rb))) a) s)

/-- An atomic on the aligned home word at ra: rd takes the old word, the memory the new one (R66). `f old rb rd`. -/
def amoOp (h : Hdr) (func : Nat) (rd ra rb : Reg) (f : Word → Word → Word → Word) (s : State) : State :=
  runInstr h { word := encA 0b101011 rd ra rb func, grp := .near }
    (fun k s => nearAccess s h.eng k .atomic true (reg s k ra).toNat 4
      (fun a s =>
        let old := memW s a
        .ok (setReg (setW s a (f old (reg s k rb) (reg s k rd))) k rd old))) s

/-- Swaps (R66). -/
def execAmoSwap (h : Hdr) (rd ra rb : Reg) (s : State) : Out := done s (amoOp h 0 rd ra rb (fun _ b _ => b) s)

/-- Adds (R66). -/
def execAmoAdd (h : Hdr) (rd ra rb : Reg) (s : State) : Out := done s (amoOp h 1 rd ra rb (fun o b _ => o + b) s)

/-- ANDs (R66). -/
def execAmoAnd (h : Hdr) (rd ra rb : Reg) (s : State) : Out := done s (amoOp h 2 rd ra rb (fun o b _ => o &&& b) s)

/-- ORs (R66). -/
def execAmoOr (h : Hdr) (rd ra rb : Reg) (s : State) : Out := done s (amoOp h 3 rd ra rb (fun o b _ => o ||| b) s)

/-- Signed maximum (R66). -/
def execAmoMax (h : Hdr) (rd ra rb : Reg) (s : State) : Out :=
  done s (amoOp h 4 rd ra rb (fun o b _ => if o.slt b then b else o) s)

/-- Signed minimum (R66). -/
def execAmoMin (h : Hdr) (rd ra rb : Reg) (s : State) : Out :=
  done s (amoOp h 5 rd ra rb (fun o b _ => if o.slt b then o else b) s)

/-- rb replaces the word when it equals rd (R66). -/
def execAmoCas (h : Hdr) (rd ra rb : Reg) (s : State) : Out :=
  done s (amoOp h 6 rd ra rb (fun o b d => if o = d then b else o) s)

end Sys2Proof.Machine
end

