-- ==== Sys2Proof/Machine/Link.lean ====
section
/-! DEFINITION. The management link: its frames, commands and RUN jobs, and what an UPDATE hands to the gate (R94, R111 to R115,
R546, R549, R591). -/
namespace Sys2Proof.Machine

/-! ## Frames -/

/-- The header of a request (R111). -/
def mgtHeader (cmd : Byte) (q : MgtReq) : List Byte :=
  [cmd, q.b1] ++ leBytes 2 q.seq.toNat ++ leBytes 4 q.len.toNat ++ leBytes 5 q.addr.toNat ++ [q.b13] ++ leBytes 2 q.b14.toNat

/-- The response to a request with header `h` (R111). -/
def mgtResponse (h : List Byte) (status cause : Nat) (payload : List Byte) : List Byte :=
  let b := h.take 1 ++ leBytes 1 status ++ (h.drop 2).take 2 ++ leBytes 4 payload.length ++ (h.drop 8).take 5 ++
    leBytes 1 cause ++ [0, 0] ++ payload
  b ++ leBytes 4 (crc32c b).toNat

/-- A transport. -/
def getLink (s : State) (t : Nat) : Link := Tbl.get {} s.mgt.links t

/-- Replaces a transport. -/
def setLink (s : State) (t : Nat) (l : Link) : State := { s with mgt := { s.mgt with links := Tbl.put {} s.mgt.links t l } }

/-- Puts a frame on a transport. -/
def linkSend (s : State) (t : Nat) (f : List Byte) : State :=
  let l := getLink s t
  setLink s t { l with out := f, sent := (l.sent + 1) % 2 ^ 32 }

/-- A request as the answer to it must know it: its transport, its sequence and CRC, its header. -/
structure Asked where
  link : Nat
  key : Nat × Word
  header : List Byte

/-- Answers a request (R113, R114): the response is sent, and kept while no later request has come on the transport. -/
def linkAnswer (s : State) (q : Asked) (status cause : Nat) (payload : List Byte) : State :=
  let f := mgtResponse q.header status cause payload
  let s := linkSend s q.link f
  let l := getLink s q.link
  if l.last = some q.key then setLink s q.link { l with resp := f, busy := false } else s

/-- An error response and its answer (R109, R113). -/
def linkError (s : State) (q : Asked) (k : Kind) (c : Cause) (addr : Nat) : State :=
  linkAnswer (errorResp s { unit := 0 } k c addr 0) q 4 c.code []

/-- The request's fields break R111, or the command is not listed (R112, R113). -/
def mgtBadFields (cmd : Byte) (q : MgtReq) : Bool :=
  cmd = 0 || 5 < cmd.toNat || q.b1 ≠ 0 || (cmd ≠ 4 && (q.b13 ≠ 0 || q.b14 ≠ 0)) || ((cmd = 1 || cmd = 4) && q.len ≠ 0) ||
  (cmd ≠ 3 && !q.payload.isEmpty) || (cmd = 3 && q.payload.length ≠ q.len.toNat) || (cmd = 4 && q.b14 = 0)

/-- Kind of the access that a command makes (R110). -/
def mgtKind (cmd : Byte) : Kind := if cmd.toNat ≤ 2 then .hostRead else .hostWrite

/-- A request arrives on a transport (R111, R113, R114, R591): its CRC, its repetition, the boot state and its fields come before
what the command does. In sleep the link is off. -/
def linkRequest (s : State) (t : Fin 4) (cmd : Byte) (q : MgtReq) (body : State → Asked → State) : State :=
  let h := mgtHeader cmd q
  let a : Asked := { link := t.val, key := (q.seq.toNat, q.crc), header := h }
  let l := getLink s t.val
  if s.pwr.asleep then s
  else if crc32c (h ++ q.payload) ≠ q.crc then linkSend s t.val (mgtResponse h 1 0 [])
  else if l.last = some a.key then (if l.busy then s else linkSend s t.val l.resp)
  else
    let s := setLink s t.val { l with last := some a.key, busy := true }
    let b := bootState s
    if b = 1 ∧ cmd ≠ 1 then linkAnswer s a 8 0 []
    else if (b = 0 ∧ cmd ≠ 1) ∨ (b = 2 ∧ cmd ≠ 1 ∧ cmd ≠ 5) then linkError s a (mgtKind cmd) .locked q.addr.toNat
    else if mgtBadFields cmd q then linkAnswer s a 2 0 []
    else body s a

/-- IDENT (R112, R553): identity, revision, the tamper latch, the boot state, zero. -/
def execIdent (t : Fin 4) (q : MgtReq) (s : State) : Out :=
  done s (linkRequest s t 1 q (fun s a =>
    linkAnswer s a 0 0 (leBytes 16 Config.identity.toNat ++ leBytes 4 (0xA1 + s.key.latch.toNat * 2 ^ 8 + bootState s * 2 ^ 16))))

/-- A frame whose command value is not listed (R112, R113); a listed value is another command's row (assumption 7). -/
def execMgtBadCommand (t : Fin 4) (cmd : Byte) (q : MgtReq) (s : State) : Out :=
  done s (if 1 ≤ cmd.toNat ∧ cmd.toNat ≤ 5 then s else linkRequest s t cmd q (fun s _ => s))

/-! ## Access to memory by the host -/

/-- Reads up to `n` bytes word by word, until an error response (R67, R94, R98). -/
def hostRead (k : Kind) : Nat → State → Nat → Nat → List Byte → State × Except Cause (List Byte)
  | 0, s, _, _, acc => (s, .ok acc)
  | fuel + 1, s, a, n, acc =>
    if n = 0 then (s, .ok acc)
    else
      let m := min (8 - a % 8) n
      match access s { unit := 0 } k false a m with
      | (s, some c) => (s, .error c)
      | (s, none) => hostRead k fuel s (a + m) (n - m) (acc ++ memBytes s a m)

/-- Bytes of the process image as MGT reads it: the newest frozen input copy or the published output area (R68). -/
def piBytes (s : State) (a n : Nat) : List Byte :=
  (List.range n).map (fun i =>
    let o := a - 0x0200000000 + i
    (leBytes 4 (piWord s .mgt 0 (o / 4)).toNat).getD (o % 4) 0)

/-- Writes bytes word by word, until an error response (R67, R97, R98). -/
def hostWrite : Nat → State → Nat → List Byte → State × Option Cause
  | 0, s, _, _ => (s, none)
  | fuel + 1, s, a, bs =>
    if bs.isEmpty then (s, none)
    else
      let m := min (8 - a % 8) bs.length
      match access s { unit := 0 } .hostWrite true a m with
      | (s, some c) => (s, some c)
      | (s, none) => hostWrite fuel (setBytes s a (bs.take m)) (a + m) (bs.drop m)

/-- The range crosses the end of the region that its address lies in (R113). -/
def crossesEnd (a n : Nat) : Bool :=
  match regionOf a with
  | some r => match regions[r]? with | some (b, z) => b + z < a + n | none => false
  | none => false

/-- Ends a READ: reads the range and answers (R112). -/
def readAnswer (s : State) (q : Asked) (a n : Nat) : State :=
  match hostRead .hostRead n s a n [] with
  | (s, .error c) => linkAnswer s q 4 c.code []
  | (s, .ok d) =>
    linkAnswer s q 0 0 (if 0x0200000000 ≤ a ∧ a < 0x0200100000 then piBytes s a n else d)

/-- READ (R94, R112, R113): another plane's memory is read at its owner's boundary. -/
def execRead (t : Fin 4) (q : MgtReq) (s : State) : Out :=
  done s (linkRequest s t 2 q (fun s a =>
    let ad := q.addr.toNat
    let n := q.len.toNat
    let image := 0x0200000000 ≤ ad ∧ ad < 0x0200100000
    if 4096 < n ∨ crossesEnd ad n then linkAnswer s a 3 0 []
    else if n ≠ 0 ∧ ¬ image ∧ viaGate s .mgt ad 1 then
      setLink s t.val { getLink s t.val with gateRead := some (ad, n, a.header, a.key.1, a.key.2) }
    else readAnswer s a ad n))

/-- The owner of the memory that a gate read waits for is at its boundary (R94). -/
def execGateRead (g : GateReader) (s : State) : Out :=
  done s (if s.pwr.asleep then s
    else match g with
      | .program job => if job then gateLoad s .mgtJob 1 else gateLoad s .mgt 0
      | .link t =>
        match (getLink s t.val).gateRead with
        | some (a, n, h, k) =>
          readAnswer (setLink s t.val { getLink s t.val with gateRead := none }) { link := t.val, key := k, header := h } a n
        | none => s)

/-- The range lies in the host window, or in update staging (R93). -/
def hostMayWrite (a n : Nat) : Bool :=
  (0x0010180000 ≤ a && a + n ≤ 0x0010200000) || (0x0B00000000 ≤ a && a + n ≤ 0x0B01000000)

/-- WRITE (R112, R113). -/
def execWrite (t : Fin 4) (q : MgtReq) (s : State) : Out :=
  done s (linkRequest s t 3 q (fun s a =>
    let ad := q.addr.toNat
    let n := q.payload.length
    if 4096 < n ∨ crossesEnd ad n then linkAnswer s a 3 0 []
    else if !hostMayWrite ad n then linkError s a .hostWrite .prot ad
    else match hostWrite n s ad q.payload with
      | (s, some c) => linkAnswer s a 4 c.code []
      | (s, none) => linkAnswer s a 0 0 []))

/-! ## RUN -/

/-- The next waiting job begins when none runs (R42, R115). -/
def jobNext (s : State) : State :=
  match s.mgt.running, s.mgt.runQ with
  | none, j :: l =>
    let at_ := ((s.mgt.entries.find? (fun e => e.1 == j.entry)).map (·.2)).getD 0
    setCtx { s with mgt := { s.mgt with running := some j, runQ := l } } 1 (freshCtx at_)
  | _, _ => s

/-- RUN (R112, R113, R115): the argument block lies in the host window with room for the result. -/
def execRun (t : Fin 4) (q : MgtReq) (s : State) : Out :=
  done s (linkRequest s t 4 q (fun s a =>
    let e := q.b13.toNat
    let ad := q.addr.toNat
    if !s.mgt.entries.any (fun x => x.1 == e) then linkAnswer s a 2 0 []
    else if ad < 0x0010180000 ∨ 0x0010200000 < ad + 4 then linkError s a .hostWrite .prot ad
    else if 4 ≤ s.mgt.runQ.length then linkAnswer s a 6 0 []
    else
      let j : RunJob := { link := t.val, entry := e, arg := ad, timeout := q.b14.toNat, header := a.header, key := a.key
                          since := s.clk.tick.toNat }
      jobNext { s with mgt := { s.mgt with runQ := s.mgt.runQ ++ [j] } }))

/-- The request of a job. -/
def jobAsked (j : RunJob) : Asked := { link := j.link, key := j.key, header := j.header }

/-- The RUN job in execution finishes with its result (R112, R113): answered, or left at the argument block after a timeout. -/
def execRunJobDone (result : Word) (s : State) : Out :=
  done s (
    match s.mgt.running with
    | none => s
    | some j =>
      if s.pwr.asleep then s
      else
        let s := setCtx { s with mgt := { s.mgt with running := none } } 1 {}
        let s :=
          if j.timedOut then
            match access s { unit := 0 } .write true j.arg 4 with
            | (s, none) => setW s j.arg result
            | (s, some _) => s
          else linkAnswer s (jobAsked j) 0 0 (leBytes 4 result.toNat)
        jobNext s)

/-- The job's timeout has passed, counted from its acceptance in ticks (R113). -/
def jobLate (s : State) (j : RunJob) : Bool := !j.timedOut && j.since + 100 * j.timeout ≤ s.clk.tick.toNat + 1

/-- A RUN job exceeds its timeout (R113): the one in execution, or the k-th that waits. It stays. -/
def execRunJobTimeout (job : Fin 5) (s : State) : Out :=
  done s (
    if job.val = 0 then
      match s.mgt.running with
      | some j =>
        if jobLate s j then
          linkAnswer { s with mgt := { s.mgt with running := some { j with timedOut := true } } } (jobAsked j) 5 0 []
        else s
      | none => s
    else
      match s.mgt.runQ[job.val - 1]? with
      | some j =>
        if jobLate s j then
          linkAnswer { s with mgt := { s.mgt with runQ := s.mgt.runQ.set (job.val - 1) { j with timedOut := true } } }
            (jobAsked j) 5 0 []
        else s
      | none => s)

/-! ## UPDATE -/

/-- The target engine of an envelope in the gate, none for an MGT image (R24, R544, R546). -/
def gateTargetOf (e : EnvInfo) : Option Nat :=
  match e.ty with
  | 1 => some (0x12 * 64)
  | 2 => some (0x13 * 64)
  | 3 | 4 | 9 => some (0x14 * 64)
  | 5 => some (e.target / 1024 * 64)
  | 6 => some (0x0C * 64)
  | 7 => some (0x24 * 64)
  | 8 => none
  | 10 => some (0x11 * 64 + e.target % 1024)
  | _ => some (0x26 * 64)

/-- The gate holds the payload for a target. -/
def gateHold (s : State) (target : Nat) (e : EnvInfo) (d : List Byte) : State :=
  { s with gate := s.gate ++ [{ target := target, env := some e, change := .payload e.ty d }] }

/-- The gate's part of an UPDATE with a safety image (R422, R423): pending, switched at once while SAF is in its safe state, or
refused. -/
def safAccept (s : State) (d : List Byte) (e : EnvInfo) : State × Bool :=
  match safParse d with
  | .error (o, v) => (raisePost s 0x0C 2 195 [Word.ofN o, 0, Word.ofN v], false)
  | .ok _ =>
    let s := gateHold s (0x0C * 64) e d
    (if s.saf.safe then safBoundary s else s, true)

/-- The gate's part of an UPDATE with an ASM program or an AFE plan (R546). -/
def engineAccept (s : State) (maxZ target : Nat) (d : List Byte) (e : EnvInfo) : State × Bool :=
  if (engineImage e.ty maxZ d).isSome then (gateHold s target e d, true) else (post s (target / 64) 2 0x0604 [], false)

/-- An MGT image is stored at once; the boundary that its record names is the next start-up, whose code is free (R546). -/
def mgtAccept (s : State) (d : List Byte) (e : EnvInfo) : State × Bool :=
  if (engineImage 8 0x180000 d).isNone then (post s 0 2 0x0604 [], false)
  else
    let (s, w) := freeW s
    (keyAdvance (post s 0 1 0x0600 [Word.ofN e.target, w, digestWord e.digest]) e, true)

/-- Whether an acceptance left a change in the gate. -/
def heldMore (s t : State) : State × Bool := (t, s.gate.length < t.gate.length)

/-- The gate's part of an UPDATE (R115, R547, R549): true when the payload is accepted. -/
def updateAccept (s : State) (e : EnvInfo) (d : List Byte) : State × Bool :=
  match e.ty with
  | 1 | 2 => heldMore s (tableAccept s e.ty d e)
  | 3 | 4 => heldMore s (modelAccept s e.ty d e)
  | 5 => heldMore s (cycAccept s (e.target / 1024 - 4) d e)
  | 6 => safAccept s d e
  | 7 => if (clearScope d).isSome then (gateHold s (0x24 * 64) e d, true) else (s, false)
  | 8 => mgtAccept s d e
  | 9 => engineAccept s 0x2C000 (0x14 * 64) d e
  | 10 => engineAccept s 0x10000 (0x11 * 64 + e.target % 1024) d e
  | _ => keyAccept s d e

/-- UPDATE after its envelope has been read from staging (R115, R547, R589, R591). -/
def updateRun (s : State) (q : Asked) (a : Nat) (bytes : List Byte) : State :=
  match envVerify s false bytes with
  | (s, none) => linkAnswer s q 7 0 []
  | (s, some (e, d)) =>
    if (gateTargetOf e).any (fun t => (gateFind s t).isSome) then linkError s q .hostWrite .gateBusy a
    else if !imagesFit s e then linkAnswer (post s (e.target / 1024) 2 0x0604 []) q 7 0 []
    else match updateAccept s e d with
      | (s, false) => linkAnswer s q 7 0 []
      | (s, true) =>
        let s := linkAnswer s q 0 0 []
        if e.ty = 8 ∧ bootState s = 2 then sysResetWrite s else s

/-- UPDATE (R112, R113, R115). -/
def execUpdate (t : Fin 4) (q : MgtReq) (s : State) : Out :=
  done s (linkRequest s t 5 q (fun s a =>
    let ad := q.addr.toNat
    let n := q.len.toNat
    if ad < 0x0B00000000 ∨ 0x0B01000000 ≤ ad then linkError s a .hostWrite .prot ad
    else if 0x0B01000000 < ad + n then linkAnswer s a 3 0 []
    else match hostRead .hostWrite n s ad n [] with
      | (s, .error c) => linkAnswer s a 4 c.code []
      | (s, .ok d) =>
        if bootState s = 2 ∧ natAt d 2 2 ≠ 8 then linkError s a .hostWrite .locked ad
        else updateRun s a ad d))

end Sys2Proof.Machine
end

