-- ==== Sys2Proof/Machine/Stations.lean ====
section
/-! DEFINITION. Remote I/O stations (R361 to R377): descriptors, commands, responses, rejections, dropout and substitution. -/
namespace Sys2Proof.Machine

/-! ## The station table -/

/-- Address of a station's table (R361). -/
def stnAddr (n : Nat) : Nat := 0x0300000000 + 0x1000 * n

/-- Status word w of a station (R369). -/
def stnStatus (s : State) (n w : Nat) : Word := given s (stnAddr n + 0x40 + 4 * w)

/-- Writes a status word. -/
def setStnStatus (s : State) (n w : Nat) (v : Word) : State := hwW s 0x22 (stnAddr n + 0x40 + 4 * w) v

/-- A station's working state. -/
def getStn (s : State) (n : Nat) : Station := Tbl.get {} s.stn n

/-- Replaces it. -/
def setStn (s : State) (n : Nat) (x : Station) : State := { s with stn := Tbl.put {} s.stn n x }

/-- Word k of a descriptor as read at enabling (R363). -/
def Station.word (x : Station) (k : Nat) : Word := x.desc.getD k 0

/-- The state of a station (R369). -/
def stnState (s : State) (n : Nat) : Nat := (stnStatus s n 0).field 24 8

/-- N_IN, N_OUT and MISS_LIMIT (R362). -/
def Station.nIn (x : Station) : Nat := (x.word 3).field 24 8
def Station.nOut (x : Station) : Nat := (x.word 3).field 0 8
def Station.missLimit (x : Station) : Nat := (x.word 6).field 28 4

/-- A descriptor obeys R362. -/
def descriptorOk (w : Nat → Word) : Bool :=
  let eth := (w 0).tst 31
  let canId (v : Word) : Bool := v.field 29 2 == 0 && (v.tst 31 || v.field 11 18 == 0)
  let z (i lo len : Nat) : Bool := (w i).field lo len == 0
  let nin := (w 3).field 24 8
  let nout := (w 3).field 0 8
  let every := (w 6).field 16 8
  z 0 12 16 && (if eth then z 2 16 16 else canId (w 1) && canId (w 2) && nin ≤ 12 && nout ≤ 12) && z 3 8 16 &&
    z 4 19 13 && z 4 0 2 && z 5 19 13 && z 5 0 2 && 1 ≤ (w 6).field 28 4 && z 6 24 4 && 1 ≤ every && (w 6).field 8 8 < every &&
    z 6 1 7 && 1 ≤ (w 7).field 16 16 && 10 ≤ (w 7).field 0 16 && (List.range 4).all (fun i => w (12 + i) == 0)

/-! ## The input set -/

/-- Input word i of a dropped station (R370): by its substitute mode. -/
def substitute (s : State) (n i : Nat) : Word :=
  match (given s (stnAddr n + 0x80 + 4 * (i / 16))).field (2 * (i % 16)) 2 with
  | 0 => given s (stnAddr n + 0x4C0 + 4 * i)
  | 2 => given s (stnAddr n + 0xC0 + 4 * i)
  | _ => 0

/-- Writes a station's input set as one set (R370). -/
def stnSet (s : State) (n : Nat) : State :=
  let x := getStn s n
  let st := stnState s n
  let w0 := stnStatus s n 0
  let head := Word.ofN ((stnStatus s n 1).field 0 16 * 2 ^ 16 + w0.field 16 8 * 2 ^ 8 + bit (st == 3) * 6 + bit (st == 1))
  let ws := (List.range x.nIn).map (fun i => if st = 3 then substitute s n i else given s (stnAddr n + 0x4C0 + 4 * i))
  let i0 := (x.word 4).field 0 19 / 4
  let s := deliverSet s i0 (head :: ws)
  let lines := ((List.range (ws.length + 1)).map (fun k => (i0 + k) / 16)).eraseDups
  { s with pi := { s.pi with stnLines := lines ++ s.pi.stnLines.filter (fun l => !lines.contains l) } }

/-- Puts state and consecutive misses into status word 0 (R369). -/
def stnMark (s : State) (n st misses : Nat) : State :=
  setStnStatus s n 0 (((stnStatus s n 0).setField 24 8 st).setField 8 16 (misses * 2 ^ 8))

/-- The DROP bit of a station (R376). -/
def setDropBit (s : State) (n : Nat) (b : Bool) : State := fSetBit s 0x22 (0x00A + n / 32) (n % 32) b

/-- An exchange misses (R366, R369 to R371). -/
def stnMiss (s : State) (n : Nat) : State :=
  let x := getStn s n
  let s := setStn s n { x with awaiting := none }
  let was := stnState s n
  let misses := satInc 8 ((stnStatus s n 0).field 16 8)
  let s := setStnStatus s n 2 (Word.ofN (satInc 32 (stnStatus s n 2).toNat))
  let drop := was ≠ 3 ∧ x.missLimit ≤ misses
  let s := stnMark s n (if was = 3 ∨ drop then 3 else 2) misses
  let s := if drop then
      raisePost (setDropBit (setStn s n { getStn s n with cause := 0x10 }) n true) 0x22 2 544 [Word.ofN n]
    else s
  stnSet s n

/-! ## Commands -/

/-- The bytes of a command frame (R364). -/
def stnCommand (s : State) (n seq : Nat) : List Byte :=
  let x := getStn s n
  let o := 0x20000 + (x.word 5).field 0 19 / 4
  let out (i : Nat) : Nat := ((forceAt s (o + i)).getD (Tbl.get 0 s.pi.pub (o + i))).toNat
  leBytes 1 1 ++ leBytes 1 n ++ leBytes 2 seq ++ leBytes 4 s.twin.ep.toNat ++ leBytes 4 s.pi.merNs ++
    leBytes 2 ((x.word 7).field 16 16) ++ leBytes 1 x.nOut ++ leBytes 1 0 ++ (List.range x.nOut).flatMap (fun i => leBytes 4 (out i))

/-- The DLC of a CAN FD frame that holds `len` bytes (R364, R459). -/
def fdDlc (len : Nat) : Nat :=
  if len ≤ 8 then len
  else match ([12, 16, 20, 24, 32, 48, 64] : List Nat).findIdx? (fun k => len ≤ k) with | some i => 9 + i | none => 15

/-- A command as a frame record of its controller (R364, R459, R466). -/
def stnRecord (x : Station) (d : List Byte) : List Word :=
  let id := x.word 1
  [Word.ofN (id.field 0 29), Word.ofN (bit (id.tst 31) * 2 ^ 31 + 2 ^ 29 + 2 ^ 28 + fdDlc d.length * 2 ^ 16), 0, 0] ++
    dataWords d 64

/-- Sends a command to a station (R364, R365): an exchange still open misses first (R366). -/
def stnSend (s : State) (n : Nat) : State :=
  let s := if (getStn s n).awaiting.isSome then stnMiss s n else s
  let seq := ((stnStatus s n 3).field 0 16 + 1) % 65536
  let s := setStnStatus s n 3 (Word.ofN seq)
  let d := stnCommand s n seq
  let x := getStn s n
  let s := setStn s n { x with awaiting := some s.twin.ep }
  if (x.word 0).tst 31 then
    let ports := if (x.word 0).tst 30 then 3 else 2 ^ (x.word 0).field 28 2
    let f : Frame :=
      { kind := 0x88B5, ports := ports, plane := 1, vlan := (x.word 0).field 0 12
        dst := (x.word 1).toNat + 2 ^ 32 * (x.word 2).field 0 16, data := d }
    match txOffer s f with
    | (s, true) => s
    | (s, false) => stnMiss s n
  else
    let c := (x.word 0).field 28 3
    let q := getCan s c
    let mine := match q.active with | some t => t.buf.isNone && t.station == n | none => false
    let rest := if mine then q.stq else q.stq.filter (fun e => e.1 != n)
    setCan s c { q with stq := rest ++ [(n, stnRecord x d)] }

/-- STN exchanges with its stations (R365, R376). -/
def stnRuns (s : State) : Bool := fBit s 0x22 1 0 && domainOn s 8 && !s.pwr.asleep

/-- Step 3 of a Meridian: commands to the stations that are due (R365). -/
def stnCommands (s : State) : State :=
  if !stnRuns s || !holdsZenith s then s
  else
    (s.stn.filter (fun e => e.2.on && s.pi.merCount % max 1 ((e.2.word 6).field 16 8) == (e.2.word 6).field 8 8)).foldl
      (fun s e => stnSend s e.1) s

/-! ## Enabling -/

/-- A station is enabled (R363, R373): it starts dropped, with substitutes, without event or cause. -/
def stnEnable (s : State) (n : Nat) : State :=
  let desc := givenWords s (stnAddr n) 16
  if descriptorOk (fun k => desc.getD k 0) then
    let s := setStn s n { on := true, desc := desc }
    stnSet (setDropBit (stnMark s n 3 0) n true) n
  else raisePost (actionDone s 0x22 (0x002 + n / 32) (n % 32) 1) 0x22 2 547 []

/-- A station is disabled (R373). -/
def stnDisable (s : State) (n : Nat) : State :=
  setDropBit (stnMark (setStn s n {}) n 0 0) n false

/-- Step 4 of a Meridian: STN's pending set, its held live writes, then the EN bits that have changed (R363, R373, R376). -/
def stnBoundary (s : State) : State :=
  if !domainOn s 8 then s
  else
    (List.range 256).foldl (fun s n =>
      let en := fBit s 0x22 (0x002 + n / 32) (n % 32)
      let on := (getStn s n).on
      if en && !on then stnEnable s n else if !en && on then stnDisable s n else s) (applyFields s 0x22)

/-- A class L field of STN was written (R376). -/
def stnLive (s : State) (f : Nat) (v : Word) : State :=
  if f = 0x013 then fSet s 0x22 0x013 0 else fSet s 0x22 f v

/-! ## What stations answer -/

/-- A station frame reaches STN (R364, R429, R463): true when it does. -/
def stnRx (s : State) (p : StnPath) (d : List Byte) : State × Bool :=
  match p with
  | .can c f => (s, canOn s c.val && (canState s c.val == 2 || canState s c.val == 3) && f.fdf && stationOf s c.val f)
  | .eth r quotaFull => rxTo s r (d.headD 0) .station quotaFull

/-- Discards a response frame (R366). -/
def stnDiscard (s : State) : State := fInc s 0x22 0x013 0 32

/-- An accepted response (R366, R369, R370, R372). -/
def stnGood (s : State) (n : Nat) (d : List Byte) (ns : Word) : State :=
  let x := getStn s n
  let was := stnState s n
  let s := hwWords s 0x22 (stnAddr n + 0x4C0) ((List.range x.nIn).map (fun i => wordAt (d.drop 16) i))
  let s := setStnStatus (setStnStatus s n 1 (stnStatus s n 1 + 1)) n 5 ns
  let s := stnMark s n 1 0
  let s := setStnStatus s n 0 ((stnStatus s n 0).setField 0 8 (natAt d 15 1))
  let rejoin := was = 3
  let s := setStn s n { x with awaiting := none, cause := if rejoin ∧ (x.word 6).tst 0 then 0x11 else if rejoin then 0 else x.cause }
  let s := if rejoin then raisePost (setDropBit s n false) 0x22 1 545 [] else s
  stnSet s n

/-- A response arrives, within its time (R366); `ns` is the instant, bits [31:0] of the nanoseconds. -/
def execStationResponse (path : StnPath) (data : List Byte) (ns : Word) (s : State) : Out :=
  done s (
    let n := natAt data 1 1
    match stnRx s path data with
    | (s, false) => s
    | (s, true) =>
      let x := getStn s n
      if !stnRuns s || natAt data 0 1 ≠ 2 then s
      else if x.on && x.awaiting == some (wordAt data 1) && natAt data 2 2 == (stnStatus s n 3).field 0 16 &&
          natAt data 14 1 == x.nIn && 16 + 4 * x.nIn ≤ data.length then stnGood s n data ns
      else stnDiscard s)

/-- A rejection arrives (R367, R369): a higher epoch counts as a miss, event 546, and TWIN learns it. -/
def execStationRejection (path : StnPath) (data : List Byte) (s : State) : Out :=
  done s (
    let s := clearTx s
    let n := natAt data 1 1
    match stnRx s path data with
    | (s, false) => s
    | (s, true) =>
      let e := wordAt data 1
      if !stnRuns s || natAt data 0 1 ≠ 3 then s
      else if !(getStn s n).on || e.toNat ≤ s.twin.ep.toNat then stnDiscard s
      else
        let s := if (stnStatus s n 4).toNat < e.toNat then setStnStatus s n 4 e else s
        let s := fSetPart (fInc s 0x22 0x012 16 16) 0x22 0x012 0 8 n
        let s := raisePost s 0x22 3 546 [Word.ofN n, e]
        let s := if (getStn s n).awaiting.isSome then stnMiss s n else s
        learnEpoch s e)

/-- RESP_TIMEOUT passes after a command's transmission without an accepted response (R366). -/
def execStationRespTimeout (station : Fin 256) (s : State) : Out :=
  done s (if stnRuns s && (getStn s station.val).on && (getStn s station.val).awaiting.isSome then stnMiss s station.val else s)

/-! ## Causes -/

/-- At a freeze, the sets of stations that have dropped or rejoined enter it: their users' next releases take the cause (R371,
R372, R374). -/
def stnCauses (s : State) : State :=
  (s.stn.filter (fun e => e.2.cause != 0)).foldl (fun s e =>
    let s := coreTasks.foldl (fun s (c, t) =>
      let b := c * 16 + t
      if (e.2.word (8 + b / 32)).tst (b % 32) then addCause s c t (e.2.cause, e.1) else s) s
    setStn s e.1 { getStn s e.1 with cause := 0 }) s

end Sys2Proof.Machine
end

