-- ==== Sys2Proof/Machine/Meridian.lean ====
section
/-! DEFINITION. The Meridian (R20, R23 to R28, R317, R318, R321 to R326, R336 to R345, R351): its six steps, and the commands that
start it. The steps follow each other without another command between them; that an earlier Meridian still runs is an operand
(assumption 43). -/
namespace Sys2Proof.Machine

/-! ## Step 1: seal -/

/-- The Meridian instant `ns` nanoseconds into the present tick (R25). -/
def merInstant (s : State) (ns : Nat) : State :=
  let t := s.time.ns + ns
  { s with pi := { s.pi with
      merCount := (s.pi.merCount + 1) % 2 ^ 32, merTick := s.clk.tick.toNat
      merSec := s.time.sec + t / 1000000000, merNs := t % 1000000000 } }

/-- Sealed entries of all write buffers in the order of their `mer` (R326). -/
def sealedEntries (s : State) : List WEnt :=
  let all := (s.cyc.cores.flatMap (fun e => e.2.wbuf)) ++ s.saf.wbuf ++ s.cle.wbuf
  List.mergeSort (all.filter (fun w => w.sealedAt.isSome)) (fun a b => decide (a.sealedAt.getD 0 ≤ b.sealedAt.getD 0))

/-- Takes the sealed entries out of the buffers. -/
def dropSealed (s : State) : State :=
  let keep (l : List WEnt) : List WEnt := l.filter (fun w => w.sealedAt.isNone)
  let s := (List.range 8).foldl (fun s n => setCore s n { getCore s n with wbuf := keep (getCore s n).wbuf }) s
  { s with saf := { s.saf with wbuf := keep s.saf.wbuf }, cle := { s.cle with wbuf := keep s.cle.wbuf } }

/-- Cores that run count the Meridian; a commit point captures (R336). -/
def merCores (s : State) : State :=
  (List.range 8).foldl (fun s n =>
    if (getCore s n).mode ≠ .running then s
    else
      let m := (getCore s n).merCount + 1
      let s := setCore s n { getCore s n with merCount := m }
      if m % max 1 ((fGet s (4 + n) 0x00A).field 0 12) = 0 then commitPoint s n else s) s

/-- The active counts its Meridians, a standby those since its latest applied copy (R478, R496). -/
def merTwin (s : State) : State :=
  let s := if s.twin.role = .active then { s with twin := { s.twin with count := (s.twin.count + 1) % 2 ^ 32 } } else s
  if follower s then fSetPart s 0x23 0x00E 0 16 (satInc 16 (fPart s 0x23 0x00E 0 16)) else s

/-! ## Step 2: the inputs freeze -/

/-- Generation g is pinned (R321, R391, R403). -/
def genPinned (s : State) (g : Nat) : Bool :=
  coreTasks.any (fun (n, t) => inCycle s n t && (getTask s n t).gen == g) || (s.saf.inCycle && s.saf.gen == g) ||
    s.cle.slots.any (fun e => e.2.run != .idle && e.2.gen == g && slotW s e.1 3 != 0)

/-- Keeps the newest generation and the pinned ones (R321, R322). -/
def pruneGens (s : State) : State :=
  match s.pi.gens with
  | [] => s
  | x :: old => { s with pi := { s.pi with gens := x :: old.filter (fun g => genPinned s g.1) } }

/-- The cycle of a task is aborted (R323). -/
def abortCycle (s : State) (n t : Nat) : State :=
  let s := fInc (fSetBit (dropCycle s n t) (4 + n) (taskField t 6) 4 true) (4 + n) 0x012 0 16
  let s := raisePost s (4 + n) 2 (64 + 16 * n + 3) [Word.ofN n, Word.ofN t]
  addCause s n t (2, 0)

/-- While the line store lacks room, the tasks that pin the oldest generation are aborted; law runs that pin it end (R323, R391). -/
def freezeFit : Nat → State → State
  | 0, s => s
  | k + 1, s =>
    if linesUsed s.pi.gens ≤ 32768 then s
    else match (s.pi.gens.drop 1).reverse.find? (fun g => !(s.saf.inCycle && s.saf.gen == g.1)) with
      | none => s
      | some g =>
        let s := coreTasks.foldl (fun s (n, t) => if inCycle s n t && (getTask s n t).gen == g.1 then abortCycle s n t else s) s
        let s := cleUnpin s g.1
        freezeFit k (pruneGens s)

/-- The freeze (R20, R80, R322): every completed set of the input area, and the states of the jobs. -/
def freeze (s : State) : State :=
  let g := (s.pi.done.filter (fun e => e.1 < 0x20000)) ++ frozenStatus s
  let s := pruneGens { s with pi := { s.pi with gens := (curGen s + 1, g) :: s.pi.gens } }
  stnCauses (freezeFit s.pi.gens.length s)

/-! ## Step 3: the outputs publish -/

/-- A stored word of the output area that the publication writes whole gets a fresh code (R97): both its halves are in `l`. -/
def freshPairs (s : State) (l : List Nat) : State :=
  let whole (e : Nat × Nat) : Bool :=
    0x0200080000 ≤ 8 * e.1 && 8 * e.1 < 0x0200100000 && l.contains (2 * e.1 - 0x80000000) && l.contains (2 * e.1 - 0x80000000 + 1)
  { s with mem := { s.mem with ecc := s.mem.ecc.filter (fun e => !whole e) } }

/-- A word is published unless a force holds it (R358); half a stored word is merged into it, and not written when that is
uncorrectable (R97, R488). -/
def pubWord (s : State) (i : Nat) (v : Word) : State :=
  if (forceAt s i).isSome then s
  else match hwRead s { unit := 1 } .write (0x0200000000 + 4 * i) 4 with
    | (s, true) => { s with pi := { s.pi with pub := Tbl.put 0 s.pi.pub i v, prop := Tbl.del s.pi.prop i } }
    | (s, false) => uncorrHook s (0x0200000000 + 4 * i)

/-- A word of a completed data-plane set in the output area is a proposal: it can be read there and drives no output (R21). -/
def propWord (s : State) (i : Nat) (v : Word) : State :=
  if (forceAt s i).isSome then s else { s with pi := { s.pi with prop := Tbl.ins s.pi.prop i v } }

/-- Completed sets of the output area, sealed entries and force values are published (R25, R326, R358). -/
def publishOutputs (s : State) (sealed_ : List WEnt) : State :=
  let sets := s.pi.done.filter (fun e => 0x20000 ≤ e.1)
  let s := { s with pi := { s.pi with done := s.pi.done.filter (fun e => e.1 < 0x20000) } }
  let s := freshPairs s (sets.map (·.1) ++ sealed_.map (·.idx))
  let s := sets.foldl (fun s e => propWord s e.1 e.2) s
  let s := sealed_.foldl (fun s w => pubWord s w.idx w.val) s
  s.cyc.forces.foldl forceKeep s

/-! ## Step 4: the gate -/

/-- The committed set of a core applies at its boundary (R84, R106, R342, R345); a refused evacuation raises event 8. -/
def cycCommit (s : State) (n : Nat) : State :=
  let u := 4 + n
  match Tbl.find s.cfg.pend u with
  | none => s
  | some p =>
    match pendCheck s u p with
    | some (code, _) =>
      let s := applyFields s u
      if 5 ≤ code then raise (actionDone s u 0x00C 31 1) (64 + 16 * n + 8) else s
    | none =>
      let s := applyFields s u
      (List.range 16).foldl (fun s t => if fBit s u (taskField t 0) 31 then s else dropCycle s n t) s

/-- Fields that move with the tasks of an evacuated core (R343). -/
def movedFields : List Nat :=
  [0x004, 0x005, 0x006, 0x007, 0x008, 0x009, 0x00A, 0x00B, 0x00D, 0x00F, 0x010, 0x011, 0x012, 0x025, 0x026] ++
    (List.range 256).map (· + 0x100)

/-- Exchanges two pending bits of every event. -/
def swapPending (s : State) (a b : Nat) : State :=
  { s with evts := (s.evts.map (fun e => (e.1, (e.2.put a (e.2.tst b)).put b (e.2.tst a)))).filter (fun e => e.2 != 0) }

/-- An evacuation (R343): banks are exchanged and the tasks with all that is theirs move to the target, which starts. -/
def evacuate (s : State) (n m : Nat) : State :=
  let (un, um) := (4 + n, 4 + m)
  let a := getCore s n
  let b := getCore s m
  let (ln, lm) := (coreBank s n, coreBank s m)
  let s := { s with cyc := { s.cyc with bankOf := (s.cyc.bankOf.set n lm).set m ln } }
  let s := setCore (setCore s n { b with mode := .stopped }) m { a with mode := .running }
  let s := movedFields.foldl (fun s f =>
    let v := fGet s un f
    let w := fGet s um f
    fSet (fSet s un f w) um f v) s
  let s := swapPending s (24 + n) (24 + m)
  let s := { s with gate := s.gate.map (fun g =>
    match g.change with
    | .image .. => if g.target = un * 64 then { g with target := um * 64 } else if g.target = um * 64 then { g with target := un * 64 } else g
    | _ => g) }
  let s := actionDone (fSet (fSet s un 0x001 0) um 0x001 1) un 0x00C 31 1
  raise (raise s (64 + 16 * n + 7)) (64 + 16 * m + 7)

/-- Evacuations that the applied sets request (R342). -/
def evacuations (s : State) : State :=
  (List.range 8).foldl (fun s n =>
    if fBit s (4 + n) 0x00C 31 && (getCore s n).mode == .running then evacuate s n (fPart s (4 + n) 0x00C 0 3) else s) s

/-- The gate's change for a cycle core or for STN at this Meridian (R24, R85, R351). -/
def gateItem (s : State) (g : GateItem) : State :=
  let u := g.target / 64
  match g.change with
  | .live f v =>
    if 4 ≤ u ∧ u ≤ 0x0B ∧ domainOn s 3 then gateDone (cycLive s (u - 4) (f % 1024) v) g
    else if u = 0x22 ∧ domainOn s 8 then gateDone (stnLive s (f % 1024) v) g
    else s
  | .store a bs => if u = 0x22 ∧ domainOn s 8 then gateDone (storeNow s a bs) g else s
  | .image img waited =>
    let n := u - 4
    if !domainOn s 3 then s
    else if imageDue s n then
      let s := if fPart s u 0x002 0 2 = 0 then s
        else setCore s n { getCore s n with restartWaits := true }
      switchImage s n g img
    else { s with gate := s.gate.map (fun x => if x.target = g.target then { g with change := .image img (waited + 1) } else x) }
  | _ => s

/-- Committed restarts begin (R338), but one committed for a switching Meridian waits for the new image's commit (R356). -/
def restarts (s : State) : State :=
  (List.range 8).foldl (fun s n =>
    let k := fPart s (4 + n) 0x002 0 2
    let c := getCore s n
    if k = 0 ∨ !corePowered s n ∨ (c.restartWaits && c.needCommit) then s else restartBegin s n (k == 1)) s

/-- Cores whose RUN is 0 stop (R341). -/
def stops (s : State) : State :=
  (List.range 8).foldl (fun s n => if (getCore s n).mode == .running && !fBit s (4 + n) 1 0 then coreStop s n else s) s

/-- Step 4: pending sets of the cores, STN and TWIN, held writes and images in the order requested, forces, evacuations, restarts
and stops (R23, R24, R84, R85, R341 to R345, R351, R357, R496). -/
def merGate (s : State) : State :=
  let s := if domainOn s 3 then (List.range 8).foldl cycCommit s else s
  let s := applyFields (stnBoundary s) 0x23
  let s := s.gate.foldl gateItem s
  let s := (List.range 8).foldl forceOp s
  stops (restarts (evacuations s))

/-! ## The Meridian -/

/-- Steps 1 to 6 (R25), beginning `ns` nanoseconds into the present tick. -/
def meridian (s : State) (ns : Nat) : State :=
  let s := clearTx s
  let s := merTwin (merInstant s ns)
  let sealed_ := sealedEntries s
  let s := merCores (dropSealed s)
  let s := copyApply (freeze s)
  let s := deliverJobs (pwmPublish (stnCommands (publishOutputs s sealed_)))
  let s := merGate s
  heartbeat (twinCapture s) (usNow s + ns / 1000)

/-! ## What starts it -/

/-- A critical task runs, so that its `mer` starts the Meridians (R318): a core holds it, runs, is not a follower's, and has
released it since it started. -/
def criticalRuns (s : State) : Bool :=
  match critCore s with
  | some n => (getCore s n).mode == .running && corePowered s n && !follower s && (taskCfg s n 0 0).tst 31 && (getTask s n 0).prevRel.isSome
  | none => false

/-- `mer` (R25, R26, R28, R42): the task's cycle ends, `ns` nanoseconds into the present tick; on the critical task a Meridian
starts, or waits while an earlier one is still `busy`. On SAF the safety cycle ends. -/
def execMer (h : Hdr) (ns : Fin 10000) (busy : Bool) (s : State) : Out :=
  done s (runInstr h { word := encA 0b110101 0 0 0 1, grp := .mer }
    (fun k s =>
      match h.eng with
      | .cyc n =>
        let t := k % 16
        let s' := endCycle s n.val t ns.val
        .ok (if !isCritical s n.val t then s'
          else if busy then { s' with pi := { s'.pi with deferred := s'.pi.deferred + 1 } }
          else meridian s' ns.val)
      | _ => .ok (safMer s ns.val)) s)

/-- A free Meridian (R318): at every tick whose count is a multiple of 25, while no critical task runs, from release on; while an
earlier Meridian is `busy`, it is not started (R28). -/
def execFreeMeridian (busy : Bool) (s : State) : Out :=
  done s (
    let now := s.clk.tick.toNat
    if now % 25 ≠ 0 ∨ criticalRuns s ∨ s.pi.lastFree = some now ∨ s.pwr.asleep ∨ !s.clk.refClk ∨ fPart s 2 0x00D 24 8 ≠ 4 then s
    else
      let s := { s with pi := { s.pi with lastFree := some now } }
      if busy then s else meridian s 0)

/-- The Meridian of a critical `mer` that had to wait begins (R28). -/
def execDeferredMeridianStart (ns : Fin 10000) (s : State) : Out :=
  done s (if s.pi.deferred = 0 then s
    else meridian { s with pi := { s.pi with deferred := s.pi.deferred - 1 } } ns.val)

end Sys2Proof.Machine
end

