-- ==== Sys2Proof/Machine/System.lean ====
section
/-! DEFINITION. Configuration access, `halt`, the update gate's boundaries, scrubbing and the violation log (R23, R24, R83 to R86,
R99, R100, R103 to R107, R116). -/
namespace Sys2Proof.Machine

/-! ## What a class L write does -/

/-- The violation log is emptied (R116). -/
def vlogClearWrite (s : State) (v : Word) : State := if v.tst 0 then fSetPart s 1 0x007 8 8 0 else s

/-- A class L field of MEM was written (R116). -/
def memLive (s : State) (f : Nat) (v : Word) : State :=
  if 3 ≤ f ∧ f ≤ 5 then fSet s 1 f 0 else if f = 8 then vlogClearWrite s v else fSet s 1 f v

/-- A class L field of PWR was written (R593). -/
def pwrLive (s : State) (f : Nat) (v : Word) : State :=
  if f = 0x00B then sysResetWrite s else if f = 0x00C then releaseWrite s v else fSet s 2 f v

/-- A class L field of SAF was written (R414, R426). -/
def safLive (s : State) (f : Nat) (v : Word) : State :=
  if f = 1 then safRunWrite (fSet s 0x0C 1 v) v else if f = 0x00C then fSet s 0x0C 0x00C 0 else fSet s 0x0C f v

/-- A class L field of CLE was written (R401). -/
def cleLive (s : State) (f : Nat) (v : Word) : State :=
  if f = 1 then (let s := cleRunWrite (fSet s 0x10 1 v) v; if v.tst 0 then s else cleCommit s)
  else if f = 0x013 then (if v.tst 0 then fSetBit s 0x10 0x013 0 false else s)
  else if f = 0x014 ∨ f = 0x015 then fSet s 0x10 f 0
  else fSet s 0x10 f v

/-- A class L field of AFE was written: CTRL_n (R139, R140). -/
def afeLive (s : State) (f : Nat) (v : Word) : State := afeRunWrite (fSet s 0x11 f v) ((f - 0x100) / 16) v

/-- A class L field of ASM was written (R184, R201, R220). -/
def asmLive (s : State) (f : Nat) (v : Word) : State :=
  if f = 1 then asmRunWrite (fSet s 0x14 1 v) v
  else if f = 0x017 then fSet s 0x14 0x017 0
  else if f = 0x01A then patchSubmit s v
  else fSet s 0x14 f v

/-- A class L field of TRN was written (R222). -/
def trnLive (s : State) (f : Nat) (v : Word) : State :=
  if f = 1 then trnRunWrite (fSet s 0x15 1 v) (fGet s 0x15 1) v else fSet s 0x15 f v

/-- A class L field of SOLV was written (R259). -/
def solvLive (s : State) (f : Nat) (v : Word) : State :=
  if f = 1 then solvRunWrite (fSet s 0x16 1 v) v else if f = 0x00D then fSet s 0x16 0x00D 0 else fSet s 0x16 f v

/-- A class L field of NET was written (R450). -/
def netLive (s : State) (f : Nat) (v : Word) : State :=
  if f = 1 then netRunWrite (fSet s 0x18 1 v) v
  else if f = 0x00C ∨ f = 0x00D ∨ 0x100 ≤ f then fSet s 0x18 f 0 else fSet s 0x18 f v

/-- A class L field of TIME was written (R443, R452). -/
def timeLive (s : State) (f : Nat) (v : Word) : State :=
  if f = 1 then timeRunWrite (fSet s 0x19 1 v) v
  else if f = 0x013 then (if v.tst 0 then { s with time := { s.time with setDue := true } } else s)
  else fSet s 0x19 f v

/-- A class L field of CAN_c was written (R467, R468, R470, R472). -/
def canLive (s : State) (c f : Nat) (v : Word) : State :=
  if f = 1 then canRunWrite (fSet s (canUnit c) 1 v) c v
  else if f = 0x007 then recoverWrite s c v
  else if 0x010 ≤ f ∧ f < 0x014 then txCancelWrite s c (f - 0x010) v
  else if 0x018 ≤ f then fSet s (canUnit c) f 0
  else fSet s (canUnit c) f v

/-- A class L field of TWIN was written (R488, R496). -/
def twinLive (s : State) (f : Nat) (v : Word) : State :=
  if f = 1 then twinRunWrite (fSet s 0x23 1 v) (fGet s 0x23 1) v
  else if f = 0x015 then (if v.tst 0 then abdicate (clearTx s) else s)
  else if f = 0x016 then fSet s 0x23 0x016 0
  else fSet s 0x23 f v

/-- A class L field of ALM was written (R503, R506, R510). -/
def almLive (s : State) (f : Nat) (v : Word) : State :=
  if f = 0x00A then winCtrlWrite (fSet s 0x24 0x00A v) v else if f = 0x00C then opSaveWrite s v else fSet s 0x24 f v

/-- A class L field of RTC was written (R524, R526). -/
def rtcLive (s : State) (f : Nat) (v : Word) : State :=
  if f = 9 then pwrCtrlWrite s v else if f = 0x00C then flagClrWrite s v else fSet s 0x25 f v

/-- A class L field of HMI was written (R566, R572 to R574): `ok` is whether the journal takes a BEGIN. -/
def hmiLive (s : State) (f : Nat) (v : Word) (ok : Bool) : State :=
  if f = 1 then hmiRunWrite (fSet s 0x27 1 v)
  else if f = 7 then updReqWrite (fSet s 0x27 7 v) v ok
  else if f = 0x00F then hmiFlagClr s v
  else fSet s 0x27 f v

/-- A class L write takes effect in its unit (R13, R105). -/
def liveEffect (s : State) (u f : Nat) (v : Word) (ok : Bool) : State :=
  if u = 1 then memLive s f v
  else if u = 2 then pwrLive s f v
  else if 4 ≤ u ∧ u ≤ 0x0B then cycLive s (u - 4) f v
  else if u = 0x0C then safLive s f v
  else if u = 0x10 then cleLive s f v
  else if u = 0x11 then afeLive s f v
  else if u = 0x12 then mtrRunWrite s v
  else if u = 0x13 then eqcLive s f v
  else if u = 0x14 then asmLive s f v
  else if u = 0x15 then trnLive s f v
  else if u = 0x16 then solvLive s f v
  else if u = 0x18 then netLive s f v
  else if u = 0x19 then timeLive s f v
  else if 0x1A ≤ u ∧ u ≤ 0x21 then canLive s (u - 0x1A) f v
  else if u = 0x22 then stnLive s f v
  else if u = 0x23 then twinLive s f v
  else if u = 0x24 then almLive s f v
  else if u = 0x25 then rtcLive s f v
  else if u = 0x27 then hmiLive s f v ok
  else fSet s u f v

/-! ## Boundaries of pending sets -/

/-- A pending set that names no field is done at any boundary. -/
def emptySetDone (s : State) (u : Nat) : State :=
  match Tbl.find s.cfg.pend u with | some [] => applyFields s u | _ => s

/-- A unit at its boundary takes its pending set (R84, R106, R107), with what the unit does about the fields. -/
def commitNow (s : State) (u : Nat) : State :=
  if 4 ≤ u ∧ u ≤ 0x0B then cycCommit s (u - 4)
  else if u = 2 then pwrCommit s
  else if u = 0x10 then emptySetDone (cleCommit s) u
  else if u = 0x11 then
    emptySetDone ((List.range 16).foldl (fun s n => if (getCtx s (16 + n)).live then s else afeConfig s n) s) u
  else if u = 0x12 ∨ u = 0x13 then eqcChanges s (applyFields s u)
  else if u = 0x16 then solvCommit s
  else if u = 0x18 then portsSettle (applyFields s u)
  else if u = 0x22 then stnBoundary s
  else if u = 0x24 then
    let old := fGet s 0x24 0x00D
    let s := applyFields s 0x24
    if fGet s 0x24 0x00D = old then s else minSevChanged s
  else if u = 0x25 then rtcCommit s
  else if u = 0x26 then tampSave (applyFields s 0x26)
  else applyFields s u

/-- A stopped unit, or MEM while no scrub step is in progress, is at its boundary; of CLE and AFE the parts that are stopped are
(R107, R116, R139, R401). A frame of the service UART is one command, so between two commands the UART is idle and MGT at its boundary
(R616; assumption 182). -/
def atRest (s : State) (u : Nat) : Bool :=
  unitStopped s u || u == 0 || u == 0x10 || u == 0x11 || (u == 1 && (!fBit s 1 0x002 0 || s.pwr.asleep))

/-- The state does not show that the unit is between two boundaries: a running core, STN and TWIN wait for a Meridian, metering
for its interval, HMI for its frame, SAF for its cycle, and ASM, TRN and SOLV for the end of what they do (R23). The instant of any
other boundary is the environment's. -/
def commitBoundary (s : State) (u : Nat) : Bool :=
  if (4 ≤ u ∧ u ≤ 0x0B) ∨ u = 0x12 ∨ u = 0x13 ∨ u = 0x22 ∨ u = 0x23 ∨ u = 0x27 then unitStopped s u
  else if u = 0x0C then s.saf.safe || !s.saf.inCycle
  else if u = 0x14 then asmAtBoundary s
  else if u = 0x15 then trnAtBoundary s
  else if u = 0x16 then s.solv.run.isNone
  else true

/-- A unit's boundary comes while it has a pending set (R23, R84, R106). -/
def execCommitApply (unit : BitVec 6) (s : State) : Out :=
  done s (
    let u := unit.toNat
    if (Tbl.find s.cfg.pend u).isSome ∧ unitOn s u ∧ commitBoundary s u then commitNow s u else s)

/-! ## The configuration instructions -/

/-- Unit and field of a field ID (R13). -/
def fidUnit (f : BitVec 16) : Nat := f.toNat / 1024
def fidField (f : BitVec 16) : Nat := f.toNat % 1024

/-- A class L write by unit `iu` that passes the update gate (R85): one by MGT to another plane, but for the submission of a patch, which
is itself a request to the gate (R184). -/
def byGate (iu u f : Nat) : Bool := planeOf u != planeOf iu && !(u == 0x14 && 0x018 ≤ f && f ≤ 0x01A)

/-- The record of a change that the gate applied without holding it (R39). -/
def liveRecord (s : State) (g : GateItem) : State :=
  post s (g.target / 64) 1 0x0600 [Word.ofN (g.target / 64 * 1024 + g.target % 64), Word.ofN s.clk.tick.toNat, 0]

/-- A checked write goes to the shadow, to the gate, or into the unit (R13, R84, R85). A class L write by MGT to a stopped unit of
another plane finds the unit at its boundary (R107) and leaves the gate's record. A class C write or `cfg.commit` by MGT to another plane
waits in the unit's shadow or pending set: that it takes no entry of the gate, meets no GATE_BUSY and leaves no record 0x0600 is the
model's reading (assumption 183). -/
def cfgStore (s : State) (iu u f : Nat) (v : Word) (ok : Bool) : State :=
  match fieldRow (fid u f) with
  | none => s
  | some r =>
    match r.cls with
    | .c => shadowSet s u f v
    | .s => fSet s u f v
    | .l =>
      let g : GateItem := { target := liveTarget u f, change := .live (fid u f) v }
      if isHeld s iu u f then { s with gate := s.gate ++ [g] }
      else if byGate iu u f then liveRecord (liveEffect s u f v ok) g
      else liveEffect s u f v ok

/-- `cfg.w` by an engine (R83): an error response traps BUS_ERROR. -/
def cfgWrite (e : Eng) (k u f : Nat) (r : Reg) (ok : Bool) (s : State) : Res :=
  match cfgWriteCause s (unitOf e) u f (reg s k r) with
  | some c => refuse s (whoIs e k) .cfgWrite c 0 (fid u f)
  | none => .ok (cfgStore s (unitOf e) u f (reg s k r) ok)

/-- The instruction `cfg.w fid, r` (R83). -/
def cfgWriteOp (h : Hdr) (r : Reg) (u f : Nat) (ok : Bool) (s : State) : State :=
  runInstr h { word := encE 1 r (BitVec.ofNat 16 (fid u f)), grp := .cfg } (fun k s => cfgWrite h.eng k u f r ok s) s

/-- `cfg.r`: the active value (R83); a read of CAL_TIME latches the calendar (R520). -/
def execCfgR (h : Hdr) (r : Reg) (fid : BitVec 16) (s : State) : Out :=
  done s (runInstr h { word := encE 0 r fid, grp := .cfg }
    (fun k s =>
      match cfgCause s (unitOf h.eng) (fidUnit fid) (fidField fid) with
      | some c => refuse s (whoIs h.eng k) .cfgRead c 0 fid.toNat
      | none =>
        let v := cfgGet s (fidUnit fid) (fidField fid)
        let s := if fid = 0x9401 then rtcLatch s else s
        .ok (setReg s k r v)) s)

/-- `cfg.w` (R83). Whether the journal takes a request for the panel is not the program's to know. -/
def execCfgW (h : Hdr) (r : Reg) (fid : BitVec 16) (s : State) : Out :=
  let x := if fid = 0x9C07 then freeB s else (s, true)
  done s (cfgWriteOp h r (fidUnit fid) (fidField fid) x.2 x.1)

/-- `cfg.commit` (R83, R84): the shadow is captured, and applied at once where the unit is at its boundary (R107). -/
def execCfgCommit (h : Hdr) (r : Reg) (fid : BitVec 16) (s : State) : Out :=
  done s (runInstr h { word := encE 2 r fid, grp := .cfg, bad := fidField fid != 0 || r != 0 }
    (fun k s =>
      let u := fidUnit fid
      match cfgCause s (unitOf h.eng) u 0 with
      | some c => refuse s (whoIs h.eng k) .cfgCommit c 0 fid.toNat
      | none =>
        let s := capture s u
        .ok (if atRest s u then commitNow s u else s)) s)

/-- `cfg.rs`: the shadow of a class C field, the active value of another (R83). -/
def execCfgRs (h : Hdr) (r : Reg) (fid : BitVec 16) (s : State) : Out :=
  done s (runInstr h { word := encE 3 r fid, grp := .cfg }
    (fun k s =>
      match cfgCause s (unitOf h.eng) (fidUnit fid) (fidField fid) with
      | some c => refuse s (whoIs h.eng k) .cfgRead c 0 fid.toNat
      | none =>
        let c : Bool := match fieldRow fid.toNat with | some x => x.cls == .c | none => false
        .ok (setReg s k r (if c then shadowGet s (fidUnit fid) (fidField fid) else cfgGet s (fidUnit fid) (fidField fid)))) s)

/-! ## Writes with a row of their own -/

/-- `cfg.w` of AFE CTRL_n (R139). -/
def execAfeRun (h : Hdr) (r : Reg) (n : Fin 16) (s : State) : Out := done s (cfgWriteOp h r 0x11 (0x100 + 16 * n.val) true s)

/-- `cfg.w` of MTR RUN (R148). -/
def execMtrRun (h : Hdr) (r : Reg) (s : State) : Out := done s (cfgWriteOp h r 0x12 1 true s)

/-- `cfg.w` of EQC SAVE_NOW (R169). -/
def execSaveNow (h : Hdr) (r : Reg) (s : State) : Out := done s (cfgWriteOp h r 0x13 4 true s)

/-- `cfg.w` of ASM RUN (R201). -/
def execAsmRun (h : Hdr) (r : Reg) (s : State) : Out := done s (cfgWriteOp h r 0x14 1 true s)

/-- `cfg.w` of TRN RUN (R222). -/
def execTrnRun (h : Hdr) (r : Reg) (s : State) : Out := done s (cfgWriteOp h r 0x15 1 true s)

/-- `cfg.w` of ASM PATCH_GO (R184). -/
def execPatchGo (h : Hdr) (r : Reg) (s : State) : Out := done s (cfgWriteOp h r 0x14 0x01A true s)

/-- `cfg.w` of SOLV RUN (R259). -/
def execSolvRun (h : Hdr) (r : Reg) (s : State) : Out := done s (cfgWriteOp h r 0x16 1 true s)

/-- `cfg.w` of CYC_n RUN (R341). -/
def execCycRun (h : Hdr) (r : Reg) (core : Fin 8) (s : State) : Out := done s (cfgWriteOp h r (4 + core.val) 1 true s)

/-- `cfg.w` of STN RUN (R376). -/
def execStnRun (h : Hdr) (r : Reg) (s : State) : Out := done s (cfgWriteOp h r 0x22 1 true s)

/-- `cfg.w` of CLE RUN (R401). -/
def execCleRun (h : Hdr) (r : Reg) (s : State) : Out := done s (cfgWriteOp h r 0x10 1 true s)

/-- `cfg.w` of SAF RUN (R414). -/
def execSafRun (h : Hdr) (r : Reg) (s : State) : Out := done s (cfgWriteOp h r 0x0C 1 true s)

/-- `cfg.w` of SAF RESTART (R414). -/
def execSafRestart (h : Hdr) (r : Reg) (s : State) : Out := done s (cfgWriteOp h r 0x0C 2 true s)

/-- `cfg.w` of MEM VLOG_CLEAR (R116). -/
def execVlogClear (h : Hdr) (r : Reg) (s : State) : Out := done s (cfgWriteOp h r 1 8 true s)

/-- `cfg.w` of ALM OP_SAVE (R503). -/
def execOpSave (h : Hdr) (r : Reg) (s : State) : Out := done s (cfgWriteOp h r 0x24 0x00C true s)

/-- `cfg.w` of ALM WIN_CTRL (R506). -/
def execWinCtrl (h : Hdr) (r : Reg) (s : State) : Out := done s (cfgWriteOp h r 0x24 0x00A true s)

/-- `cfg.w` of TIME SET_GO (R443). -/
def execSetGo (h : Hdr) (r : Reg) (s : State) : Out := done s (cfgWriteOp h r 0x19 0x013 true s)

/-- `cfg.w` of TIME RUN (R448). -/
def execTimeRun (h : Hdr) (r : Reg) (s : State) : Out := done s (cfgWriteOp h r 0x19 1 true s)

/-- `cfg.w` of CAN_c RUN (R468). -/
def execCanRun (h : Hdr) (r : Reg) (c : Fin 8) (s : State) : Out := done s (cfgWriteOp h r (0x1A + c.val) 1 true s)

/-- `cfg.w` of CAN_c RECOVER (R470). -/
def execRecover (h : Hdr) (r : Reg) (c : Fin 8) (s : State) : Out := done s (cfgWriteOp h r (0x1A + c.val) 0x007 true s)

/-- `cfg.w` of CAN_c TX_CANCEL_k (R467). -/
def execTxCancel (h : Hdr) (r : Reg) (c : Fin 8) (k : Fin 4) (s : State) : Out :=
  done s (cfgWriteOp h r (0x1A + c.val) (0x010 + k.val) true s)

/-- `cfg.w` of TWIN ABDICATE (R488). -/
def execAbdicate (h : Hdr) (r : Reg) (s : State) : Out := done s (cfgWriteOp h r 0x23 0x015 true s)

/-- `cfg.w` of TWIN RUN (R496). -/
def execTwinRun (h : Hdr) (r : Reg) (s : State) : Out := done s (cfgWriteOp h r 0x23 1 true s)

/-- `cfg.w` of RTC PWR_CTRL (R524). -/
def execPwrCtrl (h : Hdr) (r : Reg) (s : State) : Out := done s (cfgWriteOp h r 0x25 9 true s)

/-- `cfg.w` of HMI UPD_REQ (R566): `ok` is whether the journal takes a BEGIN. -/
def execUpdReq (h : Hdr) (r : Reg) (ok : Bool) (s : State) : Out := done s (cfgWriteOp h r 0x27 7 ok s)

/-- `cfg.w` of HMI RUN (R573). -/
def execHmiRun (h : Hdr) (r : Reg) (s : State) : Out := done s (cfgWriteOp h r 0x27 1 true s)

/-- `cfg.w` of PWR SYS_RESET (R593). -/
def execSysReset (h : Hdr) (r : Reg) (s : State) : Out := done s (cfgWriteOp h r 2 0x00B true s)

/-- `cfg.w` of PWR RELEASE (R590). -/
def execRelease (h : Hdr) (r : Reg) (s : State) : Out := done s (cfgWriteOp h r 2 0x00C true s)

/-! ## Halt -/

/-- Code of the record of `halt` (R86). -/
def haltCode : Eng → Nat
  | .cyc n => 64 + 16 * n.val + 1
  | .afe _ => 277
  | .asm => 328
  | .cle _ => 262
  | _ => 0x060F

/-- What `halt` does to its engine (R86, R138, R201, R341, R396, R412). -/
def haltEngine (s : State) (e : Eng) : State :=
  match e with
  | .cle n => slotTrap s n.val true
  | .saf => safEnter s 0x03 0
  | e => engStop s e

/-- `halt` stops the engine and posts its record; on SAF the record of the safe state is the only one (R86). -/
def execHalt (h : Hdr) (s : State) : Out :=
  done s (runInstr h { word := encA 0b110101 0 0 0 3, grp := .sys }
    (fun k s =>
      let pc := (getCtx s k).pc - 4
      let s := haltEngine s h.eng
      .ok (if h.eng = .saf then s else post s (unitOf h.eng) 2 (haltCode h.eng) [pc])) s)

/-! ## The update gate -/

/-- CLE is at the boundary of every slot that `p` names: no run of it is in progress (R23). -/
def cleIdle (s : State) (p : Nat → Bool) : Bool := !fBit s 0x10 1 0 || s.cle.slots.all (fun e => !p e.1 || e.2.run == .idle)

/-- The slots whose boundary a store into CLE's memory waits for: the slot's own record, or every slot (R23, R378). -/
def storeSlots (a n : Nat) : Bool :=
  let o := a - 0x0500000000
  if 0x10000 ≤ o ∧ o < 0x50000 then n == (o - 0x10000) / 512 else true

/-- The target of a held write is at its boundary as far as the state shows (R23): running cores and STN wait for a Meridian, metering for
the end of its interval, CLE for its slots, a sequencer for the end of its sequence, SAF for the end of its cycle, ASM, TRN and SOLV for
the end of what they do. -/
def liveBoundary (s : State) (target : Nat) : Bool :=
  let u := target / 64
  if u = 0x11 then
    let c := getCtx s (16 + target % 64)
    !c.live || (match c.wait with | .trigger .. => true | _ => false)
  else if u = 0x10 then cleIdle s (fun _ => true)
  else commitBoundary s u

/-- The boundary of a unit with a held class L write comes (R85): the first such write whose boundary this is takes effect. -/
def execHeldLiveWriteApply (unit : BitVec 6) (s : State) : Out :=
  done s (
    let u := unit.toNat
    match (heldWrites s u).find? (fun w => liveBoundary s w.1.target) with
    | some (g, f, v) => if unitOn s u then gateDone (liveEffect s u (f % 1024) v true) g else s
    | none => s)

/-- An ASM program takes the place of the running one at ASM's boundary (R201, R261, R546): the program starts anew. -/
def asmProgram (s : State) (g : GateItem) (d : List Byte) : State :=
  match engineImage 9 0x2C000 d with
  | none => gateDrop s g.target
  | some home =>
    let live := (getCtx s 3).live
    let s := gateDone s g
    let s := loadRange { s with asm := { s.asm with lib := true } } 0x0400000000 0x40000 (toCells 0 home)
    if live then setCtx s 3 (freshCtx 0x400) else s

/-- A job that MGT posted reaches the queue between two jobs (R80). -/
def jobGate (s : State) (g : GateItem) (desc : List Byte) (hd : Nat) : State :=
  enterQueue (gateDone s g) hd { (getJob s hd).getD {} with desc := desc }

/-- The pending change of a target is applied at the target's boundary (R23, R39), where the state shows that it may be; cycle
images and held writes have commands of their own. -/
def gateApply (s : State) (g : GateItem) : State :=
  let u := g.target / 64
  match g.change with
  | .job desc hd => if s.solv.run.isNone then jobGate s g desc hd else s
  | .patch _ => if asmAtBoundary s then modelGate s else s
  | .store a bs =>
    if u = 0x10 then (if cleIdle s (storeSlots a) then gateDone (storeNow s a bs) g else s)
    else if unitStopped s u then gateDone (storeNow s a bs) g else s
  | .payload ty d =>
    if ty = 9 then (if asmAtBoundary s then asmProgram s g d else s)
    else if u = 0x14 then (if asmAtBoundary s ∧ (ty = 4 ∨ trnAtBoundary s) then modelGate s else s)
    else if u = 0x0C then (if s.saf.safe ∨ !s.saf.inCycle then safBoundary s else s)
    else if u = 0x11 then (if liveBoundary s g.target then sequenceEnd s (g.target % 64) else s)
    else if u = 0x12 ∨ u = 0x13 then (if unitStopped s u then tableApply s u else s)
    else if u = 0x26 then keyGate s
    else if u = 0x24 then (match clearScope d with | some k => almClear (gateDone s g) k | none => gateDrop s g.target)
    else s
  | _ => s

/-- The boundary of a target for which the gate holds a change (R23, R24). -/
def execGateApply (target : BitVec 12) (s : State) : Out :=
  done s (match gateFind s target.toNat with
    | some g => if unitOn s (target.toNat / 64) then gateApply s g else s
    | none => s)

/-! ## Scrubbing -/

/-- The regions that MEM scrubs: those with a code, in switched-on domains, in ascending order of base, each with its index (R96, R99). -/
def scrubRegions (s : State) : List ((Nat × Nat) × Nat) :=
  regions.zipIdx.filter (fun e => e.2 != 0 && e.2 != 20 &&
    (match regionDomain e.2 with | some d => domainOn s d | none => true))

/-- The next word of the pass: the first powered region that is not done, from where the scrubber stands in it; none when the pass is
complete (R99). A region whose domain comes back in the pass goes on at its next word before the regions above it do, which is the
model's choice (assumption 184). -/
def scrubNext (s : State) : Option Nat :=
  ((scrubRegions s).find? (fun r => Tbl.get 0 s.mem.scrubAt r.2 < r.1.2)).map (fun r => r.1.1 + Tbl.get 0 s.mem.scrubAt r.2)

/-- The scrubber has done the word at `a`. -/
def scrubDone (s : State) (a : Nat) : State :=
  let r := (regionOf a).getD 0
  { s with mem := { s.mem with scrubAt := Tbl.ins s.mem.scrubAt r (Tbl.get 0 s.mem.scrubAt r + 8) } }

/-- Words have acquired errors in `n` bits, at most three of which count (R96). -/
def upset (s : State) (a n : Nat) : State :=
  let old := Tbl.get 0 s.mem.ecc (a / 8)
  if n = 0 ∨ old = 4 ∨ !(scrubRegions s).any (fun r => r.1.1 ≤ a && a < r.1.1 + r.1.2) then s
  else { s with mem := { s.mem with ecc := Tbl.put 0 s.mem.ecc (a / 8) (min 3 (old + n)) } }

/-- The pass ends after the last word: event 20, and the counts start again; a region that is off keeps its place (R99, R100, R117). -/
def scrubPass (s : State) : State :=
  match scrubNext s with
  | some _ => s
  | none =>
    let on (r : Nat) : Bool := (scrubRegions s).any (fun e => e.2 == r)
    raise { s with mem := { s.mem with scrubAt := s.mem.scrubAt.filter (fun e => !on e.1), passCe := [], passTold := [] } } 20

/-- A scrub step (R99, R100): before it, `bits` bits of the word at `word` have gone bad, wherever that word lies. -/
def execScrubStep (word : BitVec 40) (bits : Fin 4) (s : State) : Out :=
  done s (
    let s := upset s word.toNat bits.val
    if s.pwr.asleep ∨ !fBit s 1 0x002 0 then s
    else match scrubNext s with
      | none => scrubPass s
      | some a =>
        let s := match eccRead s a with
          | (s, true) => s
          | (s, false) => uncorrHook (errorResp s { unit := 1 } .scrub .uncorr a 0) a
        scrubPass (scrubDone s a))

end Sys2Proof.Machine
end

