-- ==== Sys2Proof/Machine/Dispatch.lean ====
section
/-! DEFINITION. One arm for each command: its meaning, or its rejection by name. -/
namespace Sys2Proof.Machine

def exec (i : Instr) (s : State) : Host.Outcome State Fault Refusal :=
  match i with
  | .add h rd ra rb => Sys2Proof.Machine.execAdd h rd ra rb s
  | .sub h rd ra rb => Sys2Proof.Machine.execSub h rd ra rb s
  | .and h rd ra rb => Sys2Proof.Machine.execAnd h rd ra rb s
  | .or h rd ra rb => Sys2Proof.Machine.execOr h rd ra rb s
  | .xor h rd ra rb => Sys2Proof.Machine.execXor h rd ra rb s
  | .andn h rd ra rb => Sys2Proof.Machine.execAndn h rd ra rb s
  | .nor h rd ra rb => Sys2Proof.Machine.execNor h rd ra rb s
  | .addsat h rd ra rb => Sys2Proof.Machine.execAddsat h rd ra rb s
  | .subsat h rd ra rb => Sys2Proof.Machine.execSubsat h rd ra rb s
  | .sll h rd ra rb => Sys2Proof.Machine.execSll h rd ra rb s
  | .srl h rd ra rb => Sys2Proof.Machine.execSrl h rd ra rb s
  | .sra h rd ra rb => Sys2Proof.Machine.execSra h rd ra rb s
  | .rol h rd ra rb => Sys2Proof.Machine.execRol h rd ra rb s
  | .slli h rd ra sh => Sys2Proof.Machine.execSlli h rd ra sh s
  | .srli h rd ra sh => Sys2Proof.Machine.execSrli h rd ra sh s
  | .srai h rd ra sh => Sys2Proof.Machine.execSrai h rd ra sh s
  | .mul h rd ra rb => Sys2Proof.Machine.execMul h rd ra rb s
  | .mulh h rd ra rb => Sys2Proof.Machine.execMulh h rd ra rb s
  | .mulhu h rd ra rb => Sys2Proof.Machine.execMulhu h rd ra rb s
  | .div h rd ra rb => Sys2Proof.Machine.execDiv h rd ra rb s
  | .divu h rd ra rb => Sys2Proof.Machine.execDivu h rd ra rb s
  | .rem h rd ra rb => Sys2Proof.Machine.execRem h rd ra rb s
  | .remu h rd ra rb => Sys2Proof.Machine.execRemu h rd ra rb s
  | .min h rd ra rb => Sys2Proof.Machine.execMin h rd ra rb s
  | .max h rd ra rb => Sys2Proof.Machine.execMax h rd ra rb s
  | .minu h rd ra rb => Sys2Proof.Machine.execMinu h rd ra rb s
  | .maxu h rd ra rb => Sys2Proof.Machine.execMaxu h rd ra rb s
  | .abs h rd ra => Sys2Proof.Machine.execAbs h rd ra s
  | .fmulQ h rd ra rb mode t sh => Sys2Proof.Machine.execFmulQ h rd ra rb mode t sh s
  | .fmac h acc ra rb => Sys2Proof.Machine.execFmac h acc ra rb s
  | .fmsc h acc ra rb => Sys2Proof.Machine.execFmsc h acc ra rb s
  | .accClr h acc => Sys2Proof.Machine.execAccClr h acc s
  | .accLd h acc ra sh => Sys2Proof.Machine.execAccLd h acc ra sh s
  | .accRd h rd acc sh mode t => Sys2Proof.Machine.execAccRd h rd acc sh mode t s
  | .accRdw h rd acc k => Sys2Proof.Machine.execAccRdw h rd acc k s
  | .accWrw h acc ra k => Sys2Proof.Machine.execAccWrw h acc ra k s
  | .cmp h pd comb ra rb cond => Sys2Proof.Machine.execCmp h pd comb ra rb cond s
  | .cmpi h pd comb ra imm cond => Sys2Proof.Machine.execCmpi h pd comb ra imm cond s
  | .bext h rd ra pos wm1 => Sys2Proof.Machine.execBext h rd ra pos wm1 s
  | .bexts h rd ra pos wm1 => Sys2Proof.Machine.execBexts h rd ra pos wm1 s
  | .bins h rd ra pos wm1 => Sys2Proof.Machine.execBins h rd ra pos wm1 s
  | .clz h rd ra => Sys2Proof.Machine.execClz h rd ra s
  | .ctz h rd ra => Sys2Proof.Machine.execCtz h rd ra s
  | .popc h rd ra => Sys2Proof.Machine.execPopc h rd ra s
  | .brev h rd ra => Sys2Proof.Machine.execBrev h rd ra s
  | .bswap h rd ra => Sys2Proof.Machine.execBswap h rd ra s
  | .addi h rd ra imm => Sys2Proof.Machine.execAddi h rd ra imm s
  | .andi h rd ra imm => Sys2Proof.Machine.execAndi h rd ra imm s
  | .ori h rd ra imm => Sys2Proof.Machine.execOri h rd ra imm s
  | .xori h rd ra imm => Sys2Proof.Machine.execXori h rd ra imm s
  | .li h rd imm => Sys2Proof.Machine.execLi h rd imm s
  | .lui h rd imm => Sys2Proof.Machine.execLui h rd imm s
  | .li32 h rd imm => Sys2Proof.Machine.execLi32 h rd imm s
  | .addi32 h rd ra imm => Sys2Proof.Machine.execAddi32 h rd ra imm s
  | .andi32 h rd ra imm => Sys2Proof.Machine.execAndi32 h rd ra imm s
  | .ori32 h rd ra imm => Sys2Proof.Machine.execOri32 h rd ra imm s
  | .xori32 h rd ra imm => Sys2Proof.Machine.execXori32 h rd ra imm s
  | .br h off => Sys2Proof.Machine.execBr h off s
  | .call h off => Sys2Proof.Machine.execCall h off s
  | .jr h ra => Sys2Proof.Machine.execJr h ra s
  | .jalr h rd ra => Sys2Proof.Machine.execJalr h rd ra s
  | .ldB h rd rb x off => Sys2Proof.Machine.execLdB h rd rb x off s
  | .ldH h rd rb x off => Sys2Proof.Machine.execLdH h rd rb x off s
  | .ldW h rd rb off => Sys2Proof.Machine.execLdW h rd rb off s
  | .ldD h rd rb off => Sys2Proof.Machine.execLdD h rd rb off s
  | .stB h rd rb off => Sys2Proof.Machine.execStB h rd rb off s
  | .stH h rd rb off => Sys2Proof.Machine.execStH h rd rb off s
  | .stW h rd rb off => Sys2Proof.Machine.execStW h rd rb off s
  | .stD h rd rb off => Sys2Proof.Machine.execStD h rd rb off s
  | .piRd h rd rb x off => Sys2Proof.Machine.execPiRd h rd rb x off s
  | .piWr h rd rb x off => Sys2Proof.Machine.execPiWr h rd rb x off s
  | .ldF h rd ra => Sys2Proof.Machine.execLdF h rd ra s
  | .stF h rb ra => Sys2Proof.Machine.execStF h rb ra s
  | .ldFd h rd ra => Sys2Proof.Machine.execLdFd h rd ra s
  | .stFd h rb ra => Sys2Proof.Machine.execStFd h rb ra s
  | .amoSwap h rd ra rb => Sys2Proof.Machine.execAmoSwap h rd ra rb s
  | .amoAdd h rd ra rb => Sys2Proof.Machine.execAmoAdd h rd ra rb s
  | .amoAnd h rd ra rb => Sys2Proof.Machine.execAmoAnd h rd ra rb s
  | .amoOr h rd ra rb => Sys2Proof.Machine.execAmoOr h rd ra rb s
  | .amoMax h rd ra rb => Sys2Proof.Machine.execAmoMax h rd ra rb s
  | .amoMin h rd ra rb => Sys2Proof.Machine.execAmoMin h rd ra rb s
  | .amoCas h rd ra rb => Sys2Proof.Machine.execAmoCas h rd ra rb s
  | .edgR h pd ra slot => Sys2Proof.Machine.execEdgR h pd ra slot s
  | .edgF h pd ra slot => Sys2Proof.Machine.execEdgF h pd ra slot s
  | .ton h pd pin src slot w2 => Sys2Proof.Machine.execTon h pd pin src slot w2 s
  | .tof h pd pin src slot w2 => Sys2Proof.Machine.execTof h pd pin src slot w2 s
  | .tp h pd pin src slot w2 => Sys2Proof.Machine.execTp h pd pin src slot w2 s
  | .ctu h pd cu r slot pv => Sys2Proof.Machine.execCtu h pd cu r slot pv s
  | .ctd h pd cd ld slot pv => Sys2Proof.Machine.execCtd h pd cd ld slot pv s
  | .slotRd h rd kind slot => Sys2Proof.Machine.execSlotRd h rd kind slot s
  | .slotWr h rd kind slot => Sys2Proof.Machine.execSlotWr h rd kind slot s
  | .sig h n => Sys2Proof.Machine.execSig h n s
  | .wait h pd n rt => Sys2Proof.Machine.execWait h pd n rt s
  | .waitany h pd g rm rt => Sys2Proof.Machine.execWaitany h pd g rm rt s
  | .waitResume eng task => Sys2Proof.Machine.execWaitResume eng task s
  | .evtClr h n => Sys2Proof.Machine.execEvtClr h n s
  | .msgSend h pd ra target => Sys2Proof.Machine.execMsgSend h pd ra target s
  | .msgRecv h pd ra target => Sys2Proof.Machine.execMsgRecv h pd ra target s
  | .jobPost h rd ra => Sys2Proof.Machine.execJobPost h rd ra s
  | .jobPoll h rd ra => Sys2Proof.Machine.execJobPoll h rd ra s
  | .jobCancel h ra => Sys2Proof.Machine.execJobCancel h ra s
  | .timeRd h rd => Sys2Proof.Machine.execTimeRd h rd s
  | .timeRdh h rd => Sys2Proof.Machine.execTimeRdh h rd s
  | .srRd h rd sel => Sys2Proof.Machine.execSrRd h rd sel s
  | .cfgR h r fid => Sys2Proof.Machine.execCfgR h r fid s
  | .cfgW h r fid => Sys2Proof.Machine.execCfgW h r fid s
  | .cfgCommit h r fid => Sys2Proof.Machine.execCfgCommit h r fid s
  | .cfgRs h r fid => Sys2Proof.Machine.execCfgRs h r fid s
  | .commitApply unit => Sys2Proof.Machine.execCommitApply unit s
  | .heldLiveWriteApply unit => Sys2Proof.Machine.execHeldLiveWriteApply unit s
  | .nop h => Sys2Proof.Machine.execNop h s
  | .mer h ns busy => Sys2Proof.Machine.execMer h ns busy s
  | .sleep h rd => Sys2Proof.Machine.execSleep h rd s
  | .halt h => Sys2Proof.Machine.execHalt h s
  | .trap h code => Sys2Proof.Machine.execTrap h code s
  | .tret h skips => Sys2Proof.Machine.execTret h skips s
  | .piSb h => Sys2Proof.Machine.execPiSb h s
  | .piSe h => Sys2Proof.Machine.execPiSe h s
  | .pRd h rd => Sys2Proof.Machine.execPRd h rd s
  | .pWr h ra => Sys2Proof.Machine.execPWr h ra s
  | .describe h rd ra struck => Sys2Proof.Machine.execDescribe h rd ra struck s
  | .gcmEnc h rd ra struck => Sys2Proof.Machine.execGcmEnc h rd ra struck s
  | .gcmDec h rd ra struck => Sys2Proof.Machine.execGcmDec h rd ra struck s
  | .cmac h rd ra struck => Sys2Proof.Machine.execCmac h rd ra struck s
  | .chunk h rd ra struck => Sys2Proof.Machine.execChunk h rd ra struck s
  | .finishStream h rd ra struck => Sys2Proof.Machine.execFinishStream h rd ra struck s
  | .abortStream h rd ra struck => Sys2Proof.Machine.execAbortStream h rd ra struck s
  | .sign h rd ra struck => Sys2Proof.Machine.execSign h rd ra struck s
  | .verify h rd ra struck => Sys2Proof.Machine.execVerify h rd ra struck s
  | .hash h rd ra struck => Sys2Proof.Machine.execHash h rd ra struck s
  | .deriveKey h rd ra struck => Sys2Proof.Machine.execDeriveKey h rd ra struck s
  | .generate h rd ra struck => Sys2Proof.Machine.execGenerate h rd ra struck s
  | .invalidate h rd ra struck => Sys2Proof.Machine.execInvalidate h rd ra struck s
  | .attest h rd ra struck => Sys2Proof.Machine.execAttest h rd ra struck s
  | .random h rd ra struck => Sys2Proof.Machine.execRandom h rd ra struck s
  | .publicKey h rd ra struck => Sys2Proof.Machine.execPublicKey h rd ra struck s
  | .keyBadOp h rd ra op => Sys2Proof.Machine.execKeyBadOp h rd ra op s
  | .cnv h rd ch prof ow pri => Sys2Proof.Machine.execCnv h rd ch prof ow pri s
  | .trgWait h pd rt => Sys2Proof.Machine.execTrgWait h pd rt s
  | .owSet h ch pull => Sys2Proof.Machine.execOwSet h ch pull s
  | .sarTrigger n => Sys2Proof.Machine.execSarTrigger n s
  | .trgWaitTimeout n => Sys2Proof.Machine.execTrgWaitTimeout n s
  | .conversionDone n nv late ns => Sys2Proof.Machine.execConversionDone n nv late ns s
  | .urgentConversionDue n started => Sys2Proof.Machine.execUrgentConversionDue n started s
  | .urgentConversionDone n nv late => Sys2Proof.Machine.execUrgentConversionDone n nv late s
  | .afeRun h r n => Sys2Proof.Machine.execAfeRun h r n s
  | .sampleInstant codes => Sys2Proof.Machine.execSampleInstant codes s
  | .accBoundary temp => Sys2Proof.Machine.execAccBoundary temp s
  | .thermalSample => Sys2Proof.Machine.execThermalSample s
  | .harmonicWindowEnd g => Sys2Proof.Machine.execHarmonicWindowEnd g s
  | .zxTimeout g => Sys2Proof.Machine.execZxTimeout g s
  | .mtrRun h r => Sys2Proof.Machine.execMtrRun h r s
  | .saveNow h r => Sys2Proof.Machine.execSaveNow h r s
  | .saveDone ok => Sys2Proof.Machine.execSaveDone ok s
  | .pulseInEdge n rising dir ns => Sys2Proof.Machine.execPulseInEdge n rising dir ns s
  | .pulseOutStart n => Sys2Proof.Machine.execPulseOutStart n s
  | .pulseOutEnd n => Sys2Proof.Machine.execPulseOutEnd n s
  | .snapNow h rd => Sys2Proof.Machine.execSnapNow h rd s
  | .snapRel h rd => Sys2Proof.Machine.execSnapRel h rd s
  | .blkOpen h rd ra => Sys2Proof.Machine.execBlkOpen h rd ra s
  | .blkClose h rd ra => Sys2Proof.Machine.execBlkClose h rd ra s
  | .hydBr h rd ra => Sys2Proof.Machine.execHydBr h rd ra s
  | .thBr h rd ra => Sys2Proof.Machine.execThBr h rd ra s
  | .injRow h rd ra rb => Sys2Proof.Machine.execInjRow h rd ra rb s
  | .measRow h rd ra => Sys2Proof.Machine.execMeasRow h rd ra s
  | .entW h rd ra => Sys2Proof.Machine.execEntW h rd ra s
  | .trnGo h rd ra => Sys2Proof.Machine.execTrnGo h rd ra s
  | .trnSt h rd => Sys2Proof.Machine.execTrnSt h rd s
  | .snapshotDue => Sys2Proof.Machine.execSnapshotDue s
  | .snapshotCopyEnd => Sys2Proof.Machine.execSnapshotCopyEnd s
  | .trnAdvanceEnd => Sys2Proof.Machine.execTrnAdvanceEnd s
  | .trnReinit => Sys2Proof.Machine.execTrnReinit s
  | .asmRun h r => Sys2Proof.Machine.execAsmRun h r s
  | .trnRun h r => Sys2Proof.Machine.execTrnRun h r s
  | .patchGo h r => Sys2Proof.Machine.execPatchGo h r s
  | .estRun => Sys2Proof.Machine.execEstRun s
  | .calKeep => Sys2Proof.Machine.execCalKeep s
  | .calStep => Sys2Proof.Machine.execCalStep s
  | .dspRun => Sys2Proof.Machine.execDspRun s
  | .jobStart => Sys2Proof.Machine.execJobStart s
  | .factLdl => Sys2Proof.Machine.execFactLdl s
  | .factChol => Sys2Proof.Machine.execFactChol s
  | .factQr => Sys2Proof.Machine.execFactQr s
  | .solveTri => Sys2Proof.Machine.execSolveTri s
  | .schur => Sys2Proof.Machine.execSchur s
  | .gemm => Sys2Proof.Machine.execGemm s
  | .spmv => Sys2Proof.Machine.execSpmv s
  | .axpy => Sys2Proof.Machine.execAxpy s
  | .clip => Sys2Proof.Machine.execClip s
  | .norm => Sys2Proof.Machine.execNorm s
  | .pivPol => Sys2Proof.Machine.execPivPol s
  | .sc => Sys2Proof.Machine.execSc s
  | .seqBr => Sys2Proof.Machine.execSeqBr s
  | .seqEnd => Sys2Proof.Machine.execSeqEnd s
  | .agLd => Sys2Proof.Machine.execAgLd s
  | .agSt => Sys2Proof.Machine.execAgSt s
  | .laneFail group lane => Sys2Proof.Machine.execLaneFail group lane s
  | .bistStep group => Sys2Proof.Machine.execBistStep group s
  | .bistPatternDone group pass => Sys2Proof.Machine.execBistPatternDone group pass s
  | .solvRun h r => Sys2Proof.Machine.execSolvRun h r s
  | .freeMeridian busy => Sys2Proof.Machine.execFreeMeridian busy s
  | .deferredMeridianStart ns => Sys2Proof.Machine.execDeferredMeridianStart ns s
  | .restartComplete core => Sys2Proof.Machine.execRestartComplete core s
  | .retCommitDone core => Sys2Proof.Machine.execRetCommitDone core s
  | .gateApply target => Sys2Proof.Machine.execGateApply target s
  | .gateRead g => Sys2Proof.Machine.execGateRead g s
  | .taskRelease core task => Sys2Proof.Machine.execTaskRelease core task s
  | .eventTaskRelease core task => Sys2Proof.Machine.execEventTaskRelease core task s
  | .idleWindowEnd core => Sys2Proof.Machine.execIdleWindowEnd core s
  | .cycRun h r core => Sys2Proof.Machine.execCycRun h r core s
  | .stationResponse path data ns => Sys2Proof.Machine.execStationResponse path data ns s
  | .stationRejection path data => Sys2Proof.Machine.execStationRejection path data s
  | .stationRespTimeout station => Sys2Proof.Machine.execStationRespTimeout station s
  | .stnRun h r => Sys2Proof.Machine.execStnRun h r s
  | .slotTrigger slot period ns => Sys2Proof.Machine.execSlotTrigger slot period ns s
  | .lawRunStart eng => Sys2Proof.Machine.execLawRunStart eng s
  | .lpSrc h rd kf => Sys2Proof.Machine.execLpSrc h rd kf s
  | .lpLaw h rd => Sys2Proof.Machine.execLpLaw h rd s
  | .lpOut h ra => Sys2Proof.Machine.execLpOut h ra s
  | .lpHold h => Sys2Proof.Machine.execLpHold h s
  | .slotDeadline slot => Sys2Proof.Machine.execSlotDeadline slot s
  | .pwmEvent c ev => Sys2Proof.Machine.execPwmEvent c ev s
  | .cleRun h r => Sys2Proof.Machine.execCleRun h r s
  | .safetyRelease codeFault checkerFault => Sys2Proof.Machine.execSafetyRelease codeFault checkerFault s
  | .safetyMonitorExpiry => Sys2Proof.Machine.execSafetyMonitorExpiry s
  | .siFilterChange si level => Sys2Proof.Machine.execSiFilterChange si level s
  | .testPulse p => Sys2Proof.Machine.execTestPulse p s
  | .pairDiscrepancy k => Sys2Proof.Machine.execPairDiscrepancy k s
  | .readbackMismatch n level => Sys2Proof.Machine.execReadbackMismatch n level s
  | .offPulseStart n => Sys2Proof.Machine.execOffPulseStart n s
  | .offPulseEnd n => Sys2Proof.Machine.execOffPulseEnd n s
  | .safRun h r => Sys2Proof.Machine.execSafRun h r s
  | .safRestart h r => Sys2Proof.Machine.execSafRestart h r s
  | .refClkLoss => Sys2Proof.Machine.execRefClkLoss s
  | .refClkReturn => Sys2Proof.Machine.execRefClkReturn s
  | .scrubStep word bits => Sys2Proof.Machine.execScrubStep word bits s
  | .vlogClear h r => Sys2Proof.Machine.execVlogClear h r s
  | .ident t q => Sys2Proof.Machine.execIdent t q s
  | .read t q => Sys2Proof.Machine.execRead t q s
  | .write t q => Sys2Proof.Machine.execWrite t q s
  | .run t q => Sys2Proof.Machine.execRun t q s
  | .update t q => Sys2Proof.Machine.execUpdate t q s
  | .mgtBadCommand t cmd q => Sys2Proof.Machine.execMgtBadCommand t cmd q s
  | .runJobDone result => Sys2Proof.Machine.execRunJobDone result s
  | .runJobTimeout job => Sys2Proof.Machine.execRunJobTimeout job s
  | .almRecordWrite => Sys2Proof.Machine.execAlmRecordWrite s
  | .counterSave ok => Sys2Proof.Machine.execCounterSave ok s
  | .opSave h r => Sys2Proof.Machine.execOpSave h r s
  | .winCtrl h r => Sys2Proof.Machine.execWinCtrl h r s
  | .linkUp port => Sys2Proof.Machine.execLinkUp port s
  | .linkDown port => Sys2Proof.Machine.execLinkDown port s
  | .portTransmit port plane => Sys2Proof.Machine.execPortTransmit port plane s
  | .rxFrameDiscard r kind quotaFull => Sys2Proof.Machine.execRxFrameDiscard r kind quotaFull s
  | .prpSupervisionRx r => Sys2Proof.Machine.execPrpSupervisionRx r s
  | .prpSupervisionTx => Sys2Proof.Machine.execPrpSupervisionTx s
  | .substationReport r data quotaFull => Sys2Proof.Machine.execSubstationReport r data quotaFull s
  | .slotStale slot => Sys2Proof.Machine.execSlotStale slot s
  | .arpRequest path senderMac senderIp target => Sys2Proof.Machine.execArpRequest path senderMac senderIp target s
  | .icmpEcho path senderMac senderIp target data => Sys2Proof.Machine.execIcmpEcho path senderMac senderIp target data s
  | .ipFragment path senderIp target ident proto hdrLen offset more data => Sys2Proof.Machine.execIpFragment path senderIp target ident proto hdrLen offset more data s
  | .reassemblyTimeout idx => Sys2Proof.Machine.execReassemblyTimeout idx s
  | .syncRx r domain sender t1 t2 corr => Sys2Proof.Machine.execSyncRx r domain sender t1 t2 corr s
  | .delayReqTx t3 => Sys2Proof.Machine.execDelayReqTx t3 s
  | .delayRespRx r domain sender seq t4 corr => Sys2Proof.Machine.execDelayRespRx r domain sender seq t4 corr s
  | .pdelayReqTx t1 => Sys2Proof.Machine.execPdelayReqTx t1 s
  | .pdelayReqRx r seq => Sys2Proof.Machine.execPdelayReqRx r seq s
  | .pdelayRespRx r seq turn t4 corr => Sys2Proof.Machine.execPdelayRespRx r seq turn t4 corr s
  | .announceRx r domain ds => Sys2Proof.Machine.execAnnounceRx r domain ds s
  | .announceReceiptTimeout => Sys2Proof.Machine.execAnnounceReceiptTimeout s
  | .setGo h r => Sys2Proof.Machine.execSetGo h r s
  | .timeRun h r => Sys2Proof.Machine.execTimeRun h r s
  | .canRxFrame c f data stamp => Sys2Proof.Machine.execCanRxFrame c f data stamp s
  | .canTxStart c => Sys2Proof.Machine.execCanTxStart c s
  | .canTxDone c won stamp loopDly => Sys2Proof.Machine.execCanTxDone c won stamp loopDly s
  | .canError c lec inc => Sys2Proof.Machine.execCanError c lec inc s
  | .busoffRecoveryDone c => Sys2Proof.Machine.execBusoffRecoveryDone c s
  | .canBusJoin c => Sys2Proof.Machine.execCanBusJoin c s
  | .canRun h r c => Sys2Proof.Machine.execCanRun h r c s
  | .recover h r c => Sys2Proof.Machine.execRecover h r c s
  | .txCancel h r c k => Sys2Proof.Machine.execTxCancel h r c k s
  | .helloTx => Sys2Proof.Machine.execHelloTx s
  | .helloRx lane f rttNs => Sys2Proof.Machine.execHelloRx lane f rttNs s
  | .copyRx f whole => Sys2Proof.Machine.execCopyRx f whole s
  | .copyAckRx f => Sys2Proof.Machine.execCopyAckRx f s
  | .bulkRx f => Sys2Proof.Machine.execBulkRx f s
  | .abdicateRx f => Sys2Proof.Machine.execAbdicateRx f s
  | .leaseExpiry => Sys2Proof.Machine.execLeaseExpiry s
  | .laneLoss lane => Sys2Proof.Machine.execLaneLoss lane s
  | .laneRegained lane => Sys2Proof.Machine.execLaneRegained lane s
  | .standbyWatchExpiry => Sys2Proof.Machine.execStandbyWatchExpiry s
  | .witnessAnswerTimeout => Sys2Proof.Machine.execWitnessAnswerTimeout s
  | .grantRx r w => Sys2Proof.Machine.execGrantRx r w s
  | .refuseRx r w => Sys2Proof.Machine.execRefuseRx r w s
  | .hbAckRx r w => Sys2Proof.Machine.execHbAckRx r w s
  | .beaconRx r w => Sys2Proof.Machine.execBeaconRx r w s
  | .heartbeatRx r w => Sys2Proof.Machine.execHeartbeatRx r w s
  | .grantReqRx r w => Sys2Proof.Machine.execGrantReqRx r w s
  | .witnessGapExpiry => Sys2Proof.Machine.execWitnessGapExpiry s
  | .startWaitExpiry => Sys2Proof.Machine.execStartWaitExpiry s
  | .zenithInRise => Sys2Proof.Machine.execZenithInRise s
  | .zenithInLow => Sys2Proof.Machine.execZenithInLow s
  | .abdicate h r => Sys2Proof.Machine.execAbdicate h r s
  | .twinRun h r => Sys2Proof.Machine.execTwinRun h r s
  | .rtcSecond => Sys2Proof.Machine.execRtcSecond s
  | .oscStop => Sys2Proof.Machine.execOscStop s
  | .backupDomainReset => Sys2Proof.Machine.execBackupDomainReset s
  | .wakeBtnPress => Sys2Proof.Machine.execWakeBtnPress s
  | .pwrCtrl h r => Sys2Proof.Machine.execPwrCtrl h r s
  | .keyIntegritySweep bad => Sys2Proof.Machine.execKeyIntegritySweep bad s
  | .entropyRetest pass => Sys2Proof.Machine.execEntropyRetest pass s
  | .tamperFire src levels => Sys2Proof.Machine.execTamperFire src levels s
  | .frameBoundary => Sys2Proof.Machine.execFrameBoundary s
  | .updReq h r ok => Sys2Proof.Machine.execUpdReq h r ok s
  | .bistableFrame ok => Sys2Proof.Machine.execBistableFrame ok s
  | .hmiRecovery => Sys2Proof.Machine.execHmiRecovery s
  | .hmiRun h r => Sys2Proof.Machine.execHmiRun h r s
  | .haloMeasure => Sys2Proof.Machine.execHaloMeasure s
  | .haloResult nv => Sys2Proof.Machine.execHaloResult nv s
  | .domainSwitchDone => Sys2Proof.Machine.execDomainSwitchDone s
  | .wake ext => Sys2Proof.Machine.execWake ext s
  | .avsStep ok mv => Sys2Proof.Machine.execAvsStep ok mv s
  | .sysReset h r => Sys2Proof.Machine.execSysReset h r s
  | .release h r => Sys2Proof.Machine.execRelease h r s
  | .resetN => Sys2Proof.Machine.execResetN s
  | .supplyMonitorReset core => Sys2Proof.Machine.execSupplyMonitorReset core s
  | .boot flash => Sys2Proof.Machine.execBoot flash s
  | .wakeBtnRelease => Sys2Proof.Machine.execWakeBtnRelease s
  | .testPulseEnd p high => Sys2Proof.Machine.execTestPulseEnd p high s
  | .chargePumpReady => Sys2Proof.Machine.execChargePumpReady s
  | .demotedWitnessRequest => Sys2Proof.Machine.execDemotedWitnessRequest s
  | .entropyHealthTestFail => Sys2Proof.Machine.execEntropyHealthTestFail s
  | .bulkTx n => Sys2Proof.Machine.execBulkTx n s

end Sys2Proof.Machine
end

