-- ==== Sys2Proof/Machine/Tick.lean ====
section
/-! DEFINITION. A tick of the timebase, which is what happens while no command waits (R32, R33, R441, R503). -/
namespace Sys2Proof.Machine

/-- Operating time counts milliseconds of the timebase (R503). -/
def opTick (c : Clk) : Clk :=
  if c.opSub + 1 < 100 then { c with opSub := c.opSub + 1 } else { c with opSub := 0, opMs := c.opMs + 1 }

/-- One tick of 10 µs (R33): the tick count, operating time and network time go on together. Without REF_CLK edges nothing does
(R36). -/
def tick (s : State) : State :=
  if !s.clk.refClk then s
  else timeTick { s with clk := { opTick s.clk with tick := s.clk.tick + 1 } }

/-- The answer on an empty queue. -/
def idle (s : State) : Out := done s (tick s)

end Sys2Proof.Machine
end

