-- ==== Sys2Proof/Safety.lean ====
section
/-! DEFINITION. What a safe device is, in the terms that the statements use: what its pins may show, and the canonical form of its
memory. -/
namespace Sys2Proof.Machine

/-- The safety outputs are off in the safe state, and otherwise no output is on that the program does not command or that an
off-pulse drives off (R406, R412, R419, R420). -/
def SafetyPinsOk (s : State) : Prop :=
  (s.saf.safe = true → s.pins.so = 0) ∧ s.pins.so &&& ~~~s.saf.cmd = 0 ∧ s.pins.so &&& s.saf.pulse = 0

/-- ZENITH_OUT is driven only by a unit that asserts it and is ACTIVE or SINGLE (R475). -/
def ZenithPinOk (s : State) : Prop :=
  s.pins.zenithOut = true → s.twin.zenithOut = true ∧ (s.twin.role = .active ∨ s.twin.role = .single)

/-- No pulse output is active in sleep or while the metering domain is off (R173, R586). -/
def PulsePinsOk (s : State) : Prop := (s.pwr.asleep = true ∨ domainOn s 6 = false) → s.pins.pls = 0

/-- TP_n is low exactly in its test pulse (R416). -/
def TestPinsOk (s : State) : Prop := s.pins.tp = ~~~s.saf.tpLow

/-- The pins of a device that keeps its promises. -/
def PinsOk (s : State) : Prop := SafetyPinsOk s ∧ ZenithPinOk s ∧ PulsePinsOk s ∧ TestPinsOk s

/-- Memory is in its canonical form: addresses strictly rising, no entry equal to what an unlisted address reads as. -/
abbrev MemoryOk (s : State) : Prop := Memory.wf s.mem.cells = true

/-- No word of `len` bytes at an address has an error (R96). -/
def CleanAt (s : State) (a len : Nat) : Prop := ∀ e ∈ s.mem.ecc, e.1 * 8 + 8 ≤ a ∨ a + len ≤ e.1 * 8

/-- An instruction runs in context `k`: its engine is ready there (R42, R78, R86, R319), its words lie in the home region and are
clean (R62, R96), it decodes (R45, R51, R88), its predicate is true (R50) and it waits for no conversion (R122). -/
structure Runs (s : State) (h : Hdr) (k : Nat) (d : Dec) : Prop where
  ready : engReady s h.eng = some k
  inHome : (getCtx s k).pc.toNat + d.len ≤ (homeOf s h.eng).2
  clean : Tbl.get 0 s.mem.ecc (((homeOf s h.eng).1 + (getCtx s k).pc.toNat) / 8) = 0
  clean2 : d.len = 4 ∨ Tbl.get 0 s.mem.ecc (((homeOf s h.eng).1 + (getCtx s k).pc.toNat + 4) / 8) = 0
  decodes : d.bad = false ∧ h.rsv = 0 ∧ h.op = none ∧ inSubset d.grp h.eng = true
  pred : rdP (getCtx s k) h.pr = true
  fresh : waitsForResult s h.eng d.word = false

/-- The state in which the body of an instruction of `len` bytes acts: the pc stands behind it. -/
def past (s : State) (k len : Nat) : State := setPc s k ((getCtx s k).pc + Word.ofN len)

/-- Command `i` takes `s` to `t` with the pins settled: the answer is a next state. -/
def Gives (s : State) (i : Instr) (t : State) : Prop := exec i s = .next (settle s t)

/-- Instruction `i`, decoded as `d`, runs in context `k` and takes the state behind it to `t`. -/
def Takes (s : State) (h : Hdr) (k : Nat) (i : Instr) (d : Dec) (t : State) : Prop := Runs s h k d → Gives s i t

/-- Instruction `i`, decoded as `d`, writes `v` to rd and nothing else. -/
def Writes (s : State) (h : Hdr) (k : Nat) (i : Instr) (d : Dec) (rd : Reg) (v : Word) : Prop :=
  Takes s h k i d (setReg (past s k d.len) k rd v)

/-- Instruction `i`, decoded as `d`, traps with `e` (R89). -/
def Traps (s : State) (h : Hdr) (k : Nat) (i : Instr) (d : Dec) (e : Trap) : Prop :=
  Runs s h k d → Gives s i (takeTrap (setPc (past s k d.len) k (getCtx s k).pc) h.eng k (getCtx s k).pc (fullWord h d) e)

/-- A near access of `n` bytes at home offset `ea` gets its word: aligned, inside the home region, allowed, clean (R63, R67,
R93 to R98). -/
structure Near (s : State) (e : Eng) (wr : Bool) (ea n : Nat) : Prop where
  aligned : ea % n = 0
  inside : ea + n ≤ (homeOf s e).2
  may : accessCause s (unitOf e) wr ((homeOf s e).1 + ea) n = none
  clean : Tbl.get 0 s.mem.ecc (storedAt s ((homeOf s e).1 + ea) / 8) = 0

/-- A far access of `n` bytes at the address in a pair gets its word outside the process image. -/
structure Far (s : State) (e : Eng) (wr : Bool) (lo hi : Word) (n a : Nat) : Prop where
  addr : a = hi.toNat * 2 ^ 32 + lo.toNat
  high : hi.toNat < 256
  aligned : a % n = 0
  outside : ¬ (0x0200000000 ≤ a ∧ a < 0x0200100000)
  may : accessCause s (unitOf e) wr a n = none
  clean : Tbl.get 0 s.mem.ecc (storedAt s a / 8) = 0

/-- A record of `n` bytes at home offset `ea` is aligned, inside the home region, and all its words are clean (R79, R96). -/
structure RecordAt (s : State) (e : Eng) (ea n : Nat) : Prop where
  aligned : ea % 4 = 0
  inside : ea + n ≤ (homeOf s e).2
  clean : ∀ a, (homeOf s e).1 + ea ≤ a → a < (homeOf s e).1 + ea + n → Tbl.get 0 s.mem.ecc (a / 8) = 0

/-- `key.use` reads the descriptor `d` at home offset `o`: keys are not locked, its ranges stay inside the home region, no word of the
home region has errors, and its output lies apart from it (R538, R540, R553). -/
structure KeyReady (s : State) (o : Nat) (d : KeyDesc) : Prop where
  open_ : s.key.locked = false
  inside : o + 32 ≤ 0x200000
  desc : d = readKeyDesc s o
  fits : d.fits = true
  clean : ∀ e ∈ s.mem.ecc, e.1 * 8 < mgtHome ∨ mgtHome + 0x200000 ≤ e.1 * 8
  apart : d.outOfs + d.cap ≤ o ∨ o + 32 ≤ d.outOfs

/-- The use counter of a slot allows another use (R537). -/
def usable (s : State) (n : Nat) : Prop := (keySlot s n).counted = true → (keySlot s n).uses ≠ 0

/-- The sequencer takes macro-op `o` with opcode `n` for the running job `r`: SOLV runs, the job's step limit allows it, its words are
powered and free of errors and it has no reserved bit (R237, R239, R248, R254). -/
structure Sequences (s : State) (r : JobRun) (o : MacroOp) (n : Nat) : Prop where
  run : s.solv.run = some r
  on : unitOn s 0x16 = true
  awake : s.pwr.asleep = false
  steps : r.steps < if natAt (jobDesc s) 8 4 = 0 then (fGet s 0x16 4).toNat else natAt (jobDesc s) 8 4
  inside : inWork (objAddr (natAt (jobDesc s) 0 3) + 16 * r.pc) 16 = true
  power : domainOn s 1 = true
  clean : CleanAt s (objAddr (natAt (jobDesc s) 0 3) + 16 * r.pc) 16
  op : o = fetchOp s
  code : o.op = n ∧ 1 ≤ n ∧ n ≤ 0x10
  plain : opReserved o = false

/-- The state in which a macro-op acts: its step is counted (R248). -/
def stepped (s : State) (r : JobRun) : State := setRun s { r with steps := r.steps + 1 }

end Sys2Proof.Machine
end

