-- ==== Sys2Proof/Certificates/Slice0/Obligations.lean ====
section
/-! DEFINITION. The statements for the provers, chapter by chapter. Each docstring names the rules of spec/ that its clauses follow.
`Writes`, `Takes`, `Traps` and `Gives` (Sys2Proof/Safety.lean) say which next state an instruction or a command answers with, so every
statement that concludes one of them says that the command completes; the state named is the whole state, which makes it a frame too. -/

open Sys2Proof Sys2Proof.Machine

/-! ## The block as a whole -/

/-- A step takes the command at the front of the queue and gives what it does in the state with the queue's rest; on an empty queue the
block idles for one tick of its timebase, which is the model's choice (assumption 10). -/
def Obligations.StepRunsTheFrontCommand : Prop :=
  ∀ s : State,
    (∀ c rest, s.pending = c :: rest → step s = exec c { s with pending := rest })
    ∧ (s.pending = [] → step s = .next (settle s (tick s)))

/-- What reset leaves: memory in canonical form and the pins as the promises ask; no events, no contexts that run, no change waiting at
the gate, the boot ROM about to run; and fields at the reset value their table states. -/
def Obligations.ResetLeavesTheStatedValues : Prop :=
  let s := State.reset
  PinsOk s ∧ MemoryOk s ∧ s.pending = [] ∧ s.evts = [] ∧ s.gate = [] ∧ bootState s = 0 ∧ s.pins.so = 0
  ∧ (∀ k < 64, (getCtx s k).live = false ∧ ∀ r : Reg, reg s k r = 0)
  ∧ (∀ u ∈ [0, 1, 2, 4, 11, 0x0C, 0x10, 0x11, 0x13, 0x14, 0x16, 0x18, 0x19, 0x1A, 0x21, 0x22, 0x23, 0x24, 0x25, 0x27],
      cfgGet s u 0 = Word.ofN (0xA1010000 + u))
  ∧ (∀ e ∈ [(0, 1, 115200), (1, 1, 3600), (1, 2, 1), (0x16, 4, 1000000), (0x23, 0x018, 60)], fGet s e.1 e.2.1 = Word.ofN e.2.2)

/-- In every state that a step answers, the pins keep what the spec promises of them, whatever the command: the safety outputs are off in
the safe state and never on beyond their command or in an off-pulse (R406, R412, R419, R420), ZENITH_OUT is driven only by a unit that
holds Zenith (R475), no pulse output is active in sleep or without its domain (R173, R586), and test outputs are low exactly in their test
pulse (R416). -/
def Obligations.EveryStepKeepsThePinsSafe : Prop :=
  ∀ s t : State, step s = .next t → PinsOk t

/-- No command stops the block: every queue is worked off, one command a step, and the state at its end keeps the promises of the pins. -/
def Obligations.EveryQueueIsWorkedOff : Prop :=
  (∀ (c : Instr) (s : State), ∃ t, exec c s = .next t ∧ t.pending = s.pending)
  ∧ ∀ s : State, s.pending ≠ [] → ∃ t, core.run s.pending.length s = .next t ∧ t.pending = [] ∧ PinsOk t

/-- The frame of every instruction that writes a result to rd (shown by the statements above as `Writes`): r0 reads 0 and discards the
result, and every other register, predicate and accumulator, every other context, memory, configuration, events and all other state stay;
only the pc moves on (R40). -/
def Obligations.RegisterResultsChangeNothingElse : Prop :=
  ∀ (s t : State) (h : Hdr) (k : Nat) (i : Instr) (d : Dec) (rd : Reg) (v : Word),
    Writes s h k i d rd v → Runs s h k d → exec i s = .next t →
      (rd ≠ 0 → reg t k rd = v) ∧ reg t k 0 = 0 ∧ (∀ r, r ≠ rd → reg t k r = reg s k r)
      ∧ (∀ p, rdP (getCtx t k) p = rdP (getCtx s k) p) ∧ (∀ a, rdA (getCtx t k) a = rdA (getCtx s k) a)
      ∧ (getCtx t k).pc = (getCtx s k).pc + Word.ofN d.len
      ∧ (∀ j, j ≠ k → getCtx t j = getCtx s j)
      ∧ (∀ a, memByte t a = memByte s a)
      ∧ t = { s with ctxs := t.ctxs, pins := t.pins }

/-- Memory stays in its canonical form under the instructions that store a word, a doubleword or less, near, far or atomic, and under the
scrubber. -/
def Obligations.StoresKeepMemoryCanonical : Prop :=
  ∀ (s t : State) (h : Hdr) (rd ra rb : Reg) (off : BitVec 12) (w : BitVec 40) (bad : Fin 4) (i : Instr),
    i ∈ [.stB h rd rb off, .stH h rd rb off, .stW h rd rb off, .stD h rd rb off, .stF h rd ra, .stFd h rd ra, .amoSwap h rd ra rb,
      .amoAdd h rd ra rb, .amoAnd h rd ra rb, .amoOr h rd ra rb, .amoMax h rd ra rb, .amoMin h rd ra rb, .amoCas h rd ra rb,
      .scrubStep w bad] →
    MemoryOk s → exec i s = .next t → MemoryOk t

/-- A unit whose domain is off, that is held in reset or that sleeps takes nothing from outside: the events of its ports and loops leave
the device as it is, but that a received frame empties the list of the frames handed to the lanes (R429, R471, R477, R571, R577). -/
def Obligations.UnitsThatAreOffTakeNothing : Prop :=
  ∀ (s : State) (c : Fin 8) (f : CanFrame) (d : List Byte) (stamp : Word) (won : Bool) (n : Nat) (lec : BitVec 3) (inc : CanInc)
    (lane : Lane) (lf : LinkFrame) (codes : List (BitVec 24)) (nv : Int),
    let none_ (l : List Instr) : Prop := ∀ i ∈ l, Gives s i s
    (canOn s c.val = false → none_ [.canRxFrame c f d stamp, .canTxStart c, .canTxDone c won stamp n, .canError c lec inc,
      .busoffRecoveryDone c, .canBusJoin c])
    ∧ (hmiOn s = false → none_ [.frameBoundary, .chargePumpReady, .bistableFrame true, .hmiRecovery, .haloMeasure, .haloResult nv])
    ∧ (mtrRuns s = false → none_ [.sampleInstant codes, .accBoundary stamp, .thermalSample])
    ∧ (twinRuns s = false → none_ [.standbyWatchExpiry, .startWaitExpiry, .demotedWitnessRequest, .witnessAnswerTimeout]
      ∧ ∀ i ∈ [.helloRx lane lf n, .copyRx lf won, .copyAckRx lf, .bulkRx lf, .abdicateRx lf], Gives s i (clearTx s))

/-! ## The instruction set (chapter 02) -/

/-- R53: the ALU instructions compute rd from ra and rb by func; the shifts by a field take the rb field's value. -/
def Obligations.AluInstructionsComputeTheirResult : Prop :=
  ∀ (s : State) (h : Hdr) (k : Nat) (rd ra rb : Reg),
    let a := reg s k ra
    let b := reg s k rb
    let alu (i : Instr) (func : Nat) (v : Word) : Prop := Writes s h k i { word := encA 1 rd ra rb func, grp := .alu } rd v
    alu (.add h rd ra rb) 0 (a + b) ∧ alu (.sub h rd ra rb) 1 (a - b) ∧ alu (.and h rd ra rb) 2 (a &&& b)
    ∧ alu (.or h rd ra rb) 3 (a ||| b) ∧ alu (.xor h rd ra rb) 4 (a ^^^ b) ∧ alu (.andn h rd ra rb) 5 (a &&& ~~~b)
    ∧ alu (.nor h rd ra rb) 6 (~~~(a ||| b))
    ∧ alu (.addsat h rd ra rb) 7 (BitVec.ofInt 32 (max (-2147483648) (min 2147483647 (a.toInt + b.toInt))))
    ∧ alu (.subsat h rd ra rb) 8 (BitVec.ofInt 32 (max (-2147483648) (min 2147483647 (a.toInt - b.toInt))))
    ∧ alu (.sll h rd ra rb) 9 (a <<< (b.setWidth 5)) ∧ alu (.srl h rd ra rb) 10 (a >>> (b.setWidth 5))
    ∧ alu (.sra h rd ra rb) 11 (a.sshiftRight (b.setWidth 5).toNat)
    ∧ alu (.rol h rd ra rb) 12 (a.rotateLeft (b.setWidth 5).toNat)
    ∧ alu (.slli h rd ra rb) 13 (a <<< rb.toNat) ∧ alu (.srli h rd ra rb) 14 (a >>> rb.toNat)
    ∧ alu (.srai h rd ra rb) 15 (a.sshiftRight rb.toNat)
    ∧ alu (.mul h rd ra rb) 16 (a * b)
    ∧ alu (.mulh h rd ra rb) 17 (BitVec.ofInt 32 (a.toInt * b.toInt / 4294967296))
    ∧ alu (.mulhu h rd ra rb) 18 (BitVec.ofNat 32 (a.toNat * b.toNat / 4294967296))
    ∧ (b ≠ 0 → ¬ (a = 0x80000000 ∧ b = 0xFFFFFFFF) → alu (.div h rd ra rb) 19 (BitVec.ofInt 32 (a.toInt.tdiv b.toInt)))
    ∧ (b ≠ 0 → alu (.divu h rd ra rb) 20 (BitVec.ofNat 32 (a.toNat / b.toNat)))
    ∧ (b ≠ 0 → alu (.rem h rd ra rb) 21 (BitVec.ofInt 32 (a.toInt.tmod b.toInt)))
    ∧ (b ≠ 0 → alu (.remu h rd ra rb) 22 (BitVec.ofNat 32 (a.toNat % b.toNat)))
    ∧ alu (.min h rd ra rb) 23 (if a.toInt < b.toInt then a else b)
    ∧ alu (.max h rd ra rb) 24 (if a.toInt < b.toInt then b else a)
    ∧ alu (.minu h rd ra rb) 25 (if a.toNat < b.toNat then a else b)
    ∧ alu (.maxu h rd ra rb) 26 (if a.toNat < b.toNat then b else a)
    ∧ Writes s h k (.abs h rd ra) { word := encA 1 rd ra 0 27, grp := .alu } rd
        (BitVec.ofInt 32 (min 2147483647 (max a.toInt (-a.toInt))))

/-- R54: division never traps, and its boundary cases have fixed results; `abs` of -2^31 saturates. -/
def Obligations.DivisionBoundaryCasesAreFixed : Prop :=
  ∀ (s : State) (h : Hdr) (k : Nat) (rd ra rb : Reg),
    let a := reg s k ra
    let b := reg s k rb
    let alu (i : Instr) (func : Nat) (v : Word) : Prop := Writes s h k i { word := encA 1 rd ra rb func, grp := .alu } rd v
    (b = 0 → 0 ≤ a.toInt → alu (.div h rd ra rb) 19 0x7FFFFFFF)
    ∧ (b = 0 → a.toInt < 0 → alu (.div h rd ra rb) 19 0x80000000)
    ∧ (b = 0 → alu (.divu h rd ra rb) 20 0xFFFFFFFF)
    ∧ (b = 0 → alu (.rem h rd ra rb) 21 a)
    ∧ (b = 0 → alu (.remu h rd ra rb) 22 a)
    ∧ (a = 0x80000000 → b = 0xFFFFFFFF → alu (.div h rd ra rb) 19 0x7FFFFFFF ∧ alu (.rem h rd ra rb) 21 0)
    ∧ (a = 0x80000000 → Writes s h k (.abs h rd ra) { word := encA 1 rd ra 0 27, grp := .alu } rd 0x7FFFFFFF)
    ∧ (∃ v, alu (.div h rd ra rb) 19 v) ∧ (∃ v, alu (.divu h rd ra rb) 20 v)
    ∧ (∃ v, alu (.rem h rd ra rb) 21 v) ∧ (∃ v, alu (.remu h rd ra rb) 22 v)

/-- R55: the immediate forms and the extended ALU. -/
def Obligations.ImmediatesAreExtendedAndApplied : Prop :=
  ∀ (s : State) (h : Hdr) (k : Nat) (rd ra : Reg) (imm : BitVec 14) (big : BitVec 20) (w : Word),
    let a := reg s k ra
    let i14 (i : Instr) (op5 : Nat) (v : Word) : Prop := Writes s h k i { word := encI op5 rd ra imm, grp := .alu } rd v
    let x32 (i : Instr) (ra : Reg) (func : Nat) (v : Word) : Prop :=
      Writes s h k i { word := encA 0b111000 rd ra 0 func, len := 8, grp := .alu } rd v
    i14 (.addi h rd ra imm) 0b00100 (a + BitVec.ofInt 32 imm.toInt)
    ∧ i14 (.andi h rd ra imm) 0b00101 (a &&& BitVec.ofNat 32 imm.toNat)
    ∧ i14 (.ori h rd ra imm) 0b00110 (a ||| BitVec.ofNat 32 imm.toNat)
    ∧ i14 (.xori h rd ra imm) 0b00111 (a ^^^ BitVec.ofNat 32 imm.toNat)
    ∧ Writes s h k (.li h rd big) { word := encL 0b0100 rd big, grp := .alu } rd (BitVec.ofInt 32 big.toInt)
    ∧ Writes s h k (.lui h rd big) { word := encL 0b0101 rd big, grp := .alu } rd (BitVec.ofNat 32 (big.toNat * 4096))
    ∧ x32 (.li32 h rd w) 0 0 w ∧ x32 (.addi32 h rd ra w) ra 1 (a + w) ∧ x32 (.andi32 h rd ra w) ra 2 (a &&& w)
    ∧ x32 (.ori32 h rd ra w) ra 3 (a ||| w) ∧ x32 (.xori32 h rd ra w) ra 4 (a ^^^ w)

/-- R56: the bit field instructions, bit by bit; `clz` and `ctz` by the bits they count. -/
def Obligations.BitFieldInstructionsComputeTheirResult : Prop :=
  ∀ (s : State) (h : Hdr) (k : Nat) (rd ra pos wm1 : Reg),
    let a := reg s k ra
    let d := reg s k rd
    let w := wm1.toNat + 1
    let dec (p wm op : Nat) (bad : Bool) : Dec :=
      { word := encF 5 [(rd.toNat, 18), (ra.toNat, 13), (p, 8), (op, 5), (wm, 0)], grp := .alu, bad := bad }
    (pos.toNat + w ≤ 32 →
      (∃ v, Writes s h k (.bext h rd ra pos wm1) (dec pos.toNat wm1.toNat 0 false) rd v
        ∧ ∀ j < 32, v.getLsbD j = (decide (j < w) && a.getLsbD (pos.toNat + j)))
      ∧ (∃ v, Writes s h k (.bexts h rd ra pos wm1) (dec pos.toNat wm1.toNat 1 false) rd v
        ∧ ∀ j < 32, v.getLsbD j = a.getLsbD (pos.toNat + min j wm1.toNat))
      ∧ (∃ v, Writes s h k (.bins h rd ra pos wm1) (dec pos.toNat wm1.toNat 2 false) rd v
        ∧ ∀ j < 32, v.getLsbD j =
            if pos.toNat ≤ j ∧ j < pos.toNat + w then a.getLsbD (j - pos.toNat) else d.getLsbD j))
    ∧ (∃ v, Writes s h k (.clz h rd ra) (dec 0 0 3 false) rd v
        ∧ v.toNat ≤ 32 ∧ a.toNat < 2 ^ (32 - v.toNat) ∧ (v.toNat < 32 → 2 ^ (31 - v.toNat) ≤ a.toNat))
    ∧ (∃ v, Writes s h k (.ctz h rd ra) (dec 0 0 4 false) rd v
        ∧ v.toNat ≤ 32 ∧ (∀ j < v.toNat, a.getLsbD j = false) ∧ (v.toNat < 32 → a.getLsbD v.toNat = true))
    ∧ Writes s h k (.popc h rd ra) (dec 0 0 5 false) rd
        (BitVec.ofNat 32 ((List.range 32).countP (fun j => a.getLsbD j)))
    ∧ (∃ v, Writes s h k (.brev h rd ra) (dec 0 0 6 false) rd v ∧ ∀ j < 32, v.getLsbD j = a.getLsbD (31 - j))
    ∧ (∃ v, Writes s h k (.bswap h rd ra) (dec 0 0 7 false) rd v
        ∧ ∀ j < 32, v.getLsbD j = a.getLsbD (8 * (3 - j / 8) + j % 8))

/-- R57 to R60: `fmul.q` and the accumulator instructions, where they do not trap. R58: the four rounding modes, on the quotient by 2^sh.
-/
def Obligations.FixedPointInstructionsRoundAndSaturate : Prop :=
  (∀ (s : State) (h : Hdr) (k : Nat) (rd ra rb : Reg) (acc : BitVec 3) (sh : BitVec 5) (mode w : BitVec 2) (t : Bool),
      let a := (reg s k ra).toInt
      let b := (reg s k rb).toInt
      let v := (rdA (getCtx s k) acc).toInt
      let clamp (x : Int) : Int := max (-2147483648) (min 2147483647 x)
      let round (x : Int) : Int := roundShift (modeOf mode) x sh.toNat
      let toAcc (i : Instr) (d : Dec) (x : Int) : Prop :=
        Takes s h k i d
          (setCtx (past s k 4) k (wrA (getCtx (past s k 4) k) acc
            (BitVec.ofInt 80 (max (-604462909807314587353088) (min 604462909807314587353087 x)))))
      let fdec (w : Word) : Dec := { word := w, grp := .fixed }
      let fmul := encA 2 rd ra rb (mode.toNat * 64 + bit t * 32 + sh.toNat)
      let accRd := encAcc rd.toNat (bit t) sh.toNat acc mode.toNat 4
      (t = false ∨ round (a * b) = clamp (round (a * b)) →
        Writes s h k (.fmulQ h rd ra rb mode t sh) (fdec fmul) rd (BitVec.ofInt 32 (clamp (round (a * b)))))
      ∧ (t = true → round (a * b) ≠ clamp (round (a * b)) →
        Traps s h k (.fmulQ h rd ra rb mode t sh) (fdec fmul) { cause := 5 })
      ∧ toAcc (.fmac h acc ra rb) (fdec (encAcc 0 ra.toNat rb.toNat acc 0 0)) (v + a * b)
      ∧ toAcc (.fmsc h acc ra rb) (fdec (encAcc 0 ra.toNat rb.toNat acc 0 1)) (v - a * b)
      ∧ toAcc (.accClr h acc) (fdec (encAcc 0 0 0 acc 0 2)) 0
      ∧ toAcc (.accLd h acc ra sh) (fdec (encAcc 0 ra.toNat sh.toNat acc 0 3)) (a * 2 ^ sh.toNat)
      ∧ (t = false ∨ round v = clamp (round v) →
        Writes s h k (.accRd h rd acc sh mode t) (fdec accRd) rd (BitVec.ofInt 32 (clamp (round v))))
      ∧ (t = true → round v ≠ clamp (round v) → Traps s h k (.accRd h rd acc sh mode t) (fdec accRd) { cause := 5 })
      ∧ (w ≠ 3 → Writes s h k (.accRdw h rd acc w) (fdec (encAcc rd.toNat 0 w.toNat acc 0 5)) rd
          (((rdA (getCtx s k) acc) >>> (32 * w.toNat)).setWidth 32))
      ∧ (w ≠ 3 → ∃ x : Acc, Takes s h k (.accWrw h acc ra w) (fdec (encAcc 0 ra.toNat w.toNat acc 0 6))
            (setCtx (past s k 4) k (wrA (getCtx (past s k 4) k) acc x))
          ∧ ∀ j < 80, x.getLsbD j =
              if 32 * w.toNat ≤ j ∧ j < 32 * w.toNat + 32 then (reg s k ra).getLsbD (j - 32 * w.toNat)
              else (rdA (getCtx s k) acc).getLsbD j))
  ∧ (∀ (x : Int) (sh : Nat),
      let q (m : BitVec 2) : Int := roundShift (modeOf m) x sh
      let p : Int := 2 ^ sh
      (q 0 * p ≤ x ∧ x < (q 0 + 1) * p)
      ∧ (2 * (x - q 1 * p) ≤ p ∧ -p ≤ 2 * (x - q 1 * p) ∧ (2 * (x - q 1 * p) = p → x < 0) ∧ (2 * (x - q 1 * p) = -p → 0 ≤ x))
      ∧ (2 * (x - q 2 * p) ≤ p ∧ -p ≤ 2 * (x - q 2 * p)
          ∧ ((2 * (x - q 2 * p) = p ∨ 2 * (x - q 2 * p) = -p) → q 2 % 2 = 0))
      ∧ ((0 ≤ x → q 3 * p ≤ x ∧ x < (q 3 + 1) * p) ∧ (x < 0 → x ≤ q 3 * p ∧ (q 3 - 1) * p < x)))

/-- R61: `cmp` and `cmpi` write pd by the combine mode from the condition. -/
def Obligations.ComparisonsWriteTheirPredicate : Prop :=
  ∀ (s : State) (h : Hdr) (k : Nat) (pd : PReg) (comb : BitVec 2) (ra rb : Reg) (imm : Word) (cond : BitVec 8),
    let a := reg s k ra
    let old := rdP (getCtx s k) pd
    let c (b : Word) : Bool :=
      [decide (a = b), decide (a ≠ b), decide (a.toInt < b.toInt), decide (b.toInt ≤ a.toInt), decide (a.toNat < b.toNat),
        decide (b.toNat ≤ a.toNat), decide (a &&& b ≠ 0), decide (a &&& b = 0)].getD cond.toNat false
    let new (b : Word) : Bool := [c b, old && c b, old || c b, !c b].getD comb.toNat false
    cond.toNat ≤ 7 →
      Takes s h k (.cmp h pd comb ra rb cond)
        { word := encF 4 [(pd.toNat, 20), (comb.toNat, 18), (ra.toNat, 13), (rb.toNat, 8), (cond.toNat, 0)], grp := .alu }
        (setPred (past s k 4) k pd (new (reg s k rb)))
      ∧ Takes s h k (.cmpi h pd comb ra imm cond)
        { word := encF 0b111001 [(pd.toNat, 20), (comb.toNat, 18), (ra.toNat, 13), (cond.toNat, 0)], len := 8, grp := .alu }
        (setPred (past s k 8) k pd (new imm))

/-- R62: branches and calls continue at their target; a target that is not a multiple of 4 traps ALIGN. -/
def Obligations.BranchesContinueAtTheirTarget : Prop :=
  ∀ (s : State) (h : Hdr) (k : Nat) (off : BitVec 20) (rd ra : Reg),
    let pc := (getCtx s k).pc
    let b (w : Word) : Dec := { word := w, grp := .branch }
    let near := pc + BitVec.ofInt 32 (4 * off.toInt)
    let far := reg s k ra
    let go (i : Instr) (w goal : Word) : Prop :=
      (goal.toNat % 4 = 0 → Takes s h k i (b w) (setPc (past s k 4) k goal))
      ∧ (goal.toNat % 4 ≠ 0 → Traps s h k i (b w) { cause := 2, addr := (homeOf s h.eng).1 + goal.toNat })
    let link (i : Instr) (w goal : Word) (r : Reg) : Prop :=
      (goal.toNat % 4 = 0 → Takes s h k i (b w) (setReg (setPc (past s k 4) k goal) k r (pc + 4)))
      ∧ (goal.toNat % 4 ≠ 0 → Traps s h k i (b w) { cause := 2, addr := (homeOf s h.eng).1 + goal.toNat })
    go (.br h off) (encB 0b011000 off) near ∧ link (.call h off) (encB 0b011001 off) near 31
    ∧ go (.jr h ra) (encA 6 0 ra 0 0) far ∧ link (.jalr h rd ra) (encA 6 rd ra 0 1) far rd

/-- R63, R64: near loads, little-endian; a byte or halfword is sign- or zero-extended, a doubleword fills a pair. R63, R64, R97: near
stores write the low bytes of rd, little-endian; a whole doubleword also gets a fresh code. The frame of the near stores: the registers of
every context but the pc, the configuration, and every byte of memory outside the stored ones stay; nothing but memory, its codes and that
pc may change (R63, R64). The memory laws behind R63: a word just written reads back, and a byte outside it reads as before, in ordinary
memory. -/
def Obligations.NearAccessesReadAndWriteTheHomeRegion : Prop :=
  (∀ (s : State) (h : Hdr) (k : Nat) (rd rb : Reg) (x : Bool) (off : BitVec 12),
      let ea (n : Nat) : Nat := (reg s k rb + BitVec.ofInt 32 (off.toInt * n)).toNat
      let byte (n j : Nat) : Byte := memByte s ((homeOf s h.eng).1 + ea n + j)
      let word (n j : Nat) : Word := byte n (j + 3) ++ byte n (j + 2) ++ byte n (j + 1) ++ byte n j
      let dec (op : Nat) (x : Bool) : Dec := { word := encM op rd rb x off, grp := .near }
      (Near s h.eng false (ea 1) 1 →
        Writes s h k (.ldB h rd rb x off) (dec 0b100000 x) rd
          (if x then (byte 1 0).signExtend 32 else (byte 1 0).setWidth 32))
      ∧ (Near s h.eng false (ea 2) 2 →
        Writes s h k (.ldH h rd rb x off) (dec 0b100001 x) rd
          (if x then (byte 2 1 ++ byte 2 0).signExtend 32 else (byte 2 1 ++ byte 2 0).setWidth 32))
      ∧ (Near s h.eng false (ea 4) 4 → Writes s h k (.ldW h rd rb off) (dec 0b100010 false) rd (word 4 0))
      ∧ (Near s h.eng false (ea 8) 8 → oddReg rd = false →
        Takes s h k (.ldD h rd rb off) (dec 0b100011 false)
          (setReg (setReg (past s k 4) k rd (word 8 0)) k (rd + 1) (word 8 4))))
  ∧ (∀ (s : State) (h : Hdr) (k : Nat) (rd rb : Reg) (off : BitVec 12),
      let ea (n : Nat) : Nat := (reg s k rb + BitVec.ofInt 32 (off.toInt * n)).toNat
      let at_ (n : Nat) : Nat := (homeOf s h.eng).1 + ea n
      let byte (r : Reg) (j : Nat) : Byte := (reg s k r).extractLsb' (8 * j) 8
      let put (s : State) (a : Nat) (bs : List Byte) : State := setBytes s a bs
      let dec (op : Nat) : Dec := { word := encM op rd rb false off, grp := .near }
      (Near s h.eng true (ea 1) 1 →
        Takes s h k (.stB h rd rb off) (dec 0b100100) (put (past s k 4) (at_ 1) [byte rd 0]))
      ∧ (Near s h.eng true (ea 2) 2 →
        Takes s h k (.stH h rd rb off) (dec 0b100101) (put (past s k 4) (at_ 2) [byte rd 0, byte rd 1]))
      ∧ (Near s h.eng true (ea 4) 4 →
        Takes s h k (.stW h rd rb off) (dec 0b100110) (put (past s k 4) (at_ 4) ((List.range 4).map (byte rd))))
      ∧ (Near s h.eng true (ea 8) 8 → oddReg rd = false →
        Takes s h k (.stD h rd rb off) (dec 0b100111)
          (put (eccFresh (past s k 4) (at_ 8)) (at_ 8) ((List.range 4).map (byte rd) ++ (List.range 4).map (byte (rd + 1))))))
  ∧ (∀ (s t : State) (h : Hdr) (k n : Nat) (rd rb : Reg) (off : BitVec 12) (i : Instr) (op : Nat),
      (i, n, op) ∈ [(Instr.stB h rd rb off, 1, 0b100100), (.stH h rd rb off, 2, 0b100101), (.stW h rd rb off, 4, 0b100110),
        (.stD h rd rb off, 8, 0b100111)] →
      (n = 8 → oddReg rd = false) →
      Runs s h k { word := encM op rd rb false off, grp := .near } →
      let ea : Nat := (reg s k rb + BitVec.ofInt 32 (off.toInt * n)).toNat
      Near s h.eng true ea n → exec i s = .next t →
        (∀ a, a < (homeOf s h.eng).1 + ea ∨ (homeOf s h.eng).1 + ea + n ≤ a → memByte t a = memByte s a)
        ∧ getCtx t k = { getCtx s k with pc := (getCtx s k).pc + 4 }
        ∧ (∀ j, j ≠ k → getCtx t j = getCtx s j)
        ∧ t = { s with mem := t.mem, ctxs := t.ctxs, pins := t.pins })
  ∧ (∀ (s : State) (a : Nat) (v : Word), 0x40000 ≤ a → (a + 4 ≤ 0x0E00000000 ∨ 0x0E00200000 ≤ a) →
      memW (setW s a v) a = v
      ∧ ∀ x, 0x40000 ≤ x → (x < 0x0E00000000 ∨ 0x0E00200000 ≤ x) → (x < a ∨ a + 4 ≤ x) → memByte (setW s a v) x = memByte s x)

/-- R65: far accesses use the 40-bit address in a pair; outside the process image they read and write memory. R24, R85, R94: a load of MGT
from another plane's memory waits for the owner's boundary, and so does a store there, which is done at once while the owner is stopped.
R65: a far address whose high register has a bit of [31:8] set receives an error response for an unmapped address, which traps BUS_ERROR.
R66: an atomic reads and writes the aligned home word at ra in one piece; rd takes the old word. R67: a misaligned halfword, word or
doubleword access, near or atomic, traps ALIGN. -/
def Obligations.FarAndAtomicAccessesActOnTheirAddress : Prop :=
  (∀ (s : State) (h : Hdr) (k : Nat) (r ra : Reg) (a : Nat),
      let dec (w : Word) : Dec := { word := w, grp := .far }
      let far (wr : Bool) (n : Nat) : Prop := Far s h.eng wr (reg s k ra) (reg s k (ra + 1)) n a
      let mine (n : Nat) : Prop := viaGate s h.eng a n = false
      let stw := dec (encA 0b101010 0 ra r 1)
      let std := dec (encA 0b101010 0 ra r 3)
      let waits (n func : Nat) : State := setCtx (past s k 4) k
        { getCtx (past s k 4) k with wait := .gate r.toNat a n (fullWord h (dec (encA 0b101010 r ra 0 func))) }
      let byGate (t : Nat) (i : Instr) (d : Dec) (bs : List Byte) : Prop :=
        let g : GateItem := { target := t, change := .store a bs }
        (unitStopped s (t / 64) = false → Takes s h k i d { past s k 4 with gate := s.gate ++ [g] })
        ∧ (unitStopped s (t / 64) = true → Takes s h k i d (gateDone (storeNow (past s k 4) a bs) g))
      oddReg ra = false →
        (far false 4 → mine 4 → Writes s h k (.ldF h r ra) (dec (encA 0b101010 r ra 0 0)) r (memW s a))
        ∧ (far false 4 → ¬ mine 4 → Takes s h k (.ldF h r ra) (dec (encA 0b101010 r ra 0 0)) (waits 4 0))
        ∧ (far true 4 → storeTarget h.eng a = none →
            Takes s h k (.stF h r ra) stw (slotStored (setW (past s k 4) a (reg s k r)) a))
        ∧ (oddReg r = false →
          (far false 8 → mine 8 → Takes s h k (.ldFd h r ra) (dec (encA 0b101010 r ra 0 2))
            (setReg (setReg (past s k 4) k r (memW s a)) k (r + 1) (memW s (a + 4))))
          ∧ (far false 8 → ¬ mine 8 → Takes s h k (.ldFd h r ra) (dec (encA 0b101010 r ra 0 2)) (waits 8 2))
          ∧ (far true 8 → storeTarget h.eng a = none → Takes s h k (.stFd h r ra) std
            (slotStored (setW (setW (eccFresh (past s k 4) a) a (reg s k r)) (a + 4) (reg s k (r + 1))) a)))
        ∧ (∀ t, storeTarget h.eng a = some t → s.gate.any (fun x => x.target == t) = false →
            (far true 4 → byGate t (.stF h r ra) stw (leBytes 4 (reg s k r).toNat))
            ∧ (oddReg r = false → far true 8 →
                byGate t (.stFd h r ra) std (leBytes 4 (reg s k r).toNat ++ leBytes 4 (reg s k (r + 1)).toNat))))
  ∧ (∀ (s : State) (h : Hdr) (k : Nat) (r ra : Reg),
      let hi := reg s k (ra + 1)
      let a := hi.toNat % 256 * 2 ^ 32 + (reg s k ra).toNat
      oddReg ra = false → 256 ≤ hi.toNat → a % 4 = 0 →
        Runs s h k { word := encA 0b101010 r ra 0 0, grp := .far } →
        Gives s (.ldF h r ra)
          (takeTrap (setPc (errorResp (past s k 4) (whoIs h.eng k) .read .unmapped a 0) k (getCtx s k).pc) h.eng k
            (getCtx s k).pc (fullWord h { word := encA 0b101010 r ra 0 0, grp := .far }) { cause := 3, resp := 1, addr := a }))
  ∧ (∀ (s : State) (h : Hdr) (k : Nat) (rd ra rb : Reg),
      let ea := (reg s k ra).toNat
      let a := (homeOf s h.eng).1 + ea
      let old := memW s a
      let b := reg s k rb
      let amo (i : Instr) (func : Nat) (new : Word) : Prop :=
        Takes s h k i { word := encA 0b101011 rd ra rb func, grp := .near } (setReg (setW (past s k 4) a new) k rd old)
      Near s h.eng true ea 4 →
        amo (.amoSwap h rd ra rb) 0 b ∧ amo (.amoAdd h rd ra rb) 1 (old + b) ∧ amo (.amoAnd h rd ra rb) 2 (old &&& b)
        ∧ amo (.amoOr h rd ra rb) 3 (old ||| b)
        ∧ amo (.amoMax h rd ra rb) 4 (if old.toInt < b.toInt then b else old)
        ∧ amo (.amoMin h rd ra rb) 5 (if old.toInt < b.toInt then old else b)
        ∧ amo (.amoCas h rd ra rb) 6 (if old = reg s k rd then b else old))
  ∧ (∀ (s : State) (h : Hdr) (k : Nat) (rd rb ra : Reg) (x : Bool) (off : BitVec 12),
      let ea (n : Nat) : Nat := (reg s k rb + BitVec.ofInt 32 (off.toInt * n)).toNat
      let bad (i : Instr) (op n : Nat) (x : Bool) : Prop :=
        ea n % n ≠ 0 → Traps s h k i { word := encM op rd rb x off, grp := .near }
          { cause := 2, addr := (homeOf s h.eng).1 + ea n }
      bad (.ldH h rd rb x off) 0b100001 2 x ∧ bad (.ldW h rd rb off) 0b100010 4 false ∧ bad (.stH h rd rb off) 0b100101 2 false
      ∧ bad (.stW h rd rb off) 0b100110 4 false
      ∧ (oddReg rd = false → bad (.ldD h rd rb off) 0b100011 8 false ∧ bad (.stD h rd rb off) 0b100111 8 false)
      ∧ ∀ i func, (i, func) ∈ [(Instr.amoSwap h rd ra rb, 0), (.amoAdd h rd ra rb, 1), (.amoAnd h rd ra rb, 2),
          (.amoOr h rd ra rb, 3), (.amoMax h rd ra rb, 4), (.amoMin h rd ra rb, 5), (.amoCas h rd ra rb, 6)] →
          (reg s k ra).toNat % 4 ≠ 0 →
          Traps s h k i { word := encA 0b101011 rd ra rb func, grp := .near }
            { cause := 2, addr := (homeOf s h.eng).1 + (reg s k ra).toNat })

/-- R68, R69, R324: what `pi.rd` gives: a force first, then the plane's view of the area. R68, R70, R325: `pi.wr` of a word or a pair. A
cycle core's word waits unsealed for the next seal, unless its address is forced; a data-plane engine's goes into its open set and the
live copy. `pi.sb` opens an empty set, and `pi.se` closes it into what the next freeze takes. -/
def Obligations.ProcessImageIsReadAndWrittenByPlane : Prop :=
  (∀ (s : State) (h : Hdr) (k : Nat) (rd rb : Reg) (x : Bool) (off : BitVec 12),
      let n : Nat := if x then 2 else 1
      let ea := (reg s k rb + BitVec.ofInt 32 (off.toInt * (4 * n : Nat))).toNat
      let view (i : Nat) : Word :=
        match forceAt s i with
        | some v => v
        | none =>
          if i < 0x20000 then
            (if planeOf (unitOf h.eng) = .data then Tbl.get 0 s.pi.live i else genWord s (readGen s h.eng k) i)
          else (ownWrite (ownBuf s h.eng k).1 (ownBuf s h.eng k).2 i).getD ((Tbl.find s.pi.prop i).getD (Tbl.get 0 s.pi.pub i))
      let dec : Dec := { word := encM 0b101000 rd rb x off, grp := .pi }
      ea % (4 * n) = 0 → ea + 4 * n ≤ 0x100000 → Tbl.get 0 s.mem.ecc ((0x0200000000 + ea) / 8) = 0 →
        (x = false → Writes s h k (.piRd h rd rb x off) dec rd (view (ea / 4)))
        ∧ (x = true → oddReg rd = false →
          Takes s h k (.piRd h rd rb x off) dec
            (setReg (setReg (past s k 4) k rd (view (ea / 4))) k (rd + 1) (view (ea / 4 + 1)))))
  ∧ (∀ (s : State) (h : Hdr) (k : Nat) (r rb : Reg) (off : BitVec 12),
      let ea := (reg s k rb + BitVec.ofInt 32 (off.toInt * 4)).toNat
      let i := ea / 4
      let v := reg s k r
      let ed := (reg s k rb + BitVec.ofInt 32 (off.toInt * 8)).toNat
      let dec : Dec := { word := encM 0b101001 r rb false off, grp := .pi }
      let dec2 : Dec := { word := encM 0b101001 r rb true off, grp := .pi }
      (∀ n, h.eng = .cyc n → ea % 4 = 0 → 0x80000 ≤ ea → ea < 0x100000 →
        (forceAt s i ≠ none → Takes s h k (.piWr h r rb false off) dec (past s k 4))
        ∧ (forceAt s i = none → (getCore s n.val).wbuf.length < 8192 →
          ∃ t, Takes s h k (.piWr h r rb false off) dec t ∧ ownWrite (getCore t n.val).wbuf (k % 16) i = some v
            ∧ ∀ j, j ≠ i → ownWrite (getCore t n.val).wbuf (k % 16) j = ownWrite (getCore s n.val).wbuf (k % 16) j))
      ∧ (∀ n, h.eng = .cyc n → oddReg r = false → ed % 8 = 0 → 0x80000 ≤ ed → ed < 0x100000 → forceAt s (ed / 4) = none →
          forceAt s (ed / 4 + 1) = none → (getCore s n.val).wbuf.length + 2 ≤ 8192 →
          ∃ t, Takes s h k (.piWr h r rb true off) dec2 t ∧ ownWrite (getCore t n.val).wbuf (k % 16) (ed / 4) = some v
            ∧ ownWrite (getCore t n.val).wbuf (k % 16) (ed / 4 + 1) = some (reg s k (r + 1)))
      ∧ (∀ set, planeOf (unitOf h.eng) = .data → Tbl.find s.pi.open_ k = some set →
          (ea % 4 = 0 → ea < 0x100000 → Tbl.get 0 s.mem.ecc ((0x0200000000 + ea) / 8) = 0 →
            ∃ t, Takes s h k (.piWr h r rb false off) dec t ∧ Tbl.get 0 t.pi.live i = v
              ∧ Tbl.find t.pi.open_ k = some (Tbl.ins set i v) ∧ t.pi.done = s.pi.done)
          ∧ (oddReg r = false → ed % 8 = 0 → ed < 0x100000 →
            ∃ t, Takes s h k (.piWr h r rb true off) dec2 t ∧ Tbl.get 0 t.pi.live (ed / 4) = v
              ∧ Tbl.get 0 t.pi.live (ed / 4 + 1) = reg s k (r + 1) ∧ t.pi.done = s.pi.done))
      ∧ (Tbl.find s.pi.open_ k = none → ∃ t, Takes s h k (.piSb h) { word := encA 0b110101 0 0 0 6, grp := .set } t
          ∧ Tbl.find t.pi.open_ k = some [] ∧ t.pi.live = s.pi.live ∧ t.pi.done = s.pi.done)
      ∧ (∀ set, Tbl.find s.pi.open_ k = some set →
          ∃ t, Takes s h k (.piSe h) { word := encA 0b110101 0 0 0 7, grp := .set } t
          ∧ Tbl.find t.pi.open_ k = none ∧ t.pi.done = Tbl.paste 0 s.pi.done 0 set)
      ∧ (Tbl.find s.pi.open_ k = none → Traps s h k (.piSe h) { word := encA 0b110101 0 0 0 7, grp := .set } { cause := 8 }))

/-- R71, R72: an edge instruction gives the edge and stores its input; a pending slot gives no edge (R354). R75: `slot.rd` and `slot.wr`.
R73: the timers. `now` is the tick of the cycle's release. R74: the counters. -/
def Obligations.EdgesTimersAndCountersFollowTheirInput : Prop :=
  (∀ (s : State) (h : Hdr) (k : Nat) (pd : PReg) (ra : Reg) (slot : BitVec 14) (falling : Bool),
      let inp := decide (reg s k ra ≠ 0)
      let e := Tbl.get {} (poolOf s h.eng).edges slot.toNat
      let i : Instr := if falling then .edgF h pd ra slot else .edgR h pd ra slot
      let dec : Dec := { word := encF 0b101100 [(pd.toNat, 20), (bit falling, 19), (ra.toNat, 14), (slot.toNat, 0)], grp := .slot }
      (slotOk s h.eng .edge slot.toNat = true →
        ∃ t, Takes s h k i dec (setPred t k pd
            (if e.pending then false else if falling then e.prev && !inp else inp && !e.prev))
          ∧ Tbl.get {} (poolOf t h.eng).edges slot.toNat = { prev := inp }
          ∧ (∀ j, j ≠ slot.toNat → Tbl.get {} (poolOf t h.eng).edges j = Tbl.get {} (poolOf s h.eng).edges j)
          ∧ t.ctxs = (past s k 4).ctxs)
      ∧ (slotOk s h.eng .edge slot.toNat = false → Traps s h k i dec { cause := 6 }))
  ∧ (∀ (s : State) (h : Hdr) (k : Nat) (rd : Reg) (kind : BitVec 2) (slot : BitVec 14),
      let n := slot.toNat
      let p := poolOf s h.eng
      let t := Tbl.get {} p.timers n
      let now := slotNow s h.eng k
      let read (v : Word) : Prop := Writes s h k (.slotRd h rd kind slot) { word := encSlot rd false kind slot, grp := .slot } rd v
      let write (q : State → Prop) : Prop :=
        ∃ z, Takes s h k (.slotWr h rd kind slot) { word := encSlot rd true kind slot, grp := .slot } z ∧ q z
          ∧ z.ctxs = (past s k 4).ctxs
      let v := reg s k rd
      (kind = 0 → n < 8192 → slotOk s h.eng .timer n = true →
        read (Word.ofN (if t.run then min t.pt (since now t.start) else t.et))
        ∧ write (fun z => Tbl.get {} (poolOf z h.eng).timers n
            = { t with et := min v.toNat t.pt, start := since now (min v.toNat t.pt) }))
      ∧ (kind = 1 → n < 8192 → slotOk s h.eng .timer n = true → read (Word.ofN (bit t.q + 2 * bit t.run + 4 * bit t.prev)))
      ∧ (kind = 2 → n < 4096 → slotOk s h.eng .counter n = true →
        read (Tbl.get {} p.counters n).cv
        ∧ write (fun z => Tbl.get {} (poolOf z h.eng).counters n = { Tbl.get {} p.counters n with cv := v }))
      ∧ (kind = 3 → slotOk s h.eng .edge n = true →
        read (Word.ofN (bit ((Tbl.get {} p.edges n).prev && !(Tbl.get {} p.edges n).pending)))
        ∧ write (fun z => Tbl.get {} (poolOf z h.eng).edges n = { prev := decide (v ≠ 0) })))
  ∧ (∀ (s : State) (h : Hdr) (k : Nat) (pd pin : PReg) (slot : BitVec 13) (w2 : Word) (src : Bool),
      let t := Tbl.get {} (poolOf s h.eng).timers slot.toNat
      let inp := rdP (getCtx s k) pin
      let pt := if src then (reg s k (w2.setWidth 5)).toNat else w2.toNat
      let now := slotNow s h.eng k
      let run (i : Instr) (kind : Nat) (u : Timer) : Prop :=
        ∃ z, Takes s h k i
            { word := encF 0b111010 [(pd.toNat, 20), (pin.toNat, 17), (kind, 15), (bit src, 14), (slot.toNat, 0)], len := 8
              grp := .slot }
            (setPred z k pd u.q)
          ∧ Tbl.get {} (poolOf z h.eng).timers slot.toNat = { u with prev := inp, pt := pt } ∧ z.ctxs = (past s k 8).ctxs
      let ton := Instr.ton h pd pin src slot w2
      let tof := Instr.tof h pd pin src slot w2
      let tp := Instr.tp h pd pin src slot w2
      let et (start : Nat) : Nat := min pt (since now start)
      slotOk s h.eng .timer slot.toNat = true → (src = true → w2.toNat < 32) →
        (inp = false → run ton 0 { t with run := false, et := 0, q := false })
        ∧ (inp = true → t.prev = false → run ton 0 { t with start := now, run := true, et := et now, q := decide (pt ≤ et now) })
        ∧ (inp = true → t.prev = true → run ton 0 { t with et := et t.start, q := decide (pt ≤ et t.start) })
        ∧ (inp = true → run tof 1 { t with run := false, et := 0, q := true })
        ∧ (inp = false → t.prev = true →
            run tof 1 { t with start := now, run := decide (0 < pt), et := 0, q := t.q && decide (0 < pt) })
        ∧ (inp = false → t.prev = false → t.run = false → run tof 1 t)
        ∧ (inp = false → t.prev = false → t.run = true →
            run tof 1 (if pt ≤ et t.start then { t with et := et t.start, q := false, run := false } else { t with et := et t.start }))
        ∧ (inp = true → t.prev = false → t.run = false →
            run tp 2 { t with start := now, run := decide (0 < pt), q := decide (0 < pt), et := 0 })
        ∧ (t.run = true → et t.start < pt → run tp 2 { t with et := et t.start })
        ∧ (t.run = true → pt ≤ et t.start →
            run tp 2 { t with et := if inp then et t.start else 0, run := false, q := false })
        ∧ (inp = false → t.run = false → run tp 2 { t with et := 0 })
        ∧ (inp = true → t.prev = true → t.run = false → run tp 2 t))
  ∧ (∀ (s : State) (h : Hdr) (k : Nat) (pd pin pr : PReg) (slot : BitVec 12) (pv : Word),
      let c := Tbl.get {} (poolOf s h.eng).counters slot.toNat
      let inp := rdP (getCtx s k) pin
      let reset := rdP (getCtx s k) pr
      let run (i : Instr) (kind : Nat) (cv : Word) (q : Bool) : Prop :=
        ∃ z, Takes s h k i
            { word := encF 0b111011 [(pd.toNat, 20), (pin.toNat, 17), (pr.toNat, 14), (kind, 12), (slot.toNat, 0)], len := 8
              grp := .slot }
            (setPred z k pd q)
          ∧ Tbl.get {} (poolOf z h.eng).counters slot.toNat = { cv := cv, prev := inp } ∧ z.ctxs = (past s k 8).ctxs
      let up := if reset then 0 else if inp && !c.prev then BitVec.ofInt 32 (min 2147483647 (c.cv.toInt + 1)) else c.cv
      let down := if reset then pv else if inp && !c.prev then BitVec.ofInt 32 (max (-2147483648) (c.cv.toInt - 1)) else c.cv
      slotOk s h.eng .counter slot.toNat = true →
        run (.ctu h pd pin pr slot pv) 0 up (decide (pv.toInt ≤ up.toInt))
        ∧ run (.ctd h pd pin pr slot pv) 1 down (decide (down.toInt ≤ 0)))

/-- R76, R77: `sig` of a number in the plane's block makes the event pending in every engine; another number traps EVENT_PERM. R78: `wait`
ends at once when the event is pending or the timeout is 0, and suspends otherwise; `waitany` the same with a mask; `evt.clr` clears the
bit. R78: a suspended context resumes when an event it waits for is pending, taking it, or when its timeout has passed, and not before; a
task of a core only while its core runs, SAF only inside its cycle. -/
def Obligations.EventsAreSignalledAwaitedAndTaken : Prop :=
  (∀ (s : State) (h : Hdr) (k : Nat) (n : BitVec 10),
      let dec : Dec := { word := encEvt 0 0 0 n.toNat, grp := .sig }
      let mine : Bool :=
        match planeOf (unitOf h.eng) with
        | .control => decide (0x380 ≤ n.toNat ∧ n.toNat ≤ 0x3BF)
        | .data => decide (0x3C0 ≤ n.toNat ∧ n.toNat ≤ 0x3DF)
        | .management => decide (0x3E0 ≤ n.toNat ∧ n.toNat ≤ 0x3FF)
      (mine = true → ∃ t, Takes s h k (.sig h n) dec t ∧ (∀ e < 32, evtPending t e n.toNat = true)
        ∧ t.ctxs = (past s k 4).ctxs ∧ t.mem = s.mem)
      ∧ (mine = false → Traps s h k (.sig h n) dec { cause := 7 }))
  ∧ (∀ (s : State) (h : Hdr) (k : Nat) (pd : PReg) (n : BitVec 10) (g rm rt : Reg),
      let e := evtOwner h.eng
      let timeout := reg s k rt
      let until_ : Option Nat := if timeout = 0xFFFFFFFF then none else some (s.clk.tick.toNat + timeout.toNat)
      let wdec : Dec := { word := encEvt pd 1 rt n.toNat, grp := .wait }
      let adec : Dec := { word := encEvt pd 2 rt (g.toNat * 32 + rm.toNat), grp := .wait }
      let bits := groupBits s e g.toNat (reg s k rm)
      (evtPending s e n.toNat = true →
        Takes s h k (.wait h pd n rt) wdec (setPred (suspend (evtClear (past s k 4) e n.toNat) k .none) k pd true))
      ∧ (evtPending s e n.toNat = false → timeout = 0 →
        Takes s h k (.wait h pd n rt) wdec (setPred (suspend (past s k 4) k .none) k pd false))
      ∧ (evtPending s e n.toNat = false → timeout ≠ 0 →
        Takes s h k (.wait h pd n rt) wdec (suspend (past s k 4) k (.event pd.toNat n.toNat until_)))
      ∧ (bits ≠ 0 ∨ timeout = 0 →
        Takes s h k (.waitany h pd g rm rt) adec
          (setPred (setReg (suspend (consumeGroup (past s k 4) e g.toNat bits) k .none) k rm bits) k pd (decide (bits ≠ 0))))
      ∧ (bits = 0 → timeout ≠ 0 →
        Takes s h k (.waitany h pd g rm rt) adec
          (suspend (past s k 4) k (.group pd.toNat g.toNat rm.toNat (reg s k rm) until_)))
      ∧ (∃ t, Takes s h k (.evtClr h n) { word := encEvt 0 3 0 n.toNat, grp := .wait } t
          ∧ evtPending t e n.toNat = false ∧ (∀ m, m ≠ n.toNat → ∀ j, evtPending t j m = evtPending s j m)
          ∧ ∀ j < 32, j ≠ e → evtPending t j n.toNat = evtPending s j n.toNat))
  ∧ (∀ (s : State) (task : BitVec 4) (eng : Eng) (pd n g rm : Nat) (mask : Word) (d : Option Nat),
      let k := match eng with | .cyc n => taskCtx s n.val task.toNat | e => soloCtx e
      let e := evtOwner eng
      let c := getCtx s k
      let bits := groupBits s e g mask
      let due : Prop := ∃ t, d = some t ∧ t ≤ s.clk.tick.toNat
      s.pwr.asleep = false → c.live = true → (∀ n, eng = .cyc n → (getCore s n.val).mode = .running) →
      (eng = .saf → s.saf.inCycle = true) →
        (c.wait = .event pd n d →
          (evtPending s e n = true →
            Gives s (.waitResume eng task) (setPred (suspend (evtClear s e n) k .none) k (BitVec.ofNat 3 pd) true))
          ∧ (evtPending s e n = false → due →
            Gives s (.waitResume eng task) (setPred (suspend s k .none) k (BitVec.ofNat 3 pd) false))
          ∧ (evtPending s e n = false → ¬ due → Gives s (.waitResume eng task) s))
        ∧ (c.wait = .group pd g rm mask d →
          (bits ≠ 0 ∨ due →
            Gives s (.waitResume eng task)
              (setPred (setReg (suspend (consumeGroup s e g bits) k .none) k (BitVec.ofNat 5 rm) bits) k (BitVec.ofNat 3 pd)
                (decide (bits ≠ 0))))
          ∧ (bits = 0 → ¬ due → Gives s (.waitResume eng task) s)))

/-- R43, R82: network time and the special registers; reading tk or op latches its high part. R86: `nop`, `trap`, `tret`, `p.rd` and
`p.wr`. R86: `halt` stops its engine: a core stops with its event 1, ASM with event 328, a sequencer with event 277 and HALTED, SAF enters
the safe state with cause HALT. -/
def Obligations.SystemAndTimeInstructionsAct : Prop :=
  (∀ (s : State) (h : Hdr) (k : Nat) (rd : Reg) (sel : BitVec 3),
      let dec (func : Nat) (rb : Reg) : Dec := { word := encA 0b110011 rd 0 rb func, grp := .time }
      let c := getCtx s k
      (oddReg rd = false → ∃ z, Takes s h k (.timeRd h rd) (dec 0 0) z
        ∧ getCtx z k = { wrG (wrG (getCtx (past s k 4) k) rd (Word.ofN s.time.ns)) (rd + 1) (Word.ofN s.time.sec) with
            secHi := Word.ofN (s.time.sec / 65536) })
      ∧ Writes s h k (.timeRdh h rd) (dec 1 0) rd ((c.secHi >>> 16))
      ∧ (let read (v : Word) : Prop := Writes s h k (.srRd h rd sel) (dec 2 (sel.setWidth 5)) rd v
         (sel = 1 → read (match h.eng with | .cyc n => (getTask s n.val (k % 16)).cyc | .saf => s.saf.cyc | _ => 0))
         ∧ (sel = 2 → read s.twin.ep) ∧ (sel = 4 → read (c.opHi.setWidth 32)) ∧ (sel = 5 → read s.clk.pcc)
         ∧ (sel = 6 → read (c.tkHi.setWidth 32))
         ∧ (sel = 0 → Takes s h k (.srRd h rd sel) (dec 2 (sel.setWidth 5))
            (setReg (setCtx (past s k 4) k { getCtx (past s k 4) k with tkHi := (s.clk.tick >>> 32).setWidth 16 }) k rd
              (s.clk.tick.setWidth 32)))
         ∧ (sel = 3 → Takes s h k (.srRd h rd sel) (dec 2 (sel.setWidth 5))
            (setReg (setCtx (past s k 4) k { getCtx (past s k 4) k with opHi := (s.clk.opMs >>> 32).setWidth 16 }) k rd
              (s.clk.opMs.setWidth 32)))))
  ∧ (∀ (s : State) (h : Hdr) (k : Nat) (r : Reg) (code : BitVec 10) (skips : Bool),
      let sys (rd ra : Reg) (func : Nat) : Dec := { word := encA 0b110101 rd ra 0 func, grp := .sys }
      let base := (homeOf s h.eng).1
      let back := memW s (base + 0x44) +
        (if skips then (if 0b111000 ≤ (memW s (base + 0x50)).field 26 6 ∧ (memW s (base + 0x50)).field 26 6 ≤ 0b111011 then 8 else 4) else 0)
      let tret : Dec := { word := encF 0b110101 [(bit skips, 8), (5, 0)], grp := .sys }
      Takes s h k (.nop h) (sys 0 0 0) (past s k 4)
      ∧ Traps s h k (.trap h code) { word := encF 0b110101 [(code.toNat, 8), (4, 0)], grp := .sys } { cause := 9, soft := code.toNat }
      ∧ ((getCtx s k).inHandler = false → Traps s h k (.tret h skips) tret { cause := 1 })
      ∧ ((getCtx s k).inHandler = true → Near s h.eng false 0x44 4 → Near s h.eng false 0x50 4 → back.toNat % 4 = 0 →
          Takes s h k (.tret h skips) tret (setCtx (past s k 4) k { getCtx s k with pc := back, inHandler := false }))
      ∧ Writes s h k (.pRd h r) (sys r 0 8) r ((getCtx s k).p.setWidth 32 ||| 1)
      ∧ ∃ t, Takes s h k (.pWr h r) (sys 0 r 9) t
          ∧ ∀ p : PReg, p ≠ 0 → rdP (getCtx t k) p = (reg s k r).getLsbD p.toNat)
  ∧ (∀ (s : State) (h : Hdr) (k : Nat),
      let dec : Dec := { word := encA 0b110101 0 0 0 3, grp := .sys }
      ∃ z, Takes s h k (.halt h) dec z
        ∧ (∀ n, h.eng = .cyc n → Tbl.find s.cfg.pend (4 + n.val) = none → (getCore z n.val).mode = .stopped ∧ fBit z (4 + n.val) 1 0 = false
            ∧ (getCore z n.val).wbuf = (getCore s n.val).wbuf.filter (fun w => w.sealedAt.isSome)
            ∧ evtPending z (24 + n.val) (64 + 16 * n.val + 1) = true)
        ∧ (h.eng = .asm → (getCtx z 3).live = false ∧ evtPending z 0 328 = true)
        ∧ (∀ n, h.eng = .afe n → Tbl.find s.cfg.pend 0x11 = none → gateFind s (0x11 * 64 + n.val) = none →
            evtPending z 0 277 = true ∧ (getCtx z (16 + n.val)).live = false)
        ∧ (h.eng = .saf → s.saf.safe = false → z.saf.safe = true ∧ z.saf.cause = 3 ∧ (settle s z).pins.so = 0)
        ∧ (∀ n i, h.eng = .cle n → slotOf s n.val = some i → (getSlot z i).run = .idle)
        ∧ (h.eng = .mgt → (getCtx z 0).live = false) ∧ (h.eng = .mgtJob → (getCtx z 1).live = false))

/-- R89, R91: a trap on MGT outside its handler, with no access refused, writes the trap record at home offset 0x40 and goes on at 0x100
in the handler; the trapping instruction has no other effect on its registers. R92: a trap inside the handler of MGT writes no trap
record; the engine stops. -/
def Obligations.TrapsEnterTheHandlerOrStop : Prop :=
  (∀ (s : State) (k : Nat) (pc0 w : Word) (t : Trap),
      (getCtx s k).inHandler = false → t.addr < 2 ^ 40 →
        let s' := takeTrap s .mgt k pc0 w t
        let base := 0x0010000040
        getCtx s' k = { getCtx s k with pc := 0x100, inHandler := true }
        ∧ memW s' base = Word.ofN (t.cause + t.resp * 256 + t.soft % 1024 * 65536)
        ∧ memW s' (base + 4) = pc0 ∧ memW s' (base + 8) = Word.ofN t.addr
        ∧ memW s' (base + 12) = Word.ofN (t.addr / 4294967296)
        ∧ memW s' (base + 16) = w ∧ memW s' (base + 20) = 0 ∧ memW s' (base + 24) = s.clk.tick.setWidth 32
        ∧ memW s' (base + 28) = 0
        ∧ (∀ a, 0x40000 ≤ a → a < 0x0C00000000 → (a < base ∨ base + 32 ≤ a) → memByte s' a = memByte s a))
  ∧ (∀ (s : State) (pc0 w : Word) (t : Trap),
      (getCtx s 0).inHandler = true →
        let s' := takeTrap s .mgt 0 pc0 w t
        getCtx s' 0 = { getCtx s 0 with live := false } ∧ s'.mem = s.mem)

/-- R50: an instruction whose predicate is false moves the pc on and has no other effect, whatever it is; shown for instructions of nine
groups. R51, R88, R90: decoding comes before the predicate: a non-zero reserved bit or an instruction outside the engine's subset traps
ILLEGAL whatever the predicate's value. R47: so does a reserved major opcode. -/
def Obligations.PredicatesAndIllegalWordsAreJudgedFirst : Prop :=
  (∀ (s : State) (h : Hdr) (k : Nat) (d : Dec) (i : Instr) (rd ra rb : Reg) (pd : PReg) (n : BitVec 10) (off : BitVec 12)
      (slot : BitVec 14) (code : BitVec 10),
      (i, d) ∈ [(Instr.add h rd ra rb, ({ word := encA 1 rd ra rb 0, grp := .alu } : Dec)),
        (.stW h rd rb off, { word := encM 0b100110 rd rb false off, grp := .near }),
        (.amoSwap h rd ra rb, { word := encA 0b101011 rd ra rb 0, grp := .near }),
        (.piWr h rd rb false off, { word := encM 0b101001 rd rb false off, grp := .pi }),
        (.edgR h pd ra slot, { word := encF 0b101100 [(pd.toNat, 20), (bit false, 19), (ra.toNat, 14), (slot.toNat, 0)], grp := .slot }),
        (.sig h n, { word := encEvt 0 0 0 n.toNat, grp := .sig }),
        (.wait h pd n rb, { word := encEvt pd 1 rb n.toNat, grp := .wait }),
        (.halt h, { word := encA 0b110101 0 0 0 3, grp := .sys }),
        (.trap h code, { word := encF 0b110101 [(code.toNat, 8), (4, 0)], grp := .sys })] →
      engReady s h.eng = some k → (getCtx s k).pc.toNat + 4 ≤ (homeOf s h.eng).2 →
      Tbl.get 0 s.mem.ecc (((homeOf s h.eng).1 + (getCtx s k).pc.toNat) / 8) = 0 → h.rsv = 0 → h.op = none →
      inSubset d.grp h.eng = true →
      rdP (getCtx s k) h.pr = false →
        Gives s i (past s k 4))
  ∧ (∀ (s : State) (h : Hdr) (k : Nat) (rd ra rb : Reg) (slot : BitVec 14) (pd : PReg),
      engReady s h.eng = some k → (getCtx s k).pc.toNat + 4 ≤ (homeOf s h.eng).2 →
      Tbl.get 0 s.mem.ecc (((homeOf s h.eng).1 + (getCtx s k).pc.toNat) / 8) = 0 →
        let illegal (i : Instr) (d : Dec) : Prop :=
          Gives s i (takeTrap (setPc s k (getCtx s k).pc) h.eng k (getCtx s k).pc (fullWord h d) { cause := 1 })
        (h.rsv ≠ 0 → illegal (.add h rd ra rb) { word := encA 1 rd ra rb 0, grp := .alu })
        ∧ (∀ o, h.op = some o → opcodeListed h.eng o.toNat = false →
            illegal (.add h rd ra rb) { word := encA 1 rd ra rb 0, grp := .alu })
        ∧ (h.eng ≠ .mgt → h.eng ≠ .mgtJob → illegal (.sleep h rd) { word := encA 0b110101 rd 0 0 2, grp := .sleep })
        ∧ ((∀ n, h.eng ≠ .cyc n) → h.eng ≠ .saf → illegal (.edgR h pd ra slot)
            { word := encF 0b101100 [(pd.toNat, 20), (bit false, 19), (ra.toNat, 14), (slot.toNat, 0)], grp := .slot }))

/-- R79: a mailbox holds up to eight records of 16 bytes, first in, first out; `msg.send` to a full one and `msg.recv` from an empty one
write false. A core receives from the mailboxes of the bank that it runs, and from another it receives PROTECTED; on MGT both receive
WRONG_PLANE. R460, R461: `msg.send` to a free transmit buffer puts the frame record there and makes it pending, and writes false while the
buffer is pending or the controller only listens; `msg.recv` gives the record of a finished transmit buffer, or the oldest frame of a FIFO
with its overrun bit, and writes false where there is none. -/
def Obligations.MessagesAreFirstInFirstOut : Prop :=
  (∀ (s : State) (h : Hdr) (k : Nat) (pd : PReg) (ra : Reg) (target : BitVec 11) (core : Fin 8) (l : List (List Byte)) (r : List Byte),
      let t := target.toNat
      let ea := (reg s k ra).toNat
      let a := (homeOf s h.eng).1 + ea
      let dec (dir : Nat) : Dec := { word := encF 0b110001 [(pd.toNat, 20), (dir, 19), (ra.toNat, 14), (t, 0)], grp := .msg }
      let send := Instr.msgSend h pd ra target
      let recv := Instr.msgRecv h pd ra target
      let refused (i : Instr) (d : Dec) (kd : Kind) (c : Cause) : Prop :=
        Runs s h k d → Gives s i (takeTrap (setPc (errorResp (past s k 4) (whoIs h.eng k) kd c 0 0) k (getCtx s k).pc) h.eng k
          (getCtx s k).pc (fullWord h d) { cause := 3, resp := c.code, addr := 0 })
      (h.eng = .cyc core → t < 0x80 → RecordAt s h.eng ea 16 →
        ((mail s t).length < 8 → ∃ z, Takes s h k send (dec 0) z ∧ mail z t = mail s t ++ [memBytes s a 16]
          ∧ rdP (getCtx z k) pd = true ∧ (∀ m, m ≠ t → mail z m = mail s m) ∧ z.mem = s.mem)
        ∧ (8 ≤ (mail s t).length → Takes s h k send (dec 0) (setPred (past s k 4) k pd false))
        ∧ (coreBank s core.val = t / 16 → mail s t = r :: l → r.length = 16 →
          ∃ z, Takes s h k recv (dec 1) z ∧ mail z t = l ∧ memBytes z a 16 = r ∧ rdP (getCtx z k) pd = true)
        ∧ (coreBank s core.val = t / 16 → mail s t = [] → Takes s h k recv (dec 1) (setPred (past s k 4) k pd false))
        ∧ (coreBank s core.val ≠ t / 16 → refused recv (dec 1) .read .prot))
      ∧ (h.eng = .mgt ∨ h.eng = .mgtJob → t < 0x80 ∨ 0x400 ≤ t → ea % 4 = 0 →
        refused send (dec 0) .write .wrongPlane ∧ refused recv (dec 1) .read .wrongPlane))
  ∧ (∀ (s : State) (h : Hdr) (k : Nat) (pd : PReg) (ra : Reg) (target : BitVec 11) (core : Fin 8) (q : Nat) (tl : List Nat),
      let c := (target.toNat - 0x400) / 128
      let b := (target.toNat - 0x400) % 128
      let ea := (reg s k ra).toNat
      let a := (homeOf s h.eng).1 + ea
      let dec (dir : Nat) : Dec := { word := encF 0b110001 [(pd.toNat, 20), (dir, 19), (ra.toNat, 14), (target.toNat, 0)], grp := .msg }
      let send := Instr.msgSend h pd ra target
      let recv := Instr.msgRecv h pd ra target
      let x := getCan s c
      let clean (b : Nat) : Prop := CleanAt s (canBuf c b) 80
      let false_ (i : Instr) (d : Dec) : Prop := Takes s h k i d (setPred (past s k 4) k pd false)
      h.eng = .cyc core → 0x400 ≤ target.toNat → RecordAt s h.eng ea 80 → unitOn s (canUnit c) = true →
        (isTxBuf s c b = true → sendRecordOk (memWords s a 20) = true →
          (memW s (a + 4)).tst 29 = false ∨ fBit s (canUnit c) 2 2 = true →
          (txPending s c b = false → canListen s c = false →
            ∃ z, Takes s h k send (dec 0) z ∧ txPending z c b = true ∧ rdP (getCtx z k) pd = true
              ∧ memWords z (canBuf c b) 20 = memWords s a 20)
          ∧ (txPending s c b = true ∨ canListen s c = true → false_ send (dec 0)))
        ∧ (isTxBuf s c b = true →
          (txPending s c b = false → b ∈ x.outcome → clean b →
            ∃ z, Takes s h k recv (dec 1) z ∧ memWords z a 20 = memWords s (canBuf c b) 20
              ∧ b ∉ (getCan z c).outcome ∧ rdP (getCtx z k) pd = true)
          ∧ (txPending s c b = true ∨ b ∉ x.outcome → false_ recv (dec 1)))
        ∧ (isTxBuf s c b = false →
          (Tbl.find x.fifo b = some (q :: tl) → q < 128 → clean q →
            ∃ z, Takes s h k recv (dec 1) z ∧ rdP (getCtx z k) pd = true ∧ (Tbl.find (getCan z c).fifo b).getD [] = tl
              ∧ memWords z a 20 = (memWords s (canBuf c q) 20).set 1
                  ((memW s (canBuf c q + 4)).setField 8 8 (bit (x.ovr.contains b))))
          ∧ ((Tbl.find x.fifo b).getD [] = [] → false_ recv (dec 1))))

/-- R80, R81: posting, polling and cancelling jobs. A cycle core's request waits for the Meridian, ASM's enters the queue, MGT's goes
through the gate. -/
def Obligations.JobsArePostedPolledAndCancelled : Prop :=
  ∀ (s : State) (h : Hdr) (k : Nat) (rd ra : Reg) (j : Job),
    let ea := (reg s k ra).toNat
    let a := (homeOf s h.eng).1 + ea
    let hd := (reg s k ra).toNat
    let post := Instr.jobPost h rd ra
    let dec (func : Nat) (rd : Reg) : Dec := { word := encA 0b110010 rd ra 0 func, grp := .job }
    (RecordAt s h.eng ea 48 →
      (∀ n, h.eng = .cyc n → (s.solv.reqs.filter (fun x => (getJob s x).any (·.poster == 4 + n.val))).length < 16 →
        ∃ z new, Takes s h k post (dec 0 rd) z ∧ z.solv.reqs = s.solv.reqs ++ [new] ∧ (rd ≠ 0 → reg z k rd = Word.ofN new)
          ∧ getJob z new = some { state := 1, poster := 4 + n.val, addr := a })
      ∧ (∀ n, h.eng = .cyc n → 16 ≤ (s.solv.reqs.filter (fun x => (getJob s x).any (·.poster == 4 + n.val))).length →
        Writes s h k post (dec 0 rd) rd 0)
      ∧ (h.eng = .asm → jobsHeld s < 64 →
        ∃ z new, Takes s h k post (dec 0 rd) z ∧ (rd ≠ 0 → reg z k rd = Word.ofN new)
          ∧ (∃ x, getJob z new = some x ∧ x.state = 2 ∧ x.desc = memBytes s a 48))
      ∧ (h.eng = .asm → 64 ≤ jobsHeld s → ∃ z, Takes s h k post (dec 0 rd) z ∧ reg z k rd = 0 ∧ evtPending z 20 354 = true)
      ∧ (h.eng = .mgt → s.gate.any (fun g => g.target == 0x16 * 64) = false →
        ∃ z new, Takes s h k post (dec 0 rd) z ∧ (rd ≠ 0 → reg z k rd = Word.ofN new)
          ∧ z.gate = s.gate ++ [{ target := 0x16 * 64, change := .job (memBytes s a 48) new }]))
    ∧ ((∀ n, h.eng ≠ .cyc n) → Writes s h k (.jobPoll h rd ra) (dec 1 rd) rd
        (match getJob s hd with | some j => Word.ofN (j.code * 256 + j.state) | none => 0))
    ∧ (∀ n, h.eng = .cyc n → hd < 65536 → Writes s h k (.jobPoll h rd ra) (dec 1 rd) rd
        (genWord s (readGen s h.eng k) (statusIdx hd)))
    ∧ (∀ n, h.eng = .cyc n → 65536 ≤ hd → Writes s h k (.jobPoll h rd ra) (dec 1 rd) rd 0)
    ∧ (getJob s hd = some j → j.state = 1 ∨ j.state = 2 →
        ∃ z, Takes s h k (.jobCancel h ra) (dec 2 0) z ∧ getJob z hd = some { j with state := 7 })
    ∧ ((∀ j, getJob s hd = some j → j.state ≠ 1 ∧ j.state ≠ 2) → Takes s h k (.jobCancel h ra) (dec 2 0) (past s k 4))

/-! ## Configuration, memory and the management link (chapters 01 and 03) -/

/-- R83, R84, R85, R107, R520: the configuration instructions, by the class of the field; a commit at the unit's boundary applies at once;
a read of CAL_TIME latches the calendar; whether the panel's journal takes a request (UPD_REQ) is free (assumption 168). `b` is the state
behind the instruction. R19, R30, R85: a configuration access that is refused makes an error response and traps BUS_ERROR. -/
def Obligations.ConfigurationAccessFollowsItsClass : Prop :=
  (∀ (s : State) (h : Hdr) (k : Nat) (r : Reg) (f : BitVec 16) (row : FRow),
      let u := fidUnit f
      let n := fidField f
      let b := past s k 4
      let v := reg s k r
      let dec (sub : Nat) : Dec := { word := encE sub r f, grp := .cfg }
      let wdec : Dec := { word := encE 1 r (BitVec.ofNat 16 (fid u n)), grp := .cfg }
      let w := Instr.cfgW h r f
      fieldRow f.toNat = some row →
        (cfgCause b (unitOf h.eng) u n = none → f ≠ 0x9401 →
          Writes s h k (.cfgR h r f) (dec 0) r (cfgGet b u n)
          ∧ (row.cls ≠ .c → Writes s h k (.cfgRs h r f) (dec 3) r (cfgGet b u n))
          ∧ (row.cls = .c → Writes s h k (.cfgRs h r f) (dec 3) r ((Tbl.find s.cfg.shadow (fid u n)).getD (cfgGet b u n))))
        ∧ (cfgWriteCause b (unitOf h.eng) u n v = none → f ≠ 0x9C07 →
          (row.cls = .c → ∃ t, Takes s h k w wdec t ∧ Tbl.find t.cfg.shadow (fid u n) = some v
            ∧ t.cfg.act = s.cfg.act ∧ t.cfg.pend = s.cfg.pend ∧ t.mem = s.mem)
          ∧ (row.cls = .s → ∃ t, Takes s h k w wdec t ∧ fGet t u n = v ∧ t.cfg.shadow = s.cfg.shadow ∧ t.mem = s.mem
            ∧ ∀ u' n', fid u' n' ≠ fid u n → fGet t u' n' = fGet s u' n')
          ∧ (row.cls = .l → isHeld b (unitOf h.eng) u n = false → Takes s h k w wdec
              (let t := liveEffect b u n v true
               if byGate (unitOf h.eng) u n then liveRecord t { target := liveTarget u n, change := .live (fid u n) v } else t))
          ∧ (row.cls = .l → isHeld b (unitOf h.eng) u n = true → ∃ t, Takes s h k w wdec t
            ∧ t.gate = s.gate ++ [{ target := liveTarget u n, change := .live (fid u n) v }] ∧ t.cfg = s.cfg))
        ∧ (n = 0 → r = 0 → cfgCause b (unitOf h.eng) u 0 = none → atRest (capture b u) u = false →
          ∃ t, Takes s h k (.cfgCommit h r f) (dec 2) t
            ∧ Tbl.find t.cfg.pend u = some (s.cfg.shadow.filter (fun e => e.1 / 1024 == u))
            ∧ t.cfg.act = s.cfg.act ∧ t.cfg.shadow = s.cfg.shadow)
        ∧ (n = 0 → r = 0 → cfgCause b (unitOf h.eng) u 0 = none → atRest (capture b u) u = true →
          Takes s h k (.cfgCommit h r f) (dec 2) (commitNow (capture b u) u))
        ∧ (f = 0x9401 → cfgCause b (unitOf h.eng) u n = none →
          Takes s h k (.cfgR h r f) (dec 0) (setReg (rtcLatch b) k r (cfgGet b u n)))
        ∧ (f = 0x9C07 → cfgWriteCause b (unitOf h.eng) u n v = none → isHeld b (unitOf h.eng) u n = false → Takes s h k w wdec
            (let t := liveEffect { b with free := s.free + 1 } u n v (Config.freeBool s.free)
             if byGate (unitOf h.eng) u n then liveRecord t { target := liveTarget u n, change := .live (fid u n) v } else t)))
  ∧ (∀ (s : State) (h : Hdr) (k : Nat) (r : Reg) (f : BitVec 16) (c : Cause),
      let b := past s k 4
      let dec : Dec := { word := encE 0 r f, grp := .cfg }
      let wdec : Dec := { word := encE 1 r (BitVec.ofNat 16 (fid (fidUnit f) (fidField f))), grp := .cfg }
      let refused (i : Instr) (d : Dec) (kd : Kind) : Prop :=
        Runs s h k d → Gives s i (takeTrap (setPc (errorResp b (whoIs h.eng k) kd c 0 f.toNat) k (getCtx s k).pc) h.eng k
          (getCtx s k).pc (fullWord h d) { cause := 3, resp := c.code, addr := 0 })
      (cfgCause b (unitOf h.eng) (fidUnit f) (fidField f) = some c → refused (.cfgR h r f) dec .cfgRead)
      ∧ (cfgWriteCause b (unitOf h.eng) (fidUnit f) (fidField f) (reg s k r) = some c → f ≠ 0x9C07 →
          refused (.cfgW h r f) wdec .cfgWrite))

/-- R23, R84, R85, R106: a pending set that passes its checks replaces the active values at its unit's boundary, one that does not is
dropped whole; a held class L write takes effect at the boundary of its unit. What this does to the fields is shown for units whose
boundary has no effect of its own (TIME, NET, ASM) and for the fields of SOLV that nothing else follows. R24, R39, R80: at the solver's
boundary between two jobs, the job that MGT posted through the gate enters the queue, and the gate holds it no longer. R94, R96: the gate
read that a load of MGT or a READ waits for ends at the owner's boundary, with the word or the pair in its registers, or with the bytes in
the answer. R96, R98, R99, R100: a scrub step reads the next word of the scrubbed regions. A clean word only moves the scrubber on; one
with a single bad bit is corrected, counted and written back; an uncorrectable one is reported with event 16. The last word ends the pass
with event 20. -/
def Obligations.BoundariesApplyWhatWaits : Prop :=
  (∀ (s : State) (unit : BitVec 6) (p : Tbl Word) (f : Nat) (v : Word) (g : GateItem),
      let u := unit.toNat
      let due : Prop := (Tbl.find s.cfg.pend u).isSome = true ∧ unitOn s u = true ∧ commitBoundary s u = true
      let first := (heldWrites s u).find? (fun w => liveBoundary s w.1.target)
      (due → Gives s (.commitApply unit) (commitNow s u)) ∧ (¬ due → Gives s (.commitApply unit) s)
      ∧ (first = some (g, f, v) → unitOn s u = true →
          Gives s (.heldLiveWriteApply unit) (gateDone (liveEffect s u (f % 1024) v true) g))
      ∧ (first = none ∨ unitOn s u = false → Gives s (.heldLiveWriteApply unit) s)
      ∧
      (u = 0x14 ∨ u = 0x18 ∨ u = 0x19 → Tbl.find s.cfg.pend u = some p → unitOn s u = true → commitBoundary s u = true →
        ∃ t, Gives s (.commitApply unit) t ∧ Tbl.find t.cfg.pend u = none ∧ t.mem = s.mem ∧ t.ctxs = s.ctxs
          ∧ (∀ c g, pendCheck s u p = some (c, g) → fBit t u 0x3FF 1 = true)
          ∧ (pendCheck s u p = none → (p.map (·.1)).Nodup →
              (∀ e ∈ p, e.1 / 1024 = u ∧ ∃ row, fieldRow e.1 = some row ∧ row.cls = .c) →
              (∀ e ∈ p, fGet t u (e.1 % 1024) = e.2) ∧ fBit t u 0x3FF 1 = false))
      ∧ (u = 0x16 → s.gate = [{ target := 0x16 * 64, change := .live (fid 0x16 f) v }] → f ≠ 1 → f ≠ 0x0D → f < 1024 →
          s.solv.run = none → unitOn s u = true →
        ∃ t, Gives s (.heldLiveWriteApply unit) t ∧ t.gate = [] ∧ fGet t 0x16 f = v))
  ∧ (∀ (s : State) (desc : List Byte) (hd : Nat) (j : Job),
      s.gate = [{ target := 0x16 * 64, change := .job desc hd }] → unitOn s 0x16 = true → s.solv.run = none →
      getJob s hd = some j → jobsHeld s < 64 →
        ∃ t, Gives s (.gateApply (BitVec.ofNat 12 (0x16 * 64))) t ∧ t.gate = []
          ∧ (∃ n, getJob t hd = some { j with desc := desc, state := 2, order := n })
          ∧ ∀ target : BitVec 12, gateFind s target.toNat = none → Gives s (.gateApply target) s)
  ∧ ((∀ (s : State) (job : Bool) (rd a n : Nat) (w : Word),
        let k := if job then 1 else 0
        let r := BitVec.ofNat 5 rd
        let c := wrG { getCtx s k with wait := .none } r (memW s a)
        (getCtx s k).wait = .gate rd a n w → s.pwr.asleep = false → n = 4 ∨ n = 8 →
        accessCause s 0 false a n = none → Tbl.get 0 s.mem.ecc (storedAt s a / 8) = 0 →
          ∃ t, Gives s (.gateRead (.program job)) t ∧ t.mem = s.mem
            ∧ getCtx t k = if n = 8 then wrG c (r + 1) (memW s (a + 4)) else c)
    ∧ (∀ (s : State) (l : Fin 4) (a n q : Nat) (header : List Byte) (crc : Word),
        (getLink s l.val).gateRead = some (a, n, header, q, crc) → s.pwr.asleep = false →
        (∀ x m, a ≤ x → 1 ≤ m → x + m ≤ a + n → accessCause s 0 false x m = none) →
        (∀ x, a ≤ x → x < a + n → Tbl.get 0 s.mem.ecc (storedAt s x / 8) = 0) → a < 0x0200000000 ∨ 0x0200100000 ≤ a →
          ∃ t, Gives s (.gateRead (.link l)) t ∧ t.mem = s.mem ∧ (getLink t l.val).gateRead = none
            ∧ (getLink t l.val).out = mgtResponse header 0 0 (memBytes s a n)))
  ∧ (∀ (s : State) (a r : Nat) (word : BitVec 40),
      let code := Tbl.get 0 s.mem.ecc (a / 8)
      let next := { s with mem := { s.mem with scrubAt := Tbl.ins s.mem.scrubAt r (Tbl.get 0 s.mem.scrubAt r + 8) } }
      s.pwr.asleep = false → fBit s 1 0x002 0 = true → scrubNext s = some a → regionOf a = some r →
        (code = 0 →
          (scrubNext next ≠ none → Gives s (.scrubStep word 0) next)
          ∧ (scrubNext next = none → ∃ t, Gives s (.scrubStep word 0) t ∧ evtPending t 0 20 = true ∧ t.mem.passCe = []
              ∧ t.mem.cells = s.mem.cells ∧ t.mem.ecc = s.mem.ecc))
        ∧ (code = 1 → ∃ t, Gives s (.scrubStep word 0) t ∧ Tbl.get 0 t.mem.ecc (a / 8) = 0
            ∧ t.mem.cells = s.mem.cells ∧ fGet t 1 0x003 = Word.ofN (satInc 32 (fGet s 1 0x003).toNat))
        ∧ (code = 3 → ∃ t, Gives s (.scrubStep word 0) t ∧ Tbl.get 0 t.mem.ecc (a / 8) = 4 ∧ evtPending t 0 16 = true))

/-- The class L writes that start, stop or command a unit (R105): each, where no check refuses it (R85, R104) and it need not wait for a
boundary, does at once what its unit's chapter says; one by MGT that must wait stands in the gate for its unit's boundary. -/
def Obligations.ActionWritesCommandTheirUnit : Prop :=
  ∀ (s : State) (h : Hdr) (k : Nat) (r : Reg) (c core : Fin 8) (n : Fin 16),
    let b := past s k 4
    let v := reg s k r
    let write (u f : Nat) (i : Instr) (q : State → Prop) : Prop :=
      cfgWriteCause b (unitOf h.eng) u f v = none → isHeld b (unitOf h.eng) u f = false →
        ∃ t, Takes s h k i { word := encE 1 r (BitVec.ofNat 16 (fid u f)), grp := .cfg } t ∧ q t
    (v.tst 0 = true →
      write 0x11 (0x100 + 16 * n.val) (.afeRun h r n) (fun t => getCtx t (16 + n.val) = freshCtx 0x400)
      ∧ (fBit s 0x12 1 0 = false → write 0x12 1 (.mtrRun h r) (fun t =>
          fBit t 0x12 1 0 = true ∧ t.mtr.interval = 0 ∧ t.mtr.start = netNs s))
      ∧ write 0x13 4 (.saveNow h r) (fun t => t.mtr.saveReq = true)
      ∧ ((getCtx s 3).live = false → write 0x14 1 (.asmRun h r) (fun t => getCtx t 3 = freshCtx 0x400))
      ∧ write 0x15 1 (.trnRun h r) (fun t => fGet t 0x15 1 = v)
      ∧ write 0x16 1 (.solvRun h r) (fun t => fGet t 0x16 1 = v)
      ∧ ((getCore s core.val).mode = .stopped → corePowered s core.val = true →
          write (4 + core.val) 1 (.cycRun h r core) (fun t => (getCore t core.val).mode = .running ∧ fBit t (4 + core.val) 1 0 = true))
      ∧ write 0x22 1 (.stnRun h r) (fun t => fGet t 0x22 1 = v)
      ∧ write 0x10 1 (.cleRun h r) (fun t => fGet t 0x10 1 = v)
      ∧ write 0x0C 2 (.safRestart h r) (fun t => fGet t 0x0C 2 = v)
      ∧ write 1 8 (.vlogClear h r) (fun t => fPart t 1 7 8 8 = 0 ∧ t.mem = s.mem)
      ∧ write 0x24 0x00C (.opSave h r) (fun t => t.alm.lastSave = s.clk.opMs.toNat)
      ∧ (s.alm.frozen = none → write 0x24 0x00A (.winCtrl h r) (fun t => t.alm.frozen.isSome = true))
      ∧ write 0x19 0x013 (.setGo h r) (fun t => t.time.setDue = true))
    ∧ (v.tst 0 = false →
      write 0x11 (0x100 + 16 * n.val) (.afeRun h r n) (fun t => ∀ x, (getConv t n.val).run = some x → x.drop = true)
      ∧ ((getCtx s 3).live = true → write 0x14 1 (.asmRun h r) (fun t => (getCtx t 3).live = false))
      ∧ ((getCore s core.val).mode ≠ .stopped →
          write (4 + core.val) 1 (.cycRun h r core) (fun t => (getCore t core.val).mode = (getCore s core.val).mode ∧ fBit t (4 + core.val) 1 0 = false))
      ∧ write 0x10 1 (.cleRun h r) (fun t => fGet t 0x10 1 = v ∧ ∀ e ∈ t.cle.slots, e.2.due = false)
      ∧ (s.saf.safe = true → write 0x0C 1 (.safRun h r) (fun t => fGet t 0x0C 1 = v ∧ t.saf.safe = true ∧ t.saf.cause = s.saf.cause))
      ∧ (cfgWriteCause b (unitOf h.eng) 0x0C 1 v = none → isHeld b (unitOf h.eng) 0x0C 1 = true →
          ∃ t, Takes s h k (.safRun h r) { word := encE 1 r (BitVec.ofNat 16 (fid 0x0C 1)), grp := .cfg } t
            ∧ t.gate = s.gate ++ [{ target := 0x0C * 64, change := .live (fid 0x0C 1) v }] ∧ t.saf = s.saf)
      ∧ (s.gate = [{ target := 0x0C * 64, change := .live (fid 0x0C 1) v }] → s.saf.safe = false → s.saf.inCycle = false →
          ∃ t, Gives s (.heldLiveWriteApply 0x0C) t ∧ t.saf.safe = true ∧ t.saf.cause = 0x0A ∧ (settle s t).pins.so = 0)
      ∧ write 0x24 0x00A (.winCtrl h r) (fun t => t.alm.frozen = none)
      ∧ write 0x19 1 (.timeRun h r) (fun t => t.time.state = 0))
    ∧ (v.tst 0 = true →
      (canState s c.val = 0 → write (0x1A + c.val) 1 (.canRun h r c) (fun t => canState t c.val = 1))
      ∧ (canState s c.val = 4 → write (0x1A + c.val) 0x007 (.recover h r c) (fun t => canState t c.val = 5))
      ∧ (s.twin.role = .active → write 0x23 0x015 (.abdicate h r) (fun t =>
          t.twin.role = .demoted ∧ t.twin.tx = [abdicateFrame s] ∧ (settle s t).pins.zenithOut = false ∧ evtPending t 0 562 = true))
      ∧ (fBit s 0x23 1 0 = false → write 0x23 1 (.twinRun h r) (fun t =>
          t.twin.role = (if roleCfg s = 0 then .single else if roleCfg s = 1 then .starting else .witness)))
      ∧ (let a := fPart s 0x14 0x19 0 8 * 2 ^ 32 + (fGet s 0x14 0x18).toNat
         let d := givenBytes s a (36 + 8 * (given s (a + 4)).toNat)
         write 0x14 0x01A (.patchGo h r) (fun t =>
          if patchCheck b d = none then
            t.gate = s.gate ++ [{ target := 0x14 * 64, change := .patch d }] ∧ fPart t 0x14 0x1B 0 2 = 1
          else t.gate = s.gate ∧ fPart t 0x14 0x1B 0 2 = 3 ∧ evtPending t 0 326 = true))
      ∧ (bootState s = 3 → write 2 0x00C (.release h r) (fun t => bootState t = 4 ∧ evtPending t 0 37 = true)))
    ∧ (∀ (i : Fin 32) (q : Fin 4), v.tst i.val = true → txPending s c.val (32 * q.val + i.val) = true →
        (getCan s c.val).active = none → write (0x1A + c.val) (0x010 + q.val) (.txCancel h r c q) (fun t =>
          txPending t c.val (32 * q.val + i.val) = false ∧ 32 * q.val + i.val ∈ (getCan t c.val).outcome))
    ∧ (v.toNat % 4 ≠ 0 → write 0x25 9 (.pwrCtrl h r) (fun t => fBit t 0x25 0xB 4 = !v.tst 1))
    ∧ (∀ ok, fBit s 0x27 2 0 = true → s.hmi.rcv = .none → s.hmi.bistable = false → s.hmi.queue.length < 8 →
        (∀ q ∈ s.hmi.queue, q.rect ≠ v.field 0 14) →
        write 0x27 7 (.updReq h r ok) (fun t => fPart t 0x27 8 0 8 = 0 ∧ t.hmi.queue.length = s.hmi.queue.length + 1
          ∧ t.hmi.reqSeq = (s.hmi.reqSeq + 1) % 65536))
    ∧ write 0x27 1 (.hmiRun h r) (fun t => fGet t 0x27 1 = v)
    ∧ (∀ i u f, (i, u, f) ∈ [(Instr.afeRun h r n, 0x11, 0x100 + 16 * n.val), (.mtrRun h r, 0x12, 1), (.saveNow h r, 0x13, 4),
        (.asmRun h r, 0x14, 1), (.trnRun h r, 0x15, 1), (.patchGo h r, 0x14, 0x01A), (.solvRun h r, 0x16, 1),
        (.cycRun h r core, 4 + core.val, 1), (.stnRun h r, 0x22, 1), (.cleRun h r, 0x10, 1), (.safRun h r, 0x0C, 1),
        (.safRestart h r, 0x0C, 2), (.vlogClear h r, 1, 8), (.opSave h r, 0x24, 0x00C), (.winCtrl h r, 0x24, 0x00A),
        (.setGo h r, 0x19, 0x013), (.timeRun h r, 0x19, 1), (.canRun h r c, 0x1A + c.val, 1), (.recover h r c, 0x1A + c.val, 7),
        (.abdicate h r, 0x23, 0x015), (.twinRun h r, 0x23, 1), (.pwrCtrl h r, 0x25, 9), (.hmiRun h r, 0x27, 1),
        (.sysReset h r, 2, 0x00B), (.release h r, 2, 0x00C)] →
      cfgWriteCause b (unitOf h.eng) u f v = none →
      let d : Dec := { word := encE 1 r (BitVec.ofNat 16 (fid u f)), grp := .cfg }
      (isHeld b (unitOf h.eng) u f = false → ∃ t, Takes s h k i d t)
      ∧ (isHeld b (unitOf h.eng) u f = true →
          Takes s h k i d { b with gate := s.gate ++ [{ target := liveTarget u f, change := .live (fid u f) v }] }))
    ∧ write 2 0x00B (.sysReset h r) (fun t => fPart t 2 0xA 0 4 = 3 ∧ bootState t = 0 ∧ t.ctxs = [] ∧ t.saf = {})

/-- R111 to R115, R546, R547, R553: each command of the management link does its work and is answered on its transport. An UPDATE is
answered by what the verification finds. -/
def Obligations.ManagementLinkCommandsAreAnswered : Prop :=
  ∀ (s : State) (t : Fin 4) (cmd : Byte) (q : MgtReq) (j : RunJob) (d : List Byte) (result : Word),
    let a := q.addr.toNat
    let n := q.len.toNat
    let key := (q.seq.toNat, q.crc)
    let l := getLink s t.val
    let s1 := setLink s t.val { l with last := some key, busy := true }
    let good (cmd : Byte) : Prop := s.pwr.asleep = false ∧ crc32c (mgtHeader cmd q ++ q.payload) = q.crc ∧ l.last ≠ some key
      ∧ 3 ≤ bootState s ∧ mgtBadFields cmd q = false
    let answers (cmd : Byte) (status : Nat) (payload : List Byte) (z : State) : Prop :=
      (getLink z t.val).out = mgtResponse (mgtHeader cmd q) status 0 payload ∧ (getLink z t.val).sent = (l.sent + 1) % 2 ^ 32
      ∧ (getLink z t.val).last = some key
    let reach (wr : Bool) : Prop := (∀ x m, a ≤ x → 1 ≤ m → x + m ≤ a + n → accessCause s 0 wr x m = none)
      ∧ ∀ x, a ≤ x → x < a + n → Tbl.get 0 s.mem.ecc (storedAt s x / 8) = 0
    let image : Prop := 0x0200000000 ≤ a ∧ a < 0x0200100000
    (good 1 → ∃ z, Gives s (.ident t q) z ∧ answers 1 0
        (leBytes 16 Config.identity.toNat ++ leBytes 4 (0xA1 + s.key.latch.toNat * 2 ^ 8 + bootState s * 2 ^ 16)) z)
    ∧ (good 2 → n ≤ 4096 → crossesEnd a n = false →
        (¬ image → viaGate s .mgt a 1 = false → reach false →
          ∃ z, Gives s (.read t q) z ∧ answers 2 0 (memBytes s a n) z ∧ z.mem = s.mem)
        ∧ (image → reach false → ∃ z, Gives s (.read t q) z ∧ answers 2 0 (piBytes s a n) z ∧ z.mem = s.mem)
        ∧ (¬ image → n ≠ 0 → viaGate s .mgt a 1 = true → ∃ z, Gives s (.read t q) z ∧ (getLink z t.val).sent = l.sent
            ∧ (getLink z t.val).gateRead = some (a, n, mgtHeader 2 q, q.seq.toNat, q.crc)))
    ∧ (good 3 → n ≤ 4096 → crossesEnd a n = false → hostMayWrite a n = true → reach true →
        ∃ z, Gives s (.write t q) z ∧ answers 3 0 [] z ∧ memBytes z a n = q.payload)
    ∧ (good 4 → (s.mgt.entries.any (fun x => x.1 == q.b13.toNat)) = true → 0x0010180000 ≤ a → a + 4 ≤ 0x0010200000 →
        s.mgt.runQ = [] → ∃ z x, Gives s (.run t q) z ∧ x.entry = q.b13.toNat ∧ x.arg = a
          ∧ (s.mgt.running = none → z.mgt.running = some x ∧ z.mgt.runQ = [] ∧ (getCtx z 1).live = true)
          ∧ (s.mgt.running.isSome = true → z.mgt.running = s.mgt.running ∧ z.mgt.runQ = [x]))
    ∧ (good 5 → 0x0B00000000 ≤ a → a + n ≤ 0x0B01000000 → a < 0x0B01000000 → hostRead .hostWrite n s1 a n [] = (s1, .ok d) →
        ∃ z, Gives s (.update t q) z
          ∧ (∀ s2, envVerify s1 false d = (s2, none) → s2.mgt.links = s1.mgt.links → answers 5 7 [] z)
          ∧ ∀ s2 s3 e pl, envVerify s1 false d = (s2, some (e, pl)) → (gateTargetOf e).any (fun x => (gateFind s2 x).isSome) = false →
              imagesFit s2 e = true → updateAccept s2 e pl = (s3, true) → s3.mgt.links = s1.mgt.links → e.ty ≠ 8 →
              answers 5 0 [] z ∧ z.gate = s3.gate)
    ∧ (s.pwr.asleep = false → crc32c (mgtHeader cmd q ++ q.payload) = q.crc → l.last ≠ some key → 3 ≤ bootState s →
        cmd.toNat = 0 ∨ 5 < cmd.toNat → ∃ z, Gives s (.mgtBadCommand t cmd q) z ∧ answers cmd 2 [] z)
    ∧ (s.mgt.running = some j → s.pwr.asleep = false → j.timedOut = true → accessCause s 0 true j.arg 4 = none →
        Tbl.get 0 s.mem.ecc (storedAt s j.arg / 8) = 0 →
        ∃ z, Gives s (.runJobDone result) z ∧ memW z j.arg = result ∧ z.mgt.running = s.mgt.runQ.head?)
    ∧ (∀ i : Fin 4, s.mgt.runQ[i.val]? = some j → j.timedOut = false → j.since + 100 * j.timeout ≤ s.clk.tick.toNat + 1 →
        ∃ z, Gives s (.runJobTimeout i.succ) z ∧ (getLink z j.link).out = mgtResponse j.header 5 0 []
          ∧ z.mgt.runQ[i.val]? = some { j with timedOut := true } ∧ z.mgt.running = s.mgt.running)
    ∧ (s.mgt.running = some j → s.pwr.asleep = false → j.timedOut = false →
        (∃ z, Gives s (.runJobDone result) z
          ∧ (getLink z j.link).out = mgtResponse j.header 0 0 (leBytes 4 result.toNat) ∧ z.mgt.running = s.mgt.runQ.head?)
        ∧ (j.since + 100 * j.timeout ≤ s.clk.tick.toNat + 1 → ∃ z, Gives s (.runJobTimeout 0) z
          ∧ (getLink z j.link).out = mgtResponse j.header 5 0 [] ∧ z.mgt.running = some { j with timedOut := true }))

/-! ## Acquisition and metering (chapters 04 and 05) -/

/-- R121 to R128, R138: `cnv` queues a conversion, waiting when both places are taken; `trg.wait` takes a pending trigger, times out at
once or suspends, and where a plan update waits starts the new plan; a trigger wakes a waiting sequencer, becomes pending or is lost with
event 276. R119, R122, R127, R128, R130, R131: a plan conversion's result goes to its pair and the next one follows; an urgent request
becomes due, aborting a plan conversion below priority 0b11, and its result leaves the converter to the next. -/
def Obligations.ConversionsAreQueuedAndDelivered : Prop :=
  (∀ (s : State) (h : Hdr) (k : Nat) (n : Fin 16) (rd rt : Reg) (pd pd' : PReg) (ch : BitVec 7) (prof pri : BitVec 2) (ow : Bool)
      (pull : BitVec 3) (d : Option Nat),
      let c := getConv s n.val
      let x : Cnv := { rd := rd.toNat, ch := ch.toNat, prof := prof.toNat, ow := ow, pri := pri.toNat, late := c.first.getD false
                       due := if c.first.isSome then some (triggerDue s n.val c) else none }
      let start := max (nowNs s) (if c.first.isSome then c.trigAt * 10000 + fPart s 0x11 (0x102 + 16 * n.val) 0 16 + 6 else 0)
      let halo := n.val == 15 && s.hmi.haloReq
      let first : Cnv := { x with
        acq := acqNs s n.val prof.toNat, ready := start + acqNs s n.val prof.toNat + 375, halo := halo
        late := x.late || c.urgRun || halo || (match x.due with | some d => d < start | none => false)
        pulled := Tbl.get 0 c.pulls ch.toNat != 0 }
      let cnv := Instr.cnv h rd ch prof ow pri
      let cdec : Dec := { word := encF 0b111100 [(rd.toNat, 18), (ch.toNat, 11), (prof.toNat, 9), (bit ow, 8), (pri.toNat, 6)]
                          grp := .cnv, bad := oddReg rd || !reachable n.val ch.toNat }
      let tdec : Dec := { word := encF 0b111101 [(pd.toNat, 20), (rt.toNat, 13)], grp := .cnv }
      let odec : Dec := { word := encF 0b111110 [(ch.toNat, 11), (pull.toNat, 8)], grp := .cnv
                          bad := !reachable n.val ch.toNat || ch.toNat < 32 || 96 ≤ ch.toNat || pull == 4 }
      let w := fGet s 0x11 (0x101 + 16 * n.val)
      let now := s.clk.tick.toNat
      let ctx := getCtx s (16 + n.val)
      let occurs : Prop := (if w.tst 16 then c.due = true else now % w.field 0 16 = 0 ∧ c.last ≠ some now ∧ s.clk.refClk = true)
        ∧ domainOn s 5 = true ∧ s.pwr.asleep = false
      (h.eng = .afe n →
        (c.run = none → ∃ t, Takes s h k cnv cdec t ∧ (getConv t n.val).run = some first ∧ (getConv t n.val).next = c.next
            ∧ t.ctxs = (past s k 4).ctxs)
        ∧ (∀ y, c.run = some y → c.next = none → ∃ t, Takes s h k cnv cdec t
            ∧ (getConv t n.val).run = some y ∧ (getConv t n.val).next = some x ∧ t.ctxs = (past s k 4).ctxs)
        ∧ (c.run.isSome = true → c.next.isSome = true → Takes s h k cnv cdec (setPc (past s k 4) k ((getCtx s k).pc + 4 - 4)))
        ∧ (∃ t, Takes s h k (.owSet h ch pull) odec t ∧ Tbl.get 0 (getConv t n.val).pulls ch.toNat = pull.toNat
            ∧ ∀ j, j ≠ ch.toNat → Tbl.get 0 (getConv t n.val).pulls j = Tbl.get 0 c.pulls j)
        ∧ (gateFind s (0x11 * 64 + n.val) = none → Tbl.find s.cfg.pend 0x11 = none →
          (c.trig = true → ∃ t, Takes s h k (.trgWait h pd rt) tdec t ∧ rdP (getCtx t k) pd = true ∧ (getConv t n.val).trig = false)
          ∧ (c.trig = false → reg s k rt = 0 → Takes s h k (.trgWait h pd rt) tdec (setPred (past s k 4) k pd false))
          ∧ (c.trig = false → reg s k rt ≠ 0 → ∃ t e, Takes s h k (.trgWait h pd rt) tdec t
              ∧ (getCtx t k).wait = .trigger pd.toNat e))
        ∧ (∀ g ty data home, gateFind s (0x11 * 64 + n.val) = some g → g.change = .payload ty data →
            engineImage 0x000A 0x10000 data = some home → Tbl.find s.cfg.pend 0x11 = none → ctx.live = true → k = 16 + n.val →
            ∃ t, Takes s h k (.trgWait h pd rt) tdec t ∧ getCtx t k = { pc := 0x400, live := true }))
      ∧ (occurs →
        (ctx.wait = .trigger pd'.toNat d → ∃ t, Gives s (.sarTrigger n) t
            ∧ (getCtx t (16 + n.val)).wait = .none ∧ rdP (getCtx t (16 + n.val)) pd' = true)
        ∧ (ctx.wait = .none → c.trig = false → ∃ t, Gives s (.sarTrigger n) t ∧ (getConv t n.val).trig = true
            ∧ (getConv t n.val).trigAt = now)
        ∧ (ctx.wait = .none → c.trig = true → ∃ t, Gives s (.sarTrigger n) t ∧ evtPending t 0 276 = true
            ∧ fPart t 0x11 (0x106 + 16 * n.val) 24 8 = satInc 8 (fPart s 0x11 (0x106 + 16 * n.val) 24 8)))
      ∧ (¬ occurs → Gives s (.sarTrigger n) s)
      ∧ (∀ e, ctx.wait = .trigger pd'.toNat (some e) →
        (e ≤ now → s.pwr.asleep = false → ∃ t, Gives s (.trgWaitTimeout n) t ∧ (getCtx t (16 + n.val)).wait = .none
            ∧ (pd' ≠ 0 → rdP (getCtx t (16 + n.val)) pd' = false))
        ∧ (now < e → Gives s (.trgWaitTimeout n) s)))
  ∧ (∀ (s : State) (n : Fin 16) (nv : Int) (late started : Bool) (ns : Word) (x : Cnv) (u : Urg) (rest : List Urg),
      let c := getConv s n.val
      let k := 16 + n.val
      let ctx := getCtx s k
      let full := Gives s (.conversionDone n nv late ns)
      let due := Gives s (.urgentConversionDue n started)
      let u' : Urg := { u with late := u.late || c.urgRun || haloHolds s n.val c, pulled := Tbl.get 0 c.pulls u.ch != 0 }
      (c.run = some x →
        (c.urgRun = false → x.halo = false → reached s x.ready = true →
          (x.drop = false → ctx.live = true → x.ch < 128 → 0 < x.rd → x.rd < 31 →
            ∃ t, full t ∧ (let r := reg t k (BitVec.ofNat 5 x.rd)
              r.tst 31 = true ∧ r.tst 30 = x.pulled ∧ r.tst 27 = (late || x.late) ∧ r.field 24 3 = min 7 x.aborts ∧ r.tst 23 = false
              ∧ r.field 16 7 = x.ch ∧ r.field 0 16 = adcCode nv)
            ∧ reg t k (BitVec.ofNat 5 (x.rd + 1)) = ns ∧ (getConv t n.val).next = none
            ∧ ((getConv t n.val).run.isSome = c.next.isSome))
          ∧ (x.drop = true ∨ ctx.live = false → ∃ t, full t ∧ t.ctxs = s.ctxs ∧ (getConv t n.val).next = none
            ∧ ((getConv t n.val).run.isSome = c.next.isSome)))
        ∧ (c.urgRun = true ∨ x.halo = true ∨ reached s x.ready = false → full s))
      ∧ (c.run = none → full s)
      ∧ (c.urg = u :: rest → reached s (urgDueNs s n.val u) = true →
          (c.run = none → ∃ t, due t ∧ (getConv t n.val).urg = rest ∧ (getConv t n.val).urgDue = c.urgDue ++ [u']
            ∧ (getConv t n.val).urgRun = true)
          ∧ (c.run = some x →
            (c.urgRun = true → ∃ t, due t ∧ (getConv t n.val).urg = rest ∧ (getConv t n.val).urgDue = c.urgDue ++ [u']
              ∧ (getConv t n.val).run = some x)
            ∧ (c.urgRun = false → started = false ∨ x.halo = true → ∃ t, due t ∧ (getConv t n.val).urgRun = true
              ∧ (getConv t n.val).run = some { x with late := true } ∧ (getConv t n.val).urgDue = c.urgDue ++ [u'])
            ∧ (c.urgRun = false → started = true → x.halo = false → x.pri ≠ 3 → ∃ t, due t ∧ (getConv t n.val).urgRun = true
              ∧ (getConv t n.val).run = some { x with aborts := min 7 (x.aborts + 1), ready := nowNs s + x.acq + 379 }
              ∧ (getConv t n.val).urgDue = c.urgDue ++ [u'])
            ∧ (c.urgRun = false → started = true → x.halo = false → x.pri = 3 → ∃ t, due t ∧ (getConv t n.val).urgRun = false
              ∧ (getConv t n.val).run = some x ∧ (getConv t n.val).urgDue = c.urgDue ++ [{ u' with late := true }])))
      ∧ (c.urg = [] → due s)
      ∧ (c.urg = u :: rest → reached s (urgDueNs s n.val u) = false → due s)
      ∧ (c.urgRun = true → reached s c.urgReady = true → c.urgDue = u :: rest → ∃ t, Gives s (.urgentConversionDone n nv late) t
          ∧ (getConv t n.val).urgDue = rest ∧ (getConv t n.val).urgRun = !rest.isEmpty)
      ∧ (c.urgRun = false ∨ reached s c.urgReady = false ∨ c.urgDue = [] → Gives s (.urgentConversionDone n nv late) s))

/-- R143 to R147, R150, R155, R160, R167: a sample instant adds its sample, a boundary publishes the set and ends the interval with event
304, a thermal sample enters every enabled calculator; none of them at another instant. R152, R157, R169, R170, R172, R173: harmonic
windows, the loss of zero crossings, saves and pulses. -/
def Obligations.MeteringCountsItsIntervals : Prop :=
  (∀ (s : State) (codes : List (BitVec 24)) (temp : Word) (i : Nat),
      let code (ch : Nat) : Int := if chOn s ch then (codes.getD ch 0).toInt else 0
      let len := fPart s 0x13 1 0 16
      let period := fPart s 0x13 9 0 16
      (mtrRuns s = true →
        (instantIn s 125000 = some i → s.mtr.sample ≠ some i ∨ s.time.stepAcc ≠ 0 → ∃ t w, Gives s (.sampleInstant codes) t
          ∧ t.mtr.sample = some i ∧ t.mtr.w = s.mtr.w + w ∧ t.time.stepAcc = 0 ∧ (s.time.stepAcc = 0 ∨ s.mtr.sample = none → w = 125000)
          ∧ (∀ p, s.mtr.sample = some p → s.time.stepAcc ≠ 0 →
              w = ((i : Int) * 125000 - p * 125000 - roundQ s.time.stepAcc (2 ^ 48)).toNat)
          ∧ (∀ ch < 60, Tbl.get 0 t.mtr.sums ch
              = Tbl.get 0 s.mtr.sums ch + (filtered s ch (code ch)).y * (filtered s ch (code ch)).y * w)
          ∧ ∀ ch < 60, code ch = 2 ^ 23 - 1 ∨ code ch = -(2 ^ 23) → ch ∈ t.mtr.clip)
        ∧ (instantIn s (len * 1000000) = some i → s.mtr.bound ≠ some (i * len) →
          ∃ t, Gives s (.accBoundary temp) t ∧ t.mtr.interval = s.mtr.interval + 1 ∧ evtPending t 0 304 = true
            ∧ t.mtr.bound = some (i * len) ∧ t.mtr.w = 0 ∧ t.mtr.sums = [] ∧ t.mtr.clip = [] ∧ fGet t 0x12 0xE = temp
            ∧ Tbl.get 0 t.pi.live (fPart t 0x13 6 0 19 / 4) = s.mtr.interval + 1)
        ∧ (instantIn s (period * 1000000) = some i → s.mtr.thLast ≠ some (i * period) →
          ∃ t, Gives s .thermalSample t ∧ t.mtr.thLast = some (i * period)
            ∧ ∀ c < 48, (Tbl.get {} t.mtr.th c).n = (Tbl.get {} s.mtr.th c).n + bit (fBit s 0x13 (0x100 + 4 * c) 31)))
      ∧ (mtrRuns s = false ∨ instantIn s 125000 = none → Gives s (.sampleInstant codes) s)
      ∧ (mtrRuns s = false ∨ instantIn s (len * 1000000) = none → Gives s (.accBoundary temp) s)
      ∧ (mtrRuns s = false ∨ instantIn s (period * 1000000) = none → Gives s .thermalSample s)
      ∧ (∀ ch, chOn s ch = false → ∀ v, filtered s ch v = {}))
  ∧ (∀ (s : State) (g : Fin 4) (v : MtrSave) (n : Fin 16) (m : Fin 32) (dir : Bool) (ns : Fin 1000000000) (rising : Bool) (t0 : Nat),
      let cfg := fGet s 0x13 (0x200 + 2 * n.val)
      let x := Tbl.get {} s.mtr.po n.val
      let pin := fGet s 0x13 (0x1C0 + 2 * m.val)
      let c := Tbl.get (0, 0) s.mtr.pin m.val
      let at_ := s.time.sec * 1000000000 + ns.val
      let stable : Prop := ∀ l t, Tbl.find s.mtr.edge m.val = some (l, t) → l ≠ rising ∧ pin.field 0 16 * 1000 ≤ at_ - t
      let src := pin.field 23 6
      let level := if src = m.val then rising else if src < 32 then ((Tbl.find s.mtr.edge src).map (·.1)).getD dir else dir
      let edge := Instr.pulseInEdge m rising dir ns
      let mine (ch : Nat) : Prop := if ch < 12 then ch / 3 = g.val else feederGroup s ((ch - 12) / 4) = g.val
      let copyClean : Prop := CleanAt s (saveBase v.copyB) v.bytes.length
      (mtrRuns s = true → Tbl.find s.mtr.harmAt g.val = some t0 →
        ((t0 + windowNs s g.val) * 2 ^ 48 < tickEnd s →
          (∀ ch < 60, mine ch → fBit s 0x13 (7 + ch / 32) (ch % 32) = true →
            ∃ t b, Gives s (.harmonicWindowEnd g) t ∧ Tbl.find t.mtr.harm ch = some b ∧ b.length = 52
              ∧ b.getLast? = some (Word.ofN (bit (s.mtr.harmLost.contains g.val || zxLost s g.val)))
              ∧ (s.mtr.harmLive.contains ch = false → b.take 50 = List.replicate 50 0)
              ∧ (b.getD 0 0 ≠ 0 → b.getD 50 0 = thdWord (b.take 50) 0))
          ∧ ∃ t, Gives s (.harmonicWindowEnd g) t ∧ Tbl.find t.mtr.harmAt g.val = some (t0 + windowNs s g.val))
        ∧ (tickEnd s ≤ (t0 + windowNs s g.val) * 2 ^ 48 → Gives s (.harmonicWindowEnd g) s))
      ∧ (mtrRuns s = true → zxLost s g.val = false → zxExpired s g.val = true →
        ∃ t, Gives s (.zxTimeout g) t ∧ zxLost t g.val = true ∧ evtPending t 0 288 = true)
      ∧ (zxLost s g.val = true ∨ zxExpired s g.val = false → Gives s (.zxTimeout g) s)
      ∧ (s.mtr.saving = some v → s.pwr.asleep = false →
        (∃ t, Gives s (.saveDone true) t ∧ t.mtr.saving = none ∧ fGet t 0x13 5 = v.seq ∧ evtPending t 0 305 = true
          ∧ (copyClean → memBytes t (saveBase v.copyB) v.bytes.length = v.bytes))
        ∧ (∃ t, Gives s (.saveDone false) t ∧ t.mtr.saving = none ∧ fGet t 0x13 5 = fGet s 0x13 5 ∧ evtPending t 0 306 = true))
      ∧ (s.mtr.saving = none ∨ s.pwr.asleep = true → ∀ ok, Gives s (.saveDone ok) s)
      ∧ (mtrRuns s = true → pin.tst 31 = true → pin.tst 30 = !rising → stable →
        (pin.tst 29 = false ∨ level ≠ pin.tst 22 →
          ∃ t, Gives s edge t ∧ Tbl.get (0, 0) t.mtr.pin m.val = ((c.1 + 1) % 2 ^ 32, c.2))
        ∧ (pin.tst 29 = true → level = pin.tst 22 →
          ∃ t, Gives s edge t ∧ Tbl.get (0, 0) t.mtr.pin m.val = (c.1, (c.2 + 1) % 2 ^ 32)))
      ∧ (∃ t, Gives s edge t ∧ (¬ stable ∨ pin.tst 31 = false ∨ pin.tst 30 = rising → t.mtr.pin = s.mtr.pin)
          ∧ (Tbl.get {} t.cle.pls m.val).n = (Tbl.get {} s.cle.pls m.val).n + bit rising)
      ∧ (mtrRuns s = true → cfg.tst 31 = true → x.active = false → 0 < x.backlog → x.since ≤ s.clk.tick.toNat →
        ∃ t, Gives s (.pulseOutStart n) t ∧ Tbl.get {} t.mtr.po n.val
          = { x with active := true, backlog := x.backlog - 1, since := s.clk.tick.toNat })
      ∧ (cfg.tst 31 = false ∨ x.active = true ∨ x.backlog = 0 ∨ s.clk.tick.toNat < x.since → Gives s (.pulseOutStart n) s)
      ∧ (x.active = true → s.pwr.asleep = false → x.since + cfg.field 0 10 * 100 ≤ s.clk.tick.toNat →
        ∃ t, Gives s (.pulseOutEnd n) t ∧ (Tbl.get {} t.mtr.po n.val).active = false
          ∧ (Tbl.get {} t.mtr.po n.val).since = s.clk.tick.toNat + cfg.field 0 10 * 100)
      ∧ (x.active = false ∨ s.clk.tick.toNat < x.since + cfg.field 0 10 * 100 → Gives s (.pulseOutEnd n) s))

/-! ## Network model, solver and libraries (chapters 06 to 09) -/

/-- R196 to R199, R202: snapshots are taken at once or when they fall due, are locked, copied and released. R186, R196, R202, R216, R219,
R222: `trn.go` starts an advance on the locked snapshot or says why not; its end writes the node results and raises event 336, and a
reinitialisation after a model image raises event 340. -/
def Obligations.SnapshotsAndAdvancesLockTheModel : Prop :=
  (∀ (s : State) (h : Hdr) (k : Nat) (rd : Reg) (i : Nat) (c : Snap),
      let dec (func : Nat) : Dec := { word := encA 0b111100 rd 0 0 func, grp := .front }
      let period := fPart s 0x14 2 0 16
      let raw := (List.range (counts s).k).map (rawMeas s)
      let holds (t : State) (sec ns : Nat) : Prop := snapLocked t = true ∧ fGet t 0x14 7 = fGet s 0x14 7 + 1
          ∧ ∃ x, t.asm.copying = some x ∧ x.sec = sec ∧ x.ns = ns ∧ x.raw = raw
      let due : Prop := unitOn s 0x14 = true ∧ s.pwr.asleep = false ∧ period ≠ 0 ∧ instantIn s (period * 1000000) = some i
          ∧ s.asm.lastDue ≠ some (i * period)
      (snapLocked s = false → ∃ t, Takes s h k (.snapNow h rd) (dec 0) t ∧ holds t s.time.sec s.time.ns
          ∧ (rd ≠ 0 → reg t k rd = fGet s 0x14 7 + 1))
      ∧ (snapLocked s = true → Writes s h k (.snapNow h rd) (dec 0) rd 0)
      ∧ (s.asm.copying = none → ∃ t, Takes s h k (.snapRel h rd) (dec 1) t ∧ t.asm.mat = none ∧ t.asm.vec = none
          ∧ (s.asm.adv = none → snapLocked t = false) ∧ (s.asm.adv ≠ none → snapLocked t = snapLocked s)
          ∧ (rd ≠ 0 → reg t k rd = Word.ofN (bit s.asm.mat.isSome + bit s.asm.vec.isSome)))
      ∧ (s.asm.copying ≠ none → Takes s h k (.snapRel h rd) (dec 1) (setPc (past s k 4) k ((getCtx (past s k 4) k).pc - 4)))
      ∧ (due → snapLocked s = false → ∃ t, Gives s .snapshotDue t ∧ holds t (i * period / 1000) (i * period % 1000 * 1000000))
      ∧ (due → snapLocked s = true → ∃ t, Gives s .snapshotDue t ∧ evtPending t 0 321 = true ∧ t.asm.copying = s.asm.copying
          ∧ fPart t 0x14 8 16 16 = satInc 16 (fPart s 0x14 8 16 16))
      ∧ (unitOn s 0x14 = false ∨ s.pwr.asleep = true ∨ period = 0 ∨ instantIn s (period * 1000000) = none → Gives s .snapshotDue s)
      ∧ (instantIn s (period * 1000000) = some i → s.asm.lastDue = some (i * period) → Gives s .snapshotDue s)
      ∧ (s.asm.copying = some c → ∃ t, Gives s .snapshotCopyEnd t ∧ t.asm.copying = none ∧ evtPending t 0 320 = true
          ∧ memW t 0x04001F0000 = fGet s 0x14 7 ∧ memW t 0x04001F0004 = Word.ofN c.sec ∧ memW t 0x04001F0008 = Word.ofN c.ns
          ∧ memW t 0x04001F0010 = Word.ofN c.raw.length
          ∧ (s.mem.ecc = [] → c.raw.length ≤ 40000 → ∀ d < c.raw.length,
              let v := corrected s d (c.raw.getD d (0, false)).1
              memW t (snapAddr d) = v ∧ snapStatus t d = entryStatus s d v (c.raw.getD d (0, false)).2))
      ∧ (s.asm.copying = none → Gives s .snapshotCopyEnd s))
  ∧ (∀ (s : State) (h : Hdr) (k : Nat) (rd ra : Reg) (a : Advance) (r : Reinit),
      let dec (func : Nat) (ra : Reg) (bad : Bool) : Dec := { word := encA 0b111100 rd ra 0 func, grp := .front, bad := bad }
      let go := dec 9 ra (oddReg ra)
      let lo := (reg s k ra).toNat
      let hi := (reg s k (ra + 1)).toNat
      (trnRefusal s = 0 → hi < 256 → ∃ t, Takes s h k (.trnGo h rd ra) go t
          ∧ (∃ x, t.asm.adv = some x ∧ x.addr = hi * 2 ^ 32 + lo ∧ x.vec = none ∧ x.dt = advanceDt s ∧ x.seq = s.asm.advSeq + 1)
          ∧ t.asm.prevTick = some s.asm.tick ∧ (rd ≠ 0 → reg t k rd = s.asm.advSeq + 1) ∧ fBit t 0x15 0x16 0 = true)
      ∧ (trnRefusal s = 0 → 256 ≤ hi → ∃ x, Takes s h k (.trnGo h rd ra) go
          (takeTrap x h.eng k (getCtx s k).pc (fullWord h go) { cause := 3, resp := Cause.unmapped.code, addr := hi % 256 * 2 ^ 32 + lo }))
      ∧ (trnRefusal s ≠ 0 → ∃ t, Takes s h k (.trnGo h rd ra) go t ∧ reg t k rd = 0
          ∧ fPart t 0x15 0x16 4 4 = trnRefusal s ∧ t.asm.adv = s.asm.adv)
      ∧ (snapLocked s = false → trnRefusal s = 1)
      ∧ (snapLocked s = true → (fBit s 0x15 0x16 0 = true → trnRefusal s = 2)
          ∧ (fBit s 0x15 0x16 0 = false → (modelPending s = true → trnRefusal s = 3)
            ∧ (modelPending s = false → trnRefusal s = if fBit s 0x15 1 0 then 0 else 4)))
      ∧ Writes s h k (.trnSt h rd) (dec 10 0 false) rd (cfgGet s 0x15 0x16)
      ∧ (s.asm.adv = some a → unitOn s 0x15 = true → s.asm.copying = none → s.asm.reinit = none →
          ∃ t, Gives s .trnAdvanceEnd t ∧ t.asm.adv = none ∧ evtPending t 0 336 = true
            ∧ ∀ n < (counts s).n, memW t (nodeRes n + 12) = a.seq)
      ∧ (s.asm.adv = none ∨ unitOn s 0x15 = false ∨ s.asm.copying ≠ none ∨ s.asm.reinit ≠ none → Gives s .trnAdvanceEnd s)
      ∧ (s.asm.reinit = some r → unitOn s 0x15 = true → ∃ t, Gives s .trnReinit t ∧ t.asm.reinit = none ∧ evtPending t 0 340 = true
          ∧ fBit t 0x15 0x16 1 = false ∧ t.asm.initNd = (List.range (counts s).n).filter (fun n => r.oldN ≤ n))
      ∧ (s.asm.reinit = none ∨ unitOn s 0x15 = false → Gives s .trnReinit s))

/-- R202, R204, R213: a block is opened by a valid header, one of each kind, and closing writes it out whole with event 323. R202, R203,
R205 to R212: the assembly instructions write the entries of their element that lie in an open block to the staging area, one record of 32
bytes for each, and count what was clamped; with no block open, beyond the staging area, without a locked snapshot and beyond the model
they answer with their status and append nothing; while the copy runs they wait. -/
def Obligations.AssemblyWritesItsBlocks : Prop :=
  (∀ (s : State) (h : Hdr) (k : Nat) (rd ra : Reg) (vec : Bool) (b : Block),
      let ea := (reg s k ra).toNat
      let n := reg s k ra
      let dec (func : Nat) : Dec := { word := encA 0b111100 rd ra 0 func, grp := .front }
      let slot (s : State) (vec : Bool) : Option Block := if vec then s.asm.vec else s.asm.mat
      let head (i : Nat) : Word := ([0, 1, 2, 3, 4, 5, 6, 7].map (fun j => memW s ((homeOf s h.eng).1 + ea + 4 * j))).getD i 0
      let es := (b.recs.map (stageRec s)).foldl sumInto []
      let words := 8 + (if vec then b.rows else b.cols + 1 + 2 * es.length)
      let wide := es.any (fun e => decide (2 ^ 63 ≤ entBound e))
      ((∀ j < 8, Near s h.eng false (ea + 4 * j) 4) →
        (blockOf head = some (vec, b) → slot s vec = none →
          ∃ t, Takes s h k (.blkOpen h rd ra) (dec 2) t ∧ slot t vec = some b ∧ slot t (!vec) = slot s (!vec) ∧ reg t k rd = 0)
        ∧ (blockOf head = some (vec, b) → slot s vec ≠ none → Writes s h k (.blkOpen h rd ra) (dec 2) rd 6)
        ∧ (blockOf head = none → Writes s h k (.blkOpen h rd ra) (dec 2) rd 8))
      ∧ (n = (if vec then 1 else 0) → slot s vec = some b →
        (b.dest + 4 * words ≤ 0x0803000000 → wide = false → s.mem.ecc = [] →
          accessCause s 0x14 true b.dest 4 = none → accessCause s 0x14 true (b.dest + 4 * words - 4) 4 = none →
          ∃ t, Takes s h k (.blkClose h rd ra) (dec 3) t ∧ slot t vec = none ∧ slot t (!vec) = slot s (!vec) ∧ reg t k rd = 0
            ∧ evtPending t 0 323 = true ∧ memWords t b.dest words = blockWords s b vec es)
        ∧ (0x0803000000 < b.dest + 4 * words → Writes s h k (.blkClose h rd ra) (dec 3) rd 5)
        ∧ (b.dest + 4 * words ≤ 0x0803000000 → wide = true → Writes s h k (.blkClose h rd ra) (dec 3) rd 7))
      ∧ ((n = 0 → s.asm.mat = none) → (n = 1 → s.asm.vec = none) → Writes s h k (.blkClose h rd ra) (dec 3) rd 1))
  ∧ (∀ (s : State) (h : Hdr) (k : Nat) (rd ra rb : Reg) (j : Inj) (col : Nat),
      let i := (reg s k ra).toNat
      let c := counts s
      let w0 := mdlW s 0 i 0
      let dec (func : Nat) (rb : Reg) : Dec := { word := encA 0b111100 rd ra rb func, grp := .front }
      let lin (x : Nat) : Int × Nat := clampTo (colRange s x) (memW s (linAddr s x)).toInt
      let clean (xs : List Nat) : Prop := s.mem.ecc = [] ∧ ∀ x ∈ xs, accessCause s 0x14 false (linAddr s x) 4 = none
      let cap := (fGet s 0x14 0xD).toNat
      let closed : Prop := s.asm.mat = none ∧ s.asm.vec = none
      let answers (i : Instr) (d : Dec) (v : Word) : Prop :=
        ∃ t, Takes s h k i d t ∧ (rd ≠ 0 → reg t k rd = v) ∧ t.asm = s.asm ∧ t.mem = s.mem
      let stages (i : Instr) (d : Dec) (es : List Ent) (clamps : Nat) : Prop :=
        let l := es.filter (inBlock s)
        (closed → answers i d 1)
        ∧ (¬ closed → cap < s.asm.staged + l.length → answers i d 3)
        ∧ (¬ closed → s.asm.staged + l.length ≤ cap →
            (l ≠ [] → ∀ a ∈ [stageAddr s s.asm.staged, stageAddr s (s.asm.staged + l.length - 1) + 24], accessCause s 0x14 true a 8 = none) →
            ∃ t, Takes s h k i d t ∧ reg t k rd = 0 ∧ t.asm.staged = s.asm.staged + l.length
              ∧ (∀ n < l.length, memBytes t (stageAddr s (s.asm.staged + n)) 32 = recBytes (l.getD n {}))
              ∧ t.asm.mat.map (·.recs.length) = s.asm.mat.map (fun b => b.recs.length + (l.filter (·.mat)).length)
              ∧ t.asm.vec.map (·.recs.length) = s.asm.vec.map (fun b => b.recs.length + (l.filter (fun e => !e.mat)).length)
              ∧ (clamps ≠ 0 → evtPending t 0 324 = true))
      let again (i : Instr) (d : Dec) : Prop := Takes s h k i d (setPc (past s k 4) k ((getCtx (past s k 4) k).pc - 4))
      let ends := branchEnds s i (lin (c.n + i)).1
      let tout := clampTo ((fGet s 0x14 0x12).toInt, (fGet s 0x14 0x13).toInt) (branchT s i).toInt
      let busy := fBit s 0x15 0x16 0
      let w (o : Nat) : Word := memW s ((homeOf s h.eng).1 + i + 4 * o)
      let q (o : Nat) : Int := (BitVec.ofNat 64 ((w (o + 1)).toNat * 2 ^ 32 + (w o).toNat)).toInt
      let e : Ent := { row := (w 0).toNat, col := (w 1).toNat, v := q 2, lo := q 4, hi := q 6 }
      let inMat := inBlock s e
      let inVec := decide (e.col = 0) && inBlock s { e with mat := false }
      (snapLocked s = true → s.asm.copying = none →
        (i < c.m → clean [w0.field 14 14, w0.field 0 14, c.n + i] →
          stages (.hydBr h rd ra) (dec 4 0)
            (hydEntries s s.free i (Q.ofInt ((mdlW s 0 i 2).field 0 16)) (lin (w0.field 14 14)).1 (lin (w0.field 0 14)).1 (lin (c.n + i)).1)
            ((lin (w0.field 14 14)).2 + (lin (w0.field 0 14)).2 + (lin (c.n + i)).2))
        ∧ (i < c.m → busy = false → clean [c.n + i, c.n + c.m + ends.1] →
          stages (.thBr h rd ra) (dec 5 0) (branchEntries s i (lin (c.n + i)).1 (q16 tout.1) (lin (c.n + c.m + ends.1)).1)
            ((lin (c.n + i)).2 + (lin (c.n + c.m + ends.1)).2 + tout.2))
        ∧ (injection s (reg s k rb).toNat i = some j → clean [j.col, c.n + c.m + j.recv (lin j.col).1] →
          stages (.injRow h rd ra rb) (dec 6 rb) (injEntries s j (lin j.col).1 (lin (c.n + c.m + j.recv (lin j.col).1)).1)
            ((lin j.col).2 + (lin (c.n + c.m + j.recv (lin j.col).1)).2))
        ∧ (i < c.k → stateCol s i = some col → clean [col] →
          stages (.measRow h rd ra) (dec 7 0) (measEntries s i col (lin col).1) (lin col).2)
        ∧ (i < c.k → stateCol s i = none → clean [] → Writes s h k (.measRow h rd ra) (dec 7 0) rd 9)
        ∧ (c.m ≤ i → Writes s h k (.hydBr h rd ra) (dec 4 0) rd 2 ∧ Writes s h k (.thBr h rd ra) (dec 5 0) rd 2)
        ∧ (injection s (reg s k rb).toNat i = none → Writes s h k (.injRow h rd ra rb) (dec 6 rb) rd 2)
        ∧ (c.k ≤ i → Writes s h k (.measRow h rd ra) (dec 7 0) rd 2))
      ∧ (snapLocked s = true → (s.asm.copying ≠ none → again (.hydBr h rd ra) (dec 4 0) ∧ again (.injRow h rd ra rb) (dec 6 rb)
          ∧ again (.measRow h rd ra) (dec 7 0) ∧ again (.thBr h rd ra) (dec 5 0))
        ∧ (busy = true → i < c.m → again (.thBr h rd ra) (dec 5 0)))
      ∧ (snapLocked s = false → Writes s h k (.hydBr h rd ra) (dec 4 0) rd 4 ∧ Writes s h k (.injRow h rd ra rb) (dec 6 rb) rd 4
          ∧ Writes s h k (.measRow h rd ra) (dec 7 0) rd 4 ∧ Writes s h k (.thBr h rd ra) (dec 5 0) rd 4)
      ∧ ((∀ o < 8, Near s h.eng false (i + 4 * o) 4) → s.mem.ecc = [] →
        (closed → answers (.entW h rd ra) (dec 8 0) 1)
        ∧ (¬ closed → ¬ (e.lo ≤ e.v ∧ e.v ≤ e.hi) → answers (.entW h rd ra) (dec 8 0) 7)
        ∧ (¬ closed → e.lo ≤ e.v → e.v ≤ e.hi → (inMat || inVec) = false → answers (.entW h rd ra) (dec 8 0) 5)
        ∧ (e.lo ≤ e.v → e.v ≤ e.hi → (inMat || inVec) = true → ∃ m, (m = true → inMat = true) ∧ (m = false → inVec = true)
            ∧ stages (.entW h rd ra) (dec 8 0) [{ e with mat := m }] 0)))

/-- R246, R247, R252, R253: SOLV takes the next job, or fails it at once without a group in service or with a bad descriptor; `seq.end`
publishes the pairs, writes the result record and ends the job DONE with its code and event 352. R225 to R227: a failed lane is spared or
takes its group out of service, and with the last group the running job fails; every BIST_STEP_MS the next lane is tested, and comes back
or fails. -/
def Obligations.SolverRunsItsJobsAndLanes : Prop :=
  (∀ (s : State) (hd : Nat) (j : Job) (r : JobRun) (o : MacroOp),
      let ready : Prop := unitOn s 0x16 = true ∧ s.pwr.asleep = false ∧ fBit s 0x16 1 0 = true ∧ s.solv.run = none
      let code := o.w1.field 0 8
      let rec_ := natAt j.desc 4 4
      let p := pubPair s 0
      let q := pubPair s 1
      (ready → nextJob s = some (hd, j) →
        (groupsActive s ≠ 0 → descOk j.desc = true → ∃ t, Gives s .jobStart t ∧ getJob t hd = some { j with state := 3 }
          ∧ (jobRun t).handle = hd ∧ (jobRun t).pc = 0 ∧ (jobRun t).steps = 0 ∧ (jobRun t).tau = (fGet s 0x16 2).toNat
          ∧ (jobRun t).delta = (fGet s 0x16 3).toNat)
        ∧ (groupsActive s = 0 ∨ descOk j.desc = false → ∃ t, Gives s .jobStart t ∧ t.solv.run = none ∧ evtPending t 0 353 = true
          ∧ getJob t hd = some { j with state := 5, code := if groupsActive s = 0 then 8 else 10 }))
      ∧ (ready → nextJob s = none → Gives s .jobStart s) ∧ (¬ ready → Gives s .jobStart s)
      ∧ (Sequences s r o 14 → getJob s r.handle = some j → s.mem.ecc = [] →
        (pubOk s p = true → pubOk s q = true → ∃ t, Gives s .seqEnd t ∧ t.solv.run = none ∧ evtPending t 0 352 = true
          ∧ getJob t r.handle = some { j with state := 4, code := code }
          ∧ (rec_ ≠ 0 → rec_ < 2 ^ 24 → inWork (objAddr rec_) 64 = true →
              memW t (objAddr rec_) = Word.ofN (natAt j.desc 12 2 * 2 ^ 16 + r.handle)
              ∧ memW t (objAddr rec_ + 4) = Word.ofN (4 * 2 ^ 24 + code * 2 ^ 16) ∧ memW t (objAddr rec_ + 8) = Word.ofN (r.steps + 1))
          ∧ (rec_ = 0 → q.1 = 0 → p.1 ≠ 0 → r.stores = [] →
              memBytes t (objAddr p.2) (32 + oBody s p.1) = memBytes s (objAddr p.1) (32 + oBody s p.1)))
        ∧ ((pubOk s p && pubOk s q) = false → ∃ t, Gives s .seqEnd t ∧ t.solv.run = none ∧ evtPending t 0 353 = true
          ∧ getJob t r.handle = some { j with state := 5, code := 2 })))
  ∧ (∀ (s : State) (g : Fin 64) (l : Fin 17) (x : Nat) (pass : Bool),
      let step := fPart s 0x16 5 0 16
      let due := Tbl.get s.solv.bistBase s.solv.bistAt g.val + 100 * step
      let known (l : Nat) : Prop := groupLost s g.val = true ∨ Tbl.find s.solv.lane g.val = some l
      let fails (c : Instr) (l : Nat) : Prop :=
        (spareUsed s g.val = false → ∃ t, Gives s c t ∧ spareUsed t g.val = true ∧ evtPending t 0 355 = true
          ∧ Tbl.find t.solv.lane g.val = some l ∧ fPart t 0x16 7 16 8 = fPart s 0x16 7 16 8 - 1)
        ∧ (spareUsed s g.val = true → ∃ t, Gives s c t ∧ groupLost t g.val = true ∧ evtPending t 0 356 = true
          ∧ groupsActive t = groupsActive s - 1
          ∧ (groupsActive s ≤ 1 → s.solv.run ≠ none → t.solv.run = none ∧ evtPending t 0 353 = true))
      (unitOn s 0x16 = true →
        (¬ known l.val → fails (.laneFail g l) l.val) ∧ (known l.val → Gives s (.laneFail g l) s)
        ∧ (step ≠ 0 → groupLost s g.val = false → spareUsed s g.val = false → Tbl.find s.solv.test g.val = none → due ≤ s.clk.tick.toNat →
          ∃ t, Gives s (.bistStep g) t ∧ Tbl.find t.solv.test g.val = some (Tbl.get 0 s.solv.rot g.val + 1)
            ∧ Tbl.get 0 t.solv.rot g.val = (Tbl.get 0 s.solv.rot g.val + 1) % 16
            ∧ Tbl.find t.solv.bistAt g.val = some s.clk.tick.toNat)
        ∧ (Tbl.find s.solv.test g.val = some x →
          (∃ t, Gives s (.bistPatternDone g true) t ∧ Tbl.find t.solv.test g.val = none ∧ spareUsed t g.val = spareUsed s g.val
            ∧ groupLost t g.val = groupLost s g.val)
          ∧ (¬ known (x - 1) → fails (.bistPatternDone g false) (x - 1)) ∧ (known (x - 1) → Gives s (.bistPatternDone g false) s)))
      ∧ (unitOn s 0x16 = false → Gives s (.laneFail g l) s ∧ Gives s (.bistPatternDone g pass) s)
      ∧ (unitOn s 0x16 = false ∨ step = 0 ∨ groupLost s g.val = true ∨ spareUsed s g.val = true ∨ Tbl.find s.solv.test g.val ≠ none
          ∨ s.clk.tick.toNat < due → Gives s (.bistStep g) s)
      ∧ (Tbl.find s.solv.test g.val = none → Gives s (.bistPatternDone g pass) s))

/-- R237 to R241, R248, R254: the scalar macro-ops: `sc` writes the rounded result to sd, `piv.pol` sets the pivot policy, `seq.br`
branches, `norm` writes a norm or a dot product to sd; an undefined function or policy fails the job ILLEGAL_OP, an overflowing
accumulator fails it RANGE, and a macro-op's command acts only when the sequencer is at that opcode and below the job's step limit. R249
to R251, R494: with valid vectors, ID map and structure, `ag.ld` puts its outcome into sd and the result record: 3 when no record of the
job's class is kept; `ag.st` prepares a record and puts 1 into sd, or 0 on a follower and where a record would not fit. -/
def Obligations.ScalarMacroOpsComputeTheirResult : Prop :=
  (∀ (s : State) (r : JobRun) (o : MacroOp) (n : Nat),
      let a := getS s o.sa
      let b := getS s o.sb
      let u := vecOf s o.a
      let v := vecOf s o.b
      let ea := oExp s o.a
      let eb := oExp s o.b
      let sq (l : List Q) : List Q := l.map (fun q => q.mul q)
      let fits (l : List Q) (e : Int) : Prop := accFits (l.map (fun q => q.word e)) = true
      let good (x : Nat) : Prop := ∃ y, input (stepped s r) x isVecKind = .ok y ()
      let puts (i : Instr) (x : Scalar) : Prop := ∃ t, Gives s i t ∧ getS t o.sd = x ∧ (jobRun t).pc = r.pc + 1 ∧ t.mem = s.mem
      let fails (i : Instr) (code : Nat) : Prop := ∃ t, Gives s i t ∧ t.solv.run = none ∧ evtPending t 0 353 = true
          ∧ ∀ j, getJob s r.handle = some j → getJob t r.handle = some { j with state := 5, code := code }
      let goes (x : Bool) : Prop :=
        ∃ t, Gives s .seqBr t ∧ (jobRun t).pc = (if x then o.w1.field 0 16 else r.pc + 1) ∧ t.mem = s.mem
      let dot := (u.zip v).map (fun e => e.1.mul e.2)
      let dist := sq ((u.zip v).map (fun e => e.1.sub e.2))
      let ops : List (Nat × Instr) := [(1, .factLdl), (2, .factChol), (3, .factQr), (4, .solveTri), (5, .schur), (6, .gemm), (7, .spmv),
        (8, .axpy), (9, .clip), (10, .norm), (11, .pivPol), (12, .sc), (13, .seqBr), (14, .seqEnd), (15, .agLd), (16, .agSt)]
      (Sequences s r o 12 →
        (o.mod_ = 0 → puts .sc (a.val.add b.val).scalar) ∧ (o.mod_ = 1 → puts .sc (a.val.sub b.val).scalar)
        ∧ (o.mod_ = 2 → puts .sc (a.val.mul b.val).scalar) ∧ (o.mod_ = 3 → b.m ≠ 0 → puts .sc (a.val.div b.val).scalar)
        ∧ (o.mod_ = 3 → b.m = 0 → a.m = 0 → puts .sc {}) ∧ (o.mod_ = 3 → b.m = 0 → 0 < a.m → puts .sc { m := 2 ^ 31 - 1, x := 127 })
        ∧ (o.mod_ = 3 → b.m = 0 → a.m < 0 → puts .sc { m := -(2 ^ 31 - 1), x := 127 })
        ∧ (o.mod_ = 4 → puts .sc a.val.sqrtScalar) ∧ (o.mod_ = 5 → puts .sc (if a.val.le b.val then a else b).val.scalar)
        ∧ (o.mod_ = 6 → puts .sc (if a.val.le b.val then b else a).val.scalar) ∧ (o.mod_ = 8 → puts .sc a.val.scalar)
        ∧ (o.mod_ = 7 → puts .sc (Q.scale o.w1.toInt (BitVec.ofNat 8 (o.w2.field 0 8)).toInt).scalar)
        ∧ (8 < o.mod_ → fails .sc 1))
      ∧ (Sequences s r o 11 →
        (0 < o.w2.toInt → o.w2.toInt ≤ o.w1.toInt →
          ∃ t, Gives s .pivPol t ∧ (jobRun t).tau = o.w1.toInt.toNat ∧ (jobRun t).delta = o.w2.toInt.toNat ∧ (jobRun t).pc = r.pc + 1)
        ∧ (¬ (0 < o.w2.toInt ∧ o.w2.toInt ≤ o.w1.toInt) → fails .pivPol 1))
      ∧ (Sequences s r o 13 →
          (o.mod_ = 0 → goes (a.val.lt b.val)) ∧ (o.mod_ = 1 → goes (b.val.le a.val)) ∧ (o.mod_ = 2 → goes (a.val.eq b.val))
          ∧ (o.mod_ = 3 → goes (!a.val.eq b.val)) ∧ (o.mod_ = 4 → goes true) ∧ (4 < o.mod_ → fails .seqBr 1))
      ∧ (Sequences s r o 10 → s.mem.ecc = [] → good o.a →
          ((o.b = 0 ∨ good o.b) → o.mod_ = 0 → fits (sq u) (2 * ea) → puts .norm (Q.sum (sq u)).sqrtScalar)
          ∧ ((o.b = 0 ∨ good o.b) → o.mod_ = 1 → puts .norm ((u.map Q.abs).foldl Q.max {}).scalar)
          ∧ ((o.b = 0 ∨ good o.b) → o.mod_ = 0 → ¬ fits (sq u) (2 * ea) → fails .norm 5)
          ∧ (good o.b → oRows s o.a = oRows s o.b →
            (o.mod_ = 2 → fits dot (ea + eb) → puts .norm (Q.sum dot).scalar)
            ∧ (o.mod_ = 3 → fits dist (2 * min ea eb) → puts .norm (Q.sum dist).sqrtScalar)
            ∧ (o.mod_ = 2 → ¬ fits dot (ea + eb) → fails .norm 5) ∧ (o.mod_ = 3 → ¬ fits dist (2 * min ea eb) → fails .norm 5))
          ∧ (good o.b → (o.mod_ = 2 ∨ o.mod_ = 3) → oRows s o.a ≠ oRows s o.b → fails .norm 2)
          ∧ (good o.b → 3 < o.mod_ → fails .norm 1))
      ∧ ∀ x ∈ ops, (s.solv.run = none ∨ unitOn s 0x16 = false ∨ s.pwr.asleep = true → Gives s x.2 s)
          ∧ (Sequences s r o n → x.1 ≠ n → Gives s x.2 s)
          ∧ (s.solv.run = some r → unitOn s 0x16 = true → s.pwr.asleep = false →
              (if natAt (jobDesc s) 8 4 = 0 then (fGet s 0x16 4).toNat else natAt (jobDesc s) 8 4) ≤ r.steps → fails x.2 7))
  ∧ (∀ (s : State) (r : JobRun) (o : MacroOp),
      let s1 := stepped s r
      let good (kind : Nat → Bool) (x : Nat) : Prop := ∃ y, input s1 x kind = .ok y ()
      let valid : Prop := s.mem.ecc = [] ∧ good isVecKind o.a ∧ (o.b = 0 ∨ good isVecKind o.b) ∧ good (· == 0x45) o.d
          ∧ good isSparseKind ((oHdr s o.d 3).field 0 24) ∧ idMapOk s o = true
      let ids := oRows s o.d + oCols s o.d
      let large := decide (127 * 65536 < 68 + 8 * ids)
      (Sequences s r o 15 → valid → o.mod_ ≤ 191 → ∃ z n, Gives s .agLd z ∧ (jobRun z).pc = r.pc + 1 ∧ 1 ≤ n ∧ n ≤ 3
          ∧ getS z o.sd = intScalar n ∧ (jobRun z).ag = n ∧ (jobRun z).matched + (jobRun z).cold = ids
          ∧ ((∀ i < 16, agValid s i = false ∨ agClass s i ≠ jobClass s) → n = 3 ∧ (jobRun z).matched = 0 ∧ z.mem = s.mem))
      ∧ (Sequences s r o 15 → 191 < o.mod_ → ∃ z, Gives s .agLd z ∧ z.solv.run = none ∧ evtPending z 0 353 = true)
      ∧ (Sequences s r o 16 → valid → follower s = false → large = false → ∃ z, Gives s .agSt z ∧ (jobRun z).pc = r.pc + 1
          ∧ getS z o.sd = intScalar 1 ∧ (jobRun z).stores.length = r.stores.length + 1 ∧ z.mem = s.mem)
      ∧ (Sequences s r o 16 → valid → (follower s || large) = true → ∃ z, Gives s .agSt z ∧ (jobRun z).pc = r.pc + 1
          ∧ getS z o.sd = intScalar 0 ∧ (jobRun z).stores = r.stores ∧ z.mem = s.mem))

/-- R229 to R231, R239, R242: in memory free of errors, `axpy`, `clip`, `gemm`, `spmv`, `solve.tri` and `schur` write each entry of D
rounded once at D's exponent, with NNZ, BOUND_W and the CRC of D, or end the job FAILED with RANGE; `fact.chol` and `fact.qr` write their
columns; `fact.ldl` writes a factor over a permutation of the rows; a macro-op on objects that fails ends the job FAILED with its reason.
-/
def Obligations.ArrayMacroOpsWriteTheirDestination : Prop :=
  ∀ (s t : State) (r : JobRun) (o : MacroOp) (w : Why),
    let s1 := stepped s r
    let good (kind : Nat → Bool) (x : Nat) : Prop := ∃ y, input s1 x kind = .ok y ()
    let dest (kind : Nat → Bool) : Prop := output s1 o.d kind = .ok s1 ()
    let dense (k : Nat) : Bool := k == 0x40
    let at_ (x k : Nat) : Q := Q.scale (oWord s x k) (oExp s x)
    let sa := (getS s o.sa).val
    let sb := (getS s o.sb).val
    let n := oRows s o.d
    let e := oExp s o.d
    let fits (l : List Q) : Bool := l.all (fun q => !outOf 32 (q.word e))
    let moves (c : Instr) (z : State) : Prop := Gives s c z ∧ (jobRun z).pc = r.pc + 1
    let fails (c : Instr) (code : Nat) : Prop := ∃ z, Gives s c z ∧ z.solv.run = none ∧ evtPending z 0 353 = true
        ∧ ∀ j, getJob s r.handle = some j → getJob z r.handle = some { j with state := 5, code := code }
    let holds (z : State) (l : List Q) : Prop :=
      (∀ k < l.length, memW z (objAddr o.d + 32 + 4 * k) = BitVec.ofInt 32 ((l.getD k {}).word e))
      ∧ memW z (objAddr o.d + 12) = Word.ofN (l.filter (fun q => q.word e != 0)).length
      ∧ memW z (objAddr o.d + 16) = Word.ofN ((l.map (fun q => (q.word e).natAbs)).foldl max 0)
      ∧ memW z (objAddr o.d + 28) = oCrc z o.d
    let writes (c : Instr) (l : List Q) : Prop :=
      (fits l = true → ∃ z, moves c z ∧ holds z l)
      ∧ (fits l = false → fails c 5 ∧ ∃ z, Gives s c z ∧ evtPending z 0 358 = true)
    let each (f : Nat → Q) (n : Nat) : List Q := (List.range n).map f
    let lim (k : Nat) : Q := ((at_ o.a k).max (at_ o.b k)).min (at_ o.b (n + k))
    let ta := (Word.ofN o.mod_).tst 0
    let tb := (Word.ofN o.mod_).tst 1
    let A := opShape s o.a ta
    let B := opShape s o.b tb
    let prods (i j : Nat) : List Q := (List.range A.2).map (fun l => (opAt s o.a ta i l).mul (opAt s o.b tb l j))
    let entries : List (Nat × Nat × Q) := (List.range (oCols s o.a)).flatMap (fun j =>
      (colOf s o.a j).map (fun x => if ta then (j, x.1, x.2) else (x.1, j, x.2)))
    let rowProds (i : Nat) : List Q := (entries.filter (fun x => x.1 == i)).map (fun x => x.2.2.mul ((vecOf s o.b).getD x.2.1 {}))
    let acc (l : List Q) : Prop := accFits (l.map (fun q => q.word (oExp s o.a + oExp s o.b))) = true
    let into : Prop := if (getS s o.sb).m = 0 then True else ∃ y, input s1 o.d (fun k => isVecKind k || dense k) = .ok y ()
    let qr := decide (oKind s o.a = 0x44)
    let m := oRows s o.a
    let k := if qr then oCols s o.a else m
    let part := o.mod_ % 4
    let f := factorOf s o.a
    let fwd (b : List Q) : List Q := if qr then qrForward s o.a b else forwardPart f b
    let bwd (y : List Q) : List Q := if qr then qrBackward s o.a y else backwardPart f y
    let c := oCols s o.b
    let bcol (j : Nat) : List Q := (List.range k).map (fun i => matAt s o.b i j)
    let log := objAddr (pivLog s)
    let apart (len : Nat) : Prop := pivLog s = 0 ∨ log + 32 + 12 * (oHdr s (pivLog s) 1).toNat ≤ objAddr o.d ∨ objAddr o.d + len ≤ log
    let factor (c : Instr) (cols : List DCol) (rows : Nat) : Prop :=
      ∃ z, moves c z ∧ (∀ j < cols.length, ∀ i < rows,
          memW z (objAddr o.d + 32 + 4 * (j * rows + i)) = BitVec.ofInt 32 ((cols.getD j {}).w.getD i 0))
        ∧ memW z (objAddr o.d + 28) = oCrc z o.d
    let full := m * (m - 1) / 2
    let ofs := ldlOfs m full
    let reuse := (Word.ofN o.mod_).tst 0 && (oHdr s o.d 5).toNat * 2 ^ 32 + (oHdr s o.d 4).toNat == fingerprint s o.a && n == m
    let given := if reuse then (List.range m).map (oNat s o.d) else (List.range m).map (oNat s o.b)
    (s.mem.ecc = [] →
      (Sequences s r o 8 → good isVecKind o.a → (o.b = 0 ∨ good isVecKind o.b) → dest isVecKind → m = n → (o.b ≠ 0 → oRows s o.b = n) →
        writes .axpy (each (fun k => ((at_ o.a k).mul sa).add (if o.b = 0 then {} else (at_ o.b k).mul sb)) n))
      ∧ (Sequences s r o 9 → good isVecKind o.a → good isVecKind o.b → dest isVecKind → m = n → oRows s o.b = 2 * n →
        writes .clip (each lim n)
        ∧ (fits (each lim n) = true → ∃ z, moves .clip z
            ∧ getS z o.sd = intScalar ((List.range n).filter (fun k => !(at_ o.a k).eq (lim k))).length))
      ∧ (Sequences s r o 6 → good dense o.a → good dense o.b → dest dense → into → A.2 = B.1 → n = A.1 → oCols s o.d = B.2 →
        (∀ i < A.1, ∀ j < B.2, acc (prods i j)) →
        writes .gemm ((List.range B.2).flatMap (fun j => (List.range A.1).map (fun i =>
          (sa.mul (Q.sum (prods i j))).add (sb.mul (denseAt s o.d i j))))))
      ∧ (Sequences s r o 7 → good isSparseKind o.a → good isVecKind o.b → dest isVecKind → into → sparseOk s o.a = true →
        oRows s o.b = A.2 → n = A.1 → (∀ i < A.1, acc (rowProds i)) →
        writes .spmv (each (fun i => (sa.mul (Q.sum (rowProds i))).add (sb.mul ((vecOf s o.d).getD i {}))) A.1))
      ∧ (Sequences s r o 4 → good isFactor o.a → good isVecKind o.b → dest isVecKind →
        (part = 0 → oRows s o.b = m → n = k → writes .solveTri (bwd (fwd (vecOf s o.b))))
        ∧ (part = 1 → oRows s o.b = m → n = m → writes .solveTri (fwd (vecOf s o.b)))
        ∧ (part = 2 → oRows s o.b = k → n = k → writes .solveTri (bwd (vecOf s o.b)))
        ∧ (part = 3 → fails .solveTri 1))
      ∧ (Sequences s r o 5 → good isFactor o.a → good (fun k => isSparseKind k || k == 0x40) o.b → good dense o.d → oRows s o.b = k →
        n = c → oCols s o.d = c → (isSparseKind (oKind s o.b) = true → sparseOk s o.b = true) → (qr = true → m = k) →
        writes .schur ((List.range c).flatMap (fun j => (List.range c).map (fun i =>
          (denseAt s o.d i j).sub (Q.sum (((bcol i).zip (bwd (fwd (bcol j)))).map (fun x => x.1.mul x.2)))))))
      ∧ (Sequences s r o 2 → good dense o.a → dest (· == 0x43) → oCols s o.a = m → n = m → oCols s o.d = m →
        factor .factChol (cholCols s1 o.a m m).2 m)
      ∧ (Sequences s r o 3 → good dense o.a → dest (· == 0x44) → oCols s o.a ≤ m → n = m → oCols s o.d = oCols s o.a →
        factor .factQr (qrCols s1 o.a m (oCols s o.a)).2 (m + 1))
      ∧ (Sequences s r o 1 → good isSparseKind o.a → (o.b = 0 ∨ good isVecKind o.b) → oCols s o.a = m → sparseOk s o.a = true →
        (List.range m).any (fun j => (colOf s o.a j).any (fun x => x.1 < j)) = false → o.d ≠ 0 → inWork (objAddr o.d) 32 = true →
        oKind s o.d = 0x42 → (reuse = true → good (· == 0x42) o.d) → (o.b ≠ 0 → oRows s o.b = m) →
        (reuse = true ∨ o.b ≠ 0 → (List.range m).all given.contains = true) →
        full ≤ (oHdr s o.d 2).toNat → inWork (objAddr o.d) (32 + ofs.2.2.2.2.2 + padW m) = true → apart (32 + ofs.2.2.2.2.2 + padW m) →
        ∃ z perm, moves .factLdl z ∧ oKind z o.d = 0x42 ∧ oRows z o.d = m ∧ (List.range m).all perm.contains = true
          ∧ (reuse = true ∨ o.b ≠ 0 → perm = given) ∧ (List.range m).map (oNat z o.d) = perm))
    ∧ ∀ c m (body : MacroOp → State → MRes Unit), (c, m, body) ∈ [(Instr.factLdl, 1, opFactLdl), (.factChol, 2, opFactChol),
        (.factQr, 3, opFactQr), (.solveTri, 4, opSolveTri), (.schur, 5, opSchur), (.gemm, 6, opGemm), (.spmv, 7, opSpmv),
        (.axpy, 8, opAxpy), (.clip, 9, opClip), (.agLd, 15, opAgLd), (.agSt, 16, opAgSt)] → Sequences s r o m →
        body o s1 = .fail t w → fails c w.code

/-- R262, R263, R278, R284, R287: a call of a library entry that a check refuses returns that status to g31; one that no check refuses
returns a status of its entry, or traps BUS_ERROR where an access of the library was refused; `cal.keep` keeps the snapshot. -/
def Obligations.LibraryCallsReturnTheirStatus : Prop :=
  ∀ (s x : State) (st : Nat) (d : Word),
    let c := getCtx s 3
    let blk := (rdG c 1).toNat
    let ends (i : Instr) (l : List Nat) : Prop :=
      ∃ t, Gives s i t ∧ ((∃ st ∈ l, reg t 3 1 = Word.ofN st ∧ (getCtx t 3).pc = rdG c 31 ∧ (getCtx t 3).live = true)
        ∨ ∃ x w pc e, t = takeTrap x .asm 3 pc w e ∧ e.cause = 3)
    let returns (i : Instr) (st : Nat) : Prop :=
      ∃ t, Gives s i t ∧ reg t 3 1 = Word.ofN st ∧ (getCtx t 3).pc = rdG c 31 ∧ (getCtx t 3).live = true
        ∧ (estEvent s blk ≠ 0 → evtPending t 0 (estEvent s blk) = true)
    let on := (blkW s blk 29).field 24 8 ≠ 0
    let w := getWork s blk
    let clear := decide (keptCount s blk ≠ 0) && decide (w.keptModel ≠ (blkW s blk 26).field 16 16)
    let kept := if clear then 0 else keptCount s blk
    let slot := if clear then 0 else (blkW s blk 27).field 0 8 % max 1 (ringSlots s blk)
    let a := keptAddr s blk slot
    (engReady s .asm = some 3 → (∀ j < 32, Near s .asm false (blk + 4 * j) 4) →
      (c.pc = 0x30000 → s.asm.copying = none →
        (libRefusal s blk ((blkW s blk 26).field 0 16) true = some (st, d) → Gives s .estRun (libReturn s st d))
        ∧ (libRefusal s blk ((blkW s blk 26).field 0 16) true = none →
            ends .estRun [0, 1, 2, 3, 0x10, 0x11, 0x12, 0x13, 0x23, 0x24]))
      ∧ (c.pc = 0x30008 → s.asm.copying = none →
        (libRefusal s blk 0 true = some (st, d) → Gives s .calKeep (libReturn s st d))
        ∧ (libRefusal s blk 0 true = none →
          (on → returns .calKeep 0x47)
          ∧ (¬ on → ¬ (blkW s blk 25 ≠ 0 ∧ w.accSnap = fGet s 0x14 7 ∧ w.accStatus < 2) → returns .calKeep 0x48)
          ∧ (¬ on → blkW s blk 25 ≠ 0 → w.accSnap = fGet s 0x14 7 → w.accStatus < 2 →
              accessCause s 0x14 true a 4 = none → accessCause s 0x14 true (a + 4 * (keptNow s blk).length - 4) 4 = none →
              ∃ t, Gives s .calKeep t ∧ reg t 3 1 = 0 ∧ reg t 3 2 = Word.ofN (bit clear) ∧ (getCtx t 3).pc = rdG c 31
                ∧ memWords t a (keptNow s blk).length = keptNow s blk
                ∧ (blkW t blk 27).field 8 8 = min (ringSlots s blk) (kept + 1)
                ∧ (blkW t blk 27).field 0 8 = (slot + 1) % max 1 (ringSlots s blk))))
      ∧ (c.pc = 0x30010 →
        (libRefusal s blk ((blkW s blk 27).field 16 16) false = some (st, d) → Gives s .calStep (libReturn s st d))
        ∧ (libRefusal s blk ((blkW s blk 27).field 16 16) false = none →
          (¬ on → keptCount s blk < 2 → returns .calStep 0x44) ∧ (on → w.calModel ≠ fPart s 0x14 6 0 16 → returns .calStep 0x44)
          ∧ ends .calStep [0x13, 0x23, 0x24, 0x40, 0x41, 0x42, 0x43, 0x44, 0x45, 0x46]))
      ∧ (c.pc = 0x2C000 → s.asm.copying = none →
        (dspRefusal s blk = .ok x (some (st, d)) → Gives s .dspRun (libReturn x st d))
        ∧ (dspRefusal s blk = .ok x none → ends .dspRun [0x10, 0x11, 0x12, 0x13, 0x14, 0x23, 0x24, 0x80, 0x81]))
      ∧ (s.asm.copying ≠ none → Gives s .estRun s ∧ Gives s .calKeep s ∧ Gives s .dspRun s))
    ∧ (engReady s .asm = none → Gives s .estRun s ∧ Gives s .calKeep s ∧ Gives s .calStep s ∧ Gives s .dspRun s)
    ∧ (engReady s .asm ≠ none → (c.pc ≠ 0x30000 → Gives s .estRun s) ∧ (c.pc ≠ 0x30008 → Gives s .calKeep s)
        ∧ (c.pc ≠ 0x30010 → Gives s .calStep s) ∧ (c.pc ≠ 0x2C000 → Gives s .dspRun s))

/-- R262, R263, R269, R282, R302: with memory free of errors, the solver memory powered, and the work region and the staging area within
the part of solver memory that ASM may write, `est.run`, `cal.step` and `dsp.run` come to their end: the entry's status is in g1,
execution goes on at g31, the block's event is raised, and the run's sequence number has moved on. -/
def Obligations.LibraryRunsComeToTheirEnd : Prop :=
  ∀ (s x : State),
    let c := getCtx s 3
    let blk := (rdG c 1).toNat
    let base := (blkW s blk 1).field 0 24
    let fits : Prop := s.mem.ecc = [] ∧ domainOn s 1 = true ∧ (∀ j < 32, Near s .asm false (blk + 4 * j) 4)
      ∧ 1 ≤ base ∧ base + (blkW s blk 2).toNat ≤ 0x140000
      ∧ 0x0800000020 ≤ stageAddr s 0 ∧ stageAddr s (fGet s 0x14 0xD).toNat ≤ 0x0802800000
    let ends (i : Instr) (l : List Nat) (event : Nat) (q : Option Nat) : Prop :=
      ∃ t st, Gives s i t ∧ st ∈ l ∧ reg t 3 1 = Word.ofN st ∧ (getCtx t 3).pc = rdG c 31 ∧ (getCtx t 3).live = true
        ∧ (event ≠ 0 → evtPending t 0 event = true) ∧ (∀ n, q = some n → blkW t blk n = blkW s blk n + 1)
    engReady s .asm = some 3 → fits →
      (c.pc = 0x30000 → s.asm.copying = none → libRefusal s blk ((blkW s blk 26).field 0 16) true = none →
        ends .estRun [0, 1, 2, 3, 0x10, 0x11, 0x12, 0x13, 0x23, 0x24] (estEvent s blk) (some 24))
      ∧ (c.pc = 0x30010 → libRefusal s blk ((blkW s blk 27).field 16 16) false = none →
        ends .calStep [0x13, 0x23, 0x24, 0x40, 0x41, 0x42, 0x43, 0x44, 0x45, 0x46] (estEvent s blk) none)
      ∧ (c.pc = 0x2C000 → s.asm.copying = none → dspRefusal s blk = .ok x none →
        accessCause s 0x14 false (fcRow s blk 0) 4 = none →
        accessCause s 0x14 false (fcRow s blk 0 + 4 * (4 + 2 * (given s (fcAddr s blk + 8)).field 0 8) * dspSteps s blk - 4) 4 = none →
        ends .dspRun [0x10, 0x11, 0x12, 0x13, 0x14, 0x23, 0x24, 0x80, 0x81] (dspEvent s blk) (some 24))

/-! ## Cyclic execution, stations, the closed loop and safety (chapters 10 to 13) -/

/-- R42, R315, R316, R320, R321: a release instant of a periodic task starts its cycle at ENTRY, or at its error entry when a cause is
pending, with cause and detail in r1 and r2 and the other registers cleared, the release tick latched and the newest frozen generation
pinned; while its cycle is still in progress, the release is skipped (R327). R315: an event task is released when its event is pending,
its cycle has ended and MIN_INT has passed; the event is consumed. R330: the idle window measures an idle time within the window and keeps
the minimum. R335, R336: a commit that has been written whole shows its sequence and raises event 4. R338 to R340: a restart completes
with event 6, running when RUN is 1. -/
def Obligations.TaskReleasesStartOneCycle : Prop :=
  (∀ (s : State) (core : Fin 8) (task : Fin 16),
      let n := core.val
      let t := task.val
      let entered (s : State) (n t : Nat) : Ctx :=
        let c := lowCause (getTask s n t).causes
        let err := (taskCfg s n t 4).field 0 20
        let entry := if c.1 ≠ 0 ∧ err ≠ 0 then err else (taskCfg s n t 3).field 0 20
        let rest : Ctx := { restCtx (getCtx s (taskCtx s n t)) with pc := Word.ofN entry, live := true }
        wrG (wrG rest 1 (Word.ofN c.1)) 2 (Word.ofN c.2)
      let cfg := taskCfg s n t 0
      let now := s.clk.tick.toNat
      coreReleases s n = true → cfg.tst 31 = true → cfg.tst 30 = false →
      now % max 1 (taskCfg s n t 1).toNat = (taskCfg s n t 2).toNat → (getTask s n t).lastInst ≠ some now →
        (inCycle s n t = false →
          ∃ z, Gives s (.taskRelease core task) z ∧ getCtx z (taskCtx s n t) = entered s n t
            ∧ (getTask z n t).relTick = now ∧ (getTask z n t).gen = curGen s ∧ (getTask z n t).cyc = (getTask s n t).cyc + 1
            ∧ z.mem = s.mem)
        ∧ (inCycle s n t = true →
          ∃ z, Gives s (.taskRelease core task) z ∧ z.ctxs = s.ctxs ∧ fBit z (4 + n) (taskField t 6) 3 = true
            ∧ (getTask z n t).skipped = (getTask s n t).skipped + 1))
  ∧ (∀ (s : State) (core : Fin 8) (task : Fin 16),
      let n := core.val
      let t := task.val
      let entered (s : State) (n t : Nat) : Ctx :=
        let c := lowCause (getTask s n t).causes
        let err := (taskCfg s n t 4).field 0 20
        let entry := if c.1 ≠ 0 ∧ err ≠ 0 then err else (taskCfg s n t 3).field 0 20
        let rest : Ctx := { restCtx (getCtx s (taskCtx s n t)) with pc := Word.ofN entry, live := true }
        wrG (wrG rest 1 (Word.ofN c.1)) 2 (Word.ofN c.2)
      let cfg := taskCfg s n t 0
      let evt := (taskCfg s n t 5).field 0 10
      coreReleases s n = true → cfg.tst 31 = true → cfg.tst 30 = true → inCycle s n t = false →
      evtPending s (24 + n) evt = true →
      (∀ r, (getTask s n t).prevRel = some r → r + (taskCfg s n t 5).field 16 16 ≤ s.clk.tick.toNat) →
        ∃ z, Gives s (.eventTaskRelease core task) z ∧ evtPending z (24 + n) evt = false ∧ inCycle z n t = true
          ∧ getCtx z (taskCtx s n t) = entered s n t)
  ∧ (∀ (s : State) (core : Fin 8),
      let n := core.val
      let w := (fGet s (4 + n) 0x00F).field 0 20
      (corePowered s n = true → s.pwr.asleep = false → s.clk.refClk = true → s.clk.tick.toNat % max 1 w = 0 →
        ∃ t, Gives s (.idleWindowEnd core) t ∧ (fGet t (4 + n) 0x010).toNat ≤ w * 250
          ∧ (fGet t (4 + n) 0x011).toNat = min (fGet s (4 + n) 0x011).toNat (fGet t (4 + n) 0x010).toNat)
      ∧ (∀ c, (getCore s n).commit = some c →
        ∃ t, Gives s (.retCommitDone core) t ∧ (getCore t n).commit = none ∧ fGet t (4 + n) 0x00B = c.seq
          ∧ evtPending t (24 + n) (64 + 16 * n + 4) = true)
      ∧ ((getCore s n).mode = .restarting → corePowered s n = true →
        ∃ t, Gives s (.restartComplete core) t ∧ (getCore t n).mode = (if fBit s (4 + n) 1 0 then .running else .stopped)
          ∧ evtPending t (24 + n) (64 + 16 * n + 6) = true ∧ (getCore t n).wbuf = []))

/-- R325, R328: `mer` of a task that is not critical ends its cycle: its registers are gone but for the latches (assumption 175), its
unsealed writes wait sealed, and its response time is measured. Meridians that the critical `mer` or the timebase starts advance the
Meridian count (R25, R318). R25, R321, R326: the first steps of a Meridian: the count advances, the sealed writes leave the write buffers,
and the freeze makes a new generation of the completed input sets. -/
def Obligations.MeridiansSealFreezeAndPublish : Prop :=
  (∀ (s : State) (h : Hdr) (k n : Nat) (core : Fin 8) (ns : Fin 10000) (busy : Bool),
      let t := k % 16
      let dec : Dec := { word := encA 0b110101 0 0 0 1, grp := .mer }
      (h.eng = .cyc core → core.val = n → k = taskCtx s n t → isCritical s n t = false →
        ∃ z, Takes s h k (.mer h ns busy) dec z ∧ getCtx z k = restCtx (getCtx s k)
          ∧ (∀ w ∈ (getCore z n).wbuf, w.task = t → w.sealedAt.isSome = true)
          ∧ fGet z (4 + n) (taskField t 7) = periodsSince s (getTask s n t).relTick ns.val)
      ∧ (h.eng = .cyc core → core.val = n → k = taskCtx s n t → isCritical s n t = true →
        Takes s h k (.mer h ns false) dec (meridian (endCycle (past s k 4) n t ns.val) ns.val)
        ∧ ∃ z, Takes s h k (.mer h ns true) dec z ∧ getCtx z k = restCtx (getCtx s k) ∧ z.pi.deferred = s.pi.deferred + 1)
      ∧ (s.clk.tick.toNat % 25 = 0 → criticalRuns s = false → s.pi.lastFree ≠ some s.clk.tick.toNat → s.pwr.asleep = false →
          s.clk.refClk = true → fPart s 2 0x00D 24 8 = 4 →
        Gives s (.freeMeridian true) { s with pi := { s.pi with lastFree := some s.clk.tick.toNat } }
        ∧ Gives s (.freeMeridian false) (meridian { s with pi := { s.pi with lastFree := some s.clk.tick.toNat } } 0))
      ∧ (s.pi.deferred ≠ 0 →
        Gives s (.deferredMeridianStart ns) (meridian { s with pi := { s.pi with deferred := s.pi.deferred - 1 } } ns.val)))
  ∧ (∀ (s : State) (ns : Nat),
      (merInstant s ns).pi.merCount = (s.pi.merCount + 1) % 4294967296
      ∧ (∀ w ∈ (dropSealed s).saf.wbuf, w.sealedAt = none) ∧ (∀ w ∈ (dropSealed s).cle.wbuf, w.sealedAt = none)
      ∧ (∀ n < 8, ∀ w ∈ (getCore (dropSealed s) n).wbuf, w.sealedAt = none)
      ∧ curGen (freeze s) = curGen s + 1
      ∧ (∀ i v, forceAt s i = none → Tbl.get 0 s.mem.ecc ((0x0200000000 + 4 * i) / 8) = 0 →
          Tbl.get 0 (pubWord s i v).pi.pub i = v ∧ ∀ j, j ≠ i → Tbl.get 0 (pubWord s i v).pi.pub j = Tbl.get 0 s.pi.pub j)
      ∧ (∀ i v, forceAt s i ≠ none → pubWord s i v = s))

/-- R366, R367, R369 to R371: an accepted response clears the misses and delivers the set; one that is not accepted is only counted; a
response that does not come misses; a rejection with a higher epoch counts and raises event 546, and one without is only counted. -/
def Obligations.StationExchangesAreJudged : Prop :=
  ∀ (s : State) (p : StnPath) (d : List Byte) (ns : Word) (station : Fin 256),
    let n := natAt d 1 1
    let x := getStn s n
    let y := getStn s station.val
    let clean (n : Nat) : Prop := CleanAt s (stnAddr n) 0x1000
    let accepted : Prop := x.on = true ∧ x.awaiting = some (wordAt d 1) ∧ natAt d 2 2 = (stnStatus s n 3).field 0 16
      ∧ natAt d 14 1 = x.nIn ∧ 16 + 4 * x.nIn ≤ d.length
    stnRuns s = true →
      ((stnRx s p d).2 = true → clean n → natAt d 0 1 = 2 →
        (accepted → ∃ t, Gives s (.stationResponse p d ns) t ∧ (getStn t n).awaiting = none ∧ stnState t n = 1
          ∧ (stnStatus t n 0).field 16 8 = 0 ∧ (stnStatus t n 0).field 0 8 = natAt d 15 1 ∧ stnStatus t n 5 = ns
          ∧ ∀ i < x.nIn, memW t (stnAddr n + 0x4C0 + 4 * i) = wordAt (d.drop 16) i)
        ∧ (¬ accepted → Gives s (.stationResponse p d ns) (stnDiscard (stnRx s p d).1)))
      ∧ ((stnRx s p d).2 = true → natAt d 0 1 = 3 →
        (x.on = true → s.twin.ep.toNat < (wordAt d 1).toNat →
          ∃ t, Gives s (.stationRejection p d) t ∧ evtPending t 0 546 = true ∧ (fGet t 0x22 0x012).field 0 8 = n % 256
            ∧ (getStn t n).awaiting = none)
        ∧ (x.on = false ∨ (wordAt d 1).toNat ≤ s.twin.ep.toNat →
          ∃ t, Gives s (.stationRejection p d) t ∧ t.stn = s.stn ∧ t.mem = s.mem ∧ t.twin.role = s.twin.role))
      ∧ (y.on = true → y.awaiting ≠ none → clean station.val →
        ∃ t, Gives s (.stationRespTimeout station) t ∧ (getStn t station.val).awaiting = none
          ∧ (stnState t station.val = 3 ↔ stnState s station.val = 3 ∨ y.missLimit ≤ satInc 8 ((stnStatus s station.val 0).field 16 8))
          ∧ (stnState t station.val ≠ 3 → stnState t station.val = 2))
      ∧ (y.on = false ∨ y.awaiting = none → Gives s (.stationRespTimeout station) s)

/-- R34, R381, R382, R384, R389, R390, R393: an accepted trigger samples the sources, sets the deadline and makes the run ready, makes it
wait for its conversions, or holds; one that finds a run in progress is lost; a deadline that passes misses; a PWM event triggers what
selects it, and a counter zero applies what waits for it. R381, R386 to R395: an engine takes the ready run with the earliest deadline;
the law instructions read sources, evaluate the law, commit an output within its limits and its rate before the deadline, or hold. At the
deadline the run misses. -/
def Obligations.LoopSlotsRunTheirLaws : Prop :=
  (∀ (s : State) (slot : Fin 512) (period : Fin 250) (ns : Word) (c : Fin 32) (n : Fin 16) (v p : Nat) (word : Word),
      let i := slot.val
      let x := getSlot s i
      let now := s.clk.tick.toNat
      let w := fGet s 0x11 (0x101 + 16 * n.val)
      let clean : Prop := CleanAt s (slotBase i) 0x200
      let occurs : Prop := if x.kind = 1 then now % max 1 x.div = x.phase ∧ x.tick ≠ some now else x.due = true
      let kind (k : Nat) : Nat := (slotW s i (4 + 3 * k)).field 29 3
      let plain (k : Nat) : Prop := kind k ∈ [0, 2, 4, 5, 7] ∨ (kind k ∈ [3, 6] ∧ (slotW s i (4 + 3 * k)).tst 28 = false)
      let trigger := Instr.slotTrigger slot period ns
      let accepts (t : State) : Prop := Gives s trigger t ∧ liveW t i 6 = ns
          ∧ ((getSlot t i).run ≠ .idle → (getSlot t i).trigs = x.trigs + 1
              ∧ (getSlot t i).dl = now * 250 + period.val + (slotW s i 0).field 0 16)
      let pwm (ev : BitVec 2) : Prop := fBit s 0x10 (0x100 + 4 * c.val) 31 = true ∧ domainOn s 4 = true ∧ s.pwr.asleep = false
          ∧ (ev = 0 → zeroDue s c.val = true)
      (cleTakes s = true → x.on = true → occurs → clean →
        (x.run = .idle → x.trigs ≠ 0 →
          ((∀ k < 4, plain k) → ∃ t, accepts t ∧ (getSlot t i).run = .ready)
          ∧ ((∀ k < 4, plain k ∨ kind k = 1) → (∃ k < 4, kind k = 1) →
              ∃ t, accepts t ∧ ((getSlot t i).run = .waiting ∨ ((getSlot t i).run = .idle ∧ evtPending t 0 258 = true)))
          ∧ ∃ t, accepts t ∧ ((getSlot t i).run ≠ .idle ∨ evtPending t 0 258 = true))
        ∧ (x.run ≠ .idle → ∃ t, Gives s trigger t ∧ evtPending t 0 257 = true ∧ (getSlot t i).run = x.run
            ∧ (getSlot t i).trigs = x.trigs + 1 ∧ liveW t i 3 = Word.ofN (satInc 32 (liveW s i 3).toNat)))
      ∧ (cleTakes s = false ∨ (x.on = true ∧ ¬ occurs) → Gives s trigger s)
      ∧ (x.run ≠ .idle → x.dl < (now + 1) * 250 → s.pwr.asleep = false → clean →
          ∃ t, Gives s (.slotDeadline slot) t ∧ evtPending t 0 256 = true ∧ (getSlot t i).run = .idle ∧ liveW t i 5 = liveW s i 5)
      ∧ (x.run = .idle ∨ (now + 1) * 250 ≤ x.dl ∨ s.pwr.asleep = true → Gives s (.slotDeadline slot) s)
      ∧ (∀ ev : BitVec 2, (pwm ev → w.tst 16 = true → w.field 19 5 = c.val → w.field 17 2 = ev.toNat →
            ∃ t, Gives s (.pwmEvent c ev) t ∧ (getConv t n.val).due = true)
          ∧ (pwm ev → ∃ t, Gives s (.pwmEvent c ev) t ∧ (ev ≠ 0 → t.cfg = s.cfg))
          ∧ (¬ pwm ev → Gives s (.pwmEvent c ev) s))
      ∧ (pwm 0 → Tbl.find s.cfg.pend 0x10 = none →
          (Tbl.get none s.cle.cmpa c.val = some v →
            ∃ t, Gives s (.pwmEvent c 0) t ∧ fGet t 0x10 (0x103 + 4 * c.val) = Word.ofN v ∧ Tbl.get none t.cle.cmpa c.val = none)
          ∧ (Tbl.get none s.cle.cmpa c.val = none → ∃ t, Gives s (.pwmEvent c 0) t ∧ t.cfg = s.cfg))
      ∧ (pwm 0 → pendFind s 0x10 (0x101 + 4 * c.val) = some word → pendFind s 0x10 (0x100 + 4 * c.val) = none →
          ∃ t, Gives s (.pwmEvent c 0) t ∧ fGet t 0x10 (0x101 + 4 * c.val) = word)
      ∧ (pwm 0 → fBit s 0x10 (0x100 + 4 * c.val) 28 = true → alignedZero s c.val = some p →
          ∃ t, Gives s (.pwmEvent c 0) t ∧ Tbl.find t.cle.zeroAt c.val = some p))
  ∧ (∀ (s : State) (eng : Fin 8) (h : Hdr) (k n : Nat) (rd ra kf : Reg) (l : LawRun),
      let dec (rd ra rb : Reg) (func : Nat) (bad : Bool) : Dec := { word := encA 0b111100 rd ra rb func, grp := .law, bad := bad }
      let now := s.clk.tick.toNat
      let low := (slotW s n 17).toInt
      let high := (slotW s n 18).toInt
      let rate := (slotW s n 19).toInt
      let prev := (liveW s n 5).toInt
      let u (x : Int) : Int :=
        if tracking s n then max low (min high (srcOf s n 3))
        else if rate = 0 then max low (min high x) else max (prev - rate) (min (prev + rate) (max low (min high x)))
      let commits (t : State) (x : Int) : Prop := (getSlot t n).run = .idle ∧ liveW t n 5 = BitVec.ofInt 32 (u x)
      let misses (t : State) : Prop := (getSlot t n).run = .idle ∧ evtPending t 0 256 = true ∧ liveW t n 5 = liveW s n 5
      let entry := (slotW s n 3).field 0 20
      let law := [(Instr.lpSrc h rd kf, dec rd 0 kf 0 (decide (3 < kf.toNat))), (.lpLaw h rd, dec rd 0 0 1 false),
        (.lpOut h ra, dec 0 ra 0 2 false), (.lpHold h, dec 0 0 0 3 false)]
      let start := Instr.lawRunStart eng
      (slotOf s eng.val = none → domainOn s 4 = true → s.pwr.asleep = false → nextRun s = some n → n < 512 → s.mem.ecc = [] →
        (entry ≠ 0 → ∃ t, Gives s start t ∧ (getSlot t n).run = .running eng.val ∧ getCtx t (32 + eng.val) = freshCtx entry)
        ∧ (entry = 0 → now * 250 < (getSlot s n).dl → ∃ t, Gives s start t ∧ commits t (lawOf s n).v)
        ∧ (entry = 0 → (getSlot s n).dl ≤ now * 250 → ∃ t, Gives s start t ∧ misses t))
      ∧ (slotOf s eng.val ≠ none ∨ domainOn s 4 = false ∨ s.pwr.asleep = true ∨ nextRun s = none → Gives s start s)
      ∧ (h.eng = .cle eng → slotOf s eng.val = some n → n < 512 → s.mem.ecc = [] →
        (kf.toNat ≤ 3 → Writes s h k (.lpSrc h rd kf) (dec rd 0 kf 0 (decide (3 < kf.toNat))) rd (BitVec.ofInt 32 (srcOf s n kf.toNat)))
        ∧ (∃ t, Takes s h k (.lpLaw h rd) (dec rd 0 0 1 false) t ∧ (getSlot t n).law = some (lawOf s n)
            ∧ (rd ≠ 0 → reg t k rd = BitVec.ofInt 32 (lawOf s n).v))
        ∧ ((getSlot s n).law = some l → now * 250 < (getSlot s n).dl →
            ∃ t, Takes s h k (.lpOut h ra) (dec 0 ra 0 2 false) t ∧ commits t (reg s k ra).toInt)
        ∧ ((getSlot s n).law = some l → (getSlot s n).dl ≤ now * 250 →
            ∃ t, Takes s h k (.lpOut h ra) (dec 0 ra 0 2 false) t ∧ misses t)
        ∧ ((getSlot s n).law = none → Traps s h k (.lpOut h ra) (dec 0 ra 0 2 false) { cause := 1 })
        ∧ (∃ t, Takes s h k (.lpHold h) (dec 0 0 0 3 false) t ∧ (getSlot t n).run = .idle ∧ liveW t n 5 = liveW s n 5))
      ∧ (h.eng = .cle eng → slotOf s eng.val = none → ∀ x ∈ law, Takes s h k x.1 x.2 (past s k 4)))

/-- R403, R405, R407: a safety-cycle instant with no fault and no restart requested starts the cycle: the input image is written as the
program reads it, the newest frozen inputs are pinned and the cycle counted. While the earlier cycle has not ended, SAF enters the safe
state with cause OVERRUN instead. R6, R406, R408, R410, R413: `mer` on SAF in time takes the request word, limited to the enabled outputs,
ends the cycle and re-arms the monitor; a request that is no byte is a checker fault, and an uncorrectable one a memory fault. At the
monitor's expiry or the next release the deadline decides. -/
def Obligations.SafetyCyclesCommandTheOutputs : Prop :=
  (∀ (s : State) (m : SafImage),
      let now := s.clk.tick.toNat
      s.saf.image = some m → now % (max 1 m.cycle * 100) = 0 → s.saf.lastRel ≠ some now → s.pwr.asleep = false →
      fBit s 0x0C 2 0 = false → s.saf.safe = false → s.clk.refClk = true →
        (s.saf.inCycle = false → ∃ t, Gives s (.safetyRelease false false) t ∧ t.saf.inCycle = true ∧ t.saf.relTick = now
          ∧ t.saf.cyc = s.saf.cyc + 1 ∧ t.saf.gen = curGen s ∧ t.saf.safe = false
          ∧ memW t 0x0180070004 = Word.ofN s.saf.faults.toNat ∧ memW t 0x018007000C = Word.ofN now)
        ∧ (s.saf.inCycle = true → ∀ a b, ∃ t, Gives s (.safetyRelease a b) t ∧ t.saf.safe = true ∧ t.saf.cause = 5
          ∧ (settle s t).pins.so = 0))
  ∧ (∀ (s : State) (ns : Nat) (m : SafImage),
      let req := memW s 0x0180070040
      let ack := memW s 0x0180070044
      let late : Prop := ∃ d, s.saf.monitor = some d ∧ d ≤ s.clk.tick.toNat
      let ready : Prop := ¬ late ∧ safReleaseNow s = false ∧ Tbl.get 0 s.mem.ecc (0x0180070040 / 8) = 0
      let off (cause : Nat) : Prop := s.saf.safe = false → (safMer s ns).saf.safe = true ∧ (safMer s ns).saf.cause = cause
      s.saf.image = some m →
        (ready → req.toNat < 256 → ack.toNat < 65536 → gateFind s (0x0C * 64) = none →
          let t := safMer s ns
          t.saf.cmd = req.setWidth 8 &&& m.mask ∧ t.saf.inCycle = false
          ∧ t.saf.monitor = some (s.clk.tick.toNat + 150 * m.cycle) ∧ memW t 0x0180070044 = 0
          ∧ ∀ w ∈ t.saf.wbuf, w.sealedAt.isSome = true)
        ∧ (ready → 256 ≤ req.toNat ∨ 65536 ≤ ack.toNat → off 1)
        ∧ (late → off 4) ∧ (¬ late → safReleaseNow s = true → off 5)
        ∧ (¬ late → safReleaseNow s = false → 3 ≤ Tbl.get 0 s.mem.ecc (0x0180070040 / 8) → off 7)
        ∧ ∀ (h : Hdr) (k : Nat) (x : Fin 10000) (busy : Bool), h.eng = .saf →
            Takes s h k (.mer h x busy) { word := encA 0b110101 0 0 0 1, grp := .mer } (safMer (past s k 4) x.val))

/-- R408, R412, R418: what forces the safe state turns every safety output off and latches its cause: the monitor's expiry, a readback
mismatch, the loss of REF_CLK. -/
def Obligations.SafeStateTurnsTheOutputsOff : Prop :=
  ∀ (s : State) (n : Fin 8) (level : Bool) (d : Nat),
    let off (t : State) (cause : Nat) : Prop :=
      t.saf.safe = true ∧ t.saf.cause = cause ∧ t.saf.cmd = 0 ∧ t.saf.inCycle = false ∧ (settle s t).pins.so = 0
    s.saf.safe = false →
      (s.saf.monitor = some d → d ≤ s.clk.tick.toNat → ∃ t, Gives s .safetyMonitorExpiry t ∧ off t 4)
      ∧ (level ≠ s.saf.soPins.getLsbD n.val → ∃ t, Gives s (.readbackMismatch n level) t ∧ off t 6)
      ∧ (s.clk.refClk = true → ∃ t, Gives s .refClkLoss t ∧ off t 8 ∧ t.clk.refClk = false
          ∧ (settle s t).pins.zenithOut = false)

/-- R415 to R417: filtered inputs, test pulses and discrepancies change the input states and faults they name, and nothing else of the
filtered inputs. R419: an off-pulse takes an enabled output that is on off, once per interval, and its end gives the pin back to the
command. -/
def Obligations.SafetyInputsAndPulsesAreChecked : Prop :=
  (∀ (s : State) (i : Fin 16) (level : Bool) (p : Fin 4) (high : BitVec 16) (k : Fin 8),
      (∃ t, Gives s (.siFilterChange i level) t ∧ t.saf.filt.getLsbD i.val = level
        ∧ ∀ j : Fin 16, j ≠ i → t.saf.filt.getLsbD j.val = s.saf.filt.getLsbD j.val)
      ∧ (s.saf.image.isSome = true → s.saf.tpLow = 0 → ∃ t, Gives s (.testPulse p) t
          ∧ ∀ q : Fin 4, (settle s t).pins.tp.getLsbD q.val = decide (q ≠ p))
      ∧ (s.saf.tpLow.getLsbD p.val = true → s.saf.enabled i.val = true → siSource s i.val = p.val + 1 →
          ∃ t, Gives s (.testPulseEnd p high) t ∧ t.saf.tpLow = 0
            ∧ (high.getLsbD i.val = true → t.saf.fTest.getLsbD i.val = true ∧ t.saf.passed.getLsbD i.val = false)
            ∧ (high.getLsbD i.val = false → t.saf.passed.getLsbD i.val = true))
      ∧ (pairDisagrees s k.val = true → ∃ t, Gives s (.pairDiscrepancy k) t ∧ t.saf.fPair.getLsbD (2 * k.val) = true
          ∧ t.saf.fPair.getLsbD (2 * k.val + 1) = true))
  ∧ (∀ (s : State) (n : Fin 8),
      (s.saf.safe = false → s.saf.cmd.getLsbD n.val = true → s.saf.pulse.getLsbD n.val = false →
        (opInterval s n.val).2 ≤ s.clk.tick.toNat → Tbl.get 0 s.saf.pulsed n.val ≠ (opInterval s n.val).1 + 1 →
        ∃ t, Gives s (.offPulseStart n) t ∧ (settle s t).pins.so.getLsbD n.val = false ∧ t.saf.cmd = s.saf.cmd)
      ∧ (s.saf.safe = false → ∃ t, Gives s (.offPulseEnd n) t ∧ (settle s t).pins.so.getLsbD n.val = s.saf.cmd.getLsbD n.val))

/-! ## Networks and buses (chapters 14 and 15) -/

/-- R18, R428 to R434: links, the service of a port's queues, and the frames that end in NET. R435: NET answers ARP and ICMP echo for
MGT_IP on the path of the request, passes whole UDP datagrams to the management link, and keeps fragments for 1 s. R436 to R440: an
accepted report is written to its slot as one update; another is counted; a slot whose report is older than its age becomes stale. -/
def Obligations.PortsAndManagementPathCarryFrames : Prop :=
  (∀ (s s1 : State) (port : Fin 4) (plane : Fin 3) (r : RxHdr) (kind : Byte) (full lanB : Bool) (seq : BitVec 16) (f : Frame)
      (rest : List Frame),
      let p := port.val
      let queue (s : State) (k : Nat) : List Frame := (Tbl.find s.net.txq k).getD []
      let late (q : Nat) (g : Frame) : Prop := q ≠ plane.val ∧ txQueue s p q ≠ [] ∧ 154200 < owedAfter s p q (lineBytes g)
      let served := txServe s p plane.val
      let send := Instr.portTransmit port plane
      let ends := Instr.rxFrameDiscard r kind full
      (netRuns s = true → fBit s 0x18 (portField p 0) 31 = true → portUp s p = false →
        ∃ t, Gives s (.linkUp port) t ∧ portUp t p = true ∧ evtPending t 0 384 = true)
      ∧ (netRuns s = false ∨ fBit s 0x18 (portField p 0) 31 = false ∨ portUp s p = true → Gives s (.linkUp port) s)
      ∧ (portUp s p = true → ∃ t, Gives s (.linkDown port) t ∧ portUp t p = false ∧ evtPending t 0 385 = true
          ∧ ∀ q < 3, queue t (3 * p + q) = [])
      ∧ (portUp s p = false → Gives s (.linkDown port) s)
      ∧ (portUp s p = true → portMac s p ≠ 0 → txPick (queue s (3 * p + served)) = some (f, rest) →
          ∃ t, Gives s send t ∧ t.net.sent = some f ∧ queue t (3 * p + served) = rest
            ∧ ∀ k, k ≠ 3 * p + served → queue t k = queue s k)
      ∧ (txPick (queue s (3 * p + plane.val)) = some (f, rest) →
          ((∀ q < 3, ¬ late q f) → served = plane.val)
          ∧ (∀ q < 3, late q f → late served f ∧ owedAfter s p q (lineBytes f) ≤ owedAfter s p served (lineBytes f)))
      ∧ (portUp s p = false ∨ portMac s p = 0 ∨ txPick (queue s (3 * p + plane.val)) = none → Gives s send s)
      ∧ (portUp s r.port.val = false → Gives s ends s)
      ∧ (portUp s r.port.val = true → frameOk s r = false → Gives s ends (fInc s 0x18 (portField r.port.val 5) 0 32))
      ∧ (portUp s r.port.val = true → frameOk s r = true → prpOn s = true → r.port.val < 2 → r.trailer = some (seq, lanB) →
          lanB = (r.port.val == 1) →
          let again := (prpFresh s).any (fun e => e.src == r.src.toNat && e.seq == seq.toNat)
          ((netRx s r).2 = !again)
          ∧ (again = true → ∃ t, Gives s ends t ∧ fPart t 0x18 0x00E 0 16 = (fPart s 0x18 0x00E 0 16 + 1) % 65536)
          ∧ (again = false → ∃ e ∈ (netRx s r).1.net.prp, e.src = r.src.toNat ∧ e.seq = seq.toNat ∧ e.tick = s.clk.tick.toNat))
      ∧ (netRx s r = (s1, false) → Gives s ends s1 ∧ (r.ethertype = 0x88FB → Gives s (.prpSupervisionRx r) s1))
      ∧ (netRx s r = (s1, true) →
          (r.ethertype = 0x88FB → Gives s (.prpSupervisionRx r) s1)
          ∧ (rxClass s1 r kind = .other → Gives s ends (fInc s1 0x18 (portField r.port.val 6) 0 32))
          ∧ (rxClass s1 r kind = .ptpOther → Gives s ends s1)
          ∧ (rxClass s1 r kind = .supervision → Gives s ends s)
          ∧ (rxClass s1 r kind ∉ [.other, .ptpOther, .supervision] →
              (full = false → Gives s ends s)
              ∧ (full = true → ∃ t, Gives s ends t ∧ evtPending t 0 388 = true
                  ∧ fPart t 0x18 (portField r.port.val 6) 0 32 = satInc 32 (fPart s1 0x18 (portField r.port.val 6) 0 32))))
      ∧ (r.ethertype ≠ 0x88FB → Gives s (.prpSupervisionRx r) s)
      ∧ (netRuns s = true → prpOn s = true → (queue s 0).length < 256 → (queue s 3).length < 256 →
          ∃ t, Gives s .prpSupervisionTx t ∧ t.net.prpSeq = (s.net.prpSeq + 1) % 65536
            ∧ ∀ k ∈ [0, 3], ∃ g, queue t k = queue s k ++ [g] ∧ g.kind = 0x88FB ∧ g.dst = 0x0001004E1501)
      ∧ (netRuns s = false ∨ prpOn s = false → Gives s .prpSupervisionTx s))
  ∧ (∀ (s s1 : State) (r : RxHdr) (path : MgtPath) (mac : BitVec 48) (ip target : Word) (d d0 : List Byte) (ident : BitVec 16) (proto : Byte)
      (hdr ofs : Nat) (more : Bool) (idx : Fin 4) (x y : Reasm),
      let queue (s : State) (k : Nat) : List Frame := (Tbl.find s.net.txq k).getD []
      let one (t : State) (kind : Nat) : Prop := ∃ f, t.net.mgtOut = [f] ∧ f.kind = kind ∧ f.dst = mac.toNat
      let back (t : State) (kind : Nat) : Prop := ∃ f, queue t (3 * r.port.val + 2) = queue s (3 * r.port.val + 2) ++ [f]
        ∧ f.kind = kind ∧ f.dst = mac.toNat ∧ f.vlan = r.vlan.toNat
      let udp (d : List Byte) : Prop := natAt d 2 1 * 256 + natAt d 3 1 = 38416
      let all := [Instr.arpRequest path mac ip target, .icmpEcho path mac ip target d, .ipFragment path ip target ident proto hdr ofs more d]
      (mgtRx (clearOut s) path = (s1, false) → ∀ i ∈ all, Gives s i s1)
      ∧ (mgtRx (clearOut s) path = (s1, true) → target = 0 ∨ target ≠ fGet s1 0x18 7 → ∀ i ∈ all, Gives s i s1)
      ∧ (mgtRx (clearOut s) .mgtEth = (s1, true) → target ≠ 0 → target = fGet s1 0x18 7 →
        (∃ t, Gives s (.arpRequest .mgtEth mac ip target) t ∧ one t 0x0806)
        ∧ (d.length ≤ 1468 → ∃ t, Gives s (.icmpEcho .mgtEth mac ip target d) t ∧ one t 0x0800)
        ∧ (s1.net.reasm = [] → hdr + d.length ≤ 4184 → d ≠ [] →
          (udp d → ∃ t, Gives s (.ipFragment .mgtEth ip target ident 17 hdr 0 false d) t ∧ t.net.toMgt = d.drop 8 ∧ t.net.reasm = [])
          ∧ (¬ udp d ∨ proto ≠ 17 → Gives s (.ipFragment .mgtEth ip target ident proto hdr 0 false d) s1)
          ∧ (∃ t y, Gives s (.ipFragment .mgtEth ip target ident proto hdr 0 true d) t ∧ t.net.reasm = [y] ∧ y.parts = [(0, d)]
            ∧ y.start = s1.clk.tick.toNat ∧ t.net.toMgt = s1.net.toMgt))
        ∧ (s1.net.reasm = [y] → y.path = 4 → y.src = ip.toNat → y.ident = ident.toNat → y.proto = 17 → y.parts = [(0, d0)] →
            y.total = none → d0 ≠ [] → d ≠ [] → d0.length + d.length + max y.hdr hdr ≤ 4184 → udp (d0 ++ d) →
            ∃ t, Gives s (.ipFragment .mgtEth ip target ident 17 hdr d0.length false d) t ∧ t.net.toMgt = (d0 ++ d).drop 8
              ∧ t.net.reasm = [])
        ∧ (s1.net.reasm.length = 4 → (∀ z ∈ s1.net.reasm, z.ident ≠ ident.toNat) → d ≠ [] → hdr + ofs + d.length ≤ 4184 →
            Gives s (.ipFragment .mgtEth ip target ident proto hdr ofs true d) s1))
      ∧ (mgtRx (clearOut s) (.field r) = (s1, true) → target ≠ 0 → target = fGet s1 0x18 7 → prpOn s = false →
          (queue s (3 * r.port.val + 2)).length < 256 →
          (∃ t, Gives s (.arpRequest (.field r) mac ip target) t ∧ back t 0x0806)
          ∧ (d.length ≤ 1468 → ∃ t, Gives s (.icmpEcho (.field r) mac ip target d) t ∧ back t 0x0800))
      ∧ (s.net.reasm[idx.val]? = some x →
          (x.start + 100000 ≤ s.clk.tick.toNat → ∃ t, Gives s (.reassemblyTimeout idx) t ∧ t.net.reasm = s.net.reasm.erase x)
          ∧ (s.clk.tick.toNat < x.start + 100000 → Gives s (.reassemblyTimeout idx) s))
      ∧ (s.net.reasm[idx.val]? = none → Gives s (.reassemblyTimeout idx) s))
  ∧ (∀ (s s1 : State) (r : RxHdr) (d : List Byte) (slot : Fin 2048) (full : Bool),
      let n := natAt d 2 2
      let c := natAt d 6 1
      let report := Instr.substationReport r d full
      let stale : Prop := unitOn s 0x18 = true ∧ (slotSt s slot.val).state = 2
        ∧ (slotSt s slot.val).tick + slotAge s slot.val * 100 < s.clk.tick.toNat
      (netRx s r = (s1, true) → rxClass s1 r (d.headD 0) = .report →
        (full = false → reportOk s1 r d = true → CleanAt s (slotAddr n) 0x200 → ∃ t, Gives s report t ∧ (slotSt t n).state = 2
          ∧ (slotSt t n).tick = s1.clk.tick.toNat ∧ memW t (slotAddr n + 12) = Word.ofN (2 * 2 ^ 28 + c * 2 ^ 16 + natAt d 4 2)
          ∧ memW t (slotAddr n + 16) = Word.ofN s1.time.ns ∧ memW t (slotAddr n + 20) = Word.ofN s1.time.sec
          ∧ (∀ i < 122, memW t (slotAddr n + 24 + 4 * i) = if i < c then wordAt (d.drop 8) i else 0)
          ∧ ((slotSt s1 n).state ≠ 2 → evtPending t 0 387 = true)
          ∧ ∀ m, m ≠ n → slotSt t m = slotSt s1 m)
        ∧ (full = false → reportOk s1 r d = false → Gives s report (fInc s1 0x18 0x00D 0 32))
        ∧ (full = true → ∃ t, Gives s report t ∧ evtPending t 0 388 = true ∧ t.net = s1.net ∧ t.mem = s1.mem))
      ∧ (netRx s r = (s1, false) ∨ (netRx s r = (s1, true) ∧ rxClass s1 r (d.headD 0) ≠ .report) → Gives s report s1)
      ∧ (stale → ∃ t, Gives s (.slotStale slot) t ∧ (slotSt t slot.val).state = 3 ∧ evtPending t 0 386 = true
          ∧ (CleanAt s (slotAddr slot.val) 0x200 →
              memW t (slotAddr slot.val + 12) = (memW s (slotAddr slot.val + 12)).setField 28 4 3))
      ∧ (¬ stale → Gives s (.slotStale slot) s))

/-- R444 to R448: PTP: offsets and the servo, path delays, requests and answers, and the selection of the master. -/
def Obligations.PtpMessagesDriveNetworkTime : Prop :=
  ∀ (s s1 : State) (r : RxHdr) (domain : Byte) (who : BitVec 64) (t1 t2 corr : Int) (seq : BitVec 16) (d diff : Dy) (ds : Announce)
    (m : Master) (req : Dy),
    let mine : Prop := domain.toNat = fPart s1 0x19 2 24 8
    let sync := (((stampNs t2).add (tsCorr s1 r.port.val 16)).sub (stampNs t1)).sub (stampNs corr)
    let delayed := (diff.add (((stampNs t2).sub req).sub (stampNs corr))).shr 1
    let peer := (((((stampNs t2).add (tsCorr s1 r.port.val 16)).sub req).sub (stampNs t1)).sub (stampNs corr)).shr 1
    let queue (s : State) : List Frame := (Tbl.find s.net.txq (3 * ptpPort s)).getD []
    let thr := (fGet s1 0x19 0x00A).toNat
    let gain (f : Nat) : Dy := { n := (fGet s1 0x19 f).toNat, e := 16 }
    let o := sync.sub d
    let far : Prop := thr ≠ 0 ∧ o.abs.le (Dy.int thr) = false
    let integral := (s1.time.integ.add ((gain 9).mul o)).clamp (rateLim s1)
    let syncs := Instr.syncRx r domain who t1 t2 corr
    let resp := Instr.delayRespRx r domain who seq t2 corr
    let presp := Instr.pdelayRespRx r seq t1 t2 corr
    let asks (i : Instr) : Prop := ∃ t, Gives s i t ∧ t.time.reqSeq = (s.time.reqSeq + 1) % 65536
      ∧ t.time.reqStamp = some (s.time.reqSeq, (stampNs t1).add (tsCorr s (ptpPort s) 0))
      ∧ ((queue s).length < 256 → ∃ f, queue t = queue s ++ [f] ∧ f.kind = 0x88F7)
    let filters (i : Instr) (raw : Dy) : Prop :=
      (raw.isNeg = false → ∃ t, Gives s i t ∧ t.time.reqStamp = none ∧ t.time.badDelay = false
        ∧ t.time.delay = some (match s1.time.delay with
            | none => raw
            | some x => x.add ((raw.sub x).shr (fPart s1 0x19 0x00C 8 4))))
      ∧ (raw.isNeg = true → Gives s i { s1 with time := { s1.time with reqStamp := none, badDelay := true } })
    (ptpRx s r = (s1, false) → ∀ i ∈ [syncs, resp, presp, .pdelayReqRx r seq, .announceRx r domain ds], Gives s i s1)
    ∧ (ptpRx s r = (s1, true) →
      (mine → s1.time.master = some who.toNat →
        (s1.time.delay = none → Gives s syncs { s1 with time := { s1.time with syncDiff := some sync } })
        ∧ (s1.time.delay = some d → s1.time.badDelay = true →
            Gives s syncs { s1 with time := { s1.time with syncDiff := some sync, badDelay := false } })
        ∧ (s1.time.delay = some d → s1.time.badDelay = false → Tbl.find s1.cfg.pend 0x19 = none →
          ∃ t, Gives s syncs t ∧ t.time.syncDiff = some sync ∧ fGet t 0x19 0x015 = BitVec.ofInt 32 (clampS 32 (o.round 1))
            ∧ (¬ far → t.time.integ = integral ∧ t.time.rate = (((gain 8).mul o).add integral).neg.round 1000
                ∧ ntc48 t = ntc48 s1)
            ∧ (far → t.time.state = 1 ∧ evtPending t 0 402 = true ∧ t.time.rate = s1.time.rate
                ∧ fPart t 0x19 0x014 0 16 = satInc 16 (fPart s1 0x19 0x014 0 16)))
        ∧ (s1.time.reqStamp = some (seq.toNat, req) → s1.time.syncDiff = some diff → isE2e s1 = true → filters resp delayed))
      ∧ (¬ mine ∨ s1.time.master ≠ some who.toNat → Gives s syncs s1 ∧ Gives s resp s1)
      ∧ (isE2e s1 = false ∨ s1.time.syncDiff = none ∨ (s1.time.reqStamp.map (·.1)) ≠ some seq.toNat → Gives s resp s1)
      ∧ (s1.time.reqStamp = some (seq.toNat, req) → isE2e s1 = false → filters presp peer)
      ∧ (isE2e s1 = true ∨ (s1.time.reqStamp.map (·.1)) ≠ some seq.toNat → Gives s presp s1)
      ∧ ((queue s1).length < 255 →
          (fBit s1 0x19 3 8 = false → ∃ t f, Gives s (.pdelayReqRx r seq) t ∧ queue t = queue s1 ++ [f] ∧ f.kind = 0x88F7)
          ∧ (fBit s1 0x19 3 8 = true → ∃ t f g, Gives s (.pdelayReqRx r seq) t ∧ queue t = queue s1 ++ [f, g] ∧ f.kind = 0x88F7
              ∧ g.kind = 0x88F7))
      ∧ (mine → ∃ t e, Gives s (.announceRx r domain ds) t ∧ e ∈ t.time.masters ∧ e.ds = ds ∧ e.tick = s1.clk.tick.toNat)
      ∧ (¬ mine → Gives s (.announceRx r domain ds) s1)
      ∧ (mine → s1.time.masters = [m] → m.ds.sender = ds.sender → m.ds.senderPort = ds.senderPort → 1 ≤ m.count →
          s1.clk.tick.toNat ≤ m.tick + 4 * announceTicks ds → s1.time.master = none →
          ∃ t, Gives s (.announceRx r domain ds) t ∧ t.time.master = some ds.sender.toNat ∧ t.time.state = 1 ∧ evtPending t 0 404 = true))
    ∧ (ptpRuns s = true → netRuns s = true →
      (isE2e s = true → s.time.master.isSome = true → asks (.delayReqTx t1))
      ∧ (isE2e s = false → asks (.pdelayReqTx t1)))
    ∧ (ptpRuns s = false ∨ netRuns s = false ∨ isE2e s = false ∨ s.time.master = none → Gives s (.delayReqTx t1) s)
    ∧ (ptpRuns s = false ∨ netRuns s = false ∨ isE2e s = true → Gives s (.pdelayReqTx t1) s)
    ∧ (s.time.masters = [m] → s.time.master = some m.ds.sender.toNat → ptpRuns s = true →
        (m.tick + fPart s 0x19 2 0 8 * announceTicks m.ds ≤ s.clk.tick.toNat →
          ∃ t, Gives s .announceReceiptTimeout t ∧ t.time.master = none ∧ t.time.masters = [] ∧ evtPending t 0 405 = true
            ∧ (s.time.state = 2 → t.time.state = 3 ∧ t.time.rate = s.time.integ.neg.round 1000))
        ∧ (s.clk.tick.toNat < m.tick + fPart s 0x19 2 0 8 * announceTicks m.ds → Gives s .announceReceiptTimeout s))
    ∧ (ptpRuns s = false ∨ (∀ x ∈ s.time.masters, s.time.master ≠ some x.ds.sender.toNat) → Gives s .announceReceiptTimeout s)

/-- R466 to R468: before a start of frame a running controller selects the pending frame of the lowest arbitration field; a frame that
completes leaves its buffer idle with its outcome; a lost arbitration leaves it pending, or ends it where it is cancelled; a controller
whose RUN is 0 stops behind its frame; an integrating controller joins. R469, R470: an error shows its code and moves the counters; a
transmit counter above 255 takes the controller off the bus, and 128 idle sequences end its recovery. A listening controller only shows
the code. -/
def Obligations.CanFramesAreSentAndErrorsCounted : Prop :=
  (∀ (s : State) (c : Fin 8) (t : CanTx) (b dly : Nat) (won : Bool) (stamp : Word),
      let u := canUnit c.val
      let x := getCan s c.val
      let start := Instr.canTxStart c
      let ready : Prop := s.clk.refClk = true ∧ fBit s u 1 0 = true ∧ (canState s c.val = 2 ∨ canState s c.val = 3)
        ∧ canListen s c.val = false ∧ x.active = none
      let ended (r : State) (outcome : Nat) (at_ : Word) : Prop := txPending r c.val b = false
        ∧ (memW r (canBuf c.val b + 4)).field 8 8 = outcome ∧ memW r (canBuf c.val b + 8) = at_ ∧ (getCan r c.val).active = none
        ∧ b ∈ (getCan r c.val).outcome ∧ evtPending r 0 (416 + 16 * c.val + 2) = true
      (canOn s c.val = true →
        (ready → txCandidates s c.val ≠ [] → ∃ e ∈ txCandidates s c.val, (∀ f ∈ txCandidates s c.val, e.1 ≤ f.1)
            ∧ Gives s start (setCan s c.val { x with active := some e.2 }))
        ∧ (¬ ready ∨ txCandidates s c.val = [] → Gives s start s)
        ∧ (fBit s u 1 0 = true → x.active = some t → t.buf = some b → b < 128 → CleanAt s (canBuf c.val b) 0x80 →
          (∃ r, Gives s (.canTxDone c true stamp dly) r ∧ ended r 0x10 stamp ∧ (getCan r c.val).tec = x.tec - 1)
          ∧ (t.cancel = true → ∃ r, Gives s (.canTxDone c false stamp dly) r ∧ ended r 0x11 0))
        ∧ (fBit s u 1 0 = true → x.active = some t → t.cancel = false ∨ t.buf = none →
            Gives s (.canTxDone c false stamp dly) (setCan s c.val { x with active := none }))
        ∧ (fBit s u 1 0 = true → x.active = some t → t.buf = none → ∃ r, Gives s (.canTxDone c true stamp dly) r
            ∧ (getCan r c.val).stq = x.stq.filter (fun q => q.1 != t.station) ∧ (getCan r c.val).active = none
            ∧ (getCan r c.val).tec = x.tec - 1 ∧ evtPending r 0 (416 + 16 * c.val + 2) = true)
        ∧ (fBit s u 1 0 = false → Tbl.find s.cfg.pend u = none → x.active = some t →
            ∃ r, Gives s (.canTxDone c won stamp dly) r ∧ canState r c.val = 0 ∧ (getCan r c.val).active = none)
        ∧ (canState s c.val = 1 → Gives s (.canBusJoin c) (setCanState s c.val
            (if 255 < x.tec then (if fBit s u 2 0 then 5 else 4) else if 127 < x.tec ∨ 127 < x.rec_ then 3 else 2))))
      ∧ (canOn s c.val = false → Gives s start s)
      ∧ (canOn s c.val = false ∨ x.active = none → Gives s (.canTxDone c won stamp dly) s)
      ∧ (canOn s c.val = false ∨ canState s c.val ≠ 1 → Gives s (.canBusJoin c) s))
  ∧ (∀ (s : State) (c : Fin 8) (lec : BitVec 3) (inc : CanInc),
      let u := canUnit c.val
      let x := getCan s c.val
      let counts : Prop := canOn s c.val = true ∧ (canState s c.val = 2 ∨ canState s c.val = 3) ∧ 1 ≤ lec.toNat ∧ lec.toNat ≤ 6
      let error := Instr.canError c lec
      (counts → canListen s c.val = true → Gives s (error inc) (fSetPart s u 6 13 3 lec.toNat))
      ∧ (counts → canListen s c.val = false → x.active = none →
        (∃ t, Gives s (error .tec8) t
          ∧ (getCan t c.val).tec = x.tec + 8 ∧ (getCan t c.val).rec_ = x.rec_ ∧ fPart t u 6 13 3 = lec.toNat
          ∧ (x.tec < 96 → 96 ≤ x.tec + 8 → evtPending t 0 (416 + 16 * c.val + 4) = true)
          ∧ (x.tec + 8 ≤ 127 → x.rec_ ≤ 127 → canState t c.val = canState s c.val)
          ∧ (127 < x.tec + 8 → x.tec + 8 ≤ 255 → canState t c.val = 3)
          ∧ (255 < x.tec + 8 → evtPending t 0 (416 + 16 * c.val + 6) = true
              ∧ canState t c.val = if fBit s u 2 0 then 5 else 4))
        ∧ (∀ d ∈ [(CanInc.none, 0), (.rec1, 1), (.rec8, 8)], ∃ t, Gives s (error d.1) t ∧ (getCan t c.val).tec = x.tec
            ∧ (getCan t c.val).rec_ = (if d.2 = 0 then x.rec_ else min 255 (x.rec_ + d.2)) ∧ fPart t u 6 13 3 = lec.toNat))
      ∧ (counts → canListen s c.val = false → x.active.isSome = true → fBit s u 1 0 = true →
          ∃ t, Gives s (error inc) t ∧ (getCan t c.val).active = none)
      ∧ (¬ counts → Gives s (error inc) s)
      ∧ (canOn s c.val = true → canState s c.val = 5 → ∃ t, Gives s (.busoffRecoveryDone c) t ∧ canState t c.val = 2
          ∧ (getCan t c.val).tec = 0 ∧ (getCan t c.val).rec_ = 0 ∧ evtPending t 0 (416 + 16 * c.val + 7) = true)
      ∧ (canOn s c.val = false ∨ canState s c.val ≠ 5 → Gives s (.busoffRecoveryDone c) s))

/-- R362, R463 to R465, R469: a frame received without error goes to the urgent buffer or the FIFO of the first filter that takes it; one
that no filter takes is counted, and one for which the FIFO has no buffer is lost or replaces the oldest. A CAN FD frame that is not
allowed is a form error. -/
def Obligations.CanFramesAreReceivedByTheirFilter : Prop :=
  ∀ (s : State) (c : Fin 8) (f : CanFrame) (data : List Byte) (stamp : Word) (n b0 : Nat) (q0 : List Nat),
    let u := canUnit c.val
    let first := (fltField s c.val n 2).field 0 7
    let last := first + (fltField s c.val n 2).field 7 7
    let held := (Tbl.find (getCan s c.val).fifo first).getD []
    let record := rxRecord f data stamp 0 n
    let frame := Instr.canRxFrame c f data stamp
    let valid : Prop := canOn s c.val = true ∧ (canState s c.val = 2 ∨ canState s c.val = 3) ∧ (f.ide = true ∨ f.id.toNat < 2048)
      ∧ ¬ (f.fdf = true ∧ f.rtr = true) ∧ (f.fdf = true ∨ f.brs = false)
    let allowed : Prop := f.fdf = true → fBit s u 2 2 = true
    let cfg := fltField s c.val n 2
    let lost (t : State) : Prop := evtPending t 0 (416 + 16 * c.val + 3) = true
      ∧ fGet t u 0x018 = Word.ofN (min 4294967295 ((fGet s u 0x018).toNat + 1))
    (¬ valid → Gives s frame s)
    ∧ (valid → ¬ allowed → (getCan s c.val).active = none → ∃ t, Gives s frame t ∧ fPart t u 6 13 3 = 2 ∧ t.mem = s.mem
        ∧ (canListen s c.val = false → (getCan t c.val).rec_ = min 255 ((getCan s c.val).rec_ + 1)))
    ∧ (valid → allowed → stationOf s c.val f = true → ∃ t, Gives s frame t ∧ t.mem = s.mem
        ∧ (getCan t c.val).fifo = (getCan s c.val).fifo)
    ∧ (valid → allowed → canListen s c.val = false → (getCan s c.val).rec_ ≤ 127 → ∃ t, Gives s frame t
        ∧ (getCan t c.val).rec_ = (getCan s c.val).rec_ - 1)
    ∧ (valid → allowed → stationOf s c.val f = false → (∀ m < 64, fltTakes s c.val f m = false) → ∃ t, Gives s frame t
        ∧ fGet t u 0x019 = Word.ofN (min 4294967295 ((fGet s u 0x019).toNat + 1)))
    ∧ (valid → allowed → stationOf s c.val f = false → n < 64 → fltTakes s c.val f n = true → (∀ m < n, fltTakes s c.val f m = false) →
        CleanAt s (canBuf c.val 0) 0x8000 →
      (cfg.tst 30 = true → ∃ t, Gives s frame t
        ∧ memWords t (canBuf c.val 128) 3 = record.take 3 ∧ memWords t (canBuf c.val 128 + 16) 16 = record.drop 4
        ∧ memW t (canBuf c.val 128 + 12) = (let q := memW s (canBuf c.val 128 + 12); if q + 1 = 0 then 1 else q + 1)
        ∧ evtPending t 0 (416 + 16 * c.val + 1) = true)
      ∧ (cfg.tst 30 = false → (∃ b, first ≤ b ∧ b ≤ last ∧ b ∉ held) → ∃ t b, Gives s frame t
        ∧ first ≤ b ∧ b ≤ last ∧ b ∉ held ∧ memWords t (canBuf c.val b) 20 = record
        ∧ Tbl.find (getCan t c.val).fifo first = some (held ++ [b]) ∧ evtPending t 0 (416 + 16 * c.val) = true)
      ∧ (cfg.tst 30 = false → (∀ b, first ≤ b → b ≤ last → b ∈ held) →
        (cfg.tst 29 = false → ∃ t, Gives s frame t ∧ lost t ∧ t.mem = s.mem)
        ∧ (cfg.tst 29 = true → held = b0 :: q0 → b0 < 128 → ∃ t, Gives s frame t ∧ lost t
            ∧ memWords t (canBuf c.val b0) 20 = record ∧ Tbl.find (getCan t c.val).fifo first = some (q0 ++ [b0])
            ∧ evtPending t 0 (416 + 16 * c.val) = true)))

/-! ## Redundancy, records, clocks, keys, panel and power (chapters 16 to 21) -/

/-- R475, R477: ZENITH_OUT is asserted only by a holder whose ZENITH_IN has been low; a rise of ZENITH_IN is reported, and drops
ZENITH_OUT of a holder under SOLO_HOLD; a lane's loss and its return are reported. R479, R491, R495: a unit says HELLO with its role and
images; a HELLO of an active twin ends the start-up and, where SYNC_AUTO is set, begins a sync or is refused when images or periods
differ; one of a syncing twin starts the bulk copy; of two units that start without a witness the one of the lower identity promotes. R6,
R480 to R483, R495: a copy is gathered and changes nothing before it is complete; bulk lines apply while syncing; the active sends them;
an acknowledgement renews the lease to the deadline of its Meridian, before the present deadline has come. -/
def Obligations.TwinLinkSyncsAndCopies : Prop :=
  (∀ (s : State) (l : Lane),
      Gives s .zenithInLow { s with twin := { s.twin with
          zinLow := true, zenithOut := s.twin.zenithOut || (holdsZenith s && twinRuns s) } }
      ∧ (s.twin.zenithOut = true → ∃ t, Gives s .zenithInRise t ∧ t.twin.zinLow = false ∧ evtPending t 0 572 = true
          ∧ t.twin.zenithOut = !s.twin.solo)
      ∧ (s.twin.zenithOut = false → Gives s .zenithInRise { s with twin := { s.twin with zinLow := false } })
      ∧ (laneUp s l = true → Gives s (.laneRegained l) s
          ∧ ∃ t, Gives s (.laneLoss l) t ∧ laneUp t l = false ∧ evtPending t 0 567 = true)
      ∧ (laneUp s l = false → Gives s (.laneLoss l) s
          ∧ ∃ t, Gives s (.laneRegained l) t ∧ laneUp t l = true ∧ evtPending t 0 568 = true))
  ∧ (∀ (s : State) (l : Lane) (f : LinkFrame) (rtt : Nat),
      let hello := Instr.helloRx l f rtt
      let paired : Prop := twinRuns s = true ∧ roleCfg s = 1
      let lost : Prop := s.twin.role = .unsynced ∨ s.twin.role = .demoted ∨ s.twin.role = .severed
      (paired → ∃ t, Gives s .helloTx t ∧ t.twin.tx.length = 1 ∧ ∀ g ∈ t.twin.tx, g.ty = 1 ∧ g.ep = s.twin.ep
          ∧ g.state = s.twin.role.code ∧ g.period = critPeriodUs s / 10 ∧ g.lines = helloLines s)
      ∧ (¬ paired → Gives s .helloTx (clearTx s))
      ∧ (¬ paired ∨ f.ty ≠ 1 ∨ laneUp s l = false → Gives s hello (clearTx s))
      ∧ (paired → f.ty = 1 → laneUp s l = true →
        (f.state = 5 →
          (s.twin.role = .starting → syncAuto s = false → ∃ t, Gives s hello t ∧ t.twin.role = .unsynced
            ∧ t.twin.activeEp = f.ep ∧ fGet t 0x23 0x011 = Word.ofN (rtt / 2))
          ∧ (lost → syncAuto s = true →
            (f.period = critPeriodUs s / 10 → f.lines = helloLines s → ∃ t, Gives s hello t ∧ t.twin.role = .syncing)
            ∧ (f.period ≠ critPeriodUs s / 10 ∨ f.lines.drop 1 ≠ (helloLines s).drop 1 → ∃ t, Gives s hello t
                ∧ t.twin.role = .unsynced ∧ fBit t 0x23 0x014 31 = true))
          ∧ (lost → syncAuto s = false → ∃ t, Gives s hello t ∧ t.twin.role = s.twin.role ∧ t.twin.activeEp = f.ep))
        ∧ (f.state = 3 → s.twin.role = .active → s.twin.peerSync = false → f.ep.toNat ≤ s.twin.ep.toNat →
            ∃ t, Gives s hello t ∧ t.twin.peerSync = true ∧ t.twin.bulk = bulkRanges s ++ bgRanges s ∧ t.twin.role = .active)
        ∧ (f.state = 1 → s.twin.role = .starting → witnessEn s = false → f.ep.toNat ≤ s.twin.seen.toNat →
            ∃ t, Gives s hello t ∧ (Config.identity.toNat < idOf (f.lines.getD 0 []) → t.twin.role = .active
                ∧ t.twin.ep = s.twin.seen + 1)
              ∧ (idOf (f.lines.getD 0 []) ≤ Config.identity.toNat → t.twin.role = .starting ∧ t.twin.heard = true))))
  ∧ (∀ (s s1 : State) (f : LinkFrame) (whole : Bool) (n : Fin 33) (k c d : Nat) (rest : List (Nat × Nat)) (m : LeaseMark) (r : RxHdr) (w : WitFrame),
      let gathers : Prop := s.twin.role = .standby ∨ s.twin.role = .syncing
      let lines : Tbl (List Word) := (f.lines.zipIdx).map (fun e => (f.area * 2 ^ 28 + f.first + e.2, e.1))
      let deadline (s : State) : Nat := max d (m.us + fPart s 0x23 3 0 16 + critPeriodUs s - fPart s 0x23 4 0 16)
      let renews (s : State) (base : State) (i : Instr) : Prop := s.twin.lease = some d →
        (usNow s < d ∨ s.twin.solo = true → ∃ t, Gives base i t ∧ t.twin.lease = some (deadline s) ∧ t.twin.role = .active
          ∧ (usNow s < m.us + fPart s 0x23 3 0 16 + critPeriodUs s - fPart s 0x23 4 0 16 → t.twin.solo = false))
        ∧ (d ≤ usNow s → s.twin.solo = false → ∃ t, Gives base i t ∧ t.twin.lease = some d)
      (twinRuns s = false → ∀ i ∈ [Instr.copyRx f whole, .bulkRx f, .bulkTx n, .copyAckRx f], Gives s i (clearTx s))
      ∧ (twinRuns s = true →
        (f.ty ≠ 2 → Gives s (.copyRx f whole) (clearTx s))
        ∧ (f.ty = 2 → ¬ gathers → Gives s (.copyRx f whole) (learnEpoch (clearTx s) f.ep))
        ∧ (f.ty = 2 → gathers → ∃ t, Gives s (.copyRx f whole) t ∧ t.mem = s.mem ∧ t.pi = s.pi
          ∧ t.cyc = s.cyc ∧ t.twin.activeEp = f.ep
          ∧ t.twin.gather.ready = if f.last && f.complete && whole && (s.twin.role == .standby || s.twin.bulkEnd) then
              some (f.count.toNat, f.ep) else s.twin.gather.ready)
        ∧ (f.ty ≠ 4 → Gives s (.bulkRx f) (clearTx s))
        ∧ (f.ty = 4 → f.ep.toNat ≤ s.twin.seen.toNat → s.twin.role ≠ .active →
          (f.area < 8 → s.twin.role = .syncing →
            (f.last = false → Gives s (.bulkRx f) (applyLines (clearTx s) lines))
            ∧ (f.last = true → ∃ t, Gives s (.bulkRx f) t ∧ t.twin.bulkEnd = true ∧ t.mem.cells = (applyLines (clearTx s) lines).mem.cells))
          ∧ (f.area = 8 → gathers →
            (f.last = false → ∃ t, Gives s (.bulkRx f) t ∧ t.mem = s.mem
              ∧ t.twin.bgLines = lines.foldl (fun c e => Tbl.ins c e.1 e.2) s.twin.bgLines)
            ∧ (f.last = true → ∃ t, Gives s (.bulkRx f) t ∧ t.twin.bgLines = []))
          ∧ (f.area = 9 → gathers → Gives s (.bulkRx f) (applyLines (clearTx s) lines))
          ∧ ((f.area < 8 ∧ s.twin.role ≠ .syncing) ∨ 9 < f.area ∨ ¬ gathers → Gives s (.bulkRx f) (clearTx s)))
        ∧ (s.twin.role = .active → n.val ≠ 0 → s.twin.bulk = (k, c) :: rest → ∃ t g, Gives s (.bulkTx n) t ∧ t.twin.tx = [g]
          ∧ g.ty = 4 ∧ g.ep = s.twin.ep ∧ g.area = k / 2 ^ 28 ∧ g.first = k % 2 ^ 28 ∧ g.lines.length = min n.val c
          ∧ (n.val < c → t.twin.bulk = (k + n.val, c - n.val) :: rest)
          ∧ (c ≤ n.val → rest ≠ [] → t.twin.bulk = rest)
          ∧ (c ≤ n.val → k / 2 ^ 28 < 8 → (∀ e ∈ rest, 8 ≤ e.1 / 2 ^ 28) → g.last = true))
        ∧ (s.twin.role ≠ .active ∨ n.val = 0 ∨ s.twin.bulk = [] → Gives s (.bulkTx n) (clearTx s))
        ∧ (f.ty ≠ 3 → Gives s (.copyAckRx f) (clearTx s))
        ∧ (f.ty = 3 → s.twin.role = .active → f.ep = s.twin.ep → s.twin.marks.find? (fun x => x.count == f.count.toNat) = some m →
            renews s s (.copyAckRx f))
        ∧ (f.ty = 3 → s.twin.role ≠ .active ∨ f.ep ≠ s.twin.ep ∨ s.twin.marks.find? (fun x => x.count == f.count.toNat) = none →
            Gives s (.copyAckRx f) (learnEpoch (clearTx s) f.ep)))
      ∧ (witRx s r 0x21 = (s1, false) → Gives s (.hbAckRx r w) s1)
      ∧ (witRx s r 0x21 = (s1, true) →
        (s1.twin.role = .active → w.ep = s1.twin.ep → s1.twin.marks.find? (fun x => x.seq == w.seq) = some m → renews s1 s (.hbAckRx r w))
        ∧ (s1.twin.role ≠ .active ∨ w.ep ≠ s1.twin.ep → Gives s (.hbAckRx r w) (seeEpoch s1 w.ep))))

/-- R483, R487 to R493: the lease deadline demotes the active; the standby's watch asks the witness or, without one, promotes; a grant
promotes the unit that asked; a refusal is recorded and 0x01 severs a standby; an abdication promotes the standby. -/
def Obligations.RolesChangeByLeaseWatchAndWitness : Prop :=
  ∀ (s s1 : State) (d : Nat) (a : Ask) (r : RxHdr) (w : WitFrame) (f : LinkFrame),
    let period := critPeriodUs s
    let promoted (s t : State) (ep : Word) : Prop := t.twin.role = .active ∧ t.twin.ep = ep ∧ t.twin.epBkp = ep
      ∧ t.twin.zenithOut = s.twin.zinLow ∧ evtPending t 0 560 = true
      ∧ t.twin.lease = some (usNow s + fPart s 0x23 3 0 16 + critPeriodUs s - fPart s 0x23 4 0 16)
    let asks (i : Instr) : Prop := ∃ t, Gives s i t ∧ t.twin.ask = some { seq := s.twin.witSeq, ep := s.twin.seen + 1, us := usNow s }
      ∧ t.twin.watch = usNow s + 2 * period ∧ t.twin.role = s.twin.role
    let promotes (i : Instr) : Prop := ∃ t, Gives s i t ∧ promoted s t (s.twin.seen + 1)
    let demoted (t : State) (evt : Nat) : Prop := t.twin.role = .demoted ∧ t.twin.zenithOut = false ∧ t.twin.lease = none
      ∧ evtPending t 0 evt = true
    let due : Prop := twinRuns s = true ∧ usReached s s.twin.watch = true ∧ s.twin.ask = none
    let lapsed : Prop := s.twin.role = .demoted ∧ s.twin.lapsed = true ∧ witnessEn s = true
    (s.twin.lease = some d → s.twin.role = .active → usReached s d = true →
      (soloHold s = false → ∃ t, Gives s .leaseExpiry t ∧ demoted t 561)
      ∧ (soloHold s = true → ∃ t, Gives s .leaseExpiry t ∧ t.twin.role = .active ∧ t.twin.solo = true))
    ∧ (s.twin.lease = none ∨ s.twin.role ≠ .active ∨ (s.twin.lease = some d ∧ usReached s d = false) → Gives s .leaseExpiry s)
    ∧ (due →
      (s.twin.role = .standby → (witnessEn s = true → asks .standbyWatchExpiry)
        ∧ (witnessEn s = false → usReached s (s.twin.beaconUs + 2 * period) = true → promotes .standbyWatchExpiry)
        ∧ (witnessEn s = false → usReached s (s.twin.beaconUs + 2 * period) = false → Gives s .standbyWatchExpiry s))
      ∧ (s.twin.role = .starting → (witnessEn s = true → asks .startWaitExpiry)
        ∧ (witnessEn s = false → s.twin.heard = false → promotes .startWaitExpiry)
        ∧ (witnessEn s = false → s.twin.heard = true → Gives s .startWaitExpiry s))
      ∧ (lapsed → asks .demotedWitnessRequest))
    ∧ (¬ due ∨ s.twin.role ≠ .standby → Gives s .standbyWatchExpiry s)
    ∧ (¬ due ∨ s.twin.role ≠ .starting → Gives s .startWaitExpiry s)
    ∧ (¬ due ∨ ¬ lapsed → Gives s .demotedWitnessRequest s)
    ∧ (twinRuns s = true → s.twin.ask = some a → usReached s (a.us + fPart s 0x23 5 0 16) = true →
        ∃ t, Gives s .witnessAnswerTimeout t ∧ t.twin.ask = none ∧ t.twin.role = s.twin.role ∧ evtPending t 0 564 = true
          ∧ fPart t 0x23 0x00E 16 8 = 0xFF)
    ∧ (twinRuns s = false ∨ s.twin.ask = none ∨ (s.twin.ask = some a ∧ usReached s (a.us + fPart s 0x23 5 0 16) = false) →
        Gives s .witnessAnswerTimeout s)
    ∧ (twinRuns s = true → f.ty = 5 → s.twin.role = .standby → f.ep.toNat ≤ s.twin.seen.toNat → promotes (.abdicateRx f))
    ∧ (twinRuns s = true → f.ty = 5 → s.twin.role ≠ .standby → Gives s (.abdicateRx f) (learnEpoch (clearTx s) f.ep))
    ∧ (twinRuns s = false ∨ f.ty ≠ 5 → Gives s (.abdicateRx f) (clearTx s))
    ∧ (witRx s r 0x23 = (s1, false) → Gives s (.grantRx r w) s1)
    ∧ (witRx s r 0x23 = (s1, true) →
        (s1.twin.ask = some a → a.seq = w.seq → a.ep = w.ep → ∃ t, Gives s (.grantRx r w) t ∧ promoted s1 t w.ep)
        ∧ (s1.twin.ask = some a → a.seq = w.seq → a.ep ≠ w.ep → Gives s (.grantRx r w) (seeEpoch s1 w.ep))
        ∧ (s1.twin.ask = none ∨ (s1.twin.ask = some a ∧ a.seq ≠ w.seq) → Gives s (.grantRx r w) (learnEpoch s1 w.ep)))
    ∧ (witRx s r 0x24 = (s1, false) → Gives s (.refuseRx r w) s1)
    ∧ (witRx s r 0x24 = (s1, true) →
        (s1.twin.ask = some a → a.seq = w.seq → ∃ t, Gives s (.refuseRx r w) t
          ∧ t.twin.ask = none ∧ evtPending t 0 564 = true
          ∧ (w.reason = 1 → s1.twin.role = .standby → t.twin.role = .severed ∧ evtPending t 0 565 = true)
          ∧ (w.reason ≠ 1 ∨ s1.twin.role ≠ .standby → t.twin.role = s1.twin.role))
        ∧ (s1.twin.ask = none → w.reason = 2 → s1.twin.role = .active → s1.twin.ep.toNat < w.ep.toNat →
            ∃ t, Gives s (.refuseRx r w) t ∧ demoted t 563)
        ∧ (s1.twin.ask = none → w.reason ≠ 2 → Gives s (.refuseRx r w) (seeEpoch s1 w.ep)))
    ∧ (witRx s r 0x25 = (s1, false) → Gives s (.beaconRx r w) s1)
    ∧ (witRx s r 0x25 = (s1, true) → ∃ t, Gives s (.beaconRx r w) t ∧ t.twin.beaconUs = usNow s1 ∧ t.twin.heard = true
        ∧ (s1.twin.role = .active → s1.twin.ep.toNat < w.ep.toNat → demoted t 563))

/-- R486: a witness accepts heartbeats of its epoch or a higher one, refuses lower ones with reason 2, refuses requests whose epoch is not
higher, grants one whose gap has passed, and holds any other until its gap passes. A repeated question is answered as before. -/
def Obligations.WitnessGrantsOneHolder : Prop :=
  ∀ (s s1 : State) (r : RxHdr) (w : WitFrame) (ids : List WitId) (h : Held) (bs : List Byte),
    let answered (t : State) (q ty : Nat) (a : WitFrame) : Prop := ∃ l, t.twin.answers = (w.id, q, w.seq, witBytes ty a) :: l
    let again (i : Instr) : Prop := ∃ t, Gives s i t ∧ t.twin.ew = s1.twin.ew ∧ t.twin.held = s1.twin.held
      ∧ t.twin.answers = s1.twin.answers ∧ t.twin.ids = ids
    (isWitness s1 = true → hearId s1 w.id = some ids →
      (witRx s r 0x20 = (s1, true) → repeated s1 w.id 0x20 w.seq = none →
        (s1.twin.ew.toNat ≤ w.ep.toNat → ∃ t, Gives s (.heartbeatRx r w) t ∧ t.twin.ew = w.ep ∧ t.twin.hbUs = some (usNow s1)
          ∧ t.twin.held = [] ∧ answered t 0x20 0x21 { seq := w.seq, ep := w.ep, id := w.id })
        ∧ (w.ep.toNat < s1.twin.ew.toNat → ∃ t, Gives s (.heartbeatRx r w) t ∧ t.twin.ew = s1.twin.ew
          ∧ answered t 0x20 0x24 { reason := 2, seq := w.seq, ep := s1.twin.ew, id := w.id }))
      ∧ (witRx s r 0x20 = (s1, true) → repeated s1 w.id 0x20 w.seq = some bs → again (.heartbeatRx r w))
      ∧ (witRx s r 0x22 = (s1, true) → repeated s1 w.id 0x22 w.seq = some bs → again (.grantReqRx r w))
      ∧ (witRx s r 0x22 = (s1, true) → repeated s1 w.id 0x22 w.seq = none →
        (w.ep.toNat ≤ s1.twin.ew.toNat → ∃ t, Gives s (.grantReqRx r w) t ∧ t.twin.ew = s1.twin.ew
          ∧ answered t 0x22 0x24 { reason := 2, seq := w.seq, ep := s1.twin.ew, id := w.id })
        ∧ (s1.twin.ew.toNat < w.ep.toNat → (∀ u, s1.twin.hbUs = some u → u + w.arg.toNat ≤ usNow s1) →
          ∃ t, Gives s (.grantReqRx r w) t ∧ t.twin.ew = w.ep ∧ evtPending t 0 571 = true
            ∧ answered t 0x22 0x23 { seq := w.seq, ep := w.ep, id := w.id })
        ∧ (∀ u, s1.twin.ew.toNat < w.ep.toNat → s1.twin.hbUs = some u → usNow s1 < u + w.arg.toNat →
          ∃ t g, Gives s (.grantReqRx r w) t ∧ t.twin.ew = s1.twin.ew ∧ g ∈ t.twin.held ∧ g.id = w.id ∧ g.ep = w.ep
            ∧ g.gap = w.arg.toNat)))
    ∧ (∀ x ∈ [((0x20 : Byte), Instr.heartbeatRx r w), (0x22, .grantReqRx r w)],
        (witRx s r x.1 = (s1, false) → Gives s x.2 s1)
        ∧ (witRx s r x.1 = (s1, true) → isWitness s1 = false ∨ hearId s1 w.id = none → Gives s x.2 s1))
    ∧ (isWitness s = true → s.twin.held.find? (gapPassed s) = some h → s.twin.ew.toNat < h.ep.toNat →
        ∃ t, Gives s .witnessGapExpiry t ∧ t.twin.ew = h.ep ∧ t.twin.held = s.twin.held.erase h ∧ evtPending t 0 571 = true)
    ∧ (isWitness s = true → s.twin.held.find? (gapPassed s) = some h → h.ep.toNat ≤ s.twin.ew.toNat →
        ∃ t, Gives s .witnessGapExpiry t ∧ t.twin.ew = s.twin.ew ∧ t.twin.held = s.twin.held.erase h)
    ∧ (isWitness s = false ∨ s.twin.held.find? (gapPassed s) = none → Gives s .witnessGapExpiry s)

/-- R498, R500, R503: the next record goes into the lowest empty slot, pinned when critical; the counters are saved every 60 s of
operating time. -/
def Obligations.AlmanacWritesRecordsAndCounters : Prop :=
  ∀ (s : State) (r : Rec) (l : List Rec) (n : Nat),
    let pin := r.sev == 3 && decide (s.alm.pinned.length < 256)
    let rec_ := recHead r pin s.alm.lost
    s.alm.restored = true →
      (s.alm.queue = r :: l → lowestEmpty s = some n → ∃ t, Gives s .almRecordWrite t ∧ t.alm.queue = l
        ∧ t.alm.order = s.alm.order.filter (· != n) ++ [n] ∧ t.alm.lost = false
        ∧ memBytes t (almAddr n) rec_.length = rec_ ∧ memW t (almAddr n + rec_.length) = crc32c rec_
        ∧ (pin = true → n ∈ t.alm.pinned))
      ∧ (s.pwr.asleep = false → s.alm.lastSave + 60000 ≤ s.clk.opMs.toNat →
        (∃ t, Gives s (.counterSave true) t ∧ t.alm.lastSave = s.clk.opMs.toNat ∧ t.alm.copySeq = s.alm.copySeq + 1
          ∧ memW t (ctrAddr s.alm.nextCopy) = s.alm.copySeq + 1 ∧ t.alm.nextCopy = !s.alm.nextCopy)
        ∧ (∃ t, Gives s (.counterSave false) t ∧ evtPending t 0 582 = true ∧ t.alm.nextCopy = s.alm.nextCopy))

/-- R516, R517, R519: a second of the calendar, in BCD; shown for the carries out of a second, a minute, an hour, a day, a month and a
year, with both kinds of February. R522: the step of the calendar that reaches an armed and enabled alarm fires it: it disarms, its flag
and event 592 rise. R513, R514, R525: the oscillator's stop, a reset of the backup domain, and WAKE_BTN. -/
def Obligations.CalendarAndBackupDomainKeepTime : Prop :=
  (∀ s : State, alarmArmed s = false →
      let from_ (t d t' d' : Word) : Prop := calTime s = t → calDate s = d →
        ∃ z, Gives s .rtcSecond z ∧ calTime z = t' ∧ calDate z = d'
      from_ 0x00000000 0x20240115 0x00000001 0x20240115 ∧ from_ 0x00000009 0x20240115 0x00000010 0x20240115
      ∧ from_ 0x00000059 0x20240115 0x00000100 0x20240115 ∧ from_ 0x00005959 0x20240115 0x00010000 0x20240115
      ∧ from_ 0x00235959 0x20240115 0x00000000 0x20240116 ∧ from_ 0x00235959 0x20240228 0x00000000 0x20240229
      ∧ from_ 0x00235959 0x20230228 0x00000000 0x20230301 ∧ from_ 0x00235959 0x21000228 0x00000000 0x21000301
      ∧ from_ 0x00235959 0x20240430 0x00000000 0x20240501 ∧ from_ 0x00235959 0x20991231 0x00000000 0x21000101)
  ∧ (∀ s : State, alarmArmed s = true →
      fGet s 0x25 6 = (calStep_ (calTime s) (calDate s)).1 → fGet s 0x25 7 = (calStep_ (calTime s) (calDate s)).2 →
        ∃ z, Gives s .rtcSecond z ∧ fBit z 0x25 0xB 0 = false ∧ fBit z 0x25 0xB 1 = true ∧ evtPending z 0 592 = true)
  ∧ (∀ s : State,
      (fBit s 0x25 0xB 6 = false → ∃ t, Gives s .oscStop t ∧ fBit t 0x25 0xB 6 = true ∧ evtPending t 0 594 = true)
      ∧ (∃ t, Gives s .backupDomainReset t ∧ calTime t = 0 ∧ calDate t = 0x20000101 ∧ t.twin.epBkp = 0 ∧ t.key.latch = 0
          ∧ t.rtc.copyValid = false ∧ t.rtc.lostNew = true)
      ∧ (fBit s 0x25 0xB 3 = false → ∃ t, Gives s .wakeBtnPress t ∧ fBit t 0x25 0xB 2 = true ∧ fBit t 0x25 0xB 3 = true
          ∧ evtPending t 0 593 = true)
      ∧ (∃ t, Gives s .wakeBtnRelease t ∧ fBit t 0x25 0xB 3 = false))

/-- R530, R535, R536, R539, R543: the operations of `key.use` that answer with data, and those that make, check and withdraw keys. -/
def Obligations.KeyOperationsAnswerWithTheirResult : Prop :=
  ∀ (s : State) (h : Hdr) (k : Nat) (rd ra : Reg) (d : KeyDesc) (x : KeyAux),
    let o := (reg s k ra).toNat
    let dec (op : Nat) : Dec := { word := encA 0b110110 rd ra 0 op, grp := .key }
    let slot := keySlot s d.a
    let ok (i : Instr) (op : Nat) (q : State → Prop) : Prop := ∃ t, Takes s h k i (dec op) t ∧ reg t k rd = 0 ∧ q t
    let gives (out : List Byte) (t : State) : Prop :=
      memBytes t (mgtHome + d.outOfs) out.length = out ∧ memW t (mgtHome + o + 20) = Word.ofN out.length
    let body := statement s ((d.aux s).take 32) (((d.aux s).drop 32).map (·.toNat))
    KeyReady s o d →
      ((slotRecord s d.a).length ≤ d.cap → ok (.describe h rd ra none) 1 (gives (slotRecord s d.a)))
      ∧ ((sha384 (d.input s)).length ≤ d.cap → ok (.hash h rd ra none) 0xA (gives (sha384 (d.input s))))
      ∧ (keyCheck s d.a [3, 4, 5] none = 0 → usable s d.a → (if slot.kind = 5 then 1952 else 96) ≤ d.cap → slot.pub.length ≤ d.cap →
          ok (.publicKey h rd ra none) 0x10 (gives slot.pub))
      ∧ (s.key.entropyFail = false →
        (0 < d.cap → d.cap ≤ 4096 → ok (.random h rd ra none) 0xF (fun t => ∃ l, l.length = d.cap ∧ gives l t))
        ∧ (keyCheck s d.a [3] (some 3) = 0 → usable s d.a → d.inLen = 48 → 96 ≤ d.cap →
          ok (.sign h rd ra none) 8 (fun t => ∃ nonce,
            gives (ecdsaSign slot.key (d.input s) nonce) t))
        ∧ (keyCheck s 1 [3] none = 0 → usable s 1 → 32 ≤ d.auxLen → d.auxLen ≤ 48 → body.length + 96 ≤ d.cap →
          ok (.attest h rd ra none) 0xE (fun t => ∃ nonce,
            gives (body ++ ecdsaSign (keySlot s 1).key (sha384 body) nonce) t))
        ∧ (readKeyAux (d.aux s) = some x → (d.a = 0xFF ∨ keyCheck s d.a [2] none = 0) → makeCheck s d d.a x = 0 →
          ok (.generate h rd ra none) 0xC (fun t => (keySlot t d.b).st = 1 ∧ (keySlot t d.b).kind = x.kind
            ∧ (keySlot t d.b).parent = d.a ∧ (keySlot t d.b).perms = x.perms ∧ (keySlot t d.b).origin = 1)))
      ∧ (keyCheck s d.a [4] (some 4) = 0 → usable s d.a → d.inLen = 48 → d.auxLen = 96 → rd ≠ 0 →
          ∃ t, Takes s h k (.verify h rd ra none) (dec 9) t
            ∧ reg t k rd = (if ecdsaVerify slot.key (d.input s) (d.aux s) then 0 else 0xF))
      ∧ (readKeyAux (d.aux s) = some x → keyCheck s d.a [2] (some 5) = 0 → usable s d.a → makeCheck s d d.a x = 0 →
          ok (.deriveKey h rd ra none) 0xB (fun t => (keySlot t d.b).st = 1 ∧ (keySlot t d.b).kind = x.kind
            ∧ (keySlot t d.b).parent = d.a ∧ (keySlot t d.b).origin = 2
            ∧ (keySlot t d.b).key = deriveBytes s d.a x.kind d.b x.label))
      ∧ (4 ≤ d.a → slot.holds = true → slot.perms.testBit 10 = true → ok (.invalidate h rd ra none) 0xD (fun t =>
          (keySlot t d.a).st = 0 ∧ (keySlot t d.a).key = [] ∧ evtPending t 0 611 = true))

/-- R87, R530 to R541: the operations of `key.use` on streams: `GCM_ENC`, `GCM_DEC`, `CMAC` open one, `CHUNK`, `FINISH` and `ABORT` go on
with it. -/
def Obligations.KeyStreamsOpenContinueAndEnd : Prop :=
  ∀ (s : State) (h : Hdr) (k : Nat) (rd ra : Reg) (d : KeyDesc) (hd : Nat) (x : KeyStream),
    let o := (reg s k ra).toNat
    let dec (op : Nat) : Dec := { word := encA 0b110110 rd ra 0 op, grp := .key }
    let key := (keySlot s x.slot).key
    let ok (i : Instr) (op : Nat) (q : State → Prop) : Prop := ∃ t, Takes s h k i (dec op) t ∧ reg t k rd = 0 ∧ q t
    KeyReady s o d →
      (freeHandle s = some hd → usable s d.a →
        (keyCheck s d.a [1] (some 0) = 0 → d.auxLen = 12 → d.inLen ≤ 65536 → ok (.gcmEnc h rd ra none) 2 (fun t =>
          Tbl.find t.key.streams hd = some { op := 2, slot := d.a, iv := d.aux s, aad := d.input s }
          ∧ memByte t (mgtHome + o + 2) = BitVec.ofNat 8 hd))
        ∧ (keyCheck s d.a [1] (some 1) = 0 → d.auxLen = 12 → d.inLen ≤ 65536 → ok (.gcmDec h rd ra none) 3 (fun t =>
          Tbl.find t.key.streams hd = some { op := 3, slot := d.a, iv := d.aux s, aad := d.input s }
          ∧ memByte t (mgtHome + o + 2) = BitVec.ofNat 8 hd))
        ∧ (keyCheck s d.a [1] (some 2) = 0 → ok (.cmac h rd ra none) 4 (fun t =>
          Tbl.find t.key.streams hd = some { op := 4, slot := d.a, iv := [], aad := [] }
          ∧ memByte t (mgtHome + o + 2) = BitVec.ofNat 8 hd)))
      ∧ (Tbl.find s.key.streams d.handle = some x → x.broken = 0 →
        (0 < d.inLen → d.inLen ≤ 65536 → x.op = 4 → ok (.chunk h rd ra none) 5 (fun t =>
          Tbl.find t.key.streams d.handle = some { x with data := x.data ++ d.input s }))
        ∧ (0 < d.inLen → d.inLen ≤ 65536 → x.op = 2 ∨ x.op = 3 → (gcmCtr key x.iv x.data.length (d.input s)).length ≤ d.cap → d.inLen ≤ d.cap →
          ok (.chunk h rd ra none) 5 (fun t =>
            memBytes t (mgtHome + d.outOfs) (gcmCtr key x.iv x.data.length (d.input s)).length =
              gcmCtr key x.iv x.data.length (d.input s)))
        ∧ (0 < d.inLen → d.inLen ≤ 65536 → x.op = 2 ∨ x.op = 3 → d.inLen ≤ d.cap → ok (.chunk h rd ra none) 5 (fun t =>
            Tbl.find t.key.streams d.handle = some { x with
              data := x.data ++ (if x.op = 2 then gcmCtr key x.iv x.data.length (d.input s) else d.input s) }))
        ∧ (x.op = 2 → (gcmTag key x.iv x.aad x.data).length ≤ d.cap → 16 ≤ d.cap → ok (.finishStream h rd ra none) 6 (fun t =>
            memBytes t (mgtHome + d.outOfs) (gcmTag key x.iv x.aad x.data).length = gcmTag key x.iv x.aad x.data
            ∧ Tbl.find t.key.streams d.handle = none))
        ∧ (x.op = 4 → (cmac256 key x.data).length ≤ d.cap → 16 ≤ d.cap → ok (.finishStream h rd ra none) 6 (fun t =>
            memBytes t (mgtHome + d.outOfs) (cmac256 key x.data).length = cmac256 key x.data
            ∧ Tbl.find t.key.streams d.handle = none))
        ∧ (x.op = 3 → d.inLen = 16 → rd ≠ 0 → ∃ t, Takes s h k (.finishStream h rd ra none) (dec 6) t
            ∧ reg t k rd = (if d.input s = gcmTag key x.iv x.aad x.data then 0 else 0xF) ∧ Tbl.find t.key.streams d.handle = none)
        ∧ ok (.abortStream h rd ra none) 7 (fun t => Tbl.find t.key.streams d.handle = none))
      ∧ (Tbl.find s.key.streams d.handle = some x → x.broken ≠ 0 → ∀ i op, (i, op) ∈ [(Instr.chunk h rd ra none, 5),
          (.finishStream h rd ra none, 6), (.abortStream h rd ra none, 7)] →
          Takes s h k i (dec op) (setReg (closeStream (past s k 4) d.handle) k rd (Word.ofN x.broken)))
      ∧ (Tbl.find s.key.streams d.handle = none → ∀ i op, (i, op) ∈ [(Instr.chunk h rd ra none, 5),
          (.finishStream h rd ra none, 6), (.abortStream h rd ra none, 7)] → Writes s h k i (dec op) rd 0xE)

/-- R87, R540, R541, R553: what `key.use` answers without doing the operation: LOCKED, BAD_OP, BAD_DESC and TAMPER. R534, R536, R551 to
R553: the integrity sweep, the health tests of the entropy source, and the tamper inputs. -/
def Obligations.KeyProtectionRefusesAndErases : Prop :=
  (∀ (s : State) (h : Hdr) (k : Nat) (rd ra : Reg) (op : BitVec 8) (src : Fin 8) (struck : Option (Fin 8)),
      let o := (reg s k ra).toNat
      let dec (op : Nat) : Dec := { word := encA 0b110110 rd ra 0 op, grp := .key }
      let all (x : Option (Fin 8)) : List (Instr × Nat) := [(.describe h rd ra x, 1), (.gcmEnc h rd ra x, 2), (.gcmDec h rd ra x, 3),
        (.cmac h rd ra x, 4), (.chunk h rd ra x, 5), (.finishStream h rd ra x, 6), (.abortStream h rd ra x, 7), (.sign h rd ra x, 8),
        (.verify h rd ra x, 9), (.hash h rd ra x, 0xA), (.deriveKey h rd ra x, 0xB), (.generate h rd ra x, 0xC),
        (.invalidate h rd ra x, 0xD), (.attest h rd ra x, 0xE), (.random h rd ra x, 0xF), (.publicKey h rd ra x, 0x10)]
      (∀ e ∈ all struck, s.key.locked = true → Writes s h k e.1 (dec e.2) rd 0x13)
      ∧ (∀ e ∈ all struck, s.key.locked = false → 0x200000 < o + 32 → Writes s h k e.1 (dec e.2) rd 2)
      ∧ (∀ e ∈ all (some src), ∀ d, KeyReady s o d → 2 ≤ tamperResponse s src.val →
          Takes s h k e.1 (dec e.2) (setReg (tamperFire (past s k 4) src.val) k rd 0x12))
      ∧ (op.toNat = 0 ∨ 0x10 < op.toNat →
          Writes s h k (.keyBadOp h rd ra op) (dec op.toNat) rd (if s.key.locked then 0x13 else 1)))
  ∧ (∀ (s : State) (bad : BitVec 256) (n : Fin 256) (src : Fin 8) (levels : BitVec 8),
      (s.pwr.asleep = true → deviceRuns s = true → 2 ≤ tamperResponse s src.val → ∃ t, Gives s (.tamperFire src levels) t
          ∧ t.key.latch.getLsbD src.val = true ∧ t.key.slept.getLsbD src.val = true ∧ t.key.slots = s.key.slots)
      ∧ (deviceRuns s = false → 2 ≤ tamperResponse s src.val → ∃ t, Gives s (.tamperFire src levels) t
          ∧ t.key.latch.getLsbD src.val = true ∧ t.key.slots = s.key.slots)
      ∧ (s.pwr.asleep = false → deviceRuns s = true →
        (bad.getLsbD n.val = true → (keySlot s n.val).holds = true → ∃ t, Gives s (.keyIntegritySweep bad) t
          ∧ (keySlot t n.val).st = 3 ∧ (keySlot t n.val).key = [] ∧ evtPending t 0 612 = true)
        ∧ (∃ t, Gives s .entropyHealthTestFail t ∧ t.key.entropyFail = true ∧ evtPending t 0 614 = true)
        ∧ (s.key.entropyFail = true → ∃ t, Gives s (.entropyRetest true) t ∧ t.key.entropyFail = false)
        ∧ (tamperResponse s src.val = 1 → ∃ t, Gives s (.tamperFire src levels) t ∧ t.key.fired.getLsbD src.val = true
          ∧ evtPending t 0 608 = true ∧ t.key.locked = s.key.locked ∧ t.key.slots = s.key.slots)
        ∧ (2 ≤ tamperResponse s src.val → ∃ t, Gives s (.tamperFire src levels) t ∧ t.key.fired.getLsbD src.val = true
          ∧ t.key.latch.getLsbD src.val = true ∧ t.key.locked = true ∧ t.key.streams = [] ∧ evtPending t 0 608 = true)
        ∧ (tamperResponse s src.val = 3 → ∃ t, Gives s (.tamperFire src levels) t ∧ (keySlot t 0).st = 3 ∧ (keySlot t 0).key = [])))

/-- R119, R559 to R562, R572: a frame is drawn whole from the frame memory at its boundary; the pump's level starts the drive; the Halo
loop requests a conversion, shows its code, and reports a crack after the configured number of open readings. -/
def Obligations.PanelFramesAndHaloReadings : Prop :=
  ∀ (s : State) (old : LcdFrame) (nv : Int),
    let code := adcCode nv
    let result := Instr.haloResult nv
    let due : Prop := s.hmi.haloReq = true ∧ domainOn s 5 = true ∧ haloHas s = true
    (hmiOn s = true →
      (s.hmi.lcd = some old → Tbl.find s.cfg.pend 0x27 = none → Gives s .frameBoundary { s with hmi := { s.hmi with
          lcd := if fBit s 0x27 1 0 then some (nextFrame s (some old)) else none } })
      ∧ (fBit s 0x27 2 8 = true → ∃ t, Gives s .chargePumpReady t ∧ fBit t 0x27 0xE 5 = true
          ∧ (fBit s 0x27 1 0 = true → s.hmi.lcd = none → s.hmi.bistable = false →
              (fBit s 0x27 2 0 = false → t.hmi.lcd = some (nextFrame s none))
              ∧ (fBit s 0x27 2 0 = true → t.hmi.bistable = true ∧ t.hmi.rcv = if s.hmi.recovered then .none else .scan)))
      ∧ (fBit s 0x27 0xB 31 = true →
        (domainOn s 5 = true → Gives s .haloMeasure { s with hmi := { s.hmi with haloReq := true, haloRefused := 0 } })
        ∧ (domainOn s 5 = false → ∃ t, Gives s .haloMeasure t ∧ t.hmi.haloRefused = s.hmi.haloRefused + 1
            ∧ (s.hmi.haloRefused = 2 → fBit t 0x27 0xE 3 = true ∧ evtPending t 0 628 = true)))
      ∧ (due → ∃ t, Gives s result t ∧ fGet t 0x27 0xD = Word.ofN (2 ^ 31 + code)
          ∧ t.hmi.haloReq = false ∧ fBit t 0x27 0xE 3 = false
          ∧ t.hmi.haloOpen = (if fPart s 0x27 0xB 0 16 ≤ code then s.hmi.haloOpen + 1 else 0)
          ∧ (fPart s 0x27 0xB 0 16 ≤ code → fPart s 0x27 0xB 16 8 ≤ s.hmi.haloOpen + 1 → fBit s 0x27 0xE 2 = false →
              fBit t 0x27 0xE 2 = true ∧ evtPending t 0 627 = true)))
    ∧ (hmiOn s = false ∨ s.hmi.lcd = none → Gives s .frameBoundary s)
    ∧ (hmiOn s = false ∨ fBit s 0x27 2 8 = false → Gives s .chargePumpReady s)
    ∧ (hmiOn s = false ∨ fBit s 0x27 0xB 31 = false → Gives s .haloMeasure s)
    ∧ (hmiOn s = false ∨ ¬ due → Gives s result s)

/-- R563 to R570: each frame of a running update counts one drive in the balance of each segment of its rectangle and in its journal
entry; the last one sets the image to the target; at start-up the later valid balance copy is taken, or the balances start at 0, and what
was open is balanced before it is drawn again. -/
def Obligations.BistableUpdatesAreBalancedAndJournalled : Prop :=
  ∀ (s : State) (i : Nat) (u : HmiUpd) (o : HmiOpen) (rest : List HmiOpen) (q q2 : Nat) (ok : Bool),
    let frame := Instr.bistableFrame ok
    let cell (s : State) (j : Nat) : Byte := memByte s (panelBase + 0x120 + j)
    let balanced (t : State) (b : Bool) : Prop := ∀ j < 96, cell t j = memByte s (balAddr b + 4 + j)
    let clean : Prop := CleanAt s panelBase 0x180 ∧ CleanAt s 0x0C00340000 0x10000
    (hmiOn s = true →
      (s.hmi.bistable = true → Tbl.find s.cfg.pend 0x27 = none → fBit s 0x27 1 0 = true → clean →
        (s.hmi.rcv = .none → i < 4 → s.hmi.running = [(i, u)] → u.drives = true → u.slot < 1020 → s.hmi.queue = [] → s.hmi.opens = [] →
          (u.frame + 1 < 2 * u.phaseN → ∃ t, Gives s frame t ∧ t.hmi.running = [(i, { u with frame := u.frame + 1 })]
            ∧ memW t (ringAddr u.slot + 24) = Word.ofN (u.frame + 1)
            ∧ ∀ j < 96, cell t j = cell s j
                + if inRect u.req.rect (j / 8) (j % 8) then (if u.drivesDark j then 1 else -1) else 0)
          ∧ (u.frame + 1 = 2 * u.phaseN → ∃ t, Gives s frame t ∧ t.hmi.running = [] ∧ evtPending t 0 624 = true
            ∧ ∀ c < 12, ∀ r < 8, (memByte t (panelBase + 0x110 + c)).getLsbD r
                = if inRect u.req.rect c r then u.req.dark (8 * c + r) else (memByte s (panelBase + 0x110 + c)).getLsbD r))
        ∧ (s.hmi.rcv = .balance → s.hmi.running = [] → s.hmi.opens = o :: rest → rest.length < 4 →
            ∃ t, Gives s frame t ∧ ∀ j < 96, cell t j = cell s j
              + if inRect o.req.rect (j / 8) (j % 8) ∧ cell s j ≠ 0 then (if (cell s j).toInt < 0 then 1 else -1) else 0))
      ∧ (s.hmi.rcv = .scan →
        (∃ t, Gives s .hmiRecovery t ∧ t.hmi.recovered = true ∧ t.hmi.opens = openEntries s
          ∧ (t.hmi.rcv = .none ↔ openEntries s = []))
        ∧ ((∀ k < 1020, ringEntry s k = none) →
          (balValid s false = none → balValid s true = none → ∃ t, Gives s .hmiRecovery t ∧ ∀ j < 96, balance t j = 0)
          ∧ (balValid s false = some q → balValid s true = none → ∃ t, Gives s .hmiRecovery t ∧ balanced t false)
          ∧ (balValid s false = none → balValid s true = some q → ∃ t, Gives s .hmiRecovery t ∧ balanced t true)
          ∧ (balValid s false = some q → balValid s true = some q2 → ∃ t, Gives s .hmiRecovery t ∧ balanced t (decide (q < q2))))))
    ∧ (hmiOn s = false ∨ s.hmi.bistable = false ∨ s.hmi.rcv = .scan → Gives s frame s)
    ∧ (hmiOn s = false ∨ s.hmi.rcv ≠ .scan → Gives s .hmiRecovery s)

/-- R101, R512, R528, R587: a reset keeps MRAM, the backup domain, KEY's array and the witness epoch, and nothing else; it shows its
cause, and the boot ROM is about to run. R36: the tick resumes when REF_CLK returns. R590, R591: the boot without an image in MRAM or
flash, with the tamper latch clear, waits in MGT for an image; with the latch set and no clear it ends in tamper-hold (R553). -/
def Obligations.ResetsAndStartUpKeepWhatIsNonVolatile : Prop :=
  (∀ (s : State) (core : Bool),
      let kept (i : Instr) (cause : Nat) : Prop := ∃ t, Gives s i t ∧ fPart t 2 0xA 0 4 = cause
        ∧ t.key.slots = s.key.slots ∧ t.key.mono = s.key.mono ∧ t.key.floors = s.key.floors ∧ t.key.latch = s.key.latch
        ∧ t.twin.ew = s.twin.ew ∧ t.twin.epBkp = s.twin.epBkp
        ∧ (∀ a, 0x0C00000000 ≤ a → a < 0x0C00800000 → memByte t a = memByte s a)
        ∧ (∀ a, 0x40000 ≤ a → a < 0x0C00000000 → memByte t a = 0)
        ∧ (∀ f, 1 ≤ f → f ≤ 0x10 → fGet t 0x25 f = fGet s 0x25 f)
        ∧ t.ctxs = [] ∧ t.evts = [] ∧ t.gate = [] ∧ t.saf = {} ∧ t.pwr = {} ∧ t.cyc = {} ∧ t.clk = {}
        ∧ bootState t = 0 ∧ (settle s t).pins.so = 0
      kept .resetN 2 ∧ kept (.supplyMonitorReset core) (if core then 4 else 1))
  ∧ (∀ s : State,
      (∃ t, Gives s .refClkReturn t ∧ t.clk = { s.clk with refClk := true } ∧ t.mem = s.mem ∧ t.cfg = s.cfg)
      ∧ (bootState s = 0 → s.key.latch ≠ 0 → s.rtc.lostNew = false →
          ∃ t, Gives s (.boot []) t ∧ t.key.hold = true ∧ bootState t = 1)
      ∧ (bootState s = 0 → s.key.latch = 0 → s.rtc.lostNew = false → s.key.stored = [] → fPart s 2 0xD 0 16 = 0 →
          ∃ t, Gives s (.boot []) t ∧ bootState t = 2)
      ∧ (bootState s ≠ 0 → ∀ flash, Gives s (.boot flash) s))

/-- R314, R576 to R578: the transition in progress ends: the domain or the core is on or off as asked, event 32 or 33 rises, and the next
one begins. With none in progress nothing happens. R579 to R583, R86: `sleep` with nothing in the way puts the device to sleep; a refusal
writes its code to rd at once, counts, and raises event 35; the wake by an enabled source or the tamper latch raises event 34 and writes 0
to rd. R584, R585: an AVSBus step moves the core voltage by at most 10 mV towards its target, and the change ends there with event 38; a
failed transaction is counted, and the third in a row ends the change with event 36. -/
def Obligations.PowerChangesComplete : Prop :=
  (∀ (s : State) (d : Nat) (n : Fin 8) (on : Bool) (rest : List PwrSwitch),
      let evt := if on then 32 else 33
      (d < 10 → s.pwr.switches = { idx := d, on := on } :: rest →
        ∃ t, Gives s .domainSwitchDone t ∧ t.pwr.switches = rest ∧ evtPending t 0 evt = true ∧ (rest = [] → domainOn t d = on))
      ∧ (s.pwr.switches = { core := true, idx := n.val, on := on } :: rest →
        ∃ t, Gives s .domainSwitchDone t ∧ t.pwr.switches = rest ∧ evtPending t 0 evt = true
          ∧ (rest = [] → t.pwr.cores = if on then s.pwr.cores ||| (1#8 <<< n.val) else s.pwr.cores))
      ∧ (s.pwr.switches = [] → Gives s .domainSwitchDone s))
  ∧ (∀ (s : State) (h : Hdr) (k j rd' : Nat) (rd : Reg) (ext : BitVec 11),
      let dec : Dec := { word := encA 0b110101 rd 0 0 2, grp := .sleep }
      let b := past s k 4
      let hmiIdle : Prop := s.hmi.running = [] ∧ s.hmi.queue = []
      let alone : Prop := fBit s 0x23 1 0 = false ∨ roleCfg s = 0
      let settled : Prop := s.pwr.switches = [] ∧ pendFind s 2 1 = none ∧ pendFind s 2 3 = none
      let wakes : Prop := wakeSources s ext &&& fPart s 2 6 0 13 ≠ 0 ∨ s.key.latch ≠ 0
      let refused (code : Nat) : Prop := ∃ t, Takes s h k (.sleep h rd) dec t ∧ t.pwr.asleep = s.pwr.asleep
        ∧ getCtx t k = wrG (getCtx b k) rd (Word.ofN code) ∧ fPart t 2 0xE 0 8 = code
        ∧ fPart t 2 0xE 16 16 = satInc 16 (fPart s 2 0xE 16 16) ∧ evtPending t 0 35 = true
      (fBit s 0x0C 1 0 = false → hmiIdle → alone → s.gate = [] → settled → fPart s 2 6 0 13 ≠ 0 →
        ∃ t, Takes s h k (.sleep h rd) dec t ∧ t.pwr.asleep = true ∧ (getCtx t k).wait = .asleep rd.toNat ∧ t.pwr.sleptAt = s.clk.tick.toNat)
      ∧ (fBit s 0x0C 1 0 = true → refused 1) ∧ (fBit s 0x0C 1 0 = false → ¬ hmiIdle → refused 2)
      ∧ (fBit s 0x0C 1 0 = false → hmiIdle → ¬ alone → refused 3)
      ∧ (fBit s 0x0C 1 0 = false → hmiIdle → alone → s.gate ≠ [] → refused 4)
      ∧ (fBit s 0x0C 1 0 = false → hmiIdle → alone → s.gate = [] → ¬ settled → refused 5)
      ∧ (fBit s 0x0C 1 0 = false → hmiIdle → alone → s.gate = [] → settled → fPart s 2 6 0 13 = 0 → refused 6)
      ∧ (s.pwr.asleep = true → wakes →
          ∃ t, Gives s (.wake ext) t ∧ t.pwr.asleep = false ∧ evtPending t 0 34 = true
            ∧ (j = 0 ∨ j = 1 → (getCtx s j).wait = .asleep rd' → (getCtx t j).wait = .none ∧ reg t j (BitVec.ofNat 5 rd') = 0))
      ∧ (s.pwr.asleep = false ∨ ¬ wakes → Gives s (.wake ext) s))
  ∧ (∀ (s : State) (mv : BitVec 10),
      let goal := fPart s 2 4 0 10
      (s.pwr.asleep = false → fBit s 2 5 0 = true → fBit s 2 5 2 = true →
        (∃ t, Gives s (.avsStep true mv) t
          ∧ t.pwr.mv = (if s.pwr.mv < goal then min goal (s.pwr.mv + 10) else max goal (s.pwr.mv - 10))
          ∧ t.pwr.avsFails = 0 ∧ fPart t 2 5 12 10 = mv.toNat
          ∧ (t.pwr.mv = goal → fBit t 2 5 2 = false ∧ evtPending t 0 38 = true) ∧ (t.pwr.mv ≠ goal → fBit t 2 5 2 = true))
        ∧ (s.pwr.avsFails < 2 → ∃ t, Gives s (.avsStep false mv) t ∧ t.pwr.avsFails = s.pwr.avsFails + 1 ∧ fBit t 2 5 2 = true
            ∧ fBit t 2 5 1 = false ∧ t.pwr.mv = s.pwr.mv)
        ∧ (2 ≤ s.pwr.avsFails → ∃ t, Gives s (.avsStep false mv) t ∧ fBit t 2 5 2 = false ∧ fBit t 2 5 3 = true
            ∧ evtPending t 0 36 = true ∧ t.pwr.mv = s.pwr.mv))
      ∧ (s.pwr.asleep = true ∨ fBit s 2 5 0 = false ∨ fBit s 2 5 2 = false → ∀ ok, Gives s (.avsStep ok mv) s))
end

