-- ==== Sys2Proof/Laws/Table.lean ====
section
/-! SUPPORT. The laws of sparse tables: what a read gives after each update, and that every update keeps the canonical form. -/
namespace Sys2Proof.Machine

theorem Tbl.find_ins_self {α : Type} (t : Tbl α) (k : Nat) (v : α) : Tbl.find (Tbl.ins t k v) k = some v := by
  induction t with
  | nil => simp [Tbl.ins, Tbl.find]
  | cons e t ih =>
    obtain ⟨k', v'⟩ := e
    simp only [Tbl.ins]
    split
    · simp [Tbl.find]
    · split
      · simp [Tbl.find]
      · have h : k' ≠ k := fun h => by simp_all
        simp [Tbl.find, h, ih]

theorem Tbl.find_ins_ne {α : Type} (t : Tbl α) (k j : Nat) (v : α) (h : j ≠ k) :
    Tbl.find (Tbl.ins t k v) j = Tbl.find t j := by
  induction t with
  | nil => simp [Tbl.ins, Tbl.find, h.symm]
  | cons e t ih =>
    obtain ⟨k', v'⟩ := e
    simp only [Tbl.ins]
    split
    · simp [Tbl.find, h.symm]
    · split
      · next h2 => subst h2; simp [Tbl.find, h.symm]
      · simp [Tbl.find, ih]

theorem Tbl.find_del_self {α : Type} (t : Tbl α) (k : Nat) : Tbl.find (Tbl.del t k) k = none := by
  induction t with
  | nil => rfl
  | cons e t ih =>
    obtain ⟨k', v'⟩ := e
    by_cases h : k' = k <;> simp_all [Tbl.del, Tbl.find]

theorem Tbl.find_del_ne {α : Type} (t : Tbl α) (k j : Nat) (h : j ≠ k) : Tbl.find (Tbl.del t k) j = Tbl.find t j := by
  induction t with
  | nil => rfl
  | cons e t ih =>
    obtain ⟨k', v'⟩ := e
    by_cases h' : k' = k
    · subst h'; simp_all [Tbl.del, Tbl.find, h.symm]
    · simp_all [Tbl.del, Tbl.find]

/-- A read of the entry just written gives the value. -/
@[simp] theorem Tbl.get_put_self {α : Type} [DecidableEq α] (d : α) (t : Tbl α) (k : Nat) (v : α) :
    Tbl.get d (Tbl.put d t k v) k = v := by
  unfold Tbl.put Tbl.get
  split
  · next h => simp [Tbl.find_del_self, h]
  · simp [Tbl.find_ins_self]

/-- A write leaves every other entry alone. -/
theorem Tbl.get_put_ne {α : Type} [DecidableEq α] (d e : α) (t : Tbl α) (k j : Nat) (v : α) (h : j ≠ k) :
    Tbl.get d (Tbl.put e t k v) j = Tbl.get d t j := by
  unfold Tbl.put Tbl.get
  split
  · simp [Tbl.find_del_ne t k j h]
  · simp [Tbl.find_ins_ne t k j v h]

/-- The canonical form in terms of a list that is sorted by key and holds no default. -/
theorem Tbl.wf_cons {α : Type} [DecidableEq α] (d : α) (e : Nat × α) (t : Tbl α) :
    Tbl.wf d (e :: t) = true ↔ e.2 ≠ d ∧ (∀ x ∈ t, e.1 < x.1) ∧ Tbl.wf d t = true := by
  induction t generalizing e with
  | nil => obtain ⟨k, v⟩ := e; simp [Tbl.wf]
  | cons x t ih =>
    obtain ⟨k, v⟩ := e
    obtain ⟨k', v'⟩ := x
    simp only [Tbl.wf, Bool.and_eq_true, decide_eq_true_eq, bne_iff_ne, ne_eq, List.mem_cons, forall_eq_or_imp]
    constructor
    · rintro ⟨⟨h1, h2⟩, h3⟩
      refine ⟨h2, ⟨h1, fun y hy => ?_⟩, h3⟩
      have := ((ih (k', v')).1 h3).2.1 y hy
      omega
    · rintro ⟨h2, ⟨h1, _⟩, h3⟩
      exact ⟨⟨h1, h2⟩, h3⟩

theorem Tbl.wf_filter {α : Type} [DecidableEq α] (d : α) (t : Tbl α) (p : Nat × α → Bool) (h : Tbl.wf d t = true) :
    Tbl.wf d (t.filter p) = true := by
  induction t with
  | nil => rfl
  | cons e t ih =>
    obtain ⟨h1, h2, h3⟩ := (Tbl.wf_cons d e t).1 h
    simp only [List.filter_cons]
    split
    · exact (Tbl.wf_cons d e _).2 ⟨h1, fun x hx => h2 x (List.mem_filter.1 hx).1, ih h3⟩
    · exact ih h3

theorem Tbl.wf_del {α : Type} [DecidableEq α] (d : α) (t : Tbl α) (k : Nat) (h : Tbl.wf d t = true) :
    Tbl.wf d (Tbl.del t k) = true := Tbl.wf_filter d t _ h

theorem Tbl.wf_clear {α : Type} [DecidableEq α] (d : α) (t : Tbl α) (lo len : Nat) (h : Tbl.wf d t = true) :
    Tbl.wf d (Tbl.clear t lo len) = true := Tbl.wf_filter d t _ h

theorem Tbl.mem_ins {α : Type} (t : Tbl α) (k : Nat) (v : α) (x : Nat × α) (h : x ∈ Tbl.ins t k v) :
    x = (k, v) ∨ x ∈ t := by
  induction t with
  | nil => simpa [Tbl.ins] using h
  | cons e t ih =>
    obtain ⟨k', v'⟩ := e
    simp only [Tbl.ins] at h
    split at h
    · simpa using h
    · split at h
      · rcases List.mem_cons.1 h with h | h <;> simp [h]
      · rcases List.mem_cons.1 h with h | h
        · simp [h]
        · rcases ih h with h | h <;> simp [h]

theorem Tbl.wf_ins {α : Type} [DecidableEq α] (d : α) (t : Tbl α) (k : Nat) (v : α) (hv : v ≠ d)
    (h : Tbl.wf d t = true) : Tbl.wf d (Tbl.ins t k v) = true := by
  induction t with
  | nil => simpa [Tbl.ins, Tbl.wf] using hv
  | cons e t ih =>
    obtain ⟨k', v'⟩ := e
    obtain ⟨h1, h2, h3⟩ := (Tbl.wf_cons d _ t).1 h
    simp only [Tbl.ins]
    split
    · next hk =>
      refine (Tbl.wf_cons d _ _).2 ⟨hv, fun x hx => ?_, h⟩
      rcases List.mem_cons.1 hx with rfl | hx
      · exact hk
      · have := h2 x hx; simp only at this ⊢; omega
    · split
      · next hk => subst hk; exact (Tbl.wf_cons d _ _).2 ⟨hv, h2, h3⟩
      · refine (Tbl.wf_cons d _ _).2 ⟨h1, fun x hx => ?_, ih h3⟩
        rcases Tbl.mem_ins t k v x hx with rfl | hx
        · simp only; omega
        · exact h2 x hx

/-- A write keeps the canonical form. -/
theorem Tbl.wf_put {α : Type} [DecidableEq α] (d : α) (t : Tbl α) (k : Nat) (v : α) (h : Tbl.wf d t = true) :
    Tbl.wf d (Tbl.put d t k v) = true := by
  unfold Tbl.put
  split
  · exact Tbl.wf_del d t k h
  · next hv => exact Tbl.wf_ins d t k v hv h

theorem Tbl.wf_paste {α : Type} [DecidableEq α] (d : α) (u : Tbl α) (lo : Nat) (t : Tbl α) (h : Tbl.wf d t = true) :
    Tbl.wf d (Tbl.paste d t lo u) = true := by
  unfold Tbl.paste
  induction u generalizing t with
  | nil => exact h
  | cons e u ih => exact ih _ (Tbl.wf_put d t _ _ h)

theorem Tbl.wf_replace {α : Type} [DecidableEq α] (d : α) (u : Tbl α) (lo len : Nat) (t : Tbl α) (h : Tbl.wf d t = true) :
    Tbl.wf d (Tbl.replace d t lo len u) = true := Tbl.wf_paste d u lo _ (Tbl.wf_clear d t lo len h)

/-- A canonical table lists nothing below the key it begins above. -/
theorem Tbl.find_none {α : Type} (t : Tbl α) (k : Nat) (h : ∀ x ∈ t, x.1 ≠ k) : Tbl.find t k = none := by
  induction t with
  | nil => rfl
  | cons e t ih =>
    have h1 : e.1 ≠ k := h e (by simp)
    simp only [Tbl.find, h1, if_false]
    exact ih (fun x hx => h x (by simp [hx]))

end Sys2Proof.Machine
end

