-- ==== Sys2Proof/Laws/Memory.lean ====
section
/-! SUPPORT. The laws of memory: every operation keeps the canonical form, a read after a write gives the value, and a write leaves
every other byte alone. -/
namespace Sys2Proof.Machine

theorem setByte_wf (s : State) (a : Nat) (b : Byte) (h : Memory.wf s.mem.cells = true) :
    Memory.wf (setByte s a b).mem.cells = true := Tbl.wf_put 0 _ _ _ h

theorem setN_wf (n : Nat) : ∀ (s : State) (a v : Nat), Memory.wf s.mem.cells = true → Memory.wf (setN s a n v).mem.cells = true := by
  induction n with
  | zero => intro s a v h; exact h
  | succ n ih => intro s a v h; exact ih _ _ _ (setByte_wf s a _ h)

theorem setW_wf (s : State) (a : Nat) (v : Word) (h : Memory.wf s.mem.cells = true) :
    Memory.wf (setW s a v).mem.cells = true := setN_wf 4 s a _ h

theorem setWords_wf (ws : List Word) : ∀ (s : State) (a : Nat), Memory.wf s.mem.cells = true →
    Memory.wf (setWords s a ws).mem.cells = true := by
  induction ws with
  | nil => intro s a h; exact h
  | cons w ws ih => intro s a h; exact ih _ _ (setW_wf s a w h)

theorem setBytes_wf (bs : List Byte) : ∀ (s : State) (a : Nat), Memory.wf s.mem.cells = true →
    Memory.wf (setBytes s a bs).mem.cells = true := by
  induction bs with
  | nil => intro s a h; exact h
  | cons b bs ih => intro s a h; exact ih _ _ (setByte_wf s a b h)

theorem zeroRange_wf (s : State) (a len : Nat) (h : Memory.wf s.mem.cells = true) :
    Memory.wf (zeroRange s a len).mem.cells = true := Tbl.wf_clear 0 _ _ _ h

theorem loadRange_wf (s : State) (a len : Nat) (u : List Host.Cell) (h : Memory.wf s.mem.cells = true) :
    Memory.wf (loadRange s a len u).mem.cells = true := Tbl.wf_replace 0 u a len _ h

/-- Memory at reset is canonical. -/
theorem reset_memory_wf : Memory.wf State.reset.mem.cells = true := by decide

/-- A byte of ordinary memory: neither boot ROM nor the Almanac's read window, whose bytes are made otherwise. -/
def plainAddr (a : Nat) : Prop := 0x40000 ≤ a ∧ ¬ (0x0E00000000 ≤ a ∧ a < 0x0E00200000)

theorem inLib_setByte (s : State) (a : Nat) (b : Byte) (x : Nat) : inLib (setByte s a b) x = inLib s x := rfl

/-- A read of the byte just written gives the value. -/
theorem memByte_setByte_self (s : State) (a : Nat) (b : Byte) (h : plainAddr a) : memByte (setByte s a b) a = b := by
  obtain ⟨h1, h2⟩ := h
  have h3 : ¬ a < 0x40000 := by omega
  unfold memByte
  rw [if_neg h3, if_neg h2, inLib_setByte]
  cases hl : inLib s a
  · simp [setByte, hl]
  · simp [setByte, hl]

/-- A write leaves every other byte alone. -/
theorem memByte_setByte_ne (s : State) (a x : Nat) (b : Byte) (h : plainAddr x) (hx : x ≠ a) :
    memByte (setByte s a b) x = memByte s x := by
  obtain ⟨h1, h2⟩ := h
  have h3 : ¬ x < 0x40000 := by omega
  unfold memByte
  rw [if_neg h3, if_neg h2, if_neg h3, if_neg h2, inLib_setByte]
  simp only [setByte, Tbl.get_put_ne _ _ _ _ _ _ hx]

theorem memByte_setN_out (n : Nat) : ∀ (s : State) (a v x : Nat), plainAddr x → (x < a ∨ a + n ≤ x) →
    memByte (setN s a n v) x = memByte s x := by
  induction n with
  | zero => intro s a v x _ _; rfl
  | succ n ih =>
    intro s a v x hx ho
    simp only [setN]
    rw [ih _ _ _ x hx (by omega), memByte_setByte_ne s a x _ hx (by omega)]

/-- Stored bytes leave every byte outside them alone. -/
theorem memByte_setBytes_out (bs : List Byte) : ∀ (s : State) (a x : Nat), plainAddr x → (x < a ∨ a + bs.length ≤ x) →
    memByte (setBytes s a bs) x = memByte s x := by
  induction bs with
  | nil => intro s a x _ _; rfl
  | cons b bs ih =>
    intro s a x hx ho
    simp only [List.length_cons] at ho
    simp only [setBytes]
    rw [ih _ _ x hx (by omega), memByte_setByte_ne s a x _ hx (by omega)]

/-- A byte that nothing has written reads 0. -/
theorem memByte_unlisted (s : State) (a : Nat) (h : plainAddr a) (hl : inLib s a = false) (hc : Tbl.get 0 s.mem.cells a = 0) :
    memByte s a = 0 := by
  obtain ⟨h1, h2⟩ := h
  unfold memByte
  rw [if_neg (by omega), if_neg h2]
  rw [if_neg (by simp [hl])]
  exact hc

@[simp] theorem leBytes_length (n v : Nat) : (leBytes n v).length = n := by
  induction n generalizing v with
  | zero => rfl
  | succ n ih => simp [leBytes, ih]

end Sys2Proof.Machine
end

