-- ==== Sys2Proof/Laws/Run.lean ====
section
/-! SUPPORT. What the shared operations do, said once: contexts and registers, the run of an instruction, and the end of a
command. -/
namespace Sys2Proof.Machine

@[simp] theorem getCtx_setCtx (s : State) (k : Nat) (c : Ctx) : getCtx (setCtx s k c) k = c := by simp [getCtx, setCtx]

theorem getCtx_setCtx_ne (s : State) (k j : Nat) (c : Ctx) (h : j ≠ k) : getCtx (setCtx s k c) j = getCtx s j := by
  simp [getCtx, setCtx, Tbl.get_put_ne _ _ _ _ _ _ h]

/-- A register just written, but for g0. -/
theorem rdG_wrG (c : Ctx) (r : Reg) (v : Word) (h : r ≠ 0) : rdG (wrG c r v) r = v := by
  have h' : ¬ r = 0#5 := h
  simp [rdG, wrG, h']

/-- g0 reads as zero whatever is written (R40, R41). -/
@[simp] theorem rdG_zero (c : Ctx) : rdG c 0 = 0 := by simp [rdG]

theorem rdG_wrG_ne (c : Ctx) (r q : Reg) (v : Word) (h : q ≠ r) : rdG (wrG c r v) q = rdG c q := by
  have hn : q.toNat ≠ r.toNat := fun e => h (BitVec.eq_of_toNat_eq e)
  by_cases hr : r = 0#5
  · simp [rdG, wrG, hr]
  · by_cases hq : q = 0#5
    · simp [rdG, hq]
    · simp [rdG, wrG, hr, hq, Tbl.get_put_ne _ _ _ _ _ _ hn]

/-- p0 reads as true (R40). -/
@[simp] theorem rdP_zero (c : Ctx) : rdP c 0 = true := by simp [rdP]

theorem getCtx_past (s : State) (k n : Nat) :
    getCtx (past s k n) k = { getCtx s k with pc := (getCtx s k).pc + Word.ofN n } := by simp [past, setPc]

@[simp] theorem reg_past (s : State) (k n : Nat) (r : Reg) : reg (past s k n) k r = reg s k r := by
  simp [reg, getCtx_past, rdG]

@[simp] theorem rdP_past (s : State) (k n : Nat) (p : PReg) : rdP (getCtx (past s k n) k) p = rdP (getCtx s k) p := by
  simp [getCtx_past, rdP]

@[simp] theorem rdA_past (s : State) (k n : Nat) (a : BitVec 3) : rdA (getCtx (past s k n) k) a = rdA (getCtx s k) a := by
  simp [getCtx_past, rdA]

/-- The run of an instruction whose premises hold is its body behind it. -/
theorem instrRes_runs (h : Hdr) (d : Dec) (k : Nat) (body : Nat → State → Res) (s : State) (r : Runs s h k d) :
    instrRes h d k body s = body k (past s k d.len) := by
  obtain ⟨_, r2, r3, r4, ⟨r5, r6, r10, r7⟩, r8, r9⟩ := r
  have e1 : ∀ a, Tbl.get 0 s.mem.ecc (a / 8) = 0 → eccRead s a = (s, true) := fun a ha => by simp [eccRead, ha]
  have e2 : ¬ (homeOf s h.eng).2 < (getCtx s k).pc.toNat + d.len := by omega
  have ho : reservedOpcode h = false := by simp [reservedOpcode, r10]
  have hf : ∀ f, fetch s h.eng k (fetchLen h d) f = f s := by
    intro f
    simp only [fetchLen, ho, Bool.false_eq_true, if_false, fetch]
    rw [if_neg e2, e1 _ r3]
    rcases r4 with r4 | r4
    · simp [r4]
    · simp only [e1 _ r4]; split <;> rfl
  simp only [instrRes]
  rw [hf]
  simp [ho, r5, r6, r7, r8, r9, past]

/-- An instruction that runs and whose body does not trap. -/
theorem runInstr_ok (h : Hdr) (d : Dec) (k : Nat) (body : Nat → State → Res) (s t : State) (r : Runs s h k d)
    (hb : body k (past s k d.len) = .ok t) : runInstr h d body s = t := by
  unfold runInstr
  rw [r.ready]
  simp only [instrRes_runs h d k body s r, hb]

/-- An instruction that runs and whose body traps. -/
theorem runInstr_trap (h : Hdr) (d : Dec) (k : Nat) (body : Nat → State → Res) (s t : State) (e : Trap) (r : Runs s h k d)
    (hb : body k (past s k d.len) = .trap t e) :
    runInstr h d body s = takeTrap (setPc t k (getCtx s k).pc) h.eng k (getCtx s k).pc (fullWord h d) e := by
  unfold runInstr
  rw [r.ready]
  simp only [instrRes_runs h d k body s r, hb]

/-- An engine that is not ready executes nothing. -/
theorem runInstr_idle (h : Hdr) (d : Dec) (body : Nat → State → Res) (s : State) (r : engReady s h.eng = none) :
    runInstr h d body s = s := by
  unfold runInstr
  rw [r]

/-- An instruction that runs and whose body does not trap answers a next state. -/
theorem takes_ok (h : Hdr) (d : Dec) (k : Nat) (body : Nat → State → Res) (i : Instr) (s t : State)
    (hi : exec i s = done s (runInstr h d body s)) (hb : body k (past s k d.len) = .ok t) : Takes s h k i d t := by
  intro r
  unfold Gives
  rw [hi, runInstr_ok h d k body s t r hb]
  rfl

/-- An instruction that runs and whose body traps. -/
theorem traps_ok (h : Hdr) (d : Dec) (k : Nat) (body : Nat → State → Res) (i : Instr) (s : State) (e : Trap)
    (hi : exec i s = done s (runInstr h d body s)) (hb : body k (past s k d.len) = .trap (past s k d.len) e) :
    Traps s h k i d e := by
  intro r
  unfold Gives
  rw [hi, runInstr_trap h d k body s _ e r hb]
  rfl

/-- An allowed access to a clean word changes nothing. -/
theorem access_ok (s : State) (w : Who) (k : Kind) (wr : Bool) (a n : Nat) (hm : accessCause s w.unit wr a n = none)
    (hc : Tbl.get 0 s.mem.ecc (storedAt s a / 8) = 0) (hw : ¬ (wr = true ∧ n = 8)) : access s w k wr a n = (s, none) := by
  have he : eccRead s (storedAt s a) = (s, true) := by simp [eccRead, hc]
  have h : ¬ (wr = true ∧ n = 8 ∧ a % 8 = 0) := fun h => hw ⟨h.1, h.2.1⟩
  unfold access
  rw [hm]
  simp only [h, if_false, he]

/-- An allowed write of a whole word gives it a fresh code. -/
theorem access_fresh (s : State) (w : Who) (k : Kind) (a : Nat) (hm : accessCause s w.unit true a 8 = none)
    (ha : a % 8 = 0) : access s w k true a 8 = (eccFresh s a, none) := by
  unfold access
  rw [hm]
  simp [ha]

/-- A near access that gets its word goes on at its address. -/
theorem nearAccess_ok (s : State) (e : Eng) (k : Nat) (kd : Kind) (wr : Bool) (ea n : Nat) (f : Nat → State → Res)
    (hn : Near s e wr ea n) (hw : ¬ (wr = true ∧ n = 8)) :
    nearAccess s e k kd wr ea n f = f ((homeOf s e).1 + ea) s := by
  obtain ⟨h1, h2, h3, h4⟩ := hn
  have h5 : ¬ ((homeOf s e).2 < ea + n) := by omega
  have hx := access_ok s (whoIs e k) kd wr ((homeOf s e).1 + ea) n h3 h4 hw
  simp only [nearAccess, withAccess, h1, h5, hx, ne_eq, not_true_eq_false, if_false]

/-- A near store of a doubleword goes on at its address with a fresh code. -/
theorem nearAccess_fresh (s : State) (e : Eng) (k : Nat) (kd : Kind) (ea : Nat) (f : Nat → State → Res)
    (hn : Near s e true ea 8) (hb : (homeOf s e).1 % 8 = 0) :
    nearAccess s e k kd true ea 8 f = f ((homeOf s e).1 + ea) (eccFresh s ((homeOf s e).1 + ea)) := by
  obtain ⟨h1, h2, h3, h4⟩ := hn
  have h5 : ¬ ((homeOf s e).2 < ea + 8) := by omega
  have hx := access_fresh s (whoIs e k) kd ((homeOf s e).1 + ea) h3 (by omega)
  simp only [nearAccess, withAccess, h1, h5, hx, ne_eq, not_true_eq_false, if_false]

/-- Every home region begins on a doubleword. -/
theorem homeOf_aligned (s : State) (e : Eng) : (homeOf s e).1 % 8 = 0 := by
  cases e <;> unfold homeOf <;> dsimp only <;> omega

@[simp] theorem settle_pending (s t : State) : (settle s t).pending = s.pending := rfl
@[simp] theorem settle_pins (s t : State) : (settle s t).pins = drive t := rfl

/-- `drive` looks at neither the pins nor the queue. -/
theorem drive_settle (s t : State) : drive (settle s t) = drive t := rfl

end Sys2Proof.Machine
end

