-- ==== Sys2Proof/Laws/State.lean ====
section
/-! SUPPORT. What each update of the state leaves unchanged: one lemma per field, true by unfolding. -/
namespace Sys2Proof.Machine


@[simp] theorem settle_free (s t : State) : (settle s t).free = t.free := rfl
@[simp] theorem settle_clk (s t : State) : (settle s t).clk = t.clk := rfl
@[simp] theorem settle_cfg (s t : State) : (settle s t).cfg = t.cfg := rfl
@[simp] theorem settle_mem (s t : State) : (settle s t).mem = t.mem := rfl
@[simp] theorem settle_ctxs (s t : State) : (settle s t).ctxs = t.ctxs := rfl
@[simp] theorem settle_evts (s t : State) : (settle s t).evts = t.evts := rfl
@[simp] theorem settle_alm (s t : State) : (settle s t).alm = t.alm := rfl
@[simp] theorem settle_pi (s t : State) : (settle s t).pi = t.pi := rfl
@[simp] theorem settle_gate (s t : State) : (settle s t).gate = t.gate := rfl
@[simp] theorem settle_mgt (s t : State) : (settle s t).mgt = t.mgt := rfl
@[simp] theorem settle_cyc (s t : State) : (settle s t).cyc = t.cyc := rfl
@[simp] theorem settle_afe (s t : State) : (settle s t).afe = t.afe := rfl
@[simp] theorem settle_mtr (s t : State) : (settle s t).mtr = t.mtr := rfl
@[simp] theorem settle_asm (s t : State) : (settle s t).asm = t.asm := rfl
@[simp] theorem settle_cle (s t : State) : (settle s t).cle = t.cle := rfl
@[simp] theorem settle_saf (s t : State) : (settle s t).saf = t.saf := rfl
@[simp] theorem settle_can (s t : State) : (settle s t).can = t.can := rfl
@[simp] theorem settle_stn (s t : State) : (settle s t).stn = t.stn := rfl
@[simp] theorem settle_solv (s t : State) : (settle s t).solv = t.solv := rfl
@[simp] theorem settle_net (s t : State) : (settle s t).net = t.net := rfl
@[simp] theorem settle_time (s t : State) : (settle s t).time = t.time := rfl
@[simp] theorem settle_twin (s t : State) : (settle s t).twin = t.twin := rfl
@[simp] theorem settle_rtc (s t : State) : (settle s t).rtc = t.rtc := rfl
@[simp] theorem settle_key (s t : State) : (settle s t).key = t.key := rfl
@[simp] theorem settle_hmi (s t : State) : (settle s t).hmi = t.hmi := rfl
@[simp] theorem settle_pwr (s t : State) : (settle s t).pwr = t.pwr := rfl
@[simp] theorem settle_tap (s t : State) : (settle s t).tap = t.tap := rfl

@[simp] theorem setCtx_pending (s : State) (k : Nat) (c : Ctx) : (setCtx s k c).pending = s.pending := rfl
@[simp] theorem setCtx_free (s : State) (k : Nat) (c : Ctx) : (setCtx s k c).free = s.free := rfl
@[simp] theorem setCtx_clk (s : State) (k : Nat) (c : Ctx) : (setCtx s k c).clk = s.clk := rfl
@[simp] theorem setCtx_cfg (s : State) (k : Nat) (c : Ctx) : (setCtx s k c).cfg = s.cfg := rfl
@[simp] theorem setCtx_mem (s : State) (k : Nat) (c : Ctx) : (setCtx s k c).mem = s.mem := rfl
@[simp] theorem setCtx_evts (s : State) (k : Nat) (c : Ctx) : (setCtx s k c).evts = s.evts := rfl
@[simp] theorem setCtx_alm (s : State) (k : Nat) (c : Ctx) : (setCtx s k c).alm = s.alm := rfl
@[simp] theorem setCtx_pi (s : State) (k : Nat) (c : Ctx) : (setCtx s k c).pi = s.pi := rfl
@[simp] theorem setCtx_gate (s : State) (k : Nat) (c : Ctx) : (setCtx s k c).gate = s.gate := rfl
@[simp] theorem setCtx_mgt (s : State) (k : Nat) (c : Ctx) : (setCtx s k c).mgt = s.mgt := rfl
@[simp] theorem setCtx_cyc (s : State) (k : Nat) (c : Ctx) : (setCtx s k c).cyc = s.cyc := rfl
@[simp] theorem setCtx_afe (s : State) (k : Nat) (c : Ctx) : (setCtx s k c).afe = s.afe := rfl
@[simp] theorem setCtx_mtr (s : State) (k : Nat) (c : Ctx) : (setCtx s k c).mtr = s.mtr := rfl
@[simp] theorem setCtx_asm (s : State) (k : Nat) (c : Ctx) : (setCtx s k c).asm = s.asm := rfl
@[simp] theorem setCtx_cle (s : State) (k : Nat) (c : Ctx) : (setCtx s k c).cle = s.cle := rfl
@[simp] theorem setCtx_saf (s : State) (k : Nat) (c : Ctx) : (setCtx s k c).saf = s.saf := rfl
@[simp] theorem setCtx_can (s : State) (k : Nat) (c : Ctx) : (setCtx s k c).can = s.can := rfl
@[simp] theorem setCtx_stn (s : State) (k : Nat) (c : Ctx) : (setCtx s k c).stn = s.stn := rfl
@[simp] theorem setCtx_solv (s : State) (k : Nat) (c : Ctx) : (setCtx s k c).solv = s.solv := rfl
@[simp] theorem setCtx_net (s : State) (k : Nat) (c : Ctx) : (setCtx s k c).net = s.net := rfl
@[simp] theorem setCtx_time (s : State) (k : Nat) (c : Ctx) : (setCtx s k c).time = s.time := rfl
@[simp] theorem setCtx_twin (s : State) (k : Nat) (c : Ctx) : (setCtx s k c).twin = s.twin := rfl
@[simp] theorem setCtx_rtc (s : State) (k : Nat) (c : Ctx) : (setCtx s k c).rtc = s.rtc := rfl
@[simp] theorem setCtx_key (s : State) (k : Nat) (c : Ctx) : (setCtx s k c).key = s.key := rfl
@[simp] theorem setCtx_hmi (s : State) (k : Nat) (c : Ctx) : (setCtx s k c).hmi = s.hmi := rfl
@[simp] theorem setCtx_pwr (s : State) (k : Nat) (c : Ctx) : (setCtx s k c).pwr = s.pwr := rfl
@[simp] theorem setCtx_pins (s : State) (k : Nat) (c : Ctx) : (setCtx s k c).pins = s.pins := rfl
@[simp] theorem setCtx_tap (s : State) (k : Nat) (c : Ctx) : (setCtx s k c).tap = s.tap := rfl

@[simp] theorem setPc_pending (s : State) (k : Nat) (pc : Word) : (setPc s k pc).pending = s.pending := rfl
@[simp] theorem setPc_free (s : State) (k : Nat) (pc : Word) : (setPc s k pc).free = s.free := rfl
@[simp] theorem setPc_clk (s : State) (k : Nat) (pc : Word) : (setPc s k pc).clk = s.clk := rfl
@[simp] theorem setPc_cfg (s : State) (k : Nat) (pc : Word) : (setPc s k pc).cfg = s.cfg := rfl
@[simp] theorem setPc_mem (s : State) (k : Nat) (pc : Word) : (setPc s k pc).mem = s.mem := rfl
@[simp] theorem setPc_evts (s : State) (k : Nat) (pc : Word) : (setPc s k pc).evts = s.evts := rfl
@[simp] theorem setPc_alm (s : State) (k : Nat) (pc : Word) : (setPc s k pc).alm = s.alm := rfl
@[simp] theorem setPc_pi (s : State) (k : Nat) (pc : Word) : (setPc s k pc).pi = s.pi := rfl
@[simp] theorem setPc_gate (s : State) (k : Nat) (pc : Word) : (setPc s k pc).gate = s.gate := rfl
@[simp] theorem setPc_mgt (s : State) (k : Nat) (pc : Word) : (setPc s k pc).mgt = s.mgt := rfl
@[simp] theorem setPc_cyc (s : State) (k : Nat) (pc : Word) : (setPc s k pc).cyc = s.cyc := rfl
@[simp] theorem setPc_afe (s : State) (k : Nat) (pc : Word) : (setPc s k pc).afe = s.afe := rfl
@[simp] theorem setPc_mtr (s : State) (k : Nat) (pc : Word) : (setPc s k pc).mtr = s.mtr := rfl
@[simp] theorem setPc_asm (s : State) (k : Nat) (pc : Word) : (setPc s k pc).asm = s.asm := rfl
@[simp] theorem setPc_cle (s : State) (k : Nat) (pc : Word) : (setPc s k pc).cle = s.cle := rfl
@[simp] theorem setPc_saf (s : State) (k : Nat) (pc : Word) : (setPc s k pc).saf = s.saf := rfl
@[simp] theorem setPc_can (s : State) (k : Nat) (pc : Word) : (setPc s k pc).can = s.can := rfl
@[simp] theorem setPc_stn (s : State) (k : Nat) (pc : Word) : (setPc s k pc).stn = s.stn := rfl
@[simp] theorem setPc_solv (s : State) (k : Nat) (pc : Word) : (setPc s k pc).solv = s.solv := rfl
@[simp] theorem setPc_net (s : State) (k : Nat) (pc : Word) : (setPc s k pc).net = s.net := rfl
@[simp] theorem setPc_time (s : State) (k : Nat) (pc : Word) : (setPc s k pc).time = s.time := rfl
@[simp] theorem setPc_twin (s : State) (k : Nat) (pc : Word) : (setPc s k pc).twin = s.twin := rfl
@[simp] theorem setPc_rtc (s : State) (k : Nat) (pc : Word) : (setPc s k pc).rtc = s.rtc := rfl
@[simp] theorem setPc_key (s : State) (k : Nat) (pc : Word) : (setPc s k pc).key = s.key := rfl
@[simp] theorem setPc_hmi (s : State) (k : Nat) (pc : Word) : (setPc s k pc).hmi = s.hmi := rfl
@[simp] theorem setPc_pwr (s : State) (k : Nat) (pc : Word) : (setPc s k pc).pwr = s.pwr := rfl
@[simp] theorem setPc_pins (s : State) (k : Nat) (pc : Word) : (setPc s k pc).pins = s.pins := rfl
@[simp] theorem setPc_tap (s : State) (k : Nat) (pc : Word) : (setPc s k pc).tap = s.tap := rfl

@[simp] theorem setReg_pending (s : State) (k : Nat) (r : Reg) (v : Word) : (setReg s k r v).pending = s.pending := rfl
@[simp] theorem setReg_free (s : State) (k : Nat) (r : Reg) (v : Word) : (setReg s k r v).free = s.free := rfl
@[simp] theorem setReg_clk (s : State) (k : Nat) (r : Reg) (v : Word) : (setReg s k r v).clk = s.clk := rfl
@[simp] theorem setReg_cfg (s : State) (k : Nat) (r : Reg) (v : Word) : (setReg s k r v).cfg = s.cfg := rfl
@[simp] theorem setReg_mem (s : State) (k : Nat) (r : Reg) (v : Word) : (setReg s k r v).mem = s.mem := rfl
@[simp] theorem setReg_evts (s : State) (k : Nat) (r : Reg) (v : Word) : (setReg s k r v).evts = s.evts := rfl
@[simp] theorem setReg_alm (s : State) (k : Nat) (r : Reg) (v : Word) : (setReg s k r v).alm = s.alm := rfl
@[simp] theorem setReg_pi (s : State) (k : Nat) (r : Reg) (v : Word) : (setReg s k r v).pi = s.pi := rfl
@[simp] theorem setReg_gate (s : State) (k : Nat) (r : Reg) (v : Word) : (setReg s k r v).gate = s.gate := rfl
@[simp] theorem setReg_mgt (s : State) (k : Nat) (r : Reg) (v : Word) : (setReg s k r v).mgt = s.mgt := rfl
@[simp] theorem setReg_cyc (s : State) (k : Nat) (r : Reg) (v : Word) : (setReg s k r v).cyc = s.cyc := rfl
@[simp] theorem setReg_afe (s : State) (k : Nat) (r : Reg) (v : Word) : (setReg s k r v).afe = s.afe := rfl
@[simp] theorem setReg_mtr (s : State) (k : Nat) (r : Reg) (v : Word) : (setReg s k r v).mtr = s.mtr := rfl
@[simp] theorem setReg_asm (s : State) (k : Nat) (r : Reg) (v : Word) : (setReg s k r v).asm = s.asm := rfl
@[simp] theorem setReg_cle (s : State) (k : Nat) (r : Reg) (v : Word) : (setReg s k r v).cle = s.cle := rfl
@[simp] theorem setReg_saf (s : State) (k : Nat) (r : Reg) (v : Word) : (setReg s k r v).saf = s.saf := rfl
@[simp] theorem setReg_can (s : State) (k : Nat) (r : Reg) (v : Word) : (setReg s k r v).can = s.can := rfl
@[simp] theorem setReg_stn (s : State) (k : Nat) (r : Reg) (v : Word) : (setReg s k r v).stn = s.stn := rfl
@[simp] theorem setReg_solv (s : State) (k : Nat) (r : Reg) (v : Word) : (setReg s k r v).solv = s.solv := rfl
@[simp] theorem setReg_net (s : State) (k : Nat) (r : Reg) (v : Word) : (setReg s k r v).net = s.net := rfl
@[simp] theorem setReg_time (s : State) (k : Nat) (r : Reg) (v : Word) : (setReg s k r v).time = s.time := rfl
@[simp] theorem setReg_twin (s : State) (k : Nat) (r : Reg) (v : Word) : (setReg s k r v).twin = s.twin := rfl
@[simp] theorem setReg_rtc (s : State) (k : Nat) (r : Reg) (v : Word) : (setReg s k r v).rtc = s.rtc := rfl
@[simp] theorem setReg_key (s : State) (k : Nat) (r : Reg) (v : Word) : (setReg s k r v).key = s.key := rfl
@[simp] theorem setReg_hmi (s : State) (k : Nat) (r : Reg) (v : Word) : (setReg s k r v).hmi = s.hmi := rfl
@[simp] theorem setReg_pwr (s : State) (k : Nat) (r : Reg) (v : Word) : (setReg s k r v).pwr = s.pwr := rfl
@[simp] theorem setReg_pins (s : State) (k : Nat) (r : Reg) (v : Word) : (setReg s k r v).pins = s.pins := rfl
@[simp] theorem setReg_tap (s : State) (k : Nat) (r : Reg) (v : Word) : (setReg s k r v).tap = s.tap := rfl

@[simp] theorem setPred_pending (s : State) (k : Nat) (p : PReg) (b : Bool) : (setPred s k p b).pending = s.pending := rfl
@[simp] theorem setPred_free (s : State) (k : Nat) (p : PReg) (b : Bool) : (setPred s k p b).free = s.free := rfl
@[simp] theorem setPred_clk (s : State) (k : Nat) (p : PReg) (b : Bool) : (setPred s k p b).clk = s.clk := rfl
@[simp] theorem setPred_cfg (s : State) (k : Nat) (p : PReg) (b : Bool) : (setPred s k p b).cfg = s.cfg := rfl
@[simp] theorem setPred_mem (s : State) (k : Nat) (p : PReg) (b : Bool) : (setPred s k p b).mem = s.mem := rfl
@[simp] theorem setPred_evts (s : State) (k : Nat) (p : PReg) (b : Bool) : (setPred s k p b).evts = s.evts := rfl
@[simp] theorem setPred_alm (s : State) (k : Nat) (p : PReg) (b : Bool) : (setPred s k p b).alm = s.alm := rfl
@[simp] theorem setPred_pi (s : State) (k : Nat) (p : PReg) (b : Bool) : (setPred s k p b).pi = s.pi := rfl
@[simp] theorem setPred_gate (s : State) (k : Nat) (p : PReg) (b : Bool) : (setPred s k p b).gate = s.gate := rfl
@[simp] theorem setPred_mgt (s : State) (k : Nat) (p : PReg) (b : Bool) : (setPred s k p b).mgt = s.mgt := rfl
@[simp] theorem setPred_cyc (s : State) (k : Nat) (p : PReg) (b : Bool) : (setPred s k p b).cyc = s.cyc := rfl
@[simp] theorem setPred_afe (s : State) (k : Nat) (p : PReg) (b : Bool) : (setPred s k p b).afe = s.afe := rfl
@[simp] theorem setPred_mtr (s : State) (k : Nat) (p : PReg) (b : Bool) : (setPred s k p b).mtr = s.mtr := rfl
@[simp] theorem setPred_asm (s : State) (k : Nat) (p : PReg) (b : Bool) : (setPred s k p b).asm = s.asm := rfl
@[simp] theorem setPred_cle (s : State) (k : Nat) (p : PReg) (b : Bool) : (setPred s k p b).cle = s.cle := rfl
@[simp] theorem setPred_saf (s : State) (k : Nat) (p : PReg) (b : Bool) : (setPred s k p b).saf = s.saf := rfl
@[simp] theorem setPred_can (s : State) (k : Nat) (p : PReg) (b : Bool) : (setPred s k p b).can = s.can := rfl
@[simp] theorem setPred_stn (s : State) (k : Nat) (p : PReg) (b : Bool) : (setPred s k p b).stn = s.stn := rfl
@[simp] theorem setPred_solv (s : State) (k : Nat) (p : PReg) (b : Bool) : (setPred s k p b).solv = s.solv := rfl
@[simp] theorem setPred_net (s : State) (k : Nat) (p : PReg) (b : Bool) : (setPred s k p b).net = s.net := rfl
@[simp] theorem setPred_time (s : State) (k : Nat) (p : PReg) (b : Bool) : (setPred s k p b).time = s.time := rfl
@[simp] theorem setPred_twin (s : State) (k : Nat) (p : PReg) (b : Bool) : (setPred s k p b).twin = s.twin := rfl
@[simp] theorem setPred_rtc (s : State) (k : Nat) (p : PReg) (b : Bool) : (setPred s k p b).rtc = s.rtc := rfl
@[simp] theorem setPred_key (s : State) (k : Nat) (p : PReg) (b : Bool) : (setPred s k p b).key = s.key := rfl
@[simp] theorem setPred_hmi (s : State) (k : Nat) (p : PReg) (b : Bool) : (setPred s k p b).hmi = s.hmi := rfl
@[simp] theorem setPred_pwr (s : State) (k : Nat) (p : PReg) (b : Bool) : (setPred s k p b).pwr = s.pwr := rfl
@[simp] theorem setPred_pins (s : State) (k : Nat) (p : PReg) (b : Bool) : (setPred s k p b).pins = s.pins := rfl
@[simp] theorem setPred_tap (s : State) (k : Nat) (p : PReg) (b : Bool) : (setPred s k p b).tap = s.tap := rfl

@[simp] theorem past_pending (s : State) (k len : Nat) : (past s k len).pending = s.pending := rfl
@[simp] theorem past_free (s : State) (k len : Nat) : (past s k len).free = s.free := rfl
@[simp] theorem past_clk (s : State) (k len : Nat) : (past s k len).clk = s.clk := rfl
@[simp] theorem past_cfg (s : State) (k len : Nat) : (past s k len).cfg = s.cfg := rfl
@[simp] theorem past_mem (s : State) (k len : Nat) : (past s k len).mem = s.mem := rfl
@[simp] theorem past_evts (s : State) (k len : Nat) : (past s k len).evts = s.evts := rfl
@[simp] theorem past_alm (s : State) (k len : Nat) : (past s k len).alm = s.alm := rfl
@[simp] theorem past_pi (s : State) (k len : Nat) : (past s k len).pi = s.pi := rfl
@[simp] theorem past_gate (s : State) (k len : Nat) : (past s k len).gate = s.gate := rfl
@[simp] theorem past_mgt (s : State) (k len : Nat) : (past s k len).mgt = s.mgt := rfl
@[simp] theorem past_cyc (s : State) (k len : Nat) : (past s k len).cyc = s.cyc := rfl
@[simp] theorem past_afe (s : State) (k len : Nat) : (past s k len).afe = s.afe := rfl
@[simp] theorem past_mtr (s : State) (k len : Nat) : (past s k len).mtr = s.mtr := rfl
@[simp] theorem past_asm (s : State) (k len : Nat) : (past s k len).asm = s.asm := rfl
@[simp] theorem past_cle (s : State) (k len : Nat) : (past s k len).cle = s.cle := rfl
@[simp] theorem past_saf (s : State) (k len : Nat) : (past s k len).saf = s.saf := rfl
@[simp] theorem past_can (s : State) (k len : Nat) : (past s k len).can = s.can := rfl
@[simp] theorem past_stn (s : State) (k len : Nat) : (past s k len).stn = s.stn := rfl
@[simp] theorem past_solv (s : State) (k len : Nat) : (past s k len).solv = s.solv := rfl
@[simp] theorem past_net (s : State) (k len : Nat) : (past s k len).net = s.net := rfl
@[simp] theorem past_time (s : State) (k len : Nat) : (past s k len).time = s.time := rfl
@[simp] theorem past_twin (s : State) (k len : Nat) : (past s k len).twin = s.twin := rfl
@[simp] theorem past_rtc (s : State) (k len : Nat) : (past s k len).rtc = s.rtc := rfl
@[simp] theorem past_key (s : State) (k len : Nat) : (past s k len).key = s.key := rfl
@[simp] theorem past_hmi (s : State) (k len : Nat) : (past s k len).hmi = s.hmi := rfl
@[simp] theorem past_pwr (s : State) (k len : Nat) : (past s k len).pwr = s.pwr := rfl
@[simp] theorem past_pins (s : State) (k len : Nat) : (past s k len).pins = s.pins := rfl
@[simp] theorem past_tap (s : State) (k len : Nat) : (past s k len).tap = s.tap := rfl

@[simp] theorem fSet_pending (s : State) (u f : Nat) (v : Word) : (fSet s u f v).pending = s.pending := rfl
@[simp] theorem fSet_free (s : State) (u f : Nat) (v : Word) : (fSet s u f v).free = s.free := rfl
@[simp] theorem fSet_clk (s : State) (u f : Nat) (v : Word) : (fSet s u f v).clk = s.clk := rfl
@[simp] theorem fSet_mem (s : State) (u f : Nat) (v : Word) : (fSet s u f v).mem = s.mem := rfl
@[simp] theorem fSet_ctxs (s : State) (u f : Nat) (v : Word) : (fSet s u f v).ctxs = s.ctxs := rfl
@[simp] theorem fSet_evts (s : State) (u f : Nat) (v : Word) : (fSet s u f v).evts = s.evts := rfl
@[simp] theorem fSet_alm (s : State) (u f : Nat) (v : Word) : (fSet s u f v).alm = s.alm := rfl
@[simp] theorem fSet_pi (s : State) (u f : Nat) (v : Word) : (fSet s u f v).pi = s.pi := rfl
@[simp] theorem fSet_gate (s : State) (u f : Nat) (v : Word) : (fSet s u f v).gate = s.gate := rfl
@[simp] theorem fSet_mgt (s : State) (u f : Nat) (v : Word) : (fSet s u f v).mgt = s.mgt := rfl
@[simp] theorem fSet_cyc (s : State) (u f : Nat) (v : Word) : (fSet s u f v).cyc = s.cyc := rfl
@[simp] theorem fSet_afe (s : State) (u f : Nat) (v : Word) : (fSet s u f v).afe = s.afe := rfl
@[simp] theorem fSet_mtr (s : State) (u f : Nat) (v : Word) : (fSet s u f v).mtr = s.mtr := rfl
@[simp] theorem fSet_asm (s : State) (u f : Nat) (v : Word) : (fSet s u f v).asm = s.asm := rfl
@[simp] theorem fSet_cle (s : State) (u f : Nat) (v : Word) : (fSet s u f v).cle = s.cle := rfl
@[simp] theorem fSet_saf (s : State) (u f : Nat) (v : Word) : (fSet s u f v).saf = s.saf := rfl
@[simp] theorem fSet_can (s : State) (u f : Nat) (v : Word) : (fSet s u f v).can = s.can := rfl
@[simp] theorem fSet_stn (s : State) (u f : Nat) (v : Word) : (fSet s u f v).stn = s.stn := rfl
@[simp] theorem fSet_solv (s : State) (u f : Nat) (v : Word) : (fSet s u f v).solv = s.solv := rfl
@[simp] theorem fSet_net (s : State) (u f : Nat) (v : Word) : (fSet s u f v).net = s.net := rfl
@[simp] theorem fSet_time (s : State) (u f : Nat) (v : Word) : (fSet s u f v).time = s.time := rfl
@[simp] theorem fSet_twin (s : State) (u f : Nat) (v : Word) : (fSet s u f v).twin = s.twin := rfl
@[simp] theorem fSet_rtc (s : State) (u f : Nat) (v : Word) : (fSet s u f v).rtc = s.rtc := rfl
@[simp] theorem fSet_key (s : State) (u f : Nat) (v : Word) : (fSet s u f v).key = s.key := rfl
@[simp] theorem fSet_hmi (s : State) (u f : Nat) (v : Word) : (fSet s u f v).hmi = s.hmi := rfl
@[simp] theorem fSet_pwr (s : State) (u f : Nat) (v : Word) : (fSet s u f v).pwr = s.pwr := rfl
@[simp] theorem fSet_pins (s : State) (u f : Nat) (v : Word) : (fSet s u f v).pins = s.pins := rfl
@[simp] theorem fSet_tap (s : State) (u f : Nat) (v : Word) : (fSet s u f v).tap = s.tap := rfl

@[simp] theorem fSetPart_pending (s : State) (u f lo len v : Nat) : (fSetPart s u f lo len v).pending = s.pending := rfl
@[simp] theorem fSetPart_free (s : State) (u f lo len v : Nat) : (fSetPart s u f lo len v).free = s.free := rfl
@[simp] theorem fSetPart_clk (s : State) (u f lo len v : Nat) : (fSetPart s u f lo len v).clk = s.clk := rfl
@[simp] theorem fSetPart_mem (s : State) (u f lo len v : Nat) : (fSetPart s u f lo len v).mem = s.mem := rfl
@[simp] theorem fSetPart_ctxs (s : State) (u f lo len v : Nat) : (fSetPart s u f lo len v).ctxs = s.ctxs := rfl
@[simp] theorem fSetPart_evts (s : State) (u f lo len v : Nat) : (fSetPart s u f lo len v).evts = s.evts := rfl
@[simp] theorem fSetPart_alm (s : State) (u f lo len v : Nat) : (fSetPart s u f lo len v).alm = s.alm := rfl
@[simp] theorem fSetPart_pi (s : State) (u f lo len v : Nat) : (fSetPart s u f lo len v).pi = s.pi := rfl
@[simp] theorem fSetPart_gate (s : State) (u f lo len v : Nat) : (fSetPart s u f lo len v).gate = s.gate := rfl
@[simp] theorem fSetPart_mgt (s : State) (u f lo len v : Nat) : (fSetPart s u f lo len v).mgt = s.mgt := rfl
@[simp] theorem fSetPart_cyc (s : State) (u f lo len v : Nat) : (fSetPart s u f lo len v).cyc = s.cyc := rfl
@[simp] theorem fSetPart_afe (s : State) (u f lo len v : Nat) : (fSetPart s u f lo len v).afe = s.afe := rfl
@[simp] theorem fSetPart_mtr (s : State) (u f lo len v : Nat) : (fSetPart s u f lo len v).mtr = s.mtr := rfl
@[simp] theorem fSetPart_asm (s : State) (u f lo len v : Nat) : (fSetPart s u f lo len v).asm = s.asm := rfl
@[simp] theorem fSetPart_cle (s : State) (u f lo len v : Nat) : (fSetPart s u f lo len v).cle = s.cle := rfl
@[simp] theorem fSetPart_saf (s : State) (u f lo len v : Nat) : (fSetPart s u f lo len v).saf = s.saf := rfl
@[simp] theorem fSetPart_can (s : State) (u f lo len v : Nat) : (fSetPart s u f lo len v).can = s.can := rfl
@[simp] theorem fSetPart_stn (s : State) (u f lo len v : Nat) : (fSetPart s u f lo len v).stn = s.stn := rfl
@[simp] theorem fSetPart_solv (s : State) (u f lo len v : Nat) : (fSetPart s u f lo len v).solv = s.solv := rfl
@[simp] theorem fSetPart_net (s : State) (u f lo len v : Nat) : (fSetPart s u f lo len v).net = s.net := rfl
@[simp] theorem fSetPart_time (s : State) (u f lo len v : Nat) : (fSetPart s u f lo len v).time = s.time := rfl
@[simp] theorem fSetPart_twin (s : State) (u f lo len v : Nat) : (fSetPart s u f lo len v).twin = s.twin := rfl
@[simp] theorem fSetPart_rtc (s : State) (u f lo len v : Nat) : (fSetPart s u f lo len v).rtc = s.rtc := rfl
@[simp] theorem fSetPart_key (s : State) (u f lo len v : Nat) : (fSetPart s u f lo len v).key = s.key := rfl
@[simp] theorem fSetPart_hmi (s : State) (u f lo len v : Nat) : (fSetPart s u f lo len v).hmi = s.hmi := rfl
@[simp] theorem fSetPart_pwr (s : State) (u f lo len v : Nat) : (fSetPart s u f lo len v).pwr = s.pwr := rfl
@[simp] theorem fSetPart_pins (s : State) (u f lo len v : Nat) : (fSetPart s u f lo len v).pins = s.pins := rfl
@[simp] theorem fSetPart_tap (s : State) (u f lo len v : Nat) : (fSetPart s u f lo len v).tap = s.tap := rfl

@[simp] theorem fSetBit_pending (s : State) (u f k : Nat) (b : Bool) : (fSetBit s u f k b).pending = s.pending := rfl
@[simp] theorem fSetBit_free (s : State) (u f k : Nat) (b : Bool) : (fSetBit s u f k b).free = s.free := rfl
@[simp] theorem fSetBit_clk (s : State) (u f k : Nat) (b : Bool) : (fSetBit s u f k b).clk = s.clk := rfl
@[simp] theorem fSetBit_mem (s : State) (u f k : Nat) (b : Bool) : (fSetBit s u f k b).mem = s.mem := rfl
@[simp] theorem fSetBit_ctxs (s : State) (u f k : Nat) (b : Bool) : (fSetBit s u f k b).ctxs = s.ctxs := rfl
@[simp] theorem fSetBit_evts (s : State) (u f k : Nat) (b : Bool) : (fSetBit s u f k b).evts = s.evts := rfl
@[simp] theorem fSetBit_alm (s : State) (u f k : Nat) (b : Bool) : (fSetBit s u f k b).alm = s.alm := rfl
@[simp] theorem fSetBit_pi (s : State) (u f k : Nat) (b : Bool) : (fSetBit s u f k b).pi = s.pi := rfl
@[simp] theorem fSetBit_gate (s : State) (u f k : Nat) (b : Bool) : (fSetBit s u f k b).gate = s.gate := rfl
@[simp] theorem fSetBit_mgt (s : State) (u f k : Nat) (b : Bool) : (fSetBit s u f k b).mgt = s.mgt := rfl
@[simp] theorem fSetBit_cyc (s : State) (u f k : Nat) (b : Bool) : (fSetBit s u f k b).cyc = s.cyc := rfl
@[simp] theorem fSetBit_afe (s : State) (u f k : Nat) (b : Bool) : (fSetBit s u f k b).afe = s.afe := rfl
@[simp] theorem fSetBit_mtr (s : State) (u f k : Nat) (b : Bool) : (fSetBit s u f k b).mtr = s.mtr := rfl
@[simp] theorem fSetBit_asm (s : State) (u f k : Nat) (b : Bool) : (fSetBit s u f k b).asm = s.asm := rfl
@[simp] theorem fSetBit_cle (s : State) (u f k : Nat) (b : Bool) : (fSetBit s u f k b).cle = s.cle := rfl
@[simp] theorem fSetBit_saf (s : State) (u f k : Nat) (b : Bool) : (fSetBit s u f k b).saf = s.saf := rfl
@[simp] theorem fSetBit_can (s : State) (u f k : Nat) (b : Bool) : (fSetBit s u f k b).can = s.can := rfl
@[simp] theorem fSetBit_stn (s : State) (u f k : Nat) (b : Bool) : (fSetBit s u f k b).stn = s.stn := rfl
@[simp] theorem fSetBit_solv (s : State) (u f k : Nat) (b : Bool) : (fSetBit s u f k b).solv = s.solv := rfl
@[simp] theorem fSetBit_net (s : State) (u f k : Nat) (b : Bool) : (fSetBit s u f k b).net = s.net := rfl
@[simp] theorem fSetBit_time (s : State) (u f k : Nat) (b : Bool) : (fSetBit s u f k b).time = s.time := rfl
@[simp] theorem fSetBit_twin (s : State) (u f k : Nat) (b : Bool) : (fSetBit s u f k b).twin = s.twin := rfl
@[simp] theorem fSetBit_rtc (s : State) (u f k : Nat) (b : Bool) : (fSetBit s u f k b).rtc = s.rtc := rfl
@[simp] theorem fSetBit_key (s : State) (u f k : Nat) (b : Bool) : (fSetBit s u f k b).key = s.key := rfl
@[simp] theorem fSetBit_hmi (s : State) (u f k : Nat) (b : Bool) : (fSetBit s u f k b).hmi = s.hmi := rfl
@[simp] theorem fSetBit_pwr (s : State) (u f k : Nat) (b : Bool) : (fSetBit s u f k b).pwr = s.pwr := rfl
@[simp] theorem fSetBit_pins (s : State) (u f k : Nat) (b : Bool) : (fSetBit s u f k b).pins = s.pins := rfl
@[simp] theorem fSetBit_tap (s : State) (u f k : Nat) (b : Bool) : (fSetBit s u f k b).tap = s.tap := rfl

@[simp] theorem setByte_pending (s : State) (a : Nat) (b : Byte) : (setByte s a b).pending = s.pending := rfl
@[simp] theorem setByte_free (s : State) (a : Nat) (b : Byte) : (setByte s a b).free = s.free := rfl
@[simp] theorem setByte_clk (s : State) (a : Nat) (b : Byte) : (setByte s a b).clk = s.clk := rfl
@[simp] theorem setByte_cfg (s : State) (a : Nat) (b : Byte) : (setByte s a b).cfg = s.cfg := rfl
@[simp] theorem setByte_ctxs (s : State) (a : Nat) (b : Byte) : (setByte s a b).ctxs = s.ctxs := rfl
@[simp] theorem setByte_evts (s : State) (a : Nat) (b : Byte) : (setByte s a b).evts = s.evts := rfl
@[simp] theorem setByte_alm (s : State) (a : Nat) (b : Byte) : (setByte s a b).alm = s.alm := rfl
@[simp] theorem setByte_pi (s : State) (a : Nat) (b : Byte) : (setByte s a b).pi = s.pi := rfl
@[simp] theorem setByte_gate (s : State) (a : Nat) (b : Byte) : (setByte s a b).gate = s.gate := rfl
@[simp] theorem setByte_mgt (s : State) (a : Nat) (b : Byte) : (setByte s a b).mgt = s.mgt := rfl
@[simp] theorem setByte_cyc (s : State) (a : Nat) (b : Byte) : (setByte s a b).cyc = s.cyc := rfl
@[simp] theorem setByte_afe (s : State) (a : Nat) (b : Byte) : (setByte s a b).afe = s.afe := rfl
@[simp] theorem setByte_mtr (s : State) (a : Nat) (b : Byte) : (setByte s a b).mtr = s.mtr := rfl
@[simp] theorem setByte_asm (s : State) (a : Nat) (b : Byte) : (setByte s a b).asm = s.asm := rfl
@[simp] theorem setByte_cle (s : State) (a : Nat) (b : Byte) : (setByte s a b).cle = s.cle := rfl
@[simp] theorem setByte_saf (s : State) (a : Nat) (b : Byte) : (setByte s a b).saf = s.saf := rfl
@[simp] theorem setByte_can (s : State) (a : Nat) (b : Byte) : (setByte s a b).can = s.can := rfl
@[simp] theorem setByte_stn (s : State) (a : Nat) (b : Byte) : (setByte s a b).stn = s.stn := rfl
@[simp] theorem setByte_solv (s : State) (a : Nat) (b : Byte) : (setByte s a b).solv = s.solv := rfl
@[simp] theorem setByte_net (s : State) (a : Nat) (b : Byte) : (setByte s a b).net = s.net := rfl
@[simp] theorem setByte_time (s : State) (a : Nat) (b : Byte) : (setByte s a b).time = s.time := rfl
@[simp] theorem setByte_twin (s : State) (a : Nat) (b : Byte) : (setByte s a b).twin = s.twin := rfl
@[simp] theorem setByte_rtc (s : State) (a : Nat) (b : Byte) : (setByte s a b).rtc = s.rtc := rfl
@[simp] theorem setByte_key (s : State) (a : Nat) (b : Byte) : (setByte s a b).key = s.key := rfl
@[simp] theorem setByte_hmi (s : State) (a : Nat) (b : Byte) : (setByte s a b).hmi = s.hmi := rfl
@[simp] theorem setByte_pwr (s : State) (a : Nat) (b : Byte) : (setByte s a b).pwr = s.pwr := rfl
@[simp] theorem setByte_pins (s : State) (a : Nat) (b : Byte) : (setByte s a b).pins = s.pins := rfl
@[simp] theorem setByte_tap (s : State) (a : Nat) (b : Byte) : (setByte s a b).tap = s.tap := rfl

@[simp] theorem eccFresh_pending (s : State) (a : Nat) : (eccFresh s a).pending = s.pending := rfl
@[simp] theorem eccFresh_free (s : State) (a : Nat) : (eccFresh s a).free = s.free := rfl
@[simp] theorem eccFresh_clk (s : State) (a : Nat) : (eccFresh s a).clk = s.clk := rfl
@[simp] theorem eccFresh_cfg (s : State) (a : Nat) : (eccFresh s a).cfg = s.cfg := rfl
@[simp] theorem eccFresh_ctxs (s : State) (a : Nat) : (eccFresh s a).ctxs = s.ctxs := rfl
@[simp] theorem eccFresh_evts (s : State) (a : Nat) : (eccFresh s a).evts = s.evts := rfl
@[simp] theorem eccFresh_alm (s : State) (a : Nat) : (eccFresh s a).alm = s.alm := rfl
@[simp] theorem eccFresh_pi (s : State) (a : Nat) : (eccFresh s a).pi = s.pi := rfl
@[simp] theorem eccFresh_gate (s : State) (a : Nat) : (eccFresh s a).gate = s.gate := rfl
@[simp] theorem eccFresh_mgt (s : State) (a : Nat) : (eccFresh s a).mgt = s.mgt := rfl
@[simp] theorem eccFresh_cyc (s : State) (a : Nat) : (eccFresh s a).cyc = s.cyc := rfl
@[simp] theorem eccFresh_afe (s : State) (a : Nat) : (eccFresh s a).afe = s.afe := rfl
@[simp] theorem eccFresh_mtr (s : State) (a : Nat) : (eccFresh s a).mtr = s.mtr := rfl
@[simp] theorem eccFresh_asm (s : State) (a : Nat) : (eccFresh s a).asm = s.asm := rfl
@[simp] theorem eccFresh_cle (s : State) (a : Nat) : (eccFresh s a).cle = s.cle := rfl
@[simp] theorem eccFresh_saf (s : State) (a : Nat) : (eccFresh s a).saf = s.saf := rfl
@[simp] theorem eccFresh_can (s : State) (a : Nat) : (eccFresh s a).can = s.can := rfl
@[simp] theorem eccFresh_stn (s : State) (a : Nat) : (eccFresh s a).stn = s.stn := rfl
@[simp] theorem eccFresh_solv (s : State) (a : Nat) : (eccFresh s a).solv = s.solv := rfl
@[simp] theorem eccFresh_net (s : State) (a : Nat) : (eccFresh s a).net = s.net := rfl
@[simp] theorem eccFresh_time (s : State) (a : Nat) : (eccFresh s a).time = s.time := rfl
@[simp] theorem eccFresh_twin (s : State) (a : Nat) : (eccFresh s a).twin = s.twin := rfl
@[simp] theorem eccFresh_rtc (s : State) (a : Nat) : (eccFresh s a).rtc = s.rtc := rfl
@[simp] theorem eccFresh_key (s : State) (a : Nat) : (eccFresh s a).key = s.key := rfl
@[simp] theorem eccFresh_hmi (s : State) (a : Nat) : (eccFresh s a).hmi = s.hmi := rfl
@[simp] theorem eccFresh_pwr (s : State) (a : Nat) : (eccFresh s a).pwr = s.pwr := rfl
@[simp] theorem eccFresh_pins (s : State) (a : Nat) : (eccFresh s a).pins = s.pins := rfl
@[simp] theorem eccFresh_tap (s : State) (a : Nat) : (eccFresh s a).tap = s.tap := rfl

@[simp] theorem zeroRange_pending (s : State) (a len : Nat) : (zeroRange s a len).pending = s.pending := rfl
@[simp] theorem zeroRange_free (s : State) (a len : Nat) : (zeroRange s a len).free = s.free := rfl
@[simp] theorem zeroRange_clk (s : State) (a len : Nat) : (zeroRange s a len).clk = s.clk := rfl
@[simp] theorem zeroRange_cfg (s : State) (a len : Nat) : (zeroRange s a len).cfg = s.cfg := rfl
@[simp] theorem zeroRange_ctxs (s : State) (a len : Nat) : (zeroRange s a len).ctxs = s.ctxs := rfl
@[simp] theorem zeroRange_evts (s : State) (a len : Nat) : (zeroRange s a len).evts = s.evts := rfl
@[simp] theorem zeroRange_alm (s : State) (a len : Nat) : (zeroRange s a len).alm = s.alm := rfl
@[simp] theorem zeroRange_pi (s : State) (a len : Nat) : (zeroRange s a len).pi = s.pi := rfl
@[simp] theorem zeroRange_gate (s : State) (a len : Nat) : (zeroRange s a len).gate = s.gate := rfl
@[simp] theorem zeroRange_mgt (s : State) (a len : Nat) : (zeroRange s a len).mgt = s.mgt := rfl
@[simp] theorem zeroRange_cyc (s : State) (a len : Nat) : (zeroRange s a len).cyc = s.cyc := rfl
@[simp] theorem zeroRange_afe (s : State) (a len : Nat) : (zeroRange s a len).afe = s.afe := rfl
@[simp] theorem zeroRange_mtr (s : State) (a len : Nat) : (zeroRange s a len).mtr = s.mtr := rfl
@[simp] theorem zeroRange_asm (s : State) (a len : Nat) : (zeroRange s a len).asm = s.asm := rfl
@[simp] theorem zeroRange_cle (s : State) (a len : Nat) : (zeroRange s a len).cle = s.cle := rfl
@[simp] theorem zeroRange_saf (s : State) (a len : Nat) : (zeroRange s a len).saf = s.saf := rfl
@[simp] theorem zeroRange_can (s : State) (a len : Nat) : (zeroRange s a len).can = s.can := rfl
@[simp] theorem zeroRange_stn (s : State) (a len : Nat) : (zeroRange s a len).stn = s.stn := rfl
@[simp] theorem zeroRange_solv (s : State) (a len : Nat) : (zeroRange s a len).solv = s.solv := rfl
@[simp] theorem zeroRange_net (s : State) (a len : Nat) : (zeroRange s a len).net = s.net := rfl
@[simp] theorem zeroRange_time (s : State) (a len : Nat) : (zeroRange s a len).time = s.time := rfl
@[simp] theorem zeroRange_twin (s : State) (a len : Nat) : (zeroRange s a len).twin = s.twin := rfl
@[simp] theorem zeroRange_rtc (s : State) (a len : Nat) : (zeroRange s a len).rtc = s.rtc := rfl
@[simp] theorem zeroRange_key (s : State) (a len : Nat) : (zeroRange s a len).key = s.key := rfl
@[simp] theorem zeroRange_hmi (s : State) (a len : Nat) : (zeroRange s a len).hmi = s.hmi := rfl
@[simp] theorem zeroRange_pwr (s : State) (a len : Nat) : (zeroRange s a len).pwr = s.pwr := rfl
@[simp] theorem zeroRange_pins (s : State) (a len : Nat) : (zeroRange s a len).pins = s.pins := rfl
@[simp] theorem zeroRange_tap (s : State) (a len : Nat) : (zeroRange s a len).tap = s.tap := rfl

@[simp] theorem evtSetAll_pending (s : State) (n : Nat) : (evtSetAll s n).pending = s.pending := rfl
@[simp] theorem evtSetAll_free (s : State) (n : Nat) : (evtSetAll s n).free = s.free := rfl
@[simp] theorem evtSetAll_clk (s : State) (n : Nat) : (evtSetAll s n).clk = s.clk := rfl
@[simp] theorem evtSetAll_cfg (s : State) (n : Nat) : (evtSetAll s n).cfg = s.cfg := rfl
@[simp] theorem evtSetAll_mem (s : State) (n : Nat) : (evtSetAll s n).mem = s.mem := rfl
@[simp] theorem evtSetAll_ctxs (s : State) (n : Nat) : (evtSetAll s n).ctxs = s.ctxs := rfl
@[simp] theorem evtSetAll_alm (s : State) (n : Nat) : (evtSetAll s n).alm = s.alm := rfl
@[simp] theorem evtSetAll_pi (s : State) (n : Nat) : (evtSetAll s n).pi = s.pi := rfl
@[simp] theorem evtSetAll_gate (s : State) (n : Nat) : (evtSetAll s n).gate = s.gate := rfl
@[simp] theorem evtSetAll_mgt (s : State) (n : Nat) : (evtSetAll s n).mgt = s.mgt := rfl
@[simp] theorem evtSetAll_cyc (s : State) (n : Nat) : (evtSetAll s n).cyc = s.cyc := rfl
@[simp] theorem evtSetAll_afe (s : State) (n : Nat) : (evtSetAll s n).afe = s.afe := rfl
@[simp] theorem evtSetAll_mtr (s : State) (n : Nat) : (evtSetAll s n).mtr = s.mtr := rfl
@[simp] theorem evtSetAll_asm (s : State) (n : Nat) : (evtSetAll s n).asm = s.asm := rfl
@[simp] theorem evtSetAll_cle (s : State) (n : Nat) : (evtSetAll s n).cle = s.cle := rfl
@[simp] theorem evtSetAll_saf (s : State) (n : Nat) : (evtSetAll s n).saf = s.saf := rfl
@[simp] theorem evtSetAll_can (s : State) (n : Nat) : (evtSetAll s n).can = s.can := rfl
@[simp] theorem evtSetAll_stn (s : State) (n : Nat) : (evtSetAll s n).stn = s.stn := rfl
@[simp] theorem evtSetAll_solv (s : State) (n : Nat) : (evtSetAll s n).solv = s.solv := rfl
@[simp] theorem evtSetAll_net (s : State) (n : Nat) : (evtSetAll s n).net = s.net := rfl
@[simp] theorem evtSetAll_time (s : State) (n : Nat) : (evtSetAll s n).time = s.time := rfl
@[simp] theorem evtSetAll_twin (s : State) (n : Nat) : (evtSetAll s n).twin = s.twin := rfl
@[simp] theorem evtSetAll_rtc (s : State) (n : Nat) : (evtSetAll s n).rtc = s.rtc := rfl
@[simp] theorem evtSetAll_key (s : State) (n : Nat) : (evtSetAll s n).key = s.key := rfl
@[simp] theorem evtSetAll_hmi (s : State) (n : Nat) : (evtSetAll s n).hmi = s.hmi := rfl
@[simp] theorem evtSetAll_pwr (s : State) (n : Nat) : (evtSetAll s n).pwr = s.pwr := rfl
@[simp] theorem evtSetAll_pins (s : State) (n : Nat) : (evtSetAll s n).pins = s.pins := rfl
@[simp] theorem evtSetAll_tap (s : State) (n : Nat) : (evtSetAll s n).tap = s.tap := rfl

@[simp] theorem evtClear_pending (s : State) (e n : Nat) : (evtClear s e n).pending = s.pending := rfl
@[simp] theorem evtClear_free (s : State) (e n : Nat) : (evtClear s e n).free = s.free := rfl
@[simp] theorem evtClear_clk (s : State) (e n : Nat) : (evtClear s e n).clk = s.clk := rfl
@[simp] theorem evtClear_cfg (s : State) (e n : Nat) : (evtClear s e n).cfg = s.cfg := rfl
@[simp] theorem evtClear_mem (s : State) (e n : Nat) : (evtClear s e n).mem = s.mem := rfl
@[simp] theorem evtClear_ctxs (s : State) (e n : Nat) : (evtClear s e n).ctxs = s.ctxs := rfl
@[simp] theorem evtClear_alm (s : State) (e n : Nat) : (evtClear s e n).alm = s.alm := rfl
@[simp] theorem evtClear_pi (s : State) (e n : Nat) : (evtClear s e n).pi = s.pi := rfl
@[simp] theorem evtClear_gate (s : State) (e n : Nat) : (evtClear s e n).gate = s.gate := rfl
@[simp] theorem evtClear_mgt (s : State) (e n : Nat) : (evtClear s e n).mgt = s.mgt := rfl
@[simp] theorem evtClear_cyc (s : State) (e n : Nat) : (evtClear s e n).cyc = s.cyc := rfl
@[simp] theorem evtClear_afe (s : State) (e n : Nat) : (evtClear s e n).afe = s.afe := rfl
@[simp] theorem evtClear_mtr (s : State) (e n : Nat) : (evtClear s e n).mtr = s.mtr := rfl
@[simp] theorem evtClear_asm (s : State) (e n : Nat) : (evtClear s e n).asm = s.asm := rfl
@[simp] theorem evtClear_cle (s : State) (e n : Nat) : (evtClear s e n).cle = s.cle := rfl
@[simp] theorem evtClear_saf (s : State) (e n : Nat) : (evtClear s e n).saf = s.saf := rfl
@[simp] theorem evtClear_can (s : State) (e n : Nat) : (evtClear s e n).can = s.can := rfl
@[simp] theorem evtClear_stn (s : State) (e n : Nat) : (evtClear s e n).stn = s.stn := rfl
@[simp] theorem evtClear_solv (s : State) (e n : Nat) : (evtClear s e n).solv = s.solv := rfl
@[simp] theorem evtClear_net (s : State) (e n : Nat) : (evtClear s e n).net = s.net := rfl
@[simp] theorem evtClear_time (s : State) (e n : Nat) : (evtClear s e n).time = s.time := rfl
@[simp] theorem evtClear_twin (s : State) (e n : Nat) : (evtClear s e n).twin = s.twin := rfl
@[simp] theorem evtClear_rtc (s : State) (e n : Nat) : (evtClear s e n).rtc = s.rtc := rfl
@[simp] theorem evtClear_key (s : State) (e n : Nat) : (evtClear s e n).key = s.key := rfl
@[simp] theorem evtClear_hmi (s : State) (e n : Nat) : (evtClear s e n).hmi = s.hmi := rfl
@[simp] theorem evtClear_pwr (s : State) (e n : Nat) : (evtClear s e n).pwr = s.pwr := rfl
@[simp] theorem evtClear_pins (s : State) (e n : Nat) : (evtClear s e n).pins = s.pins := rfl
@[simp] theorem evtClear_tap (s : State) (e n : Nat) : (evtClear s e n).tap = s.tap := rfl

@[simp] theorem setCore_pending (s : State) (n : Nat) (c : Core) : (setCore s n c).pending = s.pending := rfl
@[simp] theorem setCore_free (s : State) (n : Nat) (c : Core) : (setCore s n c).free = s.free := rfl
@[simp] theorem setCore_clk (s : State) (n : Nat) (c : Core) : (setCore s n c).clk = s.clk := rfl
@[simp] theorem setCore_cfg (s : State) (n : Nat) (c : Core) : (setCore s n c).cfg = s.cfg := rfl
@[simp] theorem setCore_mem (s : State) (n : Nat) (c : Core) : (setCore s n c).mem = s.mem := rfl
@[simp] theorem setCore_ctxs (s : State) (n : Nat) (c : Core) : (setCore s n c).ctxs = s.ctxs := rfl
@[simp] theorem setCore_evts (s : State) (n : Nat) (c : Core) : (setCore s n c).evts = s.evts := rfl
@[simp] theorem setCore_alm (s : State) (n : Nat) (c : Core) : (setCore s n c).alm = s.alm := rfl
@[simp] theorem setCore_pi (s : State) (n : Nat) (c : Core) : (setCore s n c).pi = s.pi := rfl
@[simp] theorem setCore_gate (s : State) (n : Nat) (c : Core) : (setCore s n c).gate = s.gate := rfl
@[simp] theorem setCore_mgt (s : State) (n : Nat) (c : Core) : (setCore s n c).mgt = s.mgt := rfl
@[simp] theorem setCore_afe (s : State) (n : Nat) (c : Core) : (setCore s n c).afe = s.afe := rfl
@[simp] theorem setCore_mtr (s : State) (n : Nat) (c : Core) : (setCore s n c).mtr = s.mtr := rfl
@[simp] theorem setCore_asm (s : State) (n : Nat) (c : Core) : (setCore s n c).asm = s.asm := rfl
@[simp] theorem setCore_cle (s : State) (n : Nat) (c : Core) : (setCore s n c).cle = s.cle := rfl
@[simp] theorem setCore_saf (s : State) (n : Nat) (c : Core) : (setCore s n c).saf = s.saf := rfl
@[simp] theorem setCore_can (s : State) (n : Nat) (c : Core) : (setCore s n c).can = s.can := rfl
@[simp] theorem setCore_stn (s : State) (n : Nat) (c : Core) : (setCore s n c).stn = s.stn := rfl
@[simp] theorem setCore_solv (s : State) (n : Nat) (c : Core) : (setCore s n c).solv = s.solv := rfl
@[simp] theorem setCore_net (s : State) (n : Nat) (c : Core) : (setCore s n c).net = s.net := rfl
@[simp] theorem setCore_time (s : State) (n : Nat) (c : Core) : (setCore s n c).time = s.time := rfl
@[simp] theorem setCore_twin (s : State) (n : Nat) (c : Core) : (setCore s n c).twin = s.twin := rfl
@[simp] theorem setCore_rtc (s : State) (n : Nat) (c : Core) : (setCore s n c).rtc = s.rtc := rfl
@[simp] theorem setCore_key (s : State) (n : Nat) (c : Core) : (setCore s n c).key = s.key := rfl
@[simp] theorem setCore_hmi (s : State) (n : Nat) (c : Core) : (setCore s n c).hmi = s.hmi := rfl
@[simp] theorem setCore_pwr (s : State) (n : Nat) (c : Core) : (setCore s n c).pwr = s.pwr := rfl
@[simp] theorem setCore_pins (s : State) (n : Nat) (c : Core) : (setCore s n c).pins = s.pins := rfl
@[simp] theorem setCore_tap (s : State) (n : Nat) (c : Core) : (setCore s n c).tap = s.tap := rfl

@[simp] theorem setTask_pending (s : State) (n t : Nat) (k : Task) : (setTask s n t k).pending = s.pending := rfl
@[simp] theorem setTask_free (s : State) (n t : Nat) (k : Task) : (setTask s n t k).free = s.free := rfl
@[simp] theorem setTask_clk (s : State) (n t : Nat) (k : Task) : (setTask s n t k).clk = s.clk := rfl
@[simp] theorem setTask_cfg (s : State) (n t : Nat) (k : Task) : (setTask s n t k).cfg = s.cfg := rfl
@[simp] theorem setTask_mem (s : State) (n t : Nat) (k : Task) : (setTask s n t k).mem = s.mem := rfl
@[simp] theorem setTask_ctxs (s : State) (n t : Nat) (k : Task) : (setTask s n t k).ctxs = s.ctxs := rfl
@[simp] theorem setTask_evts (s : State) (n t : Nat) (k : Task) : (setTask s n t k).evts = s.evts := rfl
@[simp] theorem setTask_alm (s : State) (n t : Nat) (k : Task) : (setTask s n t k).alm = s.alm := rfl
@[simp] theorem setTask_pi (s : State) (n t : Nat) (k : Task) : (setTask s n t k).pi = s.pi := rfl
@[simp] theorem setTask_gate (s : State) (n t : Nat) (k : Task) : (setTask s n t k).gate = s.gate := rfl
@[simp] theorem setTask_mgt (s : State) (n t : Nat) (k : Task) : (setTask s n t k).mgt = s.mgt := rfl
@[simp] theorem setTask_afe (s : State) (n t : Nat) (k : Task) : (setTask s n t k).afe = s.afe := rfl
@[simp] theorem setTask_mtr (s : State) (n t : Nat) (k : Task) : (setTask s n t k).mtr = s.mtr := rfl
@[simp] theorem setTask_asm (s : State) (n t : Nat) (k : Task) : (setTask s n t k).asm = s.asm := rfl
@[simp] theorem setTask_cle (s : State) (n t : Nat) (k : Task) : (setTask s n t k).cle = s.cle := rfl
@[simp] theorem setTask_saf (s : State) (n t : Nat) (k : Task) : (setTask s n t k).saf = s.saf := rfl
@[simp] theorem setTask_can (s : State) (n t : Nat) (k : Task) : (setTask s n t k).can = s.can := rfl
@[simp] theorem setTask_stn (s : State) (n t : Nat) (k : Task) : (setTask s n t k).stn = s.stn := rfl
@[simp] theorem setTask_solv (s : State) (n t : Nat) (k : Task) : (setTask s n t k).solv = s.solv := rfl
@[simp] theorem setTask_net (s : State) (n t : Nat) (k : Task) : (setTask s n t k).net = s.net := rfl
@[simp] theorem setTask_time (s : State) (n t : Nat) (k : Task) : (setTask s n t k).time = s.time := rfl
@[simp] theorem setTask_twin (s : State) (n t : Nat) (k : Task) : (setTask s n t k).twin = s.twin := rfl
@[simp] theorem setTask_rtc (s : State) (n t : Nat) (k : Task) : (setTask s n t k).rtc = s.rtc := rfl
@[simp] theorem setTask_key (s : State) (n t : Nat) (k : Task) : (setTask s n t k).key = s.key := rfl
@[simp] theorem setTask_hmi (s : State) (n t : Nat) (k : Task) : (setTask s n t k).hmi = s.hmi := rfl
@[simp] theorem setTask_pwr (s : State) (n t : Nat) (k : Task) : (setTask s n t k).pwr = s.pwr := rfl
@[simp] theorem setTask_pins (s : State) (n t : Nat) (k : Task) : (setTask s n t k).pins = s.pins := rfl
@[simp] theorem setTask_tap (s : State) (n t : Nat) (k : Task) : (setTask s n t k).tap = s.tap := rfl

@[simp] theorem setConv_pending (s : State) (n : Nat) (c : Conv) : (setConv s n c).pending = s.pending := rfl
@[simp] theorem setConv_free (s : State) (n : Nat) (c : Conv) : (setConv s n c).free = s.free := rfl
@[simp] theorem setConv_clk (s : State) (n : Nat) (c : Conv) : (setConv s n c).clk = s.clk := rfl
@[simp] theorem setConv_cfg (s : State) (n : Nat) (c : Conv) : (setConv s n c).cfg = s.cfg := rfl
@[simp] theorem setConv_mem (s : State) (n : Nat) (c : Conv) : (setConv s n c).mem = s.mem := rfl
@[simp] theorem setConv_ctxs (s : State) (n : Nat) (c : Conv) : (setConv s n c).ctxs = s.ctxs := rfl
@[simp] theorem setConv_evts (s : State) (n : Nat) (c : Conv) : (setConv s n c).evts = s.evts := rfl
@[simp] theorem setConv_alm (s : State) (n : Nat) (c : Conv) : (setConv s n c).alm = s.alm := rfl
@[simp] theorem setConv_pi (s : State) (n : Nat) (c : Conv) : (setConv s n c).pi = s.pi := rfl
@[simp] theorem setConv_gate (s : State) (n : Nat) (c : Conv) : (setConv s n c).gate = s.gate := rfl
@[simp] theorem setConv_mgt (s : State) (n : Nat) (c : Conv) : (setConv s n c).mgt = s.mgt := rfl
@[simp] theorem setConv_cyc (s : State) (n : Nat) (c : Conv) : (setConv s n c).cyc = s.cyc := rfl
@[simp] theorem setConv_mtr (s : State) (n : Nat) (c : Conv) : (setConv s n c).mtr = s.mtr := rfl
@[simp] theorem setConv_asm (s : State) (n : Nat) (c : Conv) : (setConv s n c).asm = s.asm := rfl
@[simp] theorem setConv_cle (s : State) (n : Nat) (c : Conv) : (setConv s n c).cle = s.cle := rfl
@[simp] theorem setConv_saf (s : State) (n : Nat) (c : Conv) : (setConv s n c).saf = s.saf := rfl
@[simp] theorem setConv_can (s : State) (n : Nat) (c : Conv) : (setConv s n c).can = s.can := rfl
@[simp] theorem setConv_stn (s : State) (n : Nat) (c : Conv) : (setConv s n c).stn = s.stn := rfl
@[simp] theorem setConv_solv (s : State) (n : Nat) (c : Conv) : (setConv s n c).solv = s.solv := rfl
@[simp] theorem setConv_net (s : State) (n : Nat) (c : Conv) : (setConv s n c).net = s.net := rfl
@[simp] theorem setConv_time (s : State) (n : Nat) (c : Conv) : (setConv s n c).time = s.time := rfl
@[simp] theorem setConv_twin (s : State) (n : Nat) (c : Conv) : (setConv s n c).twin = s.twin := rfl
@[simp] theorem setConv_rtc (s : State) (n : Nat) (c : Conv) : (setConv s n c).rtc = s.rtc := rfl
@[simp] theorem setConv_key (s : State) (n : Nat) (c : Conv) : (setConv s n c).key = s.key := rfl
@[simp] theorem setConv_hmi (s : State) (n : Nat) (c : Conv) : (setConv s n c).hmi = s.hmi := rfl
@[simp] theorem setConv_pwr (s : State) (n : Nat) (c : Conv) : (setConv s n c).pwr = s.pwr := rfl
@[simp] theorem setConv_pins (s : State) (n : Nat) (c : Conv) : (setConv s n c).pins = s.pins := rfl
@[simp] theorem setConv_tap (s : State) (n : Nat) (c : Conv) : (setConv s n c).tap = s.tap := rfl

@[simp] theorem setLink_pending (s : State) (t : Nat) (l : Link) : (setLink s t l).pending = s.pending := rfl
@[simp] theorem setLink_free (s : State) (t : Nat) (l : Link) : (setLink s t l).free = s.free := rfl
@[simp] theorem setLink_clk (s : State) (t : Nat) (l : Link) : (setLink s t l).clk = s.clk := rfl
@[simp] theorem setLink_cfg (s : State) (t : Nat) (l : Link) : (setLink s t l).cfg = s.cfg := rfl
@[simp] theorem setLink_mem (s : State) (t : Nat) (l : Link) : (setLink s t l).mem = s.mem := rfl
@[simp] theorem setLink_ctxs (s : State) (t : Nat) (l : Link) : (setLink s t l).ctxs = s.ctxs := rfl
@[simp] theorem setLink_evts (s : State) (t : Nat) (l : Link) : (setLink s t l).evts = s.evts := rfl
@[simp] theorem setLink_alm (s : State) (t : Nat) (l : Link) : (setLink s t l).alm = s.alm := rfl
@[simp] theorem setLink_pi (s : State) (t : Nat) (l : Link) : (setLink s t l).pi = s.pi := rfl
@[simp] theorem setLink_gate (s : State) (t : Nat) (l : Link) : (setLink s t l).gate = s.gate := rfl
@[simp] theorem setLink_cyc (s : State) (t : Nat) (l : Link) : (setLink s t l).cyc = s.cyc := rfl
@[simp] theorem setLink_afe (s : State) (t : Nat) (l : Link) : (setLink s t l).afe = s.afe := rfl
@[simp] theorem setLink_mtr (s : State) (t : Nat) (l : Link) : (setLink s t l).mtr = s.mtr := rfl
@[simp] theorem setLink_asm (s : State) (t : Nat) (l : Link) : (setLink s t l).asm = s.asm := rfl
@[simp] theorem setLink_cle (s : State) (t : Nat) (l : Link) : (setLink s t l).cle = s.cle := rfl
@[simp] theorem setLink_saf (s : State) (t : Nat) (l : Link) : (setLink s t l).saf = s.saf := rfl
@[simp] theorem setLink_can (s : State) (t : Nat) (l : Link) : (setLink s t l).can = s.can := rfl
@[simp] theorem setLink_stn (s : State) (t : Nat) (l : Link) : (setLink s t l).stn = s.stn := rfl
@[simp] theorem setLink_solv (s : State) (t : Nat) (l : Link) : (setLink s t l).solv = s.solv := rfl
@[simp] theorem setLink_net (s : State) (t : Nat) (l : Link) : (setLink s t l).net = s.net := rfl
@[simp] theorem setLink_time (s : State) (t : Nat) (l : Link) : (setLink s t l).time = s.time := rfl
@[simp] theorem setLink_twin (s : State) (t : Nat) (l : Link) : (setLink s t l).twin = s.twin := rfl
@[simp] theorem setLink_rtc (s : State) (t : Nat) (l : Link) : (setLink s t l).rtc = s.rtc := rfl
@[simp] theorem setLink_key (s : State) (t : Nat) (l : Link) : (setLink s t l).key = s.key := rfl
@[simp] theorem setLink_hmi (s : State) (t : Nat) (l : Link) : (setLink s t l).hmi = s.hmi := rfl
@[simp] theorem setLink_pwr (s : State) (t : Nat) (l : Link) : (setLink s t l).pwr = s.pwr := rfl
@[simp] theorem setLink_pins (s : State) (t : Nat) (l : Link) : (setLink s t l).pins = s.pins := rfl
@[simp] theorem setLink_tap (s : State) (t : Nat) (l : Link) : (setLink s t l).tap = s.tap := rfl

/-- A stored number changes memory only. -/
theorem setN_frame (n : Nat) : ∀ (s : State) (a v : Nat), ∃ m, setN s a n v = { s with mem := m } := by
  induction n with
  | zero => intro s a v; exact ⟨s.mem, rfl⟩
  | succ n ih =>
    intro s a v
    obtain ⟨m, h⟩ := ih (setByte s a (BitVec.ofNat 8 v)) (a + 1) (v / 256)
    exact ⟨m, h⟩

end Sys2Proof.Machine
end

