-- ==== Sys2Proof/Laws/Twin.lean ====
section
/-! SUPPORT. What the lines of a copy change, and what they leave alone (R481, R482). -/
namespace Sys2Proof.Machine

theorem setBytes_only (bs : List Byte) : ∀ (s : State) (a : Nat), ∃ m, setBytes s a bs = { s with mem := m } := by
  induction bs with
  | nil => exact fun s _ => ⟨s.mem, rfl⟩
  | cons b bs ih => intro s a; obtain ⟨m, h⟩ := ih (setByte s a b) (a + 1); exact ⟨m, h⟩

theorem setN_only (n : Nat) : ∀ (s : State) (a v : Nat), ∃ m, setN s a n v = { s with mem := m } := by
  induction n with
  | zero => exact fun s _ _ => ⟨s.mem, rfl⟩
  | succ n ih => intro s a v; obtain ⟨m, h⟩ := ih (setByte s a (BitVec.ofNat 8 v)) (a + 1) (v / 256); exact ⟨m, h⟩

theorem setWords_only (ws : List Word) : ∀ (s : State) (a : Nat), ∃ m, setWords s a ws = { s with mem := m } := by
  induction ws with
  | nil => exact fun s _ => ⟨s.mem, rfl⟩
  | cons w ws ih =>
    intro s a
    obtain ⟨m, h⟩ := setN_only 4 s a w.toNat
    obtain ⟨m', h'⟩ := ih (setW s a w) (a + 4)
    exact ⟨m', by rw [setWords, h', setW, h]⟩

/-- What a write by hardware may change, with the corrections, error responses and records it makes (R96 to R98). -/
def Reports (s t : State) : Prop := ∃ m c e a l, t = { s with mem := m, cfg := c, evts := e, alm := a, cle := l }

theorem Reports.refl (s : State) : Reports s s := ⟨s.mem, s.cfg, s.evts, s.alm, s.cle, rfl⟩

theorem Reports.trans {s t u : State} (h : Reports s t) (h' : Reports t u) : Reports s u := by
  obtain ⟨m, c, e, a, l, rfl⟩ := h
  obtain ⟨m', c', e', a', l', rfl⟩ := h'
  exact ⟨m', c', e', a', l', rfl⟩

/-- A fold whose steps only report only reports. -/
theorem Reports.fold {α : Type} (f : State → α → State) (h : ∀ s a, Reports s (f s a)) (l : List α) :
    ∀ s, Reports s (l.foldl f s) := by
  induction l with
  | nil => exact Reports.refl
  | cons a l ih => exact fun s => (h s a).trans (ih (f s a))

theorem setBytes_reports (s : State) (a : Nat) (bs : List Byte) : Reports s (setBytes s a bs) := by
  obtain ⟨m, h⟩ := setBytes_only bs s a
  exact ⟨m, s.cfg, s.evts, s.alm, s.cle, h⟩

theorem setWords_reports (s : State) (a : Nat) (ws : List Word) : Reports s (setWords s a ws) := by
  obtain ⟨m, h⟩ := setWords_only ws s a
  exact ⟨m, s.cfg, s.evts, s.alm, s.cle, h⟩

theorem fSet_reports (s : State) (u f : Nat) (v : Word) : Reports s (fSet s u f v) := ⟨_, _, _, _, _, rfl⟩

theorem raise_reports (s : State) (n : Nat) : Reports s (raise s n) := by
  refine Reports.trans (t := evtSetAll (cleOccur s (fun x => x.kind == 2 && x.index == n && !x.due)) n)
    ⟨_, _, _, _, _, rfl⟩ ?_
  exact Reports.fold _ (fun s _ => ⟨_, _, _, _, _, rfl⟩) _ _

theorem post_reports (s : State) (src sev code : Nat) (payload : List Word) : Reports s (post s src sev code payload) := by
  unfold post
  split
  · exact ⟨_, _, _, _, _, rfl⟩
  · unfold enqueue
    split
    · exact Reports.trans ⟨_, _, _, _, _, rfl⟩ (raise_reports _ _)
    · exact ⟨_, _, _, _, _, rfl⟩

theorem errorResp_reports (s : State) (w : Who) (k : Kind) (c : Cause) (a f : Nat) : Reports s (errorResp s w k c a f) := by
  have h (x : State) (i : Nat) (ws : List Word) (v : Word) : Reports x (raise (fSet (setWords (eccSpan x i 16) i ws) 1 7 v) 19) :=
    (Reports.trans ⟨_, _, _, _, _, rfl⟩ (setWords_reports (eccSpan x i 16) i ws)).trans
      ((fSet_reports _ _ _ _).trans (raise_reports _ _))
  unfold errorResp
  dsimp only
  split
  · exact h s _ _ _
  · exact (h s _ _ _).trans (post_reports _ _ _ _ _)

theorem countCe_reports (s : State) (a : Nat) : Reports s (countCe s a) := by
  unfold countCe
  dsimp only
  split
  · exact Reports.trans ⟨_, _, _, _, _, rfl⟩ ((raise_reports _ _).trans (post_reports _ _ _ _ _))
  · exact ⟨_, _, _, _, _, rfl⟩

theorem eccRead_reports (s : State) (a : Nat) : Reports s (eccRead s a).1 := by
  unfold eccRead
  dsimp only
  split
  · exact Reports.refl s
  · split
    · exact Reports.trans ⟨_, _, _, _, _, rfl⟩ (countCe_reports _ _)
    · split
      · exact Reports.trans ⟨_, _, _, _, _, rfl⟩ ((raise_reports _ _).trans ((post_reports _ _ _ _ _).trans (countCe_reports _ _)))
      · split
        · exact Reports.trans ⟨_, _, _, _, _, rfl⟩ ((raise_reports _ _).trans (post_reports _ _ _ _ _))
        · exact ⟨_, _, _, _, _, rfl⟩

theorem edgeRead_reports (s : State) (w : Who) (a len : Nat) : Reports s (edgeRead s w a len).1 := by
  unfold edgeRead
  suffices h : ∀ (l : List Nat) (acc : State × List Nat), Reports acc.1 (l.foldl
      (fun acc x => match eccRead acc.1 (8 * x) with
        | (s, true) => (s, acc.2)
        | (s, false) => (errorResp s w .write .uncorr (8 * x) 0, x :: acc.2)) acc).1 from h _ _
  intro l
  induction l with
  | nil => exact fun acc => Reports.refl acc.1
  | cons x l ih =>
    intro acc
    refine Reports.trans ?_ (ih _)
    have e := eccRead_reports acc.1 (8 * x)
    dsimp only
    split
    · next h => rw [h] at e; exact e
    · next h => rw [h] at e; exact Reports.trans e (errorResp_reports _ w .write .uncorr (8 * x) 0)

/-- A write by hardware changes memory, and the records, events, counts and slot occurrences of what it reports. -/
theorem hwWrite_reports (s : State) (w : Who) (a : Nat) (bs : List Byte) : Reports s (hwWrite s w a bs) := by
  unfold hwWrite
  have h : Reports s (eccSpan (edgeRead s w a bs.length).1 a bs.length) :=
    (edgeRead_reports s w a bs.length).trans ⟨_, _, _, _, _, rfl⟩
  dsimp only
  split
  · exact h.trans (setBytes_reports _ _ _)
  · exact h.trans (Reports.fold _ (fun s _ => ⟨_, _, _, _, _, rfl⟩) _ _)

/-- A fold whose steps change only the slots changes only the slots. -/
theorem fold_slots {α : Type} (f : State → α → State)
    (h : ∀ s a, ∃ x, f s a = { s with cyc := { s.cyc with slots := x } }) (l : List α) :
    ∀ s, ∃ x, l.foldl f s = { s with cyc := { s.cyc with slots := x } } := by
  induction l with
  | nil => exact fun s => ⟨s.cyc.slots, rfl⟩
  | cons a l ih => intro s; obtain ⟨x, e⟩ := h s a; obtain ⟨y, e'⟩ := ih (f s a); exact ⟨y, by rw [List.foldl_cons, e', e]⟩

theorem slotLineIn_only (s : State) (i : Nat) (ws : List Word) :
    ∃ x, slotLineIn s i ws = { s with cyc := { s.cyc with slots := x } } := by
  unfold slotLineIn
  split
  · exact fold_slots _ (fun s b => ⟨_, rfl⟩) _ s
  · split
    · exact fold_slots _ (fun s b => ⟨_, rfl⟩) _ s
    · exact fold_slots _ (fun s b => ⟨_, rfl⟩) _ s

/-- What received lines may change: the process image, the slots, and what a write by hardware changes. -/
def LinesOnly (s t : State) : Prop :=
  ∃ p x f m c e a l, t = { s with pi := p, cyc := { s.cyc with slots := x, forces := f }, mem := m, cfg := c, evts := e, alm := a, cle := l }

theorem LinesOnly.refl (s : State) : LinesOnly s s := ⟨s.pi, s.cyc.slots, s.cyc.forces, s.mem, s.cfg, s.evts, s.alm, s.cle, rfl⟩

theorem LinesOnly.trans {s t u : State} (h : LinesOnly s t) (h' : LinesOnly t u) : LinesOnly s u := by
  obtain ⟨p, x, f, m, c, e, a, l, rfl⟩ := h
  obtain ⟨p', x', f', m', c', e', a', l', rfl⟩ := h'
  exact ⟨p', x', f', m', c', e', a', l', rfl⟩

theorem Reports.lines {s t : State} (h : Reports s t) : LinesOnly s t := by
  obtain ⟨m, c, e, a, l, rfl⟩ := h
  exact ⟨s.pi, s.cyc.slots, s.cyc.forces, m, c, e, a, l, rfl⟩

/-- A received line changes the process image, the slots, or what a write by hardware changes. -/
theorem lineIn_only (s : State) (key : Nat) (ws : List Word) : LinesOnly s (lineIn s key ws) := by
  unfold lineIn
  have w (a : Nat) (l : List Word) : LinesOnly s (lineAt s a l) := (hwWrite_reports s _ a _).lines
  split
  · exact ⟨_, s.cyc.slots, s.cyc.forces, s.mem, s.cfg, s.evts, s.alm, s.cle, rfl⟩
  · exact ⟨_, s.cyc.slots, s.cyc.forces, s.mem, s.cfg, s.evts, s.alm, s.cle, rfl⟩
  · exact w _ _
  · obtain ⟨x, h⟩ := slotLineIn_only s (key % 2 ^ 28) ws
    exact ⟨s.pi, x, s.cyc.forces, s.mem, s.cfg, s.evts, s.alm, s.cle, h⟩
  · by_cases h : key % 2 ^ 28 % 64 = 1
    · simp only [h, if_true]; exact w _ _
    · simp only [h, if_false]; exact w _ _
  · exact w _ _
  · exact LinesOnly.refl s

/-- Lines change the process image, the slots, the forces and what a write by hardware changes, and nothing else. -/
theorem applyLines_only (s : State) (t : Tbl (List Word)) : LinesOnly s (applyLines s t) := by
  have fold (l : Tbl (List Word)) : ∀ s : State, LinesOnly s (l.foldl (fun s e => lineIn s e.1 e.2) s) := by
    induction l with
    | nil => exact LinesOnly.refl
    | cons e l ih => exact fun s => (lineIn_only s e.1 e.2).trans (ih _)
  unfold applyLines
  dsimp only
  split
  · exact (fold t s).trans ⟨_, _, _, _, _, _, _, _, rfl⟩
  · exact fold t s

/-- A copy that is applied to a unit that is not SYNCING leaves its role. -/
theorem copyApply_role (s : State) (h : s.twin.role ≠ .syncing) : (copyApply s).twin.role = s.twin.role := by
  unfold copyApply
  split
  · rfl
  · split
    · obtain ⟨p, x, f, m, c, e, a, l, r⟩ := applyLines_only s s.twin.gather.whole
      simp only [r, twinSend, fSetPart, fSet, if_neg h]
    · rfl

end Sys2Proof.Machine
end

