-- ==== Sys2Proof/Machine/TestPort.lean ====
section
/-! DEFINITION. The test access port (R605): what IEEE 1149.1 has its four instructions do, and the closed debug instructions. The opcode
table has no command that drives the port, so no command reaches these operations (assumption 204). -/
namespace Sys2Proof.Machine

/-- The balls with a boundary cell (R599, R605): field digital 136 and safety 36 in D33; host, memory and debug 37 and system 10 in D18;
system 8 in BKP. -/
def boundaryCells : Nat := 136 + 36 + 37 + 10 + 8

/-- What IDCODE reads, least significant bit first (R605). -/
def idcodeBits : List Bool := (List.range 32).map (fun i => (0xA12048ED#32 : Word).getLsbD i)

/-- TRST_N, or five clocks with TMS high: IDCODE is selected. -/
def tapReset (s : State) : State := { s with tap := { s.tap with ir := .idcode, dr := [] } }

/-- An instruction is selected. Each attempt at a private debug instruction is a violation with cause LOCKED (R605); who made it, by
what access and where are free. -/
def tapSelect (op : TapOp) (s : State) : State :=
  let w (i : Nat) : Nat := (Config.freeWord (s.free + i)).toNat
  let s := if op = .debug then errorResp { s with free := s.free + 2 } { unit := w 0 % 64 } .read .locked (w 1) 0 else s
  { s with tap := { s.tap with ir := op } }

/-- The data register captures: 0 for BYPASS, the identity for IDCODE, the pins' levels for SAMPLE and EXTEST. -/
def tapCapture (pins : List Bool) (s : State) : State :=
  let d := match s.tap.ir with
    | .bypass => [false]
    | .idcode => idcodeBits
    | .sample => pins.take boundaryCells
    | .extest => pins.take boundaryCells
    | .debug => []
  { s with tap := { s.tap with dr := d } }

/-- TDO in a shift: the bit next to it, and ones for a private debug instruction (R605). -/
def tapOut (s : State) : Bool := s.tap.ir == .debug || s.tap.dr.headD true

/-- A shift takes TDI in behind the other bits. -/
def tapShift (tdi : Bool) (s : State) : State := { s with tap := { s.tap with dr := s.tap.dr.drop 1 ++ [tdi] } }

/-- The boundary cells' latches take what SAMPLE/PRELOAD or EXTEST has shifted in. -/
def tapUpdate (s : State) : State :=
  match s.tap.ir with
  | .sample => { s with tap := { s.tap with cells := s.tap.dr.take boundaryCells } }
  | .extest => { s with tap := { s.tap with cells := s.tap.dr.take boundaryCells } }
  | _ => s

/-- What a boundary cell drives on its pin: its latch under EXTEST, otherwise the device's own level. -/
def tapDrives (s : State) (cell : Nat) (own : Bool) : Bool := if s.tap.ir = .extest then s.tap.cells.getD cell false else own

end Sys2Proof.Machine
end

