-- ==== Sys2Proof/WellFormed.lean ====
section
/-! DEFINITION. Which commands are well formed: operands that a frame, a table or an instruction word of the hardware can carry. -/
namespace Sys2Proof

/-- The header of an instruction command; an event or a frame has none (R44). -/
def Instr.header (c : Instr) : Option Hdr :=
  match c with
  | .add h _ _ _ => some h
  | .sub h _ _ _ => some h
  | .and h _ _ _ => some h
  | .or h _ _ _ => some h
  | .xor h _ _ _ => some h
  | .andn h _ _ _ => some h
  | .nor h _ _ _ => some h
  | .addsat h _ _ _ => some h
  | .subsat h _ _ _ => some h
  | .sll h _ _ _ => some h
  | .srl h _ _ _ => some h
  | .sra h _ _ _ => some h
  | .rol h _ _ _ => some h
  | .slli h _ _ _ => some h
  | .srli h _ _ _ => some h
  | .srai h _ _ _ => some h
  | .mul h _ _ _ => some h
  | .mulh h _ _ _ => some h
  | .mulhu h _ _ _ => some h
  | .div h _ _ _ => some h
  | .divu h _ _ _ => some h
  | .rem h _ _ _ => some h
  | .remu h _ _ _ => some h
  | .min h _ _ _ => some h
  | .max h _ _ _ => some h
  | .minu h _ _ _ => some h
  | .maxu h _ _ _ => some h
  | .abs h _ _ => some h
  | .fmulQ h _ _ _ _ _ _ => some h
  | .fmac h _ _ _ => some h
  | .fmsc h _ _ _ => some h
  | .accClr h _ => some h
  | .accLd h _ _ _ => some h
  | .accRd h _ _ _ _ _ => some h
  | .accRdw h _ _ _ => some h
  | .accWrw h _ _ _ => some h
  | .cmp h _ _ _ _ _ => some h
  | .cmpi h _ _ _ _ _ => some h
  | .bext h _ _ _ _ => some h
  | .bexts h _ _ _ _ => some h
  | .bins h _ _ _ _ => some h
  | .clz h _ _ => some h
  | .ctz h _ _ => some h
  | .popc h _ _ => some h
  | .brev h _ _ => some h
  | .bswap h _ _ => some h
  | .addi h _ _ _ => some h
  | .andi h _ _ _ => some h
  | .ori h _ _ _ => some h
  | .xori h _ _ _ => some h
  | .li h _ _ => some h
  | .lui h _ _ => some h
  | .li32 h _ _ => some h
  | .addi32 h _ _ _ => some h
  | .andi32 h _ _ _ => some h
  | .ori32 h _ _ _ => some h
  | .xori32 h _ _ _ => some h
  | .br h _ => some h
  | .call h _ => some h
  | .jr h _ => some h
  | .jalr h _ _ => some h
  | .ldB h _ _ _ _ => some h
  | .ldH h _ _ _ _ => some h
  | .ldW h _ _ _ => some h
  | .ldD h _ _ _ => some h
  | .stB h _ _ _ => some h
  | .stH h _ _ _ => some h
  | .stW h _ _ _ => some h
  | .stD h _ _ _ => some h
  | .piRd h _ _ _ _ => some h
  | .piWr h _ _ _ _ => some h
  | .ldF h _ _ => some h
  | .stF h _ _ => some h
  | .ldFd h _ _ => some h
  | .stFd h _ _ => some h
  | .amoSwap h _ _ _ => some h
  | .amoAdd h _ _ _ => some h
  | .amoAnd h _ _ _ => some h
  | .amoOr h _ _ _ => some h
  | .amoMax h _ _ _ => some h
  | .amoMin h _ _ _ => some h
  | .amoCas h _ _ _ => some h
  | .edgR h _ _ _ => some h
  | .edgF h _ _ _ => some h
  | .ton h _ _ _ _ _ => some h
  | .tof h _ _ _ _ _ => some h
  | .tp h _ _ _ _ _ => some h
  | .ctu h _ _ _ _ _ => some h
  | .ctd h _ _ _ _ _ => some h
  | .slotRd h _ _ _ => some h
  | .slotWr h _ _ _ => some h
  | .sig h _ => some h
  | .wait h _ _ _ => some h
  | .waitany h _ _ _ _ => some h
  | .waitResume _ _ => none
  | .evtClr h _ => some h
  | .msgSend h _ _ _ => some h
  | .msgRecv h _ _ _ => some h
  | .jobPost h _ _ => some h
  | .jobPoll h _ _ => some h
  | .jobCancel h _ => some h
  | .timeRd h _ => some h
  | .timeRdh h _ => some h
  | .srRd h _ _ => some h
  | .cfgR h _ _ => some h
  | .cfgW h _ _ => some h
  | .cfgCommit h _ _ => some h
  | .cfgRs h _ _ => some h
  | .commitApply _ => none
  | .heldLiveWriteApply _ => none
  | .nop h => some h
  | .mer h _ _ => some h
  | .sleep h _ => some h
  | .halt h => some h
  | .trap h _ => some h
  | .tret h _ => some h
  | .piSb h => some h
  | .piSe h => some h
  | .pRd h _ => some h
  | .pWr h _ => some h
  | .describe h _ _ _ => some h
  | .gcmEnc h _ _ _ => some h
  | .gcmDec h _ _ _ => some h
  | .cmac h _ _ _ => some h
  | .chunk h _ _ _ => some h
  | .finishStream h _ _ _ => some h
  | .abortStream h _ _ _ => some h
  | .sign h _ _ _ => some h
  | .verify h _ _ _ => some h
  | .hash h _ _ _ => some h
  | .deriveKey h _ _ _ => some h
  | .generate h _ _ _ => some h
  | .invalidate h _ _ _ => some h
  | .attest h _ _ _ => some h
  | .random h _ _ _ => some h
  | .publicKey h _ _ _ => some h
  | .keyBadOp h _ _ _ => some h
  | .cnv h _ _ _ _ _ => some h
  | .trgWait h _ _ => some h
  | .owSet h _ _ => some h
  | .sarTrigger _ => none
  | .trgWaitTimeout _ => none
  | .conversionDone _ _ _ _ => none
  | .urgentConversionDue _ _ => none
  | .urgentConversionDone _ _ _ => none
  | .afeRun h _ _ => some h
  | .sampleInstant _ => none
  | .accBoundary _ => none
  | .thermalSample => none
  | .harmonicWindowEnd _ => none
  | .zxTimeout _ => none
  | .mtrRun h _ => some h
  | .saveNow h _ => some h
  | .saveDone _ => none
  | .pulseInEdge _ _ _ _ => none
  | .pulseOutStart _ => none
  | .pulseOutEnd _ => none
  | .snapNow h _ => some h
  | .snapRel h _ => some h
  | .blkOpen h _ _ => some h
  | .blkClose h _ _ => some h
  | .hydBr h _ _ => some h
  | .thBr h _ _ => some h
  | .injRow h _ _ _ => some h
  | .measRow h _ _ => some h
  | .entW h _ _ => some h
  | .trnGo h _ _ => some h
  | .trnSt h _ => some h
  | .snapshotDue => none
  | .snapshotCopyEnd => none
  | .trnAdvanceEnd => none
  | .trnReinit => none
  | .asmRun h _ => some h
  | .trnRun h _ => some h
  | .patchGo h _ => some h
  | .estRun => none
  | .calKeep => none
  | .calStep => none
  | .dspRun => none
  | .jobStart => none
  | .factLdl => none
  | .factChol => none
  | .factQr => none
  | .solveTri => none
  | .schur => none
  | .gemm => none
  | .spmv => none
  | .axpy => none
  | .clip => none
  | .norm => none
  | .pivPol => none
  | .sc => none
  | .seqBr => none
  | .seqEnd => none
  | .agLd => none
  | .agSt => none
  | .laneFail _ _ => none
  | .bistStep _ => none
  | .bistPatternDone _ _ => none
  | .solvRun h _ => some h
  | .freeMeridian _ => none
  | .deferredMeridianStart _ => none
  | .restartComplete _ => none
  | .retCommitDone _ => none
  | .gateApply _ => none
  | .gateRead _ => none
  | .taskRelease _ _ => none
  | .eventTaskRelease _ _ => none
  | .idleWindowEnd _ => none
  | .cycRun h _ _ => some h
  | .stationResponse _ _ _ => none
  | .stationRejection _ _ => none
  | .stationRespTimeout _ => none
  | .stnRun h _ => some h
  | .slotTrigger _ _ _ => none
  | .lawRunStart _ => none
  | .lpSrc h _ _ => some h
  | .lpLaw h _ => some h
  | .lpOut h _ => some h
  | .lpHold h => some h
  | .slotDeadline _ => none
  | .pwmEvent _ _ => none
  | .cleRun h _ => some h
  | .safetyRelease _ _ => none
  | .safetyMonitorExpiry => none
  | .siFilterChange _ _ => none
  | .testPulse _ => none
  | .pairDiscrepancy _ => none
  | .readbackMismatch _ _ => none
  | .offPulseStart _ => none
  | .offPulseEnd _ => none
  | .safRun h _ => some h
  | .safRestart h _ => some h
  | .refClkLoss => none
  | .refClkReturn => none
  | .scrubStep _ _ => none
  | .vlogClear h _ => some h
  | .ident _ _ => none
  | .read _ _ => none
  | .write _ _ => none
  | .run _ _ => none
  | .update _ _ => none
  | .mgtBadCommand _ _ _ => none
  | .runJobDone _ => none
  | .runJobTimeout _ => none
  | .almRecordWrite => none
  | .counterSave _ => none
  | .opSave h _ => some h
  | .winCtrl h _ => some h
  | .linkUp _ => none
  | .linkDown _ => none
  | .portTransmit _ _ => none
  | .rxFrameDiscard _ _ _ => none
  | .prpSupervisionRx _ => none
  | .prpSupervisionTx => none
  | .substationReport _ _ _ => none
  | .slotStale _ => none
  | .arpRequest _ _ _ _ => none
  | .icmpEcho _ _ _ _ _ => none
  | .ipFragment _ _ _ _ _ _ _ _ _ => none
  | .reassemblyTimeout _ => none
  | .syncRx _ _ _ _ _ _ => none
  | .delayReqTx _ => none
  | .delayRespRx _ _ _ _ _ _ => none
  | .pdelayReqTx _ => none
  | .pdelayReqRx _ _ => none
  | .pdelayRespRx _ _ _ _ _ => none
  | .announceRx _ _ _ => none
  | .announceReceiptTimeout => none
  | .setGo h _ => some h
  | .timeRun h _ => some h
  | .canRxFrame _ _ _ _ => none
  | .canTxStart _ => none
  | .canTxDone _ _ _ _ => none
  | .canError _ _ _ => none
  | .busoffRecoveryDone _ => none
  | .canBusJoin _ => none
  | .canRun h _ _ => some h
  | .recover h _ _ => some h
  | .txCancel h _ _ _ => some h
  | .helloTx => none
  | .helloRx _ _ _ => none
  | .copyRx _ _ => none
  | .copyAckRx _ => none
  | .bulkRx _ => none
  | .abdicateRx _ => none
  | .leaseExpiry => none
  | .laneLoss _ => none
  | .laneRegained _ => none
  | .standbyWatchExpiry => none
  | .witnessAnswerTimeout => none
  | .grantRx _ _ => none
  | .refuseRx _ _ => none
  | .hbAckRx _ _ => none
  | .beaconRx _ _ => none
  | .heartbeatRx _ _ => none
  | .grantReqRx _ _ => none
  | .witnessGapExpiry => none
  | .startWaitExpiry => none
  | .zenithInRise => none
  | .zenithInLow => none
  | .abdicate h _ => some h
  | .twinRun h _ => some h
  | .rtcSecond => none
  | .oscStop => none
  | .backupDomainReset => none
  | .wakeBtnPress => none
  | .pwrCtrl h _ => some h
  | .keyIntegritySweep _ => none
  | .entropyRetest _ => none
  | .tamperFire _ _ => none
  | .frameBoundary => none
  | .updReq h _ _ => some h
  | .bistableFrame _ => none
  | .hmiRecovery => none
  | .hmiRun h _ => some h
  | .haloMeasure => none
  | .haloResult _ => none
  | .domainSwitchDone => none
  | .wake _ => none
  | .avsStep _ _ => none
  | .sysReset h _ => some h
  | .release h _ => some h
  | .resetN => none
  | .supplyMonitorReset _ => none
  | .boot _ => none
  | .wakeBtnRelease => none
  | .testPulseEnd _ _ => none
  | .chargePumpReady => none
  | .demotedWitnessRequest => none
  | .entropyHealthTestFail => none
  | .bulkTx _ => none

/-- Reserved bits of an instruction lie beside its opcode and predicate selector (R44, R50), and a first word with another
opcode than its instruction's has a reserved one (R47). -/
def Hdr.wf (h : Hdr) : Bool :=
  h.rsv.toNat < 2 ^ 23 && (match h.op with | none => true | some o => !opcodeListed h.eng o.toNat)

/-- A received frame's header: at most two tags, and a length a port can receive (R429). -/
def RxHdr.wf (r : RxHdr) : Bool := r.tags ≤ 2 && r.len ≤ 65535

/-- The header of a frame that may come on the management path. -/
def MgtPath.wf (p : MgtPath) : Bool := match p with | .mgtEth => true | .field r => r.wf

/-- The header of a frame that may come from a station. -/
def StnPath.wf (p : StnPath) : Bool := match p with | .can _ _ => true | .eth r _ => r.wf

/-- A twin link frame: its fields fit their bytes, and every line has sixteen words (R479). -/
def LinkFrame.wf (f : LinkFrame) : Bool :=
  f.ty < 256 && f.area < 256 && f.first < 2 ^ 32 && f.state < 16 && f.period < 2 ^ 32 && f.lines.all (fun l => l.length == 16)

/-- A witness frame: its fields fit their bytes (R485). -/
def WitFrame.wf (w : WitFrame) : Bool := w.reason < 256 && w.seq < 65536

/-- A fragment of an IPv4 datagram (R435, RFC 791): header of 20 to 60 bytes, offset in units of 8. -/
def fragmentWf (hdrLen offset len : Nat) : Bool :=
  20 ≤ hdrLen && hdrLen ≤ 60 && hdrLen % 4 == 0 && offset % 8 == 0 && offset + len ≤ 65535

/-- The parts of the external flash that BOOT is given lie in 32-bit addresses (R588). -/
def flashWf (l : List (Nat × List Byte)) : Bool := l.all (fun p => p.1 + p.2.length ≤ 2 ^ 32)

/-- The checks beside the header's. -/
def Instr.operandsWf (c : Instr) : Bool :=
  match c with
  | .sampleInstant codes => codes.length == 60
  | .stationResponse p d _ => p.wf && d.length ≤ 1500
  | .stationRejection p d => p.wf && d.length ≤ 1500
  | .mgtBadCommand _ cmd _ => cmd.toNat = 0 || 5 < cmd.toNat
  | .rxFrameDiscard r _ _ => r.wf
  | .prpSupervisionRx r => r.wf
  | .substationReport r d _ => r.wf && d.length ≤ 1500
  | .arpRequest p _ _ _ => p.wf
  | .icmpEcho p _ _ _ d => p.wf && d.length ≤ 1500
  | .ipFragment p _ _ _ _ hl o _ d => p.wf && fragmentWf hl o d.length
  | .syncRx r _ _ _ _ _ => r.wf
  | .delayRespRx r _ _ _ _ _ => r.wf
  | .pdelayReqRx r _ => r.wf
  | .pdelayRespRx r _ _ _ _ => r.wf
  | .announceRx r _ _ => r.wf
  | .canRxFrame _ _ d _ => d.length ≤ 64
  | .helloRx _ f _ => f.wf
  | .copyRx f _ => f.wf
  | .copyAckRx f => f.wf
  | .bulkRx f => f.wf
  | .abdicateRx f => f.wf
  | .grantRx r w => r.wf && w.wf
  | .refuseRx r w => r.wf && w.wf
  | .hbAckRx r w => r.wf && w.wf
  | .beaconRx r w => r.wf && w.wf
  | .heartbeatRx r w => r.wf && w.wf
  | .grantReqRx r w => r.wf && w.wf
  | .boot fl => flashWf fl
  | _ => true

/-- A well-formed command. -/
def Instr.wf (c : Instr) : Bool := (match c.header with | some h => h.wf | none => true) && c.operandsWf

end Sys2Proof
end

