-- ==== Sys2Proof/Tests/Slice0.lean ====
section
/-! SUPPORT. Tests: what WellFormed refuses, single steps, and for every statement with hypotheses a state and operands that meet them. -/

open Sys2Proof Sys2Proof.Machine

namespace Sys2Proof.Tests

set_option maxRecDepth 20000
set_option Elab.async false

/-! ## Helpers -/

/-- A context that runs, with some registers. -/
def ctx (g : Tbl Word) : Ctx := { live := true, pc := 0x200, g := g }

/-- A header whose predicate is p0. -/
def hd (e : Eng) : Hdr := { eng := e, pr := 0, rsv := 0 }

/-- MGT runs. -/
def mgt (g : Tbl Word) : State := { State.reset with ctxs := [(0, ctx g)] }

/-- ASM runs with its domain on. -/
def asm (g : Tbl Word) : State := { State.reset with ctxs := [(3, ctx g)] }

/-- Core 0 runs task 0 of bank 0. -/
def core0 (g : Tbl Word) : State :=
  { State.reset with ctxs := [(64, ctx g)], cyc := { State.reset.cyc with cores := [(0, { mode := .running })] } }

/-- SAF runs in its cycle. -/
def safRun (g : Tbl Word) : State := { State.reset with ctxs := [(2, ctx g)], saf := { inCycle := true, safe := false } }

/-- Sets some fields. -/
def withF (s : State) (l : List (Nat × Nat × Word)) : State := l.foldl (fun s e => fSet s e.1 e.2.1 e.2.2) s

/-- All domains are on. -/
def on (s : State) : State := withF s [(2, 2, 0x3FF)]

/-- `Runs` as a test. -/
def runs (s : State) (h : Hdr) (k : Nat) (d : Dec) : Bool :=
  engReady s h.eng == some k && decide ((getCtx s k).pc.toNat + d.len ≤ (homeOf s h.eng).2) &&
  Tbl.get 0 s.mem.ecc (((homeOf s h.eng).1 + (getCtx s k).pc.toNat) / 8) == 0 &&
  (d.len == 4 || Tbl.get 0 s.mem.ecc (((homeOf s h.eng).1 + (getCtx s k).pc.toNat + 4) / 8) == 0) &&
  !d.bad && h.rsv == 0 && h.op == none && inSubset d.grp h.eng && rdP (getCtx s k) h.pr && !waitsForResult s h.eng d.word

theorem runs_of {s : State} {h : Hdr} {k : Nat} {d : Dec} (x : runs s h k d = true) : Runs s h k d := by
  simp only [runs, Bool.and_eq_true, beq_iff_eq, Bool.or_eq_true, decide_eq_true_eq, Bool.not_eq_true'] at x
  exact ⟨x.1.1.1.1.1.1.1.1.1, x.1.1.1.1.1.1.1.1.2, x.1.1.1.1.1.1.1.2, x.1.1.1.1.1.1.2, ⟨x.1.1.1.1.1.2, x.1.1.1.1.2, x.1.1.1.2, x.1.1.2⟩,
    x.1.2, x.2⟩

/-- `Near` at each word of a block of `n` words. -/
def nearWords (s : State) (e : Eng) (ea n : Nat) : Bool :=
  (List.range n).all (fun j => (ea + 4 * j) % 4 == 0 && decide (ea + 4 * j + 4 ≤ (homeOf s e).2) &&
    accessCause s (unitOf e) false ((homeOf s e).1 + (ea + 4 * j)) 4 == none &&
    Tbl.get 0 s.mem.ecc (storedAt s ((homeOf s e).1 + (ea + 4 * j)) / 8) == 0)

theorem near_of {s : State} {e : Eng} {ea n : Nat} (h : nearWords s e ea n = true) : ∀ j < n, Near s e false (ea + 4 * j) 4 := by
  intro j hj
  have := List.all_eq_true.mp h j (List.mem_range.mpr hj)
  simp only [Bool.and_eq_true, beq_iff_eq, decide_eq_true_eq] at this
  exact ⟨this.1.1.1, this.1.1.2, this.1.2, this.2⟩

namespace Words

/-! ## What is not well formed: one command for each check -/

def r0 : RxHdr := { port := 0, fcsOk := true, len := 64, dst := 1, src := 2, tags := 0, vlan := 0, ethertype := 0x800, trailer := none }
/-- Three tags. -/
def rx : RxHdr := { r0 with tags := 3 }
def q0 : MgtReq := { b1 := 0, seq := 0, len := 0, addr := 0, b13 := 0, b14 := 0, payload := [], crc := 0 }
def a0 : Announce :=
  { priority1 := 1, clockClass := 6, accuracy := 0, variance := 0, priority2 := 0, grandmaster := 9, stepsRemoved := 0, sender := 9, senderPort := 1
    logInterval := 0, utcOffset := 37, utcValid := true, leap61 := false, leap59 := false, ptpTimescale := true }
def c0 : CanFrame := { id := 1, ide := false, rtr := false, fdf := true, brs := false, esi := false, dlc := 15 }
/-- A line of fifteen words. -/
def lx : LinkFrame := { ty := 4, lines := [List.replicate 15 0] }
def wx : WitFrame := { seq := 65536 }

theorem test_wf_header : (Instr.add { eng := .mgt, pr := 0, rsv := 0x800000 } 1 2 3).wf = false := by decide
theorem test_wf_header_ok : (Instr.add { eng := .mgt, pr := 0, rsv := 0x7FFFFF } 1 2 3).wf = true := by decide

/-- R47: 0b111111 is reserved on every engine, 0b000001 is not. -/
theorem test_wf_opcode : (Instr.add { eng := .mgt, pr := 0, rsv := 0, op := some 1 } 1 2 3).wf = false
    ∧ (Instr.add { eng := .mgt, pr := 0, rsv := 0, op := some 0x3F } 1 2 3).wf = true := by decide

theorem test_wf_lengths : (Instr.sampleInstant (List.replicate 59 0)).wf = false ∧ (Instr.canRxFrame 0 c0 (List.replicate 65 0) 0).wf = false
    ∧ (Instr.stationResponse (.can 0 c0) (List.replicate 1501 0) 0).wf = false ∧ (Instr.stationRejection (.eth rx false) []).wf = false
    ∧ (Instr.substationReport rx [] false).wf = false ∧ (Instr.canRxFrame 0 c0 (List.replicate 64 0) 0).wf = true := by decide

theorem test_wf_management : (Instr.mgtBadCommand 0 5 q0).wf = false ∧ (Instr.arpRequest (.field rx) 0 0 0).wf = false
    ∧ (Instr.icmpEcho (.field rx) 0 0 0 []).wf = false ∧ (Instr.ipFragment .mgtEth 0 0 0 17 18 0 false []).wf = false
    ∧ (Instr.ipFragment .mgtEth 0 0 0 17 20 4 false []).wf = false ∧ (Instr.ipFragment .mgtEth 0 0 0 17 20 65528 false (List.replicate 8 0)).wf = false
    ∧ (Instr.mgtBadCommand 0 6 q0).wf = true ∧ (Instr.ipFragment .mgtEth 0 0 0 17 60 65528 false (List.replicate 7 0)).wf = true := by
  decide

theorem test_wf_ports : (Instr.rxFrameDiscard rx 0 false).wf = false ∧ (Instr.prpSupervisionRx rx).wf = false
    ∧ (Instr.syncRx rx 0 0 0 0 0).wf = false ∧ (Instr.delayRespRx rx 0 0 0 0 0).wf = false ∧ (Instr.pdelayReqRx rx 0).wf = false
    ∧ (Instr.pdelayRespRx rx 0 0 0 0).wf = false ∧ (Instr.announceRx rx 0 a0).wf = false ∧ (Instr.rxFrameDiscard r0 0 false).wf = true := by
  decide

theorem test_wf_twin : (Instr.helloRx .a lx 0).wf = false ∧ (Instr.copyRx lx true).wf = false ∧ (Instr.copyAckRx lx).wf = false
    ∧ (Instr.bulkRx lx).wf = false ∧ (Instr.abdicateRx lx).wf = false ∧ (Instr.grantRx r0 wx).wf = false ∧ (Instr.refuseRx rx {}).wf = false
    ∧ (Instr.hbAckRx r0 wx).wf = false ∧ (Instr.beaconRx rx {}).wf = false ∧ (Instr.heartbeatRx r0 wx).wf = false
    ∧ (Instr.grantReqRx rx {}).wf = false ∧ (Instr.bulkRx { lx with lines := [List.replicate 16 0] }).wf = true := by decide

theorem test_wf_flash : (Instr.boot [(0xFFFFFFFF, [1, 2])]).wf = false ∧ (Instr.boot [(0xFFFFFFFF, [1])]).wf = true := by decide

/-! ## Single steps; the expected values are the spec's own examples -/

/-- Chapter 02, the example of R46: `addi g3, g3, -5000` at p0. -/
theorem test_addi_word : encI 0b00100 3 3 (BitVec.ofInt 14 (-5000)) = 0x240C6C78 := by decide

/-- Chapter 02, the example of R58: the word of `fmul.q g5, g6, g7, 30` with mode 0b01, and its result in each mode. -/
theorem test_fmul_word : encA 2 5 6 7 (64 + 30) = 0x0814C75E := by decide
theorem test_fmul_result : ∀ m < 4,
    match exec (.fmulQ (hd .mgt) 5 6 7 (BitVec.ofNat 2 m) false 30) (mgt [(6, BitVec.ofInt 32 (-229376)), (7, 322122547)]) with
    | .next t => (reg t 0 5).toInt = if m = 3 then -68812 else -68813
    | _ => False := by
  have h : ∀ m < 4, (match exec (.fmulQ (hd .mgt) 5 6 7 (BitVec.ofNat 2 m) false 30) (mgt [(6, BitVec.ofInt 32 (-229376)), (7, 322122547)]) with
    | .next t => decide ((reg t 0 5).toInt = if m = 3 then -68812 else -68813)
    | _ => false) = true := by decide +kernel
  intro m hm
  have := h m hm
  revert this
  cases exec (.fmulQ (hd .mgt) 5 6 7 (BitVec.ofNat 2 m) false 30) (mgt [(6, BitVec.ofInt 32 (-229376)), (7, 322122547)]) <;> simp

/-- Chapter 03, the example of R104: task 5 on CYC_3 reads solver memory; the log's number reaches 42. -/
def c3 : State :=
  let s := withF State.reset [(1, 7, 41 * 0x10000)]
  { s with
    ctxs := [(117, { ctx [(2, 0x1000), (3, 8)] with pc := 0x400 })]
    cyc := { s.cyc with cores := [(3, { mode := .running })] }
    clk := { s.clk with tick := 1234567 } }

theorem test_wrong_plane_log :
    (match exec (.ldF (hd (.cyc 3)) 1 2) c3 with
      | .next t => memWords t (0x80000 + 16 * 41) 4 == [0x00001000, 0x03050708, 0x002A0000, 0x0012D687]
      | _ => false) = true := by decide +kernel

/-- Chapter 18, R522: the alarm fires at its own second. Chapter 18, R517: 2100 is no leap year. -/
theorem test_calendar : calStep_ 0x235959 0x21000228 = (0, 0x21000301) ∧ calStep_ 0x235959 0x20000228 = (0, 0x20000229) := by decide

/-- Chapter 20, the example of R570: PHASE_N 12, progress 17, columns 2 and 3, column 2 dark. -/
def interrupted : HmiOpen :=
  { req := { rect := 0x3832, target := (List.replicate 12 0).set 2 0xFF }, phaseN := 12, progress := 17 }
theorem test_recovery_balance :
    let s := openBalance State.reset interrupted
    balance s 16 = -7 ∧ balance s 23 = -7 ∧ balance s 24 = 7 ∧ balance s 31 = 7 ∧ balance s 15 = 0 ∧ balance s 32 = 0 := by decide +kernel

/-- Chapter 02, R54: the quotient of -2^31 by -1. -/
theorem test_div_wraps :
    (match exec (.div (hd .mgt) 5 1 2) (mgt [(1, 0x80000000), (2, 0xFFFFFFFF)]) with | .next t => reg t 0 5 == 0x7FFFFFFF | _ => false) = true := by
  decide +kernel

/-- R87: a key operation does nothing when its predicate is false (R50). -/
theorem test_predicate_off :
    (match exec (.describe { eng := .mgt, pr := 1, rsv := 0 } 5 1 none) (mgt [(5, 9)]) with | .next t => reg t 0 5 == 9 | _ => false) = true := by
  decide +kernel

/-- CRC-32C of the nine digits, RFC 3720's polynomial: 0xE3069283. -/
theorem test_crc32c : crc32c [0x31, 0x32, 0x33, 0x34, 0x35, 0x36, 0x37, 0x38, 0x39] = 0xE3069283 := by decide +kernel

/-- SHA-384 of "abc", its first bytes (FIPS 180-4's example). -/
theorem test_sha384 : (sha384 [0x61, 0x62, 0x63]).take 4 = [0xCB, 0x00, 0x75, 0x3F] := by decide +kernel

/-- AES-256 of FIPS 197, appendix C.3, its first bytes. -/
theorem test_aes : (aes256 ((List.range 32).map (BitVec.ofNat 8)) ((List.range 16).map (fun i => BitVec.ofNat 8 (17 * i)))).take 4
    = [0x8E, 0xA2, 0xB7, 0xCA] := by decide +kernel

/-- R119, by hand: half of 2.5 V, the full scale, a negative input, and the ties at half a step. -/
theorem test_adc : adcCode 1250000000 = 32768 ∧ adcCode 2500000000 = 65535 ∧ adcCode (-1) = 0 ∧ adcCode 19073 = 0 ∧ adcCode 19074 = 1 := by decide

/-- R47: the opcodes 0 and 63 are reserved, `div`'s is listed; R121: 0b111101 is the sequencer's and 0b111111 nobody's. -/
theorem test_opcodes : opcodeListed .mgt 0 = false ∧ opcodeListed .mgt 63 = false ∧ opcodeListed .mgt 1 = true
    ∧ opcodeListed (.afe 0) 0b111101 = true ∧ opcodeListed .mgt 0b111101 = false ∧ opcodeListed (.afe 0) 0b111111 = false := by decide

/-- R47, R51, R88: the all-zero word traps ILLEGAL (cause 1) before its predicate; the record is at home offset 0x40. -/
theorem test_zero_word :
    (match exec (.nop { eng := .mgt, pr := 7, rsv := 0, op := some 0 }) (mgt []) with
      | .next t => memW t 0x0010000040 == 1 && (getCtx t 0).pc == 0x100
      | _ => false) = true := by decide +kernel

/-- R163: 0 °C, and 180 °C for what lies above, from a published table of water at 1.6 MPa: 1,000.6 and 887.3 kg/m³, 763.4 kJ/kg. -/
theorem test_water : ((waterAt State.reset (-1)).2 / 65536 / 65536 = 1000) ∧ (waterAt State.reset (200 * 65536)).2 / 65536 / 65536 = 887
    ∧ (waterAt State.reset (180 * 65536)).1 / 65536 / 100000 = 763 := by decide +kernel

/-- R605: IDCODE after a reset shifts out 0xA12048ED from its lowest bit; BYPASS is one bit long; a debug instruction reads ones and leaves a
violation. -/
def tapBits (n : Nat) (s : State) : List Bool := (List.range n).map (fun i => tapOut ((List.range i).foldl (fun t _ => tapShift false t) s))
theorem test_idcode : tapBits 32 (tapCapture [] (tapReset State.reset)) = (List.range 32).map (fun i => (0xA12048ED : Word).getLsbD i) := by decide
theorem test_bypass : tapBits 2 (tapShift true (tapCapture [] (tapSelect .bypass State.reset))) = [true, false] := by decide
theorem test_debug : tapBits 3 (tapCapture [] (tapSelect .debug State.reset)) = [true, true, true]
    ∧ fPart (tapSelect .debug State.reset) 1 7 8 8 = 1 := by decide +kernel

/-- R34, R143: the servo's rate stretches a tick, and the sample instant behind its nominal end is reached in it. -/
theorem test_stretched_tick :
    let s (rate : Int) : State := { State.reset with time := { State.reset.time with ns := 114999, rate := rate } }
    instantIn (s 0) 125000 = none ∧ instantIn (s 500000000) 125000 = some 1 := by decide

/-- R10, by hand: halves go away from zero. -/
theorem test_ties : (Q.scale 3 (-1)).word 0 = 2 ∧ (Q.scale (-3) (-1)).word 0 = -2 ∧ (Q.scale 1 (-2)).word 0 = 0 := by decide

end Words

namespace Isa

/-! ## Witnesses: the instruction set. Each shows operands, and a state in which the instruction runs, that meet the hypotheses of the
clauses of the statement it names. -/

/-- MGT with some registers. -/
def m1 : State := mgt [(1, 0x80000000), (2, 0xFFFFFFFF), (3, 0x1000), (4, 6)]

/-- `AluInstructionsComputeTheirResult`: a divisor that is not 0, and the pair -2^31, -1 excluded. -/
theorem witness_alu : Runs m1 (hd .mgt) 0 { word := encA 1 5 1 3 19, grp := .alu } ∧ reg m1 0 3 ≠ 0
    ∧ ¬ (reg m1 0 1 = 0x80000000 ∧ reg m1 0 3 = 0xFFFFFFFF) := ⟨runs_of (by decide), by decide, by decide⟩

/-- `DivisionBoundaryCasesAreFixed`: b = 0 with a ≥ 0 (a = 0) and a < 0, and -2^31 by -1. -/
theorem witness_division : Runs m1 (hd .mgt) 0 { word := encA 1 5 1 2 19, grp := .alu } ∧ reg m1 0 0 = 0 ∧ 0 ≤ (reg m1 0 0).toInt
    ∧ (reg m1 0 1).toInt < 0 ∧ reg m1 0 1 = 0x80000000 ∧ reg m1 0 2 = 0xFFFFFFFF :=
  ⟨runs_of (by decide), by decide, by decide, by decide, by decide, by decide⟩

/-- `ImmediatesAreExtendedAndApplied`: both lengths. -/
theorem witness_immediates : Runs m1 (hd .mgt) 0 { word := encI 4 5 1 0x2000, grp := .alu }
    ∧ Runs m1 (hd .mgt) 0 { word := encA 0b111000 5 1 0 1, len := 8, grp := .alu } := ⟨runs_of (by decide), runs_of (by decide)⟩

/-- `BitFieldInstructionsComputeTheirResult`: a field that ends at bit 31. -/
theorem witness_bit_field : (31 : Nat) + 1 ≤ 32
    ∧ Runs m1 (hd .mgt) 0 { word := encF 5 [(5, 18), (1, 13), (31, 8), (0, 5), (0, 0)], grp := .alu } := ⟨by decide, runs_of (by decide)⟩

/-- `FixedPointInstructionsRoundAndSaturate`: a product that fits and one that does not, w = 2. -/
theorem witness_fixed :
    Runs m1 (hd .mgt) 0 { word := encA 2 5 1 2 32, grp := .fixed } ∧ roundShift (modeOf 0) 2147483647 0 = 2147483647
    ∧ roundShift (modeOf 0) 2147483648 0 ≠ 2147483647 ∧ (2 : BitVec 2) ≠ 3 :=
  ⟨runs_of (by decide), by decide, by decide, by decide⟩

/-- `ComparisonsWriteTheirPredicate`: condition 7. `BranchesContinueAtTheirTarget`: a target that is aligned and one that is not. -/
theorem witness_compare_branch : (7 : BitVec 8).toNat ≤ 7
    ∧ Runs m1 (hd .mgt) 0 { word := encF 4 [(1, 20), (0, 18), (1, 13), (2, 8), (7, 0)], grp := .alu }
    ∧ Runs m1 (hd .mgt) 0 { word := encA 6 0 3 0 0, grp := .branch } ∧ (reg m1 0 3).toNat % 4 = 0 ∧ (reg m1 0 4).toNat % 4 ≠ 0 :=
  ⟨by decide, runs_of (by decide), runs_of (by decide), by decide, by decide⟩

/-- `NearAccessesReadAndWriteTheHomeRegion`: the last bytes of the home region, for each width. -/
theorem witness_near : Near m1 .mgt false 0x1FFFFF 1 ∧ Near m1 .mgt false 0x1FFFFE 2 ∧ Near m1 .mgt false 0x1FFFFC 4
    ∧ Near m1 .mgt true 0x1FFFF8 8 ∧ Near m1 .mgt true 0x1FFFFF 1 ∧ oddReg 4 = false
    ∧ Runs m1 (hd .mgt) 0 { word := encM 0b100011 4 3 false 1, grp := .near } :=
  ⟨⟨by decide, by decide, by decide, by decide⟩, ⟨by decide, by decide, by decide, by decide⟩,
    ⟨by decide, by decide, by decide, by decide⟩, ⟨by decide, by decide, by decide, by decide⟩,
    ⟨by decide, by decide, by decide, by decide⟩, by decide, runs_of (by decide)⟩

/-- A store runs and answers. -/
theorem witness_near_frame : Runs m1 (hd .mgt) 0 { word := encM 0b100111 4 3 false 1, grp := .near }
    ∧ (reg m1 0 3 + BitVec.ofInt 32 ((1 : BitVec 12).toInt * (8 : Nat))).toNat = 0x1008
    ∧ Near m1 .mgt true 0x1008 8 ∧ ∃ t, exec (.stD (hd .mgt) 4 3 1) m1 = .next t :=
  ⟨runs_of (by decide), by decide, ⟨by decide, by decide, by decide, by decide⟩, _, rfl⟩

/-- MGT with far addresses in pairs: the word memory of its own home, the last word of it, one beyond 40 bits. -/
def m2 : State := mgt [(2, 0x00101FFF), (3, 0x100), (4, 0x101FFFF8), (5, 0), (6, 0x10000FF8), (7, 0), (8, 0x1002)]

/-- `FarAndAtomicAccessesActOnTheirAddress`: far accesses of 4 and 8 bytes, an address beyond 40 bits, atomics, misaligned addresses. -/
theorem witness_far : Far m2 .mgt false 0x101FFFF8 0 4 0x101FFFF8 ∧ viaGate m2 .mgt 0x101FFFF8 4 = false
    ∧ Far m2 .mgt true 0x101FFFF8 0 8 0x101FFFF8 ∧ oddReg 4 = false ∧ reg m2 0 4 = 0x101FFFF8 ∧ reg m2 0 5 = 0
    ∧ 256 ≤ (reg m2 0 3).toNat ∧ oddReg 2 = false ∧ ((reg m2 0 3).toNat % 256 * 2 ^ 32 + (reg m2 0 4).toNat) % 4 = 0
    ∧ Near m2 .mgt true 0x1FFFFC 4 ∧ (reg m2 0 8).toNat % 4 ≠ 0 ∧ 0x1002 % 8 ≠ 0
    ∧ Runs m2 (hd .mgt) 0 { word := encA 0b101010 8 4 0 0, grp := .far }
    ∧ Runs m2 (hd .mgt) 0 { word := encA 0b101011 9 8 1 0, grp := .near } :=
  ⟨⟨by decide, by decide, by decide, by decide, by decide, by decide⟩, by decide,
    ⟨by decide, by decide, by decide, by decide, by decide, by decide⟩, by decide, by decide, by decide, by decide, by decide, by decide,
    ⟨by decide, by decide, by decide, by decide⟩, by decide, by decide, runs_of (by decide), runs_of (by decide)⟩

/-- A core with the last image addresses in its registers, and a force on one of them. -/
def c1 : State :=
  let s := core0 [(1, 0xFFFFC), (2, 0xFFFF8), (3, 0x80000), (4, 7)]
  { s with cyc := { s.cyc with forces := [{ idx := 0x20000, lo := 5 }] } }

/-- ASM in an open set. -/
def a1 : State := { asm [(1, 0xFFFFC)] with pi := { State.reset.pi with open_ := [(3, [])] } }

/-- `ProcessImageIsReadAndWrittenByPlane`: the last word and pair of the image, a forced word and one that is not, a set that is open and
one that is not. -/
theorem witness_image :
    (0xFFFFC % 4 = 0 ∧ 0xFFFFC + 4 ≤ 0x100000 ∧ 0xFFFF8 % 8 = 0 ∧ Tbl.get 0 c1.mem.ecc ((0x0200000000 + 0xFFFFC) / 8) = 0)
    ∧ Runs c1 (hd (.cyc 0)) 64 { word := encM 0b101000 4 1 false 0, grp := .pi }
    ∧ (forceAt c1 0x20000 ≠ none ∧ forceAt c1 0x3FFFF = none ∧ (getCore c1 0).wbuf.length < 8192)
    ∧ (planeOf (unitOf .asm) = .data ∧ Tbl.find a1.pi.open_ 3 = some [] ∧ Tbl.find (asm []).pi.open_ 3 = none)
    ∧ Runs a1 (hd .asm) 3 { word := encM 0b101001 4 1 false 0, grp := .pi }
    ∧ Runs (asm []) (hd .asm) 3 { word := encA 0b110101 0 0 0 6, grp := .set } :=
  ⟨by decide, runs_of (by decide), by decide, by decide, runs_of (by decide), runs_of (by decide)⟩

/-- A core with slots: edges 0 to 16,383, timers 0 to 8,191, counters 0 to 4,095, and one timer that runs. -/
def c2 : State :=
  let s := withF (core0 [(1, 1), (9, 100)]) [(4, 5, 0x40000000), (4, 6, 0x20000000), (4, 7, 0x10000000)]
  let s := setCtx s 64 { getCtx s 64 with p := 2 }
  { s with cyc := { s.cyc with slots := { timers := [(1, { run := true, prev := true, pt := 100 }), (2, { prev := true })] } } }

/-- `EdgesTimersAndCountersFollowTheirInput`: the last slots that are allocated, and an engine that has none. -/
theorem witness_slots : slotOk c2 (.cyc 0) .edge 16383 = true ∧ slotOk c2 (.cyc 0) .timer 8191 = true
    ∧ slotOk c2 (.cyc 0) .counter 4095 = true ∧ slotOk (withF (core0 []) [(4, 5, 0)]) (.cyc 0) .edge 0 = false
    ∧ Runs c2 (hd (.cyc 0)) 64 { word := encSlot 5 false 3 16383, grp := .slot }
    ∧ Runs (withF (core0 []) [(4, 5, 0)]) (hd (.cyc 0)) 64 { word := encF 0b101100 [(1, 20), (0, 19), (1, 14), (0, 0)], grp := .slot } :=
  ⟨by decide, by decide, by decide, by decide, runs_of (by decide), runs_of (by decide)⟩

/-- `EdgesTimersAndCountersFollowTheirInput`: an input that is true and one that is false, timers that run, have ended and never ran. -/
theorem witness_timers : rdP (getCtx c2 64) 1 = true ∧ rdP (getCtx c2 64) 2 = false
    ∧ (Tbl.get {} (poolOf c2 (.cyc 0)).timers 1).run = true ∧ (Tbl.get {} (poolOf c2 (.cyc 0)).timers 1).prev = true
    ∧ (Tbl.get {} (poolOf c2 (.cyc 0)).timers 2).run = false ∧ (Tbl.get {} (poolOf c2 (.cyc 0)).timers 2).prev = true
    ∧ (Tbl.get {} (poolOf c2 (.cyc 0)).timers 3).prev = false ∧ min 100 (since (slotNow c2 (.cyc 0) 64) 0) < 100 ∧ (9 : Word).toNat < 32
    ∧ slotOk c2 (.cyc 0) .timer 1 = true ∧ slotOk c2 (.cyc 0) .counter 0 = true
    ∧ Runs c2 (hd (.cyc 0)) 64 { word := encF 0b111011 [(1, 20), (1, 17), (2, 14), (0, 12), (0, 0)], len := 8, grp := .slot } :=
  ⟨by decide, by decide, by decide, by decide, by decide, by decide, by decide, by decide, by decide, by decide, by decide,
    runs_of (by decide)⟩

/-- MGT with events 0x3FF and 32 pending, and one suspended on event 5 until tick 0. -/
def e1 : State := { mgt [(1, 1), (2, 10)] with evts := [(0x20, 1), (0x3FF, 1)] }
def e2 (d : Option Nat) : State := { mgt [] with ctxs := [(0, { live := true, wait := .event 1 5 d })] }
def e3 (d : Option Nat) : State := { mgt [] with ctxs := [(0, { live := true, wait := .group 1 0 2 0xFF d })] }

/-- `EventsAreSignalledAwaitedAndTaken`: a number of the plane's block and one outside; pending or not, with a timeout of 0 or more; a
suspended context whose event is pending, whose timeout has passed, or neither. -/
theorem witness_events :
    (0x3E0 ≤ (0x3FF : BitVec 10).toNat ∧ planeOf (unitOf .mgt) = .management ∧ ¬ 0x3E0 ≤ (0x3DF : BitVec 10).toNat)
    ∧ Runs e1 (hd .mgt) 0 { word := encEvt 0 0 0 0x3FF, grp := .sig } ∧ Runs e1 (hd .mgt) 0 { word := encEvt 1 1 2 0x3FF, grp := .wait }
    ∧ (evtPending e1 0 0x3FF = true ∧ evtPending e1 0 5 = false ∧ reg e1 0 0 = 0 ∧ reg e1 0 2 ≠ 0)
    ∧ (groupBits e1 0 1 (reg e1 0 1) ≠ 0 ∧ groupBits e1 0 2 (reg e1 0 1) = 0)
    ∧ ((e2 none).pwr.asleep = false ∧ (getCtx (e2 none) 0).live = true ∧ (getCtx (e2 (some 0)) 0).wait = .event 1 5 (some 0)
        ∧ 0 ≤ (e2 none).clk.tick.toNat ∧ evtPending (e2 none) 0 5 = false
        ∧ evtPending { e2 none with evts := [(5, 1)] } 0 5 = true ∧ (getCtx (e3 none) 0).wait = .group 1 0 2 0xFF none
        ∧ groupBits { e3 none with evts := [(5, 1)] } 0 0 0xFF ≠ 0 ∧ groupBits (e3 none) 0 0 0xFF = 0) :=
  ⟨by decide, runs_of (by decide), runs_of (by decide), by decide, by decide, by decide⟩

/-- MGT in its trap handler with a record that returns to 0x204. -/
def h1 : State :=
  setW { mgt [] with ctxs := [(0, { live := true, pc := 0x100, inHandler := true })] } 0x0010000044 0x204

/-- `SystemAndTimeInstructionsAct`: every selector; in and out of the handler; `halt` on each kind of engine. -/
theorem witness_system : oddReg 4 = false ∧ Runs m1 (hd .mgt) 0 { word := encA 0b110011 4 0 0 0, grp := .time }
    ∧ Runs m1 (hd .mgt) 0 { word := encA 0b110101 0 0 0 3, grp := .sys }
    ∧ Runs (core0 []) (hd (.cyc 0)) 64 { word := encA 0b110101 0 0 0 3, grp := .sys }
    ∧ Runs (asm []) (hd .asm) 3 { word := encA 0b110101 0 0 0 3, grp := .sys }
    ∧ Runs (safRun []) (hd .saf) 2 { word := encA 0b110101 0 0 0 3, grp := .sys } ∧ (safRun []).saf.safe = false
    ∧ (getCtx m1 0).inHandler = false ∧ (getCtx h1 0).inHandler = true ∧ Near h1 .mgt false 0x44 4 ∧ Near h1 .mgt false 0x50 4
    ∧ (memW h1 0x0010000044).toNat % 4 = 0 ∧ Runs h1 (hd .mgt) 0 { word := encF 0b110101 [(0, 8), (5, 0)], grp := .sys } :=
  ⟨by decide, runs_of (by decide), runs_of (by decide), runs_of (by decide), runs_of (by decide), runs_of (by decide), by decide,
    by decide, by decide, ⟨by decide, by decide, by decide, by decide⟩, ⟨by decide, by decide, by decide, by decide⟩, by decide,
    runs_of (by decide)⟩

/-- `TrapsEnterTheHandlerOrStop`: out of the handler with the highest address, and in it. -/
theorem witness_trap : (getCtx m1 0).inHandler = false ∧ (2 ^ 40 - 1 : Nat) < 2 ^ 40 ∧ (getCtx h1 0).inHandler = true := by decide

/-- `PredicatesAndIllegalWordsAreJudgedFirst`: a false predicate, a reserved bit, a group outside the subset. -/
theorem witness_predicate : engReady m1 .mgt = some 0 ∧ (getCtx m1 0).pc.toNat + 4 ≤ (homeOf m1 .mgt).2
    ∧ Tbl.get 0 m1.mem.ecc (((homeOf m1 .mgt).1 + (getCtx m1 0).pc.toNat) / 8) = 0 ∧ inSubset .wait .mgt = true
    ∧ rdP (getCtx m1 0) 7 = false ∧ engReady c2 (.cyc 0) = some 64 ∧ rdP (getCtx c2 64) 7 = false ∧ inSubset .slot (.cyc 0) = true
    ∧ ({ eng := .mgt, pr := 0, rsv := 1 } : Hdr).rsv ≠ 0 ∧ (Eng.asm ≠ .mgt ∧ Eng.asm ≠ .mgtJob ∧ engReady (asm []) .asm = some 3) := by decide

/-- A core with a mailbox that is empty, one that holds a record and one that is full. -/
def b1 (l : List (List Byte)) : State :=
  let s := core0 [(1, 0x400)]
  { s with cyc := { s.cyc with mail := [(mailbox 0, l)] } }

/-- Core 0 with the message bus on; buffer 0 sends, buffer 64 receives. -/
def b2 (x : Can) : State := { on (withF (core0 [(1, 0x400)]) [(0x1A, 8, 1)]) with can := [(0, x)] }

/-- `MessagesAreFirstInFirstOut`. -/
theorem witness_messages : RecordAt (b1 []) (.cyc 0) 0x400 16 ∧ Runs (b1 []) (hd (.cyc 0)) 64 { word := encF 0b110001 [(1, 20), (0, 19), (1, 14), (0, 0)], grp := .msg }
    ∧ ((mail (b1 (List.replicate 7 [])) (mailbox 0)).length < 8 ∧ 8 ≤ (mail (b1 (List.replicate 8 [])) (mailbox 0)).length
      ∧ mail (b1 [List.replicate 16 1]) (mailbox 0) = [List.replicate 16 1] ∧ mail (b1 []) (mailbox 0) = [])
    ∧ RecordAt (b2 {}) (.cyc 0) 0x400 80 ∧ Runs (b2 {}) (hd (.cyc 0)) 64 { word := encF 0b110001 [(1, 20), (0, 19), (1, 14), (0x400, 0)], grp := .msg }
    ∧ (unitOn (b2 {}) (canUnit 0) = true ∧ isTxBuf (b2 {}) 0 0 = true ∧ sendRecordOk (memWords (b2 {}) 0x0100000400 20) = true
      ∧ (memW (b2 {}) 0x0100000404).tst 29 = false ∧ txPending (b2 {}) 0 0 = false ∧ canListen (b2 {}) 0 = false
      ∧ txPending (withF (b2 {}) [(0x1A, 0xC, 1)]) 0 0 = true ∧ 0 ∈ (getCan (b2 { outcome := [0] }) 0).outcome
      ∧ isTxBuf (b2 {}) 0 64 = false ∧ Tbl.find (getCan (b2 { fifo := [(64, [65])] }) 0).fifo 64 = some [65]) :=
  ⟨⟨by decide, by decide, fun _ _ _ => rfl⟩, runs_of (by decide), by decide, ⟨by decide, by decide, fun _ _ _ => rfl⟩, runs_of (by decide),
    by decide⟩

/-- A core whose 16 requests wait, and ASM with 64 jobs held. -/
def j1 (n : Nat) : State :=
  { core0 [(1, 0x400), (2, 1)] with solv := { State.reset.solv with
      jobs := (List.range n).map (fun i => (i + 1, { state := 1, poster := 4 })), reqs := (List.range n).map (· + 1) } }
def j2 (n : Nat) : State :=
  { on (asm [(1, 0x400)]) with solv := { State.reset.solv with jobs := (List.range n).map (fun i => (i + 1, { state := 2, poster := 20 })) } }

/-- `JobsArePostedPolledAndCancelled`. -/
theorem witness_jobs : RecordAt (j1 15) (.cyc 0) 0x400 48 ∧ Runs (j1 15) (hd (.cyc 0)) 64 { word := encA 0b110010 3 1 0 0, grp := .job }
    ∧ (((j1 15).solv.reqs.filter (fun x => (getJob (j1 15) x).any (·.poster == 4))).length < 16
      ∧ 16 ≤ ((j1 16).solv.reqs.filter (fun x => (getJob (j1 16) x).any (·.poster == 4))).length
      ∧ jobsHeld (j2 63) < 64 ∧ 64 ≤ jobsHeld (j2 64) ∧ m1.gate.any (fun g => g.target == 0x16 * 64) = false
      ∧ getJob (j1 15) 1 = some { state := 1, poster := 4 } ∧ getJob (j1 0) 1 = none)
    ∧ Runs (j2 1) (hd .asm) 3 { word := encA 0b110010 3 1 0 1, grp := .job } :=
  ⟨⟨by decide, by decide, fun _ _ _ => rfl⟩, runs_of (by decide), by decide, runs_of (by decide)⟩

/-! ## Witnesses: configuration, the gate and the management link -/

/-- The field of a unit as an operand. -/
def fld (u f : Nat) : BitVec 16 := BitVec.ofNat 16 (fid u f)

/-- `ConfigurationAccessFollowsItsClass`: a field of each class, a commit of a unit that runs, and a field that no unit has. -/
theorem witness_config :
    let s := on m1
    (∃ r, fieldRow (fld 0 1).toNat = some r ∧ r.cls = .c) ∧ (∃ r, fieldRow (fld 0x14 0xE).toNat = some r ∧ r.cls = .s)
    ∧ (∃ r, fieldRow (fld 1 2).toNat = some r ∧ r.cls = .l)
    ∧ (cfgCause s 0 0 1 = none ∧ cfgWriteCause s 0 0 1 115200 = none ∧ fld 0 1 ≠ 0x9401 ∧ fld 0 1 ≠ 0x9C07)
    ∧ (cfgWriteCause s 0 0x14 0xE 64028672 = none) ∧ (cfgWriteCause s 0 1 2 1 = none ∧ isHeld s 0 1 2 = false)
    ∧ (let s := withF s [(0x16, 1, 1)]; cfgWriteCause s 0 0x16 1 0 = none ∧ isHeld s 0 0x16 1 = true
        ∧ cfgCause s 0 0 0 = none ∧ atRest (capture s 0) 0 = true ∧ cfgCause s 0 0x16 0 = none ∧ atRest (capture s 0x16) 0x16 = false)
    ∧ (cfgCause s 0 0x25 1 = none ∧ fld 0x25 1 = 0x9401 ∧ fieldRow 0x9401 ≠ none
        ∧ cfgWriteCause s 0 0x27 7 0x3FB0 = none ∧ fld 0x27 7 = 0x9C07 ∧ isHeld s 0 0x27 7 = false)
    ∧ (cfgCause s 0 0x3F 1 = some .unmapped ∧ cfgWriteCause s 0 0x3F 1 0 = some .unmapped)
    ∧ Runs s (hd .mgt) 0 { word := encE 1 1 (fld 0 1), grp := .cfg } :=
  ⟨⟨_, rfl, by decide⟩, ⟨_, rfl, by decide⟩, ⟨_, rfl, by decide⟩, by decide, by decide, by decide, by decide, by decide, by decide, runs_of (by decide)⟩

/-- `BoundariesApplyWhatWaits`: a pending set of TIME that passes and one of SOLV's kind that fails, a held write and a posted job of SOLV,
a load that waits for a gate read, a scrub pointer on a clean word and on one with a bad bit. -/
def w1 : State :=
  let s := on m1
  { s with cfg := { s.cfg with pend := [(0x18, [(fid 0x18 2, 0x00141E32)]), (0x19, [(fid 0x19 4, 7)])] } }
def w2 (c : Change) : State := { on m1 with gate := [{ target := 0x16 * 64, change := c }], solv := { State.reset.solv with jobs := [(7, {})] } }
def w3 : State := { m1 with ctxs := [(0, { live := true, wait := .gate 31 0x0100000000 4 0 })] }
def w4 (bad : Nat) : State := { withF State.reset [(1, 2, 1)] with mem := { State.reset.mem with ecc := if bad = 0 then [] else [(0x80000 / 8, bad)] } }
/-- The scrubber stands at the last word of the only region that is left. -/
def w5 : State := { w4 0 with mem := { (w4 0).mem with scrubAt := (scrubRegions (w4 0)).map (fun r => (r.2, if r.2 = 1 then r.1.2 - 8 else r.1.2)) } }

theorem witness_boundaries :
    (Tbl.find w1.cfg.pend 0x19 = some [(fid 0x19 4, 7)] ∧ unitOn w1 0x19 = true ∧ commitBoundary w1 0x19 = true
      ∧ pendCheck w1 0x19 [(fid 0x19 4, 7)] = none ∧ ([(fid 0x19 4, 7)].map (·.1)).Nodup
      ∧ (∀ e ∈ [(fid 0x19 4, 7)], e.1 / 1024 = 0x19 ∧ e.1 % 1024 ≠ 0x3FF)
      ∧ Tbl.find w1.cfg.pend 0x18 = some [(fid 0x18 2, 0x00141E32)] ∧ unitOn w1 0x18 = true)
    ∧ (unitOn (w2 (.live (fid 0x16 2) 5)) 0x16 = true ∧ (w2 (.live (fid 0x16 2) 5)).solv.run = none ∧ 1023 < 1024)
    ∧ (unitOn (w2 (.job [] 7)) 0x16 = true ∧ (w2 (.job [] 7)).solv.run = none ∧ getJob (w2 (.job [] 7)) 7 = some {}
      ∧ jobsHeld (w2 (.job [] 7)) < 64)
    ∧ ((getCtx w3 0).wait = .gate 31 0x0100000000 4 0 ∧ w3.pwr.asleep = false ∧ accessCause (on w3) 0 false 0x0100000000 4 = none
      ∧ Tbl.get 0 w3.mem.ecc (0x0100000000 / 8) = 0)
    ∧ ((w4 0).pwr.asleep = false ∧ fBit (w4 0) 1 2 0 = true ∧ scrubNext (w4 0) = some 0x80000 ∧ regionOf 0x80000 = some 1
      ∧ scrubNext { w4 0 with mem := { (w4 0).mem with scrubAt := [(1, 8)] } } = some 0x80008 ∧ Tbl.get 0 (w4 1).mem.ecc (0x80000 / 8) = 1
      ∧ scrubNext (w4 1) = some 0x80000 ∧ Tbl.get 0 (w4 3).mem.ecc (0x80000 / 8) = 3)
    ∧ (commitBoundary w1 0x19 = true ∧ Tbl.find w1.cfg.pend 0x14 = none
      ∧ (heldWrites (w2 (.live (fid 0x16 2) 5)) 0x16).find? (fun w => liveBoundary (w2 (.live (fid 0x16 2) 5)) w.1.target)
          = some ({ target := 0x16 * 64, change := .live (fid 0x16 2) 5 }, fid 0x16 2, 5)
      ∧ heldWrites w1 0x16 = [] ∧ gateFind w1 0x580 = none)
    ∧ (scrubNext w5 = some 0x803F8
      ∧ scrubNext { w5 with mem := { w5.mem with scrubAt := Tbl.ins w5.mem.scrubAt 1 (Tbl.get 0 w5.mem.scrubAt 1 + 8) } } = none) := by decide

/-- MGT about to write a field: 1, 0, a set that clears an enable, and an empty patch. -/
def v1 (v : Word) : State := on (mgt [(1, v)])

/-- `ActionWritesCommandTheirUnit`: the writes that start, with a value whose bit 0 is 1. -/
theorem witness_actions_start :
    let s := v1 1
    let w (u f : Nat) : Prop := cfgWriteCause s 0 u f 1 = none ∧ isHeld s 0 u f = false
    (1 : Word).tst 0 = true ∧ w 0x11 0x100 ∧ (getCtx s 16).live = false ∧ w 0x12 1 ∧ fBit s 0x12 1 0 = false ∧ w 0x13 4 ∧ w 0x14 1
    ∧ (getCtx s 3).live = false ∧ w 0x15 1 ∧ w 0x16 1 ∧ w 4 1 ∧ (getCore s 0).mode = .stopped
    ∧ corePowered (withF s [(2, 3, 0xFF)]) 0 = true ∧ w 0x22 1 ∧ w 0x10 1 ∧ w 0x0C 2 ∧ w 1 8 ∧ w 0x24 0xC ∧ w 0x24 0xA ∧ s.alm.frozen = none ∧ w 0x19 0x13
    ∧ canState s 7 = 0 ∧ w 0x21 1 ∧ canState (setCanState s 7 4) 7 = 4 ∧ w 0x21 7 ∧ w 0x23 0x15 ∧ fBit s 0x23 1 0 = false ∧ w 0x23 1
    ∧ w 2 0xC ∧ w 0x25 9 ∧ (1 : Word).toNat % 4 ≠ 0 ∧ cfgWriteCause s 0 0x27 7 0x3FB0 = none ∧ w 0x27 1 ∧ cfgWriteCause s 0 2 0xB 0xA5C3 = none ∧ w 0x21 0x13 := by decide

/-- A safety channel that runs between two cycles. -/
def v3 (g : List GateItem) : State := { v1 0 with saf := { (v1 0).saf with safe := false }, gate := g }

/-- Core 0 about to write a field of its plane; ASM about to write a field of its own. -/
def v4 (v : Word) : State := on (core0 [(1, v)])
def v5 : State := on (asm [(1, 0)])

/-- And the writes that stop, cancel, abdicate, submit a patch, release or request an update. -/
theorem witness_actions_stop :
    let s := v1 0
    let w (s : State) (e : Nat) (u f : Nat) (v : Word) : Prop := cfgWriteCause s e u f v = none ∧ isHeld s e u f = false
    w v5 0x14 0x14 1 0 ∧ (getCtx v5 3).live = true ∧ w (v4 0) 4 4 1 0 ∧ (getCore (v4 0) 0).mode ≠ .stopped ∧ w (v4 0) 4 0x10 1 0
    ∧ w s 0 0x0C 1 0 ∧ s.saf.safe = true ∧ cfgWriteCause (v3 []) 0 0x0C 1 0 = none ∧ isHeld (v3 []) 0 0x0C 1 = true
    ∧ (v3 []).saf.safe = false ∧ (v3 []).saf.inCycle = false ∧ w s 0 0x24 0xA 0 ∧ w s 0 0x19 1 0
    ∧ w (withF (v1 1) [(0x14, 0x18, 0x10180000)]) 0 0x14 0x1A 1
    ∧ bootState (fSetPart s 2 0xD 24 8 3) = 3 ∧ canState (setCanState (v4 1) 7 4) 7 = 4 ∧ w (setCanState (v4 1) 7 4) 4 0x21 7 1
    ∧ (0x80000000 : Word).tst 31 = true ∧ txPending (withF s [(0x21, 0xF, 0x80000000)]) 7 127 = true ∧ (getCan s 7).active = none
    ∧ fBit (withF s [(0x27, 2, 1)]) 0x27 2 0 = true ∧ s.hmi.rcv = .none ∧ s.hmi.bistable = false ∧ s.hmi.queue.length < 8 := by decide

/-- A device that has booted, and a request with its CRC. -/
def l1 : State := let s := fSetPart (mgt []) 2 0xD 24 8 3; { s with mgt := { s.mgt with entries := [(5, 0x300)] } }
def rq (cmd : Byte) (q : MgtReq) : MgtReq := { q with crc := crc32c (mgtHeader cmd q ++ q.payload) }
def q0 : MgtReq := { b1 := 0, seq := 1, len := 0, addr := 0, b13 := 0, b14 := 0, payload := [], crc := 0 }

/-- The last bytes of the host window and of the link's ranges; a job that runs and whose timeout has passed. -/
theorem witness_link :
    let good (cmd : Byte) (q : MgtReq) : Prop := l1.pwr.asleep = false ∧ crc32c (mgtHeader cmd q ++ q.payload) = q.crc
      ∧ (getLink l1 3).last ≠ some (q.seq.toNat, q.crc) ∧ 3 ≤ bootState l1 ∧ mgtBadFields cmd q = false
    good 1 (rq 1 q0) ∧ good 2 (rq 2 { q0 with len := 4, addr := 0x00101FFFFC }) ∧ crossesEnd 0x00101FFFFC 4 = false
    ∧ viaGate l1 .mgt 0x00101FFFFC 1 = false ∧ good 3 (rq 3 { q0 with len := 1, addr := 0x00101FFFFF, payload := [7] })
    ∧ hostMayWrite 0x00101FFFFF 1 = true ∧ good 4 (rq 4 { q0 with addr := 0x00101FFFFC, b13 := 5, b14 := 1 })
    ∧ l1.mgt.entries.any (fun x => x.1 == 5) = true ∧ l1.mgt.runQ = [] ∧ l1.mgt.running = none
    ∧ good 5 (rq 5 { q0 with addr := 0x0B00FFFFFF, len := 1 }) ∧ crc32c (mgtHeader 5 q0) = (rq 5 q0).crc
    ∧ crc32c (mgtHeader 6 q0) = (rq 6 q0).crc ∧ 5 < (6 : Byte).toNat ∧ ({ timedOut := false, since := 0, timeout := 0 } : RunJob).timedOut = false
    ∧ 0 + 100 * 0 ≤ l1.clk.tick.toNat + 1 := by decide

/-- A read of staging gives its bytes. -/
theorem witness_link_staging : hostRead .hostWrite 1 l1 0x0B00FFFFFF 1 [] = (l1, .ok (memBytes l1 0x0B00FFFFFF 1)) := rfl

/-- Every access inside those ranges is allowed and clean. -/
theorem witness_link_reach (wr : Bool) : (∀ x m, 0x00101FFFFC ≤ x → 1 ≤ m → x + m ≤ 0x00101FFFFC + 4 → accessCause l1 0 wr x m = none)
    ∧ ∀ x, Tbl.get 0 l1.mem.ecc (x / 8) = 0 := by
  refine ⟨fun x m h1 h2 h3 => ?_, fun _ => rfl⟩
  have : ∀ x, x < 4 → ∀ m, m < 5 → 1 ≤ m → x + m ≤ 4 → accessCause l1 0 wr (0x00101FFFFC + x) m = none := by cases wr <;> decide
  have := this (x - 0x00101FFFFC) (by omega) m (by omega) h2 (by omega)
  rwa [show 0x00101FFFFC + (x - 0x00101FFFFC) = x by omega] at this

/-- `FarAndAtomicAccessesActOnTheirAddress`: a load that waits for the gate; stores to the station table and to CLE memory, while their
unit runs and while it is stopped. -/
theorem witness_far_gate :
    let s := on m1
    viaGate s .mgt 0x0100000000 4 = true ∧ accessCause s 0 false 0x0100000000 4 = none
    ∧ (∃ a, 0x40000 ≤ a ∧ storeTarget .mgt a = some (0x10 * 64) ∧ accessCause s 0 true a 8 = none ∧ a % 8 = 0)
    ∧ unitStopped s 0x10 = true ∧ unitStopped (withF s [(0x10, 1, 1)]) 0x10 = false ∧ unitStopped (withF s [(0x22, 1, 1)]) 0x22 = false
    ∧ s.gate.any (fun x => x.target == 0x10 * 64) = false :=
  ⟨by decide, by decide, ⟨slotBase 0, by decide, by decide, by decide, by decide⟩, by decide, by decide, by decide, by decide⟩

/-- `BoundariesApplyWhatWaits`: a READ that waits for the gate, on the last link; nothing that waits. -/
theorem witness_gate_link :
    let s := { on m1 with mgt := { State.reset.mgt with links := [(3, { gateRead := some (0x0100000000, 4, [], 9, 0) })] } }
    (getLink s 3).gateRead = some (0x0100000000, 4, [], 9, 0) ∧ s.pwr.asleep = false
    ∧ (∀ x, x < 4 → ∀ m, m < 5 → 1 ≤ m → x + m ≤ 4 → accessCause s 0 false (0x0100000000 + x) m = none)
    ∧ s.mem.ecc = [] ∧ 0x0100000000 + 4 ≤ 0x0200000000 ∧ gateFind s (0x16 * 64) = none := by decide

/-- `ActionWritesCommandTheirUnit`: a twin that is active, a frozen window. -/
theorem witness_actions_rest :
    let s := v1 1
    let a := { s with twin := { s.twin with role := .active } }
    a.twin.role = .active ∧ cfgWriteCause a 0 0x23 0x15 1 = none ∧ isHeld a 0 0x23 0x15 = false := by decide

/-- `EdgesTimersAndCountersFollowTheirInput`: an edge slot that is pending gives no edge; `slot.wr` of the last slot of each kind. -/
theorem witness_slot_rest :
    let s := { c2 with cyc := { c2.cyc with slots := { c2.cyc.slots with edges := [(16383, { prev := true, pending := true })] } } }
    (Tbl.get {} (poolOf s (.cyc 0)).edges 16383).pending = true
    ∧ runs s (hd (.cyc 0)) 64 { word := encF 0b101100 [(1, 20), (1, 19), (1, 14), (16383, 0)], grp := .slot } = true
    ∧ runs s (hd (.cyc 0)) 64 { word := encSlot 5 true 0 8191, grp := .slot } = true ∧ (8191 : Nat) < 8192 ∧ (4095 : Nat) < 4096
    ∧ slotOk s (.cyc 0) .timer 8191 = true ∧ slotOk s (.cyc 0) .counter 4095 = true := by decide

end Isa

namespace Measuring

/-! ## Witnesses: acquisition and metering -/

/-- Sequencer n runs with its converter. -/
def f1 (n : Nat) (g : Tbl Word) (c : Conv) : State :=
  { on State.reset with ctxs := [(16 + n, ctx g)], afe := if c = {} then [] else [(n, c)] }

/-- Sequencer 15 waits for its trigger. -/
def f2 (d : Option Nat) (c : Conv) : State :=
  let s := withF (f1 15 [] c) [(0x11, 0x1F1, 1)]
  { s with ctxs := [(31, { live := true, wait := .trigger 7 d })] }

/-- `ConversionsAreQueuedAndDelivered`: both places free, one taken, both taken; a trigger that is pending and one that is not; a due
trigger of the last converter. -/
theorem witness_sequencers :
    Runs (f1 0 [(2, 5)] {}) (hd (.afe 0)) 16 { word := encF 0b111100 [(4, 18), (0, 11), (0, 9), (0, 8), (0, 6)], grp := .cnv, bad := oddReg 4 || !reachable 0 0 }
    ∧ Runs (f1 15 [(2, 5)] {}) (hd (.afe 15)) 31 { word := encF 0b111110 [(95, 11), (3, 8)], grp := .cnv, bad := !reachable 15 95 || 95 < 32 || 96 ≤ 95 || (3 : BitVec 3) == 4 }
    ∧ Runs (f1 0 [(2, 5)] {}) (hd (.afe 0)) 16 { word := encF 0b111101 [(1, 20), (2, 13)], grp := .cnv }
    ∧ ((getConv (f1 0 [] {}) 0).run = none ∧ (getConv (f1 0 [] { run := some {} }) 0).next = none
      ∧ (getConv (f1 0 [] { run := some {}, next := some {} }) 0).next.isSome = true
      ∧ gateFind (f1 0 [] {}) (0x11 * 64) = none ∧ Tbl.find (f1 0 [] {}).cfg.pend 0x11 = none
      ∧ (getConv (f1 0 [] { trig := true }) 0).trig = true ∧ (getConv (f1 0 [] {}) 0).trig = false
      ∧ reg (f1 0 [(2, 5)] {}) 16 2 ≠ 0 ∧ reg (f1 0 [(2, 5)] {}) 16 3 = 0)
    ∧ (let w := fGet (f2 none {}) 0x11 (0x101 + 16 * 15)
      w.tst 16 = false ∧ 0 % w.field 0 16 = 0 ∧ (getConv (f2 none {}) 15).last ≠ some 0 ∧ (f2 none {}).clk.refClk = true
      ∧ domainOn (f2 none {}) 5 = true ∧ (f2 none {}).pwr.asleep = false ∧ (getCtx (f2 none {}) 31).wait = .trigger (7 : PReg).toNat none
      ∧ (getCtx (withF (f1 15 [] {}) [(0x11, 0x1F1, 1)]) 31).wait = .none
      ∧ (getConv (withF (f1 15 [] { trig := true }) [(0x11, 0x1F1, 1)]) 15).trig = true
      ∧ (getCtx (f2 (some 0) {}) 31).wait = .trigger (7 : PReg).toNat (some 0) ∧ (7 : PReg) ≠ 0) :=
  ⟨runs_of (by decide), runs_of (by decide), runs_of (by decide), by decide, by decide⟩

/-- The same: a result for the last register pair; urgent requests against no conversion, one that yields and one that does not. -/
theorem witness_conversions :
    let c : Conv := { run := some { rd := 30, ch := 127 } }
    ((getConv (f1 15 [] c) 15).run = some { rd := 30, ch := 127 } ∧ (getConv (f1 15 [] c) 15).urgRun = false
      ∧ (getCtx (f1 15 [] c) 31).live = true ∧ 127 < 128 ∧ 30 < 31)
    ∧ (getConv (f1 15 [] { urg := [{}] }) 15).urg = [{}] ∧ (getConv (f1 15 [] { urg := [{}] }) 15).run = none
    ∧ (getConv (f1 15 [] { c with urg := [{}] }) 15).run = some { rd := 30, ch := 127 } ∧ ({ rd := 30, ch := 127 } : Cnv).pri ≠ 3
    ∧ (getConv (f1 15 [] { urg := [{}], run := some { pri := 3 } }) 15).run = some { pri := 3 }
    ∧ (getConv (f1 15 [] { urgRun := true, urgDue := [{}] }) 15).urgRun = true
    ∧ (getConv (f1 15 [] { urgRun := true, urgDue := [{}] }) 15).urgDue = [{}] := by decide

/-- Metering runs; channel 11 has its harmonics, pulse input 31 and output 15 are on. -/
def n1 (m : Mtr) : State :=
  { withF (on State.reset) [(0x12, 1, 1), (0x13, 7, 0x800), (0x12, 0x13B, 8), (0x13, 0x1FE, 0xC0000000), (0x13, 0x21E, 0x80000001)] with mtr := m }

/-- `MeteringCountsItsIntervals`. -/
theorem witness_metering :
    (mtrRuns (n1 {}) = true ∧ instantIn (n1 {}) 125000 = some 0 ∧ (n1 {}).mtr.sample ≠ some 0 ∧ (n1 {}).time.stepAcc = 0
      ∧ chOn (n1 {}) 59 = true ∧ (0x7FFFFF : BitVec 24).toInt = 2 ^ 23 - 1)
    ∧ (instantIn (n1 {}) (fPart (n1 {}) 0x13 1 0 16 * 1000000) = some 0 ∧ (n1 {}).mtr.bound ≠ some (0 * fPart (n1 {}) 0x13 1 0 16))
    ∧ (instantIn (n1 {}) (fPart (n1 {}) 0x13 9 0 16 * 1000000) = some 0 ∧ (n1 {}).mtr.thLast ≠ some (0 * fPart (n1 {}) 0x13 9 0 16))
    ∧ (11 < 12 ∧ 11 / 3 = (3 : Fin 4).val ∧ fBit (n1 {}) 0x13 7 11 = true)
    ∧ (zxLost (n1 {}) 3 = false ∧ zxExpired { n1 {} with time := { (n1 {}).time with sec := 9 } } 3 = true)
    ∧ (n1 { saving := some {} }).mtr.saving = some {}
    ∧ ((fGet (n1 {}) 0x13 0x1FE).tst 31 = true ∧ (fGet (n1 {}) 0x13 0x1FE).tst 30 = !false ∧ (fGet (n1 {}) 0x13 0x1FE).tst 29 = false
      ∧ (fGet (withF (n1 {}) [(0x13, 0x1FE, 0xA0000000)]) 0x13 0x1FE).tst 29 = true
      ∧ (fGet (withF (n1 {}) [(0x13, 0x1FE, 0xA0000000)]) 0x13 0x1FE).tst 30 = !true
      ∧ (fGet (withF (n1 {}) [(0x13, 0x1FE, 0xA0000000)]) 0x13 0x1FE).tst 22 = false)
    ∧ ((fGet (n1 {}) 0x13 0x21E).tst 31 = true ∧ (Tbl.get {} (n1 { po := [(15, { backlog := 1 })] }).mtr.po 15).backlog = 1
      ∧ (Tbl.get {} (n1 { po := [(15, { backlog := 1 })] }).mtr.po 15).since ≤ 0
      ∧ (Tbl.get {} (n1 { po := [(15, { active := true })] }).mtr.po 15).active = true
      ∧ (Tbl.get {} (n1 { po := [(15, { active := true })] }).mtr.po 15).since + (fGet (withF (n1 {}) [(0x13, 0x21E, 0x80000000)]) 0x13 0x21E).field 0 10 * 100 ≤ 0) := by
  decide

/-- A sequencer image of no words. -/
def plan0 : List Byte := let d : List Byte := [0x0A, 0, 1, 0, 0, 0, 0, 0, 0, 0, 0, 0, 0, 0, 0, 0]; d ++ leBytes 4 (crc32c d).toNat

/-- `ConversionsAreQueuedAndDelivered`: a plan update that waits for the trigger wait of sequencer 15; a trigger that does not occur, and
a timeout that has not passed; a first conversion with its due start behind a Halo request. -/
theorem witness_sequencer_rest :
    (let s := { f1 15 [] {} with gate := [{ target := 0x11 * 64 + 15, change := .payload 0xA plan0 }] };
      gateFind s (0x11 * 64 + 15) = some { target := 0x11 * 64 + 15, change := .payload 0xA plan0 }
      ∧ engineImage 0x000A 0x10000 plan0 = some [] ∧ Tbl.find s.cfg.pend 0x11 = none ∧ (getCtx s 31).live = true)
    ∧ domainOn { f2 none {} with clk := { (f2 none {}).clk with refClk := false } } 5 = true
    ∧ (f2 (some 1) {}).clk.tick.toNat < 1 ∧ 0 < (f2 (some 0) {}).clk.tick.toNat + 1
    ∧ (getConv (f1 15 [] { first := some true }) 15).first.isSome = true
    ∧ haloHolds { f1 15 [] {} with hmi := { State.reset.hmi with haloReq := true } } 15 {} = true := by decide

/-- The same: a conversion that is ready at the end of this tick and one that is not, a dropped one, one that Halo holds; urgent requests
whose due start has come and has not, against a conversion that has not started. -/
theorem witness_conversion_rest :
    reached (f1 15 [] {}) 9999 = true ∧ reached (f1 15 [] {}) 10000 = false
    ∧ reached (f1 15 [] {}) (urgDueNs (f1 15 [] {}) 15 {}) = true ∧ reached (f1 15 [] {}) (urgDueNs (f1 15 [] {}) 15 { at_ := 500 }) = false
    ∧ (getConv (f1 15 [] { run := some { drop := true } }) 15).run = some { drop := true }
    ∧ (getConv (f1 15 [] { run := some { halo := true } }) 15).run = some { halo := true }
    ∧ reached (f1 15 [] {}) (getConv (f1 15 [] { urgRun := true }) 15).urgReady = true
    ∧ reached (f1 15 [] {}) (getConv (f1 15 [] { urgRun := true, urgReady := 10000 }) 15).urgReady = false := by decide

/-- Metering at a time within its second. -/
def n2 (m : Mtr) (ns : Nat) (step : Int) : State := { n1 m with time := { State.reset.time with ns := ns, stepAcc := step } }

/-- `MeteringCountsItsIntervals`: a sample after a step of network time, an instant at the end of a tick, and a tick without one; a
disabled channel; a harmonic window that ends in this tick and one that does not; a rising edge after its minimum width, with its
direction from another input. -/
theorem witness_metering_rest :
    (instantIn (n2 { sample := some 0 } 0 1) 125000 = some 0 ∧ (n2 {} 0 1).time.stepAcc ≠ 0)
    ∧ instantIn (n2 {} 124999 0) 125000 = some 1 ∧ instantIn (n2 {} 1 0) 125000 = none ∧ mtrRuns (on State.reset) = false
    ∧ chOn (withF (n1 {}) [(0x12, 0x13A, 0)]) 58 = false
    ∧ Tbl.find (n2 { harmAt := [(3, 0)] } 0 0).mtr.harmAt 3 = some 0
    ∧ tickEnd (n2 {} 0 0) ≤ (0 + windowNs (n2 {} 0 0) 3) * 2 ^ 48
    ∧ (0 + windowNs (n2 {} 200000000 0) 3) * 2 ^ 48 < tickEnd (n2 {} 200000000 0)
    ∧ Tbl.find (n1 { edge := [(31, (false, 0))] }).mtr.edge 31 = some (false, 0)
    ∧ (fGet (n1 {}) 0x13 0x1FE).field 23 6 < 32 ∧ (fGet (n1 {}) 0x13 0x1FE).field 0 16 * 1000 ≤ 0 - 0
    ∧ 0 - 0 < (fGet (withF (n1 {}) [(0x13, 0x1FE, 0xE0000001)]) 0x13 0x1FE).field 0 16 * 1000
    ∧ ((n1 { po := [(15, { since := 1 })] }).clk.tick.toNat < 1 ∧ (n1 {}).pwr.asleep = false ∧ zxLost (withF (n1 {}) [(0x12, 7, 8)]) 3 = true) := by
  refine ⟨?_, ?_, ?_, ?_, ?_, ?_, ?_, ?_, ?_, ?_, ?_, ?_, ?_⟩ <;> decide

end Measuring

namespace Planning

/-! ## Witnesses: assembly, Transit, the libraries and the solver array -/

/-- ASM with a snapshot locked or not. -/
def b1 (g : Tbl Word) (lock : Word) (x : AsmU) : State := { withF (on (asm g)) [(0x14, 8, lock), (0x14, 2, 1)] with asm := x }

/-- `SnapshotsAndAdvancesLockTheModel`: unlocked and locked, due and copying. -/
theorem witness_snapshots :
    Runs (b1 [] 0 {}) (hd .asm) 3 { word := encA 0b111100 5 0 0 0, grp := .front } ∧ snapLocked (b1 [] 0 {}) = false
    ∧ Runs (b1 [] 1 {}) (hd .asm) 3 { word := encA 0b111100 5 0 0 0, grp := .front } ∧ snapLocked (b1 [] 1 {}) = true
    ∧ Runs (b1 [] 1 {}) (hd .asm) 3 { word := encA 0b111100 5 0 0 1, grp := .front } ∧ (b1 [] 1 {}).asm.copying = none
    ∧ (b1 [] 1 {}).asm.adv = none ∧ unitOn (b1 [] 0 {}) 0x14 = true ∧ (b1 [] 0 {}).pwr.asleep = false ∧ fPart (b1 [] 0 {}) 0x14 2 0 16 ≠ 0
    ∧ instantIn (b1 [] 0 {}) (fPart (b1 [] 0 {}) 0x14 2 0 16 * 1000000) = some 0 ∧ (b1 [] 0 {}).asm.lastDue ≠ some (0 * fPart (b1 [] 0 {}) 0x14 2 0 16)
    ∧ instantIn (b1 [] 1 {}) (fPart (b1 [] 1 {}) 0x14 2 0 16 * 1000000) = some 0 ∧ (b1 [] 1 {}).asm.lastDue ≠ some (0 * fPart (b1 [] 1 {}) 0x14 2 0 16)
    ∧ (b1 [] 1 { copying := some {} }).asm.copying = some {} :=
  ⟨runs_of (by decide), by decide, runs_of (by decide), by decide, runs_of (by decide), by decide⟩

/-- Headers of a matrix block and of a vector block at the end of the home region; open blocks. -/
def mb : Block := { id := 7, kind := 1, rows := 2, cols := 1, dest := 0x08027FFFD8 }
def vb : Block := { id := 8, rows := 2, cols := 1, dest := 0x08027FFFD8 }
def b2 : State :=
  setWords (setWords (b1 [(1, 0x3FFFE0), (2, 0x3FFFC0), (3, 1)] 0 {}) 0x04003FFFE0 [0x00070100, 0, 2, 0, 1, 0x027FFFD8, 8, 0]) 0x04003FFFC0
    [0x00080001, 0, 2, 0, 1, 0x027FFFD8, 8, 0]
def b3 (x : AsmU) : State := { b2 with asm := x }
def head (s : State) (ea i : Nat) : Word := ([0, 1, 2, 3, 4, 5, 6, 7].map (fun j => memW s ((homeOf s .asm).1 + ea + 4 * j))).getD i 0

/-- `AssemblyWritesItsBlocks`: a header of each kind, the slot free and taken; a block of each kind that is full to the end of the memory that ASM may write. -/
theorem witness_blocks :
    Runs b2 (hd .asm) 3 { word := encA 0b111100 5 1 0 2, grp := .front }
    ∧ (∀ j < 8, Near b2 .asm false ((reg b2 3 1).toNat + 4 * j) 4) ∧ (∀ j < 8, Near b2 .asm false ((reg b2 3 2).toNat + 4 * j) 4)
    ∧ (blockOf (head b2 (reg b2 3 1).toNat) = some (false, mb) ∧ blockOf (head b2 (reg b2 3 2).toNat) = some (true, vb)
      ∧ b2.asm.mat = none ∧ b2.asm.vec = none
      ∧ blockOf (head (b3 { mat := some mb, vec := some vb }) (reg b2 3 1).toNat) = some (false, mb))
    ∧ Runs (b3 { mat := some mb, vec := some vb }) (hd .asm) 3 { word := encA 0b111100 5 3 0 3, grp := .front }
    ∧ (let s := b3 { mat := some mb, vec := some vb }
      reg s 3 0 = 0 ∧ reg s 3 3 = 1 ∧ mb.dest + 4 * (8 + (mb.cols + 1)) = 0x0802800000 ∧ vb.dest + 4 * (8 + vb.rows) = 0x0802800000
      ∧ ((mb.recs.map (stageRec s)).foldl sumInto []).any (fun e => decide (2 ^ 63 ≤ entBound e)) = false
      ∧ accessCause s 0x14 true mb.dest 4 = none ∧ accessCause s 0x14 true 0x08027FFFFC 4 = none
      ∧ Tbl.get 0 s.mem.ecc (mb.dest / 8) = 0 ∧ Tbl.get 0 s.mem.ecc (0x08027FFFFC / 8) = 0)
    ∧ (((reg b2 3 4).toNat = 0 → b2.asm.mat = none) ∧ ((reg b2 3 4).toNat = 1 → b2.asm.vec = none)) :=
  ⟨runs_of (by decide), near_of (by decide), near_of (by decide), by decide, runs_of (by decide), by decide, by decide⟩

/-- A model of two nodes, a branch, a sub-station and a descriptor, its linearisation values and staging area in solver memory, and a
snapshot. -/
def b4 (lock : Word) (x : AsmU) : State :=
  let s := withF (b1 [(1, 0), (2, 0), (4, 1), (6, 0x3FFFE0)] lock x) [(0x14, 3, 0x20001), (0x14, 4, 0x10000), (0x14, 5, 0x10000), (0x14, 9, 0x02FFFFE8), (0x14, 0xA, 8),
    (0x14, 0xB, 0x100000), (0x14, 0xC, 8), (0x14, 0xD, 12), (0x14, 0x10, 0), (0x14, 0x11, 0x1000), (0x14, 0x13, 0x640000), (0x14, 0x15, 0x10000)]
  let s := setWords s 0x0400040000 [0x80000001, 0, 0, 0, 0xFFFF, 0, 0xFFFF0000]
  let s := setWords s 0x0400080000 [0x80000000, 0, 0xFFFFFFFF, 0, 0x80000000, 0, 0xFFFF0000]
  let s := setWords s 0x0400098000 [0x80000001, 0xFFFF, 0, 0xFFFFFFFF]
  let s := setWords s 0x0400100000 [0x80000000, 0, 0x1000, 0xFFF00001]
  setWords s 0x04003FFFE0 [1, 0, 0, 0, 0, 0, 0, 0]

/-- The last linearisation value of `b4` stands at the end of solver memory. -/
def openBoth : AsmU := { mat := some { rows := 16, cols := 8 }, vec := some { rows := 16, cols := 1 } }
def givenB (s : State) (x : Nat) : Bool := accessCause s 0x14 false (linAddr s x) 4 == none && Tbl.get 0 s.mem.ecc (linAddr s x / 8) == 0
def roomB (s : State) (es : List Ent) : Bool :=
  let n := (es.filter (inBlock s)).length
  (s.asm.mat.isSome || s.asm.vec.isSome) && decide (s.asm.staged + n ≤ (fGet s 0x14 0xD).toNat) && 0 < n &&
    [32 * s.asm.staged, 32 * (s.asm.staged + n - 1) + 24].all (fun o =>
      accessCause s 0x14 true (stageAddr s 0 + o) 8 == none && (stageAddr s 0 + o) % 8 == 0)

/-- `AssemblyWritesItsBlocks`: element 0 of each kind, a last linearisation value, staging records up to the last that fits;
no snapshot, an element beyond the model, no open block. -/
theorem witness_assembly :
    let s := b4 1 openBoth
    (Runs s (hd .asm) 3 { word := encA 0b111100 5 1 0 4, grp := .front } ∧ Runs (b4 0 {}) (hd .asm) 3 { word := encA 0b111100 5 1 2 6, grp := .front })
    ∧ (snapLocked s = true ∧ s.asm.copying = none ∧ (reg s 3 1).toNat < (counts s).m ∧ (reg s 3 1).toNat < (counts s).k
      ∧ (List.range 6).all (givenB s) = true ∧ fBit s 0x15 0x16 0 = false
      ∧ injection s (reg s 3 2).toNat 0 = some { source := 0, target := 1, col := 5, meas := 0xFFFF }
      ∧ stateCol s 0 = some 4)
    ∧ roomB s (hydEntries s s.free 0 (Q.ofInt 0) 0 0 0) = true ∧ roomB s (injEntries s { source := 0, target := 1, col := 5, meas := 0xFFFF } 0 0) = true
    ∧ roomB s (measEntries s 0 4 0) = true
    ∧ roomB s (branchEntries s 0 0 (q16 0) 0) = true
    ∧ (snapLocked (b4 0 {}) = false ∧ (counts s).m ≤ (reg s 3 4).toNat)
    ∧ (∀ o < 8, Near s .asm false ((reg s 3 6).toNat + 4 * o) 4)
    ∧ (inBlock (b4 1 { mat := openBoth.mat }) { row := 1 } = true ∧ (b4 1 { mat := openBoth.mat }).asm.vec = none
      ∧ roomB (b4 1 { mat := openBoth.mat }) [{ row := 1 }] = true ∧ (b4 0 {}).asm.mat = none ∧ (b4 0 {}).asm.vec = none) :=
  ⟨⟨runs_of (by decide), runs_of (by decide)⟩, by decide, by decide, by decide, by decide, by decide, by decide, near_of (by decide), by decide⟩

/-- Transit is ready for an advance on the locked snapshot. -/
def t1 (run lock : Word) (x : AsmU) : State := withF (b1 [(2, 0xFFFFFFF0), (3, 0xFF)] lock x) [(0x15, 1, run)]

/-- `SnapshotsAndAdvancesLockTheModel`: an address at the end of the 40-bit space, a refusal, an advance and a reinitialisation. -/
theorem witness_transit :
    Runs (t1 1 1 {}) (hd .asm) 3 { word := encA 0b111100 5 2 0 9, grp := .front, bad := oddReg 2 }
    ∧ trnRefusal (t1 1 1 {}) = 0 ∧ (reg (t1 1 1 {}) 3 (2 + 1)).toNat < 256
    ∧ Runs (t1 0 1 {}) (hd .asm) 3 { word := encA 0b111100 5 2 0 9, grp := .front, bad := oddReg 2 } ∧ trnRefusal (t1 0 1 {}) ≠ 0
    ∧ snapLocked (t1 1 0 {}) = false ∧ Runs (t1 1 0 {}) (hd .asm) 3 { word := encA 0b111100 5 0 0 10, grp := .front, bad := false }
    ∧ ((t1 1 1 { adv := some {} }).asm.adv = some {} ∧ unitOn (t1 1 1 { adv := some {} }) 0x15 = true
      ∧ (t1 1 1 { adv := some {} }).asm.copying = none ∧ (t1 1 1 { adv := some {} }).asm.reinit = none)
    ∧ (t1 1 1 { reinit := some {} }).asm.reinit = some {} ∧ unitOn (t1 1 1 { reinit := some {} }) 0x15 = true :=
  ⟨runs_of (by decide), by decide, by decide, runs_of (by decide), by decide, by decide, runs_of (by decide), by decide⟩

/-- A library or dispatch block at the end of the ASM home, and a program that calls an entry of its library. -/
def q1 (pc : Word) (x : AsmU) (ws : List Word) : State :=
  let s := { b1 [] 1 { x with lib := true } with ctxs := [(3, { ctx [(1, 0x3FFF80), (31, 0x400)] with pc := pc })] }
  setWords (setWords s 0x04003FFF80 ws) 0x0800000000 [0, 192]
def estBlk (w25 w27 w29 : Word) : List Word :=
  [0x10000000, 1, 0x13FFFF, 0x53C40, 0x10001, 1, 1, 1, 1, 1, 1, 0, 65536, 1, 1, 1, 0, 0, 0, 0x1020000, 0x77F40, 1, 0, 0, 0, w25, 0, w27, 0, w29]
def dspBlk : List Word :=
  [0x10000000, 1, 0x13FFFF, 0, 900 * 65536 + 192, 0x00810000, 0, 0, 0x10100, 0, 0x41, 131072, 0, 0x40000000, 1, 1, 1, 1, 1, 1]

theorem work_fits {l : List Nat} (h : l.sum ≤ 0x100000) : workNeed l ≤ 0x13FFFF := by
  unfold workNeed
  have := (Config.workMore l.sum).isLt
  omega

theorem lib_open {s : State} {blk h : Nat} {n : Bool} (h1 : libOk s 0x30000 0x10000 = true) (h2 : libBad s blk = none)
    (h3 : handleBusy s h = false) (h4 : snapLocked s = true) (h5 : (blkW s blk 2).toNat = 0x13FFFF)
    (h6 : (netSizes s blk).sum ≤ 0x100000) : libRefusal s blk h n = none := by
  have := work_fits h6
  simp only [libRefusal, h1, h2, h3, h4, h5]
  simp [this]

/-- `LibraryCallsReturnTheirStatus`: the first three entries, each with a block that no check refuses and one that a check refuses; a
calibration that is active and one that is not. -/
theorem witness_library :
    let s (x : AsmU) (pc w27 : Word) := q1 pc x (estBlk 1 w27 0)
    let r := s {} 0x30000 0
    engReady r .asm = some 3 ∧ (∀ j < 32, Near r .asm false (0x3FFF80 + 4 * j) 4)
    ∧ (rdG (getCtx r 3) 1).toNat = 0x3FFF80 ∧ r.asm.copying = none
    ∧ libRefusal r 0x3FFF80 ((blkW r 0x3FFF80 26).field 0 16) true = none ∧ libRefusal r 0x3FFF80 0 true = none
    ∧ libRefusal (withF r [(0x14, 8, 0)]) 0x3FFF80 0 true = some (0x21, 0)
    ∧ ((blkW r 0x3FFF80 29).field 24 8 = 0 ∧ blkW r 0x3FFF80 25 ≠ 0
      ∧ (getWork r 0x3FFF80).accSnap = fGet r 0x14 7 ∧ (getWork r 0x3FFF80).accStatus < 2)
    ∧ libRefusal (s {} 0x30010 0x200) 0x3FFF80 ((blkW (s {} 0x30010 0x200) 0x3FFF80 27).field 16 16) false = none
    ∧ keptCount r 0x3FFF80 < 2
    ∧ ((blkW (q1 0x30010 {} (estBlk 1 0 0xFF000000)) 0x3FFF80 29).field 24 8 ≠ 0
      ∧ (getWork { q1 0x30010 {} (estBlk 1 0 0xFF000000) with asm := { lib := true, work := [(1, { calModel := 7 })] } } 0x3FFF80).calModel
          ≠ fPart (q1 0x30010 {} (estBlk 1 0 0xFF000000)) 0x14 6 0 16) :=
  ⟨by decide, near_of (by decide), by decide, by decide,
    lib_open (by decide +kernel) (by decide +kernel) (by decide +kernel) (by decide +kernel) (by decide +kernel) (by decide +kernel),
    lib_open (by decide +kernel) (by decide +kernel) (by decide +kernel) (by decide +kernel) (by decide +kernel) (by decide +kernel),
    by decide +kernel, by decide,
    lib_open (by decide +kernel) (by decide +kernel) (by decide +kernel) (by decide +kernel) (by decide +kernel) (by decide +kernel),
    by decide, by decide⟩

theorem dsp_open {s x : State} {blk : Nat} (h1 : libOk s 0x2C000 0x4000 = true) (h2 : dspParam s blk = none)
    (h3 : handleBusy s ((blkW s blk 27).field 0 16) = false) (h4 : snapLocked s = true) (h5 : (blkW s blk 2).toNat = 0x13FFFF)
    (h6 : (dspSizes s blk).sum ≤ 0x100000) (h7 : libSpan false (fcAddr s blk) 32 s = .ok x ()) (h8 : fcCovers x blk = true) :
    dspRefusal s blk = .ok x none := by
  have := work_fits h6
  simp only [dspRefusal, h1, h2, h3, h4, h5, h7, h8, Lib.bind]
  simp [this]

/-- ASM at the dispatch entry, with a forecast that begins at the first step and covers the horizon. -/
def d1 : State := setWords (q1 0x2C000 {} dspBlk) 0x0400010000 [0x50000000, 0, 0]

/-- The same: the dispatch entry. -/
theorem witness_dispatch : ∃ x, dspRefusal d1 0x3FFF80 = .ok x none :=
  ⟨_, dsp_open (by decide +kernel) (by decide +kernel) (by decide +kernel) (by decide +kernel) (by decide +kernel) (by decide +kernel) rfl
    (by decide +kernel)⟩

/-- Objects in solver memory, 512 bytes apart: vectors of 1 and 2 rows, a destination, dense matrices, a Cholesky factor, destinations
of factors, a dense matrix, a sparse matrix, an ID map. -/
def obj (i : Nat) : Nat := 0x1000 + 16 * i
def svMem : State :=
  let put (s : State) (i : Nat) (ws : List Word) : State := setWords s (objAddr (obj i)) ws
  let s := withF (on State.reset) [(0x16, 1, 1)]
  let s := put s 1 [0x4100, 1, 1, 0, 0, 0, 0, 0, 4]
  let s := put s 2 [0x4100, 2, 1, 0, 0, 0, 0, 0, 3, 5]
  let s := put s 3 [0x4100, 1, 1]
  let s := put s 4 [0x4000, 1, 1, 0, 0, 0, 0, 0, 0x01000000]
  let s := put s 5 [0x4000, 1, 1, 0, 0, 0, 0, 0, 5]
  let s := put s 6 [0x4300, 1, 1, 0, 0, 0, 0, 0, 0x40000000]
  let s := put s 7 [0x4200, 1, 1]
  let s := put s 8 [0x4400, 1, 1]
  let s := put s 9 [0x4000, 1, 1, 0, 0, 0, 0, 0, 7]
  let s := put s 10 [0x0100, 1, 1, 1, 0, 0, 0, 0, 0, 1, 0, 0x01000000]
  let s := put s 11 [0x4500, 1, 0, Word.ofN (obj 10), 1, 0, 0, 0, 7]
  let s := put s 12 [0x4100, 1, 1, 0, 0, 0, 0, 0, 0]
  { s with solv := { s.solv with jobs := [(63, { state := 3, desc := [0xFF, 0xFF, 0x13, 0x10] ++ List.replicate 44 0 })] } }

/-- The job whose next macro-op lies at the end of the work area. -/
def rj : JobRun :=
  { handle := 63, pc := 1, tau := 1, delta := 1, sreg := [(1, { m := 3 }), (2, { m := 4 })], seen := (List.range 13).map obj }
def sv (op mod_ : Nat) (a b d : Nat) : State :=
  { setWords svMem 0x08027FFFF0 [Word.ofN (op * 2 ^ 24 + mod_ * 2 ^ 16 + 0x1230), Word.ofN a, Word.ofN b, Word.ofN d] with
    solv := { svMem.solv with run := some rj } }

/-- `Sequences` as a test. -/
def seqB (s : State) (n : Nat) : Bool :=
  let r := rj
  s.solv.run == some r && unitOn s 0x16 && !s.pwr.asleep &&
  decide (r.steps < if natAt (jobDesc s) 8 4 = 0 then (fGet s 0x16 4).toNat else natAt (jobDesc s) 8 4) &&
  inWork (objAddr (natAt (jobDesc s) 0 3) + 16 * r.pc) 16 && domainOn s 1 && s.mem.ecc.isEmpty &&
  decide ((fetchOp s).op = n ∧ 1 ≤ n ∧ n ≤ 0x10) && !opReserved (fetchOp s)

theorem seq_of {s : State} {n : Nat} (h : seqB s n = true) : Sequences s rj (fetchOp s) n := by
  simp only [seqB, Bool.and_eq_true, beq_iff_eq, decide_eq_true_eq, Bool.not_eq_true'] at h
  refine ⟨h.1.1.1.1.1.1.1.1, h.1.1.1.1.1.1.1.2, h.1.1.1.1.1.1.2, h.1.1.1.1.1.2, h.1.1.1.1.2, h.1.1.1.2, ?_, rfl, h.1.2, h.2⟩
  intro e he
  simp [List.isEmpty_iff.mp h.1.1.2] at he

/-- `SolverRunsItsJobsAndLanes`: a job that can start, one that cannot for want of lanes or of a valid descriptor; one that ends. -/
def sj (j : Job) (lanes : Word) : State :=
  let s := withF svMem [(0x16, 7, lanes)]
  { s with solv := { s.solv with jobs := [(63, j)] } }
def jQ (b3 : Byte) : Job := { state := 2, desc := [0xFF, 0xFF, 0x13, b3] ++ List.replicate 44 0 }
theorem witness_jobs :
    (let s := sj (jQ 0x10) 0x100;
      unitOn s 0x16 = true ∧ s.pwr.asleep = false ∧ fBit s 0x16 1 0 = true ∧ s.solv.run = none ∧ nextJob s = some (63, jQ 0x10)
      ∧ groupsActive s ≠ 0 ∧ descOk (jQ 0x10).desc = true)
    ∧ groupsActive (sj (jQ 0x10) 0) = 0 ∧ nextJob (sj (jQ 0x10) 0) = some (63, jQ 0x10)
    ∧ descOk (jQ 0x20).desc = false ∧ nextJob (sj (jQ 0x20) 0x100) = some (63, jQ 0x20)
    ∧ Sequences (sv 14 0 0 0 0) rj (fetchOp (sv 14 0 0 0 0)) 14
    ∧ (let s := sv 14 0 0 0 0
      (getJob s 63).isSome = true ∧ pubPair s 0 = (0, 0) ∧ pubPair s 1 = (0, 0) ∧ rj.stores = []) :=
  ⟨by decide, by decide, by decide, by decide, by decide, seq_of (by decide), by decide⟩

/-- `ScalarMacroOpsComputeTheirResult`: a scalar macro-op with each of its modes, a zero and a divisor that is not zero; a vector with itself and without a second one. -/
theorem witness_scalar :
    (∀ m < 9, Sequences (sv 12 m 7 0 0) rj (fetchOp (sv 12 m 7 0 0)) 12 ∧ (fetchOp (sv 12 m 7 0 0)).mod_ = m)
    ∧ (getS (sv 12 3 0 0 0) (fetchOp (sv 12 3 0 0 0)).sb).m ≠ 0
    ∧ Sequences (sv 11 0 1 1 0) rj (fetchOp (sv 11 0 1 1 0)) 11 ∧ 0 < (fetchOp (sv 11 0 1 1 0)).w2.toInt
    ∧ (fetchOp (sv 11 0 1 1 0)).w2.toInt ≤ (fetchOp (sv 11 0 1 1 0)).w1.toInt
    ∧ (∀ m < 5, Sequences (sv 13 m 7 0 0) rj (fetchOp (sv 13 m 7 0 0)) 13 ∧ (fetchOp (sv 13 m 7 0 0)).mod_ = m)
    ∧ (∀ m < 4, Sequences (sv 10 m (obj 2) (obj 2) 0) rj (fetchOp (sv 10 m (obj 2) (obj 2) 0)) 10
      ∧ (fetchOp (sv 10 m (obj 2) (obj 2) 0)).mod_ = m ∧ (fetchOp (sv 10 m (obj 2) (obj 2) 0)).b ≠ 0)
    ∧ input (stepped (sv 10 2 (obj 2) (obj 2) 0) rj) (obj 2) isVecKind = .ok (stepped (sv 10 2 (obj 2) (obj 2) 0) rj) ()
    ∧ Sequences (sv 10 0 (obj 2) 0 0) rj (fetchOp (sv 10 0 (obj 2) 0 0)) 10 ∧ (fetchOp (sv 10 0 (obj 2) 0 0)).b = 0 := by
  have a : ∀ m < 9, seqB (sv 12 m 7 0 0) 12 = true ∧ (fetchOp (sv 12 m 7 0 0)).mod_ = m := by decide
  have b : ∀ m < 5, seqB (sv 13 m 7 0 0) 13 = true ∧ (fetchOp (sv 13 m 7 0 0)).mod_ = m := by decide
  have c : ∀ m < 4, seqB (sv 10 m (obj 2) (obj 2) 0) 10 = true ∧ (fetchOp (sv 10 m (obj 2) (obj 2) 0)).mod_ = m
      ∧ (fetchOp (sv 10 m (obj 2) (obj 2) 0)).b ≠ 0 := by decide
  exact ⟨fun m h => ⟨seq_of (a m h).1, (a m h).2⟩, by decide, seq_of (by decide), by decide, by decide,
    fun m h => ⟨seq_of (b m h).1, (b m h).2⟩, fun m h => ⟨seq_of (c m h).1, (c m h).2⟩, rfl, seq_of (by decide), by decide⟩

/-- An object that the job has read or that it may write. -/
def opened (s : State) (x : Nat) : Prop := input (stepped s rj) x isVecKind = .ok (stepped s rj) ()

/-- `ArrayMacroOpsWriteTheirDestination`: the sum with and without a second vector, the clip to bounds. -/
theorem witness_axpy_clip :
    (let s := sv 8 0 (obj 1) 0 (obj 3)
      let t := sv 8 0 (obj 1) (obj 12) (obj 3)
      Sequences s rj (fetchOp s) 8 ∧ opened s (obj 1) ∧ (fetchOp s).b = 0 ∧ output (stepped s rj) (obj 3) isVecKind = .ok (stepped s rj) ()
      ∧ oRows s (obj 1) = oRows s (obj 3) ∧ Sequences t rj (fetchOp t) 8 ∧ opened t (obj 12) ∧ oRows t (obj 12) = oRows t (obj 3)
      ∧ outOf 32 ((((Q.scale 4 0).mul (getS s 1).val).add {}).word (oExp s (obj 3))) = false)
    ∧ (let s := sv 9 0 (obj 1) (obj 2) (obj 3)
      Sequences s rj (fetchOp s) 9 ∧ opened s (obj 1) ∧ opened s (obj 2) ∧ output (stepped s rj) (obj 3) isVecKind = .ok (stepped s rj) ()
      ∧ oRows s (obj 2) = 2 * oRows s (obj 3)
      ∧ outOf 32 ((((Q.scale 4 0).max (Q.scale 3 0)).min (Q.scale 5 0)).word (oExp s (obj 3))) = false) :=
  ⟨⟨seq_of (by decide), rfl, by decide, rfl, by decide, seq_of (by decide), rfl, by decide, by decide⟩,
    ⟨seq_of (by decide), rfl, rfl, rfl, by decide, by decide⟩⟩

/-- A QR factorisation of an object that may be read into one that may be written ends well, whatever its free words. -/
theorem qr_ends (o : MacroOp) (s : State) (a : input s o.a (· == 0x40) = .ok s ()) (d : output s o.d (· == 0x44) = .ok s ())
    (h : ¬(oRows s o.a < oCols s o.a ∨ oRows s o.d ≠ oRows s o.a ∨ oCols s o.d ≠ oCols s o.a)) :
    ∃ t, opFactQr o s = .ok t () ∧ t.solv.run.isSome = true := by
  simp only [opFactQr, a, d, MRes.bind, if_neg h]
  exact ⟨_, rfl, rfl⟩

/-- The same: each of the other macro-ops on objects ends well on some operands and fails on others. -/
theorem witness_array_ops :
    (∀ e ∈ [(1, opFactLdl, sv 1 0 (obj 10) (obj 12) (obj 7)), (2, opFactChol, sv 2 0 (obj 4) 0 (obj 6)), (3, opFactQr, sv 3 0 (obj 9) 0 (obj 8)),
        (4, opSolveTri, sv 4 0 (obj 6) (obj 1) (obj 3)), (5, opSchur, sv 5 0 (obj 6) (obj 4) (obj 5)), (6, opGemm, sv 6 3 (obj 4) (obj 5) (obj 5)),
        (7, opSpmv, sv 7 1 (obj 10) (obj 1) (obj 3)), (15, opAgLd, sv 15 191 (obj 1) 0 (obj 11)), (16, opAgSt, sv 16 0 (obj 1) 0 (obj 11))],
      Sequences e.2.2 rj (fetchOp e.2.2) e.1 ∧ ∃ t, e.2.1 (fetchOp e.2.2) (stepped e.2.2 rj) = .ok t () ∧ t.solv.run.isSome = true)
    ∧ ∀ e ∈ [(1, opFactLdl), (2, opFactChol), (3, opFactQr), (4, opSolveTri), (5, opSchur), (6, opGemm), (7, opSpmv), (15, opAgLd), (16, opAgSt)],
      Sequences (sv e.1 0 0 0 0) rj (fetchOp (sv e.1 0 0 0 0)) e.1
      ∧ ∃ t w, e.2 (fetchOp (sv e.1 0 0 0 0)) (stepped (sv e.1 0 0 0 0) rj) = .fail t w ∧ t.solv.run.isSome = true := by
  refine ⟨?_, ?_⟩
  · simp only [List.forall_mem_cons, List.not_mem_nil, false_imp_iff, implies_true, and_true]
    refine ⟨⟨seq_of (by decide), _, rfl, by decide⟩, ⟨seq_of (by decide), _, rfl, by decide⟩, ⟨seq_of (by decide), qr_ends _ _ rfl rfl (by decide)⟩,
      ⟨seq_of (by decide), _, rfl, by decide⟩, ⟨seq_of (by decide), _, rfl, by decide⟩, ⟨seq_of (by decide), _, rfl, by decide⟩,
      ⟨seq_of (by decide), _, rfl, by decide⟩, ⟨seq_of (by decide), _, rfl, by decide⟩, ⟨seq_of (by decide), _, rfl, by decide⟩⟩
  · simp only [List.forall_mem_cons, List.not_mem_nil, false_imp_iff, implies_true, and_true]
    refine ⟨⟨seq_of (by decide), _, _, rfl, by decide⟩, ⟨seq_of (by decide), _, _, rfl, by decide⟩, ⟨seq_of (by decide), _, _, rfl, by decide⟩,
      ⟨seq_of (by decide), _, _, rfl, by decide⟩, ⟨seq_of (by decide), _, _, rfl, by decide⟩, ⟨seq_of (by decide), _, _, rfl, by decide⟩,
      ⟨seq_of (by decide), _, _, rfl, by decide⟩, ⟨seq_of (by decide), _, _, rfl, by decide⟩, ⟨seq_of (by decide), _, _, rfl, by decide⟩⟩

/-- `SolverRunsItsJobsAndLanes`: the last group with its spare free and used, with no test and with one of its last lane. -/
def ln (test : Tbl Nat) (used : Word) : State := { withF (on State.reset) [(0x16, 9, used)] with solv := { test := test, rot := [(63, 15)] } }
theorem witness_lanes :
    (unitOn (ln [] 0) 0x16 = true ∧ groupLost (ln [] 0) 63 = false ∧ Tbl.find (ln [] 0).solv.lane 63 ≠ some 16 ∧ spareUsed (ln [] 0) 63 = false
      ∧ spareUsed (ln [] 0x80000000) 63 = true ∧ fPart (ln [] 0) 0x16 5 0 16 ≠ 0 ∧ Tbl.find (ln [] 0).solv.test 63 = none)
    ∧ Tbl.find (ln [(63, 16)] 0).solv.test 63 = some 16 ∧ spareUsed (ln [(63, 16)] 0) 63 = false
    ∧ Tbl.find (ln [(63, 16)] 0).solv.lane 63 ≠ some (16 - 1) := by decide

/-! ### Further witnesses: the clauses at their limits -/

/-- `SnapshotsAndAdvancesLockTheModel`: a snapshot that is due and was taken, one that is not due, a copy with a value in progress. -/
theorem witness_snapshot_rest :
    (b1 [] 0 { lastDue := some 0 }).asm.lastDue = some (0 * fPart (b1 [] 0 {}) 0x14 2 0 16)
    ∧ fPart (withF (b1 [] 0 {}) [(0x14, 2, 0)]) 0x14 2 0 16 = 0
    ∧ (b1 [] 1 { copying := some { raw := [(0x80000000, true)] } }).asm.copying = some { raw := [(0x80000000, true)] }
    ∧ (b1 [] 1 {}).mem.ecc = [] ∧ (b1 [] 1 { copying := some {} }).asm.copying ≠ none ∧ (b1 [] 1 { adv := some {} }).asm.adv ≠ none := by decide

/-- Blocks whose last word lies beyond the solver memory, and with an entry as wide as can be. -/
def far_ : Block := { vb with dest := 0x0802FFFFF0 }
def wide : State :=
  setWords (withF (b3 { mat := some { mb with recs := [0] } }) [(0x14, 0xB, 0x100000), (0x14, 0xC, 8)]) 0x0800100000 [0, 0, 0, 0, 0, 0x80000000, 0, 0]

/-- `AssemblyWritesItsBlocks`: no header, a block that does not fit, one that is too wide, one that is not open. -/
theorem witness_block_rest :
    blockOf (head b2 0) = none
    ∧ (let s := b3 { vec := some far_ }; reg s 3 3 = 1 ∧ 0x0803000000 < far_.dest + 4 * (8 + far_.rows))
    ∧ reg wide 3 0 = 0 ∧ ([0].map (stageRec wide)).any (fun e => decide (2 ^ 63 ≤ entBound e)) = true
    ∧ mb.dest + 4 * (8 + (mb.cols + 1 + 2 * 1)) ≤ 0x0803000000 := by decide

/-- The same: no state variable, a position outside the blocks, a value outside its interval, a full staging area, a copy and an advance
in progress. -/
theorem witness_assembly_rest :
    stateCol (setW (b4 1 openBoth) 0x0400080018 0xFFFFFFFF) 0 = none
    ∧ inBlock (b4 1 openBoth) { row := 16 } = false ∧ inBlock (b4 1 openBoth) { row := 15 } = true
    ∧ (fGet (b4 1 { openBoth with staged := 12 }) 0x14 0xD).toNat < 12 + 1
    ∧ (b4 1 { openBoth with copying := some {} }).asm.copying ≠ none ∧ fBit (withF (b4 1 openBoth) [(0x15, 0x16, 1)]) 0x15 0x16 0 = true
    ∧ injection (b4 1 {}) 3 0 = none ∧ (counts (b4 1 {})).k ≤ (reg (b4 1 {}) 3 4).toNat
    ∧ (b4 1 {}).mem.ecc = [] ∧ (∀ x ∈ [0, 1, 2, 3, 4, 5], accessCause (b4 1 {}) 0x14 false (linAddr (b4 1 {}) x) 4 = none) := by decide

/-- `SnapshotsAndAdvancesLockTheModel`: an address of the vector beyond 40 bits, and each refusal of an advance. -/
theorem witness_transit_rest :
    (let s := withF (b1 [(2, 0xFFFFFFF0), (3, 0x100)] 1 {}) [(0x15, 1, 1)]; trnRefusal s = 0 ∧ 256 ≤ (reg s 3 (2 + 1)).toNat)
    ∧ trnRefusal (t1 1 0 {}) = 1 ∧ trnRefusal (withF (t1 1 1 {}) [(0x15, 0x16, 1)]) = 2
    ∧ trnRefusal { t1 1 1 {} with gate := [{ target := 0x14 * 64, change := .payload 3 [] }] } = 3 ∧ trnRefusal (t1 0 1 {}) = 4 := by decide

/-- A library block with its staging area in solver memory. -/
def q2 (pc w27 : Word) : State := withF (q1 pc {} (estBlk 1 w27 0)) [(0x14, 0xB, 0x100000), (0x14, 0xC, 8), (0x14, 0xD, 1000)]
def d2 : State := withF d1 [(0x14, 0xB, 0x100000), (0x14, 0xC, 8), (0x14, 0xD, 1000)]

/-- What `LibraryRunsComeToTheirEnd` asks of the memory. -/
def fitsB (s : State) : Bool :=
  s.mem.ecc.isEmpty && domainOn s 1 && nearWords s .asm 0x3FFF80 32 && (1 ≤ (blkW s 0x3FFF80 1).field 0 24 : Bool) &&
    decide ((blkW s 0x3FFF80 1).field 0 24 + (blkW s 0x3FFF80 2).toNat ≤ 0x140000) && decide (0x0800000020 ≤ stageAddr s 0) &&
    decide (stageAddr s (fGet s 0x14 0xD).toNat ≤ 0x0802800000)

/-- `LibraryRunsComeToTheirEnd`: a block for each entry whose work region ends at the end of the memory that ASM may write. -/
theorem witness_library_runs :
    (fitsB (q2 0x30000 0) && fitsB (q2 0x30010 0x200) && fitsB d2) = true
    ∧ engReady (q2 0x30000 0) .asm = some 3 ∧ (getCtx (q2 0x30000 0) 3).pc = 0x30000 ∧ (q2 0x30000 0).asm.copying = none
    ∧ libRefusal (q2 0x30000 0) 0x3FFF80 ((blkW (q2 0x30000 0) 0x3FFF80 26).field 0 16) true = none
    ∧ engReady (q2 0x30010 0x200) .asm = some 3 ∧ (getCtx (q2 0x30010 0x200) 3).pc = 0x30010
    ∧ libRefusal (q2 0x30010 0x200) 0x3FFF80 ((blkW (q2 0x30010 0x200) 0x3FFF80 27).field 16 16) false = none
    ∧ engReady d2 .asm = some 3 ∧ (getCtx d2 3).pc = 0x2C000 ∧ d2.asm.copying = none ∧ (∃ x, dspRefusal d2 0x3FFF80 = .ok x none)
    ∧ accessCause d2 0x14 false (fcRow d2 0x3FFF80 0) 4 = none
    ∧ accessCause d2 0x14 false (fcRow d2 0x3FFF80 0 + 4 * (4 + 2 * (given d2 (fcAddr d2 0x3FFF80 + 8)).field 0 8) * dspSteps d2 0x3FFF80 - 4) 4 = none := by
  refine ⟨by decide +kernel, by decide, by decide, by decide,
    lib_open (by decide +kernel) (by decide +kernel) (by decide +kernel) (by decide +kernel) (by decide +kernel) (by decide +kernel), by decide, by decide,
    lib_open (by decide +kernel) (by decide +kernel) (by decide +kernel) (by decide +kernel) (by decide +kernel) (by decide +kernel), by decide, by decide, by decide,
    ⟨_, dsp_open (by decide +kernel) (by decide +kernel) (by decide +kernel) (by decide +kernel) (by decide +kernel) (by decide +kernel) rfl
      (by decide +kernel)⟩, by decide +kernel, by decide +kernel⟩

/-- `SolverRunsItsJobsAndLanes`: no job that waits, SOLV in sleep; a job with a result record at the end of the work area, one that publishes a
pair, and one whose pair does not match. -/
def pubJob (rec_ p q : Nat) : State :=
  let d : List Byte := [0xFF, 0xFF, 0x13, 0x10] ++ leBytes 4 rec_ ++ List.replicate 8 0 ++ leBytes 4 p ++ leBytes 4 q ++ List.replicate 24 0
  { sv 14 0 0 0 0 with solv := { (sv 14 0 0 0 0).solv with jobs := [(63, { state := 3, desc := d })] } }

theorem witness_job_rest :
    nextJob (withF svMem [(0x16, 7, 0x100)]) = none ∧ { sj (jQ 0x10) 0x100 with pwr := { State.reset.pwr with asleep := true } }.pwr.asleep = true
    ∧ Sequences (pubJob 0x13FFFE 0 0) rj (fetchOp (pubJob 0x13FFFE 0 0)) 14
    ∧ inWork (objAddr 0x13FFFE) 64 = true ∧ inWork (objAddr 0x13FFFF) 64 = false ∧ pubPair (pubJob 0x13FFFE 0 0) 0 = (0, 0)
    ∧ pubOk (pubJob 0x13FFFE 0 0) (0, 0) = true
    ∧ (let s := pubJob 0 (obj 1) (obj 3); pubPair s 0 = (obj 1, obj 3) ∧ pubOk s (pubPair s 0) = true ∧ pubPair s 1 = (0, 0))
    ∧ (let s := pubJob 0 (obj 1) (obj 2); Sequences s rj (fetchOp s) 14 ∧ pubOk s (pubPair s 0) = false) :=
  ⟨by decide, rfl, seq_of (by decide), by decide, by decide, by decide, by decide, by decide, seq_of (by decide), by decide⟩

/-- A vector of 2^17 words of the largest magnitude would overflow the accumulator; two words show the test of the sum itself. -/
theorem acc_limits : accFits [2 ^ 79 - 1] = true ∧ accFits [2 ^ 79 - 1, 1] = false ∧ accFits [-(2 ^ 79)] = true ∧ accFits [-(2 ^ 79), -1] = false := by
  decide

/-- Whether the products and the squares of a vector fit the accumulator. -/
def fitsDot (s : State) : Bool × Bool :=
  let u := vecOf s (obj 2)
  (accFits (((u.zip u).map (fun e => e.1.mul e.2)).map (fun q => q.word 0)), accFits ((u.map (fun q => q.mul q)).map (fun q => q.word 0)))

/-- `ScalarMacroOpsComputeTheirResult`: the divisor 0 with each sign, an undefined function, policy and comparison, norms that are defined and not, vectors of
unlike length, a job at its step limit, another command. -/
theorem witness_scalar_rest :
    (∃ y, input (stepped (sv 10 2 (obj 2) (obj 2) 0) rj) (obj 2) isVecKind = .ok y ())
    ∧ (let s := sv 10 2 (obj 2) (obj 1) 0; Sequences s rj (fetchOp s) 10 ∧ oRows s (obj 2) ≠ oRows s (obj 1))
    ∧ (let s := sv 10 4 (obj 2) (obj 2) 0; Sequences s rj (fetchOp s) 10 ∧ 3 < (fetchOp s).mod_)
    ∧ (let s := sv 12 9 7 0 0; Sequences s rj (fetchOp s) 12 ∧ 8 < (fetchOp s).mod_)
    ∧ (let s := sv 13 5 7 0 0; Sequences s rj (fetchOp s) 13 ∧ 4 < (fetchOp s).mod_)
    ∧ (let s := sv 11 0 0 1 0; Sequences s rj (fetchOp s) 11 ∧ ¬ ((fetchOp s).w2.toInt ≤ (fetchOp s).w1.toInt))
    ∧ (let s := sv 10 2 (obj 2) (obj 2) 0; (fitsDot s).1 = true ∧ (fitsDot s).2 = true)
    ∧ (let s := { sv 12 0 0 0 0 with solv := { (sv 12 0 0 0 0).solv with run := some { rj with steps := 1000000 } } };
      s.solv.run = some { rj with steps := 1000000 } ∧ unitOn s 0x16 = true ∧ s.pwr.asleep = false
      ∧ (if natAt (jobDesc s) 8 4 = 0 then (fGet s 0x16 4).toNat else natAt (jobDesc s) 8 4) ≤ 1000000) :=
  ⟨⟨_, rfl⟩, ⟨seq_of (by decide), by decide⟩, ⟨seq_of (by decide), by decide⟩, ⟨seq_of (by decide), by decide⟩, ⟨seq_of (by decide), by decide⟩,
    ⟨seq_of (by decide), by decide⟩, by decide, by decide⟩
def opened' (s : State) (x : Nat) (kind : Nat → Bool) : Prop := ∃ y, input (stepped s rj) x kind = .ok y ()

/-- The kinds, the sizes and the accumulators that the clauses of `ArrayMacroOpsWriteTheirDestination` ask for. -/
theorem witness_array_rest :
    (let s := sv 6 3 (obj 4) (obj 5) (obj 5);
      Sequences s rj (fetchOp s) 6 ∧ opened' s (obj 4) (· == 0x40) ∧ output (stepped s rj) (obj 5) (· == 0x40) = .ok (stepped s rj) ()
      ∧ opShape s (obj 4) true = (1, 1) ∧ opShape s (obj 5) true = (1, 1) ∧ oRows s (obj 5) = 1 ∧ oCols s (obj 5) = 1
      ∧ accFits [((opAt s (obj 4) true 0 0).mul (opAt s (obj 5) true 0 0)).word (oExp s (obj 4) + oExp s (obj 5))] = true)
    ∧ (let s := sv 7 1 (obj 10) (obj 1) (obj 3);
      Sequences s rj (fetchOp s) 7 ∧ opened' s (obj 10) isSparseKind ∧ output (stepped s rj) (obj 3) isVecKind = .ok (stepped s rj) ()
      ∧ sparseOk s (obj 10) = true ∧ oRows s (obj 1) = (opShape s (obj 10) true).2 ∧ oRows s (obj 3) = (opShape s (obj 10) true).1)
    ∧ (∀ m < 4, let s := sv 4 m (obj 6) (obj 1) (obj 3);
      Sequences s rj (fetchOp s) 4 ∧ (fetchOp s).mod_ % 4 = m ∧ oRows s (obj 1) = oRows s (obj 6) ∧ oRows s (obj 3) = oRows s (obj 6))
    ∧ (let s := sv 5 0 (obj 6) (obj 4) (obj 5);
      Sequences s rj (fetchOp s) 5 ∧ opened' s (obj 6) isFactor ∧ opened' s (obj 4) (fun k => isSparseKind k || k == 0x40)
      ∧ oRows s (obj 4) = oRows s (obj 6) ∧ oRows s (obj 5) = oCols s (obj 4) ∧ oCols s (obj 5) = oCols s (obj 4))
    ∧ (let s := sv 2 0 (obj 4) 0 (obj 6); Sequences s rj (fetchOp s) 2 ∧ opened' s (obj 4) (· == 0x40)
      ∧ output (stepped s rj) (obj 6) (· == 0x43) = .ok (stepped s rj) () ∧ oCols s (obj 4) = oRows s (obj 4) ∧ oRows s (obj 6) = oRows s (obj 4))
    ∧ (let s := sv 3 0 (obj 9) 0 (obj 8); Sequences s rj (fetchOp s) 3 ∧ opened' s (obj 9) (· == 0x40)
      ∧ output (stepped s rj) (obj 8) (· == 0x44) = .ok (stepped s rj) () ∧ oCols s (obj 9) ≤ oRows s (obj 9) ∧ oRows s (obj 8) = oRows s (obj 9)) := by
  have h : ∀ m < 4, seqB (sv 4 m (obj 6) (obj 1) (obj 3)) 4 = true ∧ (fetchOp (sv 4 m (obj 6) (obj 1) (obj 3))).mod_ % 4 = m
      ∧ oRows (sv 4 m (obj 6) (obj 1) (obj 3)) (obj 1) = oRows (sv 4 m (obj 6) (obj 1) (obj 3)) (obj 6)
      ∧ oRows (sv 4 m (obj 6) (obj 1) (obj 3)) (obj 3) = oRows (sv 4 m (obj 6) (obj 1) (obj 3)) (obj 6) := by decide
  exact ⟨⟨seq_of (by decide), ⟨_, rfl⟩, rfl, by decide⟩, ⟨seq_of (by decide), ⟨_, rfl⟩, rfl, by decide⟩,
    fun m k => ⟨seq_of (h m k).1, (h m k).2⟩, ⟨seq_of (by decide), ⟨_, rfl⟩, ⟨_, rfl⟩, by decide⟩, ⟨seq_of (by decide), ⟨_, rfl⟩, rfl, by decide⟩,
    ⟨seq_of (by decide), ⟨_, rfl⟩, rfl, by decide⟩⟩
/-- The same: a sparse matrix of one entry on its diagonal, a factor with room for it, a given order, no pivot log. -/
theorem witness_ldl :
    let s := sv 1 0 (obj 10) (obj 12) (obj 7)
    Sequences s rj (fetchOp s) 1 ∧ (∃ y, input (stepped s rj) (obj 10) isSparseKind = .ok y ()) ∧ (∃ y, input (stepped s rj) (obj 12) isVecKind = .ok y ())
    ∧ oCols s (obj 10) = oRows s (obj 10) ∧ sparseOk s (obj 10) = true
    ∧ (List.range 1).any (fun j => (colOf s (obj 10) j).any (fun x => x.1 < j)) = false ∧ obj 7 ≠ 0 ∧ inWork (objAddr (obj 7)) 32 = true
    ∧ oKind s (obj 7) = 0x42 ∧ oRows s (obj 12) = oRows s (obj 10)
    ∧ (List.range 1).all ((List.range 1).map (oNat s (obj 12))).contains = true ∧ 1 * (1 - 1) / 2 ≤ (oHdr s (obj 7) 2).toNat
    ∧ inWork (objAddr (obj 7)) (32 + (ldlOfs 1 0).2.2.2.2.2 + padW 1) = true ∧ pivLog s = 0 :=
  ⟨seq_of (by decide), ⟨_, rfl⟩, ⟨_, rfl⟩, by decide, by decide, by decide, by decide, by decide, by decide, by decide, by decide, by decide,
    by decide, by decide⟩

/-- The same, `ScalarMacroOpsComputeTheirResult`: a valid map of one identifier; on a unit that follows nobody, and on a follower. -/
theorem witness_afterglow :
    (let s := sv 15 191 (obj 1) 0 (obj 11);
      Sequences s rj (fetchOp s) 15 ∧ s.mem.ecc = [] ∧ (∃ y, input (stepped s rj) (obj 1) isVecKind = .ok y ())
      ∧ (∃ y, input (stepped s rj) (obj 11) (· == 0x45) = .ok y ())
      ∧ (∃ y, input (stepped s rj) ((oHdr s (obj 11) 3).field 0 24) isSparseKind = .ok y ()) ∧ idMapOk s (fetchOp s) = true ∧ (fetchOp s).mod_ ≤ 191
      ∧ ∀ i < 16, agValid s i = false ∨ agClass s i ≠ jobClass s)
    ∧ (let s := sv 15 192 (obj 1) 0 (obj 11); Sequences s rj (fetchOp s) 15 ∧ 191 < (fetchOp s).mod_)
    ∧ (let s := sv 16 0 (obj 1) 0 (obj 11);
      Sequences s rj (fetchOp s) 16 ∧ idMapOk s (fetchOp s) = true ∧ follower s = false ∧ 127 * 65536 ≥ 68 + 8 * 1
      ∧ follower { s with twin := { s.twin with role := .standby } } = true) := by
  refine ⟨⟨seq_of (by decide), by decide, ⟨_, rfl⟩, ⟨_, rfl⟩, ⟨_, rfl⟩, by decide, by decide, by decide⟩, ⟨seq_of (by decide), by decide⟩,
    seq_of (by decide), by decide, by decide, by decide, ?_⟩
  decide

/-- `SolverRunsItsJobsAndLanes`: a test that is due and one that is not, the lane that was spared, a unit that is off. -/
theorem witness_lane_rest :
    100 * fPart (ln [] 0) 0x16 5 0 16 ≤ { ln [] 0 with clk := { State.reset.clk with tick := BitVec.ofNat 48 (100 * fPart (ln [] 0) 0x16 5 0 16) } }.clk.tick.toNat
    ∧ (ln [] 0).clk.tick.toNat < Tbl.get (ln [] 0).solv.bistBase (ln [] 0).solv.bistAt 63 + 100 * fPart (ln [] 0) 0x16 5 0 16
    ∧ unitOn (withF State.reset [(2, 2, 0)]) 0x16 = false := by decide

end Planning

namespace Cycle

/-! ## Witnesses: cycle cores, the Meridian and stations -/

/-- Core 7 runs; its task 15 is periodic or an event task and may be in its cycle. -/
def e7 (w0 : Word) (live : Bool) (task : Task) : State :=
  let s := withF (on State.reset) [(2, 3, 0xFF), (0xB, 0x1F0, w0), (0xB, 0x1F1, 5), (0xB, 0x1F2, 0), (0xB, 0x1F3, 0x400), (0xB, 0x1F5, 1023)]
  { s with ctxs := if live then [(191, ctx [])] else []
           pwr := { s.pwr with cores := 0xFF }, evts := [(1023, 0x80000000)]
           cyc := { s.cyc with cores := [(7, { mode := .running, tasks := [(15, task)], wbuf := [{ idx := 7, task := 15 }] })] } }

/-- `TaskReleasesStartOneCycle`, `TaskReleasesStartOneCycle`: the last task of the last core. -/
theorem witness_release :
    (let s := e7 0x80000000 false { cyc := 4 };
      coreReleases s 7 = true ∧ (taskCfg s 7 15 0).tst 31 = true ∧ (taskCfg s 7 15 0).tst 30 = false
      ∧ s.clk.tick.toNat % max 1 (taskCfg s 7 15 1).toNat = (taskCfg s 7 15 2).toNat
      ∧ (getTask s 7 15).lastInst ≠ some s.clk.tick.toNat ∧ inCycle s 7 15 = false ∧ (getTask s 7 15).causes = [])
    ∧ inCycle (e7 0x80000000 true { cyc := 4 }) 7 15 = true ∧ coreReleases (e7 0x80000000 true { cyc := 4 }) 7 = true
    ∧ (let s := e7 0xC0000000 false {};
      coreReleases s 7 = true ∧ (taskCfg s 7 15 0).tst 31 = true ∧ (taskCfg s 7 15 0).tst 30 = true ∧ inCycle s 7 15 = false
      ∧ evtPending s (24 + 7) ((taskCfg s 7 15 5).field 0 10) = true ∧ (getTask s 7 15).prevRel = none ∧ (getTask s 7 15).causes = []) := by
  decide

/-- The critical task of core 7 in its cycle. -/
def e8 : State :=
  let s := withF (on State.reset) [(0xB, 4, 1)]
  { s with ctxs := [(176, ctx [])], pwr := { s.pwr with cores := 0xFF }
           cyc := { s.cyc with cores := [(7, { mode := .running })] }, pi := { s.pi with deferred := 1 } }

/-- `MeridiansSealFreezeAndPublish`: a task that is not critical, one that is, the timebase, a Meridian that waits. -/
theorem witness_meridian :
    (191 = taskCtx (e7 0x80000000 true {}) 7 15 ∧ 191 % 16 = 15 ∧ isCritical (e7 0x80000000 true {}) 7 15 = false
      ∧ 176 = taskCtx e8 7 0 ∧ isCritical e8 7 0 = true ∧ e8.pi.deferred ≠ 0)
    ∧ Runs (e7 0x80000000 true {}) (hd (.cyc 7)) 191 { word := encA 0b110101 0 0 0 1, grp := .mer }
    ∧ Runs e8 (hd (.cyc 7)) 176 { word := encA 0b110101 0 0 0 1, grp := .mer }
    ∧ (let s := fSetPart State.reset 2 0x00D 24 8 4;
      s.clk.tick.toNat % 25 = 0 ∧ criticalRuns s = false ∧ s.pi.lastFree ≠ some s.clk.tick.toNat ∧ s.pwr.asleep = false
      ∧ s.clk.refClk = true ∧ fPart s 2 0x00D 24 8 = 4) :=
  ⟨by decide, runs_of (by decide), runs_of (by decide), by decide⟩

/-- `MeridiansSealFreezeAndPublish`: a word that is forced and one that is not. -/
theorem witness_publish :
    let s : State := { State.reset with cyc := { State.reset.cyc with forces := [{ idx := 0x3FFFF, lo := 5 }] } }
    forceAt s 0x3FFFF ≠ none ∧ forceAt s 0x20000 = none := by decide

/-- `TaskReleasesStartOneCycle`: core 7 powered, committing and restarting. -/
theorem witness_core_events :
    let s (c : Core) : State :=
      let s := e7 0 false {}
      { s with cyc := { s.cyc with cores := [(7, c)] } }
    corePowered (s {}) 7 = true ∧ (s {}).pwr.asleep = false ∧ (s {}).clk.refClk = true
    ∧ (s {}).clk.tick.toNat % max 1 ((fGet (s {}) 0xB 0x00F).field 0 20) = 0
    ∧ (getCore (s { commit := some { seq := 9 } }) 7).commit = some { seq := 9 }
    ∧ (getCore (s { mode := .restarting }) 7).mode = .restarting ∧ (getCore (s { mode := .restarting }) 7).warm = false
    ∧ corePowered (s { mode := .restarting }) 7 = true := by decide

/-- Station 255 with one input word and a command open. -/
def e9 : State :=
  let s := withF (on State.reset) [(0x22, 1, 1), (0x21, 1, 0x83)]
  let x : Station := { on := true, desc := [0x70000000, 0x123, 0x456, 0x01000001, 0, 0, 0x10010000, 0], awaiting := some 7 }
  setCanState { s with stn := [(255, x)] } 7 2

/-- A CAN FD frame with the station's response. -/
def fr : CanFrame := { id := 0x456, ide := false, rtr := false, fdf := true, brs := true, esi := false, dlc := 11 }
def rsp : List Byte := [2, 255, 0, 0, 7, 0, 0, 0, 0, 0, 0, 0, 0, 0, 1, 0, 1, 2, 3, 4]
def rej : List Byte := [3, 255, 0, 0, 9, 0, 0, 0]

/-- `StationExchangesAreJudged`: the response to the open command, a rejection with a higher epoch, no response. -/
theorem witness_stations :
    stnRuns e9 = true ∧ (getStn e9 255).on = true ∧ (stnRx e9 (.can 7 fr) rsp).2 = true ∧ (getStn e9 255).awaiting = some (wordAt rsp 1)
    ∧ natAt rsp 1 1 = 255 ∧ natAt rsp 0 1 = 2 ∧ natAt rsp 2 2 = (stnStatus e9 255 3).field 0 16 ∧ natAt rsp 14 1 = (getStn e9 255).nIn
    ∧ 16 + 4 * (getStn e9 255).nIn ≤ rsp.length ∧ natAt rej 1 1 = 255 ∧ natAt rej 0 1 = 3 ∧ e9.twin.ep.toNat < (wordAt rej 1).toNat
    ∧ (stnRx e9 (.can 7 fr) rej).2 = true ∧ (getStn e9 255).awaiting ≠ none := by decide

/-- `TaskReleasesStartOneCycle`: a periodic task at its error entry, with the lower of two causes. -/
theorem witness_release_error :
    let s := withF (e7 0x80000000 false { causes := [(3, 7), (2, 9)] }) [(0xB, 0x1F4, 0x500)]
    (taskCfg s 7 15 4).field 0 20 = 0x500 ∧ (lowCause (getTask s 7 15).causes).1 = 2 ∧ coreReleases s 7 = true := by decide

/-- `StationExchangesAreJudged`: a response that answers no command, a rejection with a lower epoch, a station that is not on. -/
theorem witness_station_rest :
    natAt [2, 255, 0, 0, 8, 0, 0, 0] 0 1 = 2 ∧ (getStn e9 255).awaiting ≠ some (wordAt [2, 255, 0, 0, 8, 0, 0, 0] 1)
    ∧ (stnRx e9 (.can 7 fr) [2, 255, 0, 0, 8, 0, 0, 0]).2 = true
    ∧ (wordAt rej 1).toNat ≤ { e9 with twin := { e9.twin with ep := 9 } }.twin.ep.toNat ∧ (getStn e9 254).on = false ∧ e9.mem.ecc = [] := by decide

end Cycle

namespace Loops

/-! ## Witnesses: the closed-loop engine and the safety channel -/

/-- CLE runs with slot 511, whose program starts at `entry`; PWM channel 31 runs and starts converter 15. -/
def g1 (entry : Word) (x : Slot) (cmpa : Tbl (Option Nat)) : State :=
  let s := withF (on State.reset) [(0x10, 1, 1), (0x10, 0x17C, 0x80000000), (0x11, 0x1F1, 0x01FE0000 ||| 0x10000)]
  { setWords s (slotBase 511 + 12) [entry] with
    cle := { s.cle with slots := [(511, x)], cmpa := cmpa }, ctxs := [(39, ctx [(1, 7)])] }

/-- `LoopSlotsRunTheirLaws`: a periodic slot and one whose source has occurred, idle and running; a run past its
deadline; the last event of the last channel, and a compare value that waits. -/
theorem witness_slot_events :
    (let x : Slot := { on := true, kind := 1, trigs := 1 };
      cleTakes (g1 0 x []) = true ∧ (getSlot (g1 0 x []) 511).on = true ∧ (g1 0 x []).clk.tick.toNat % max 1 x.div = x.phase
      ∧ x.tick ≠ some (g1 0 x []).clk.tick.toNat ∧ x.run = .idle ∧ x.trigs ≠ 0
      ∧ ∀ k < 4, (slotW (g1 0 x []) 511 (4 + 3 * k)).field 29 3 ∈ [0, 2, 4, 5])
    ∧ (let x : Slot := { on := true, due := true, run := .running 7 };
      cleTakes (g1 0 x []) = true ∧ (getSlot (g1 0 x []) 511).on = true ∧ x.kind ≠ 1 ∧ x.due = true ∧ x.run ≠ .idle
      ∧ x.dl < ((g1 0 x []).clk.tick.toNat + 1) * 250 ∧ (g1 0 x []).pwr.asleep = false)
    ∧ (let s := g1 0 {} [(31, some 0xFFFFF)];
      let w := fGet s 0x11 (0x101 + 16 * 15);
      fBit s 0x10 (0x100 + 4 * 31) 31 = true ∧ domainOn s 4 = true ∧ s.pwr.asleep = false ∧ w.tst 16 = true ∧ w.field 19 5 = 31
      ∧ w.field 17 2 = (3 : BitVec 2).toNat ∧ Tbl.find s.cfg.pend 0x10 = none ∧ Tbl.get none s.cle.cmpa 31 = some 0xFFFFF
      ∧ 0xFFFFF < 2 ^ 20) := by decide

/-- `LoopSlotsRunTheirLaws`: a ready run with a program and one without; a run that has evaluated its law and one that has not. -/
theorem witness_law :
    (let s := g1 0x400 { run := .ready } [];
      slotOf s 7 = none ∧ domainOn s 4 = true ∧ s.pwr.asleep = false ∧ nextRun s = some 511 ∧ (slotW s 511 3).field 0 20 ≠ 0)
    ∧ (nextRun (g1 0 { run := .ready } []) = some 511 ∧ (slotW (g1 0 { run := .ready } []) 511 3).field 0 20 = 0
      ∧ (slotW (g1 0 { run := .ready } []) 511 19).toInt = 0 ∧ tracking (g1 0 { run := .ready } []) 511 = false)
    ∧ slotOf (g1 0x400 { run := .running 7, law := some {} } []) 7 = some 511
    ∧ (getSlot (g1 0x400 { run := .running 7, law := some {} } []) 511).law = some {}
    ∧ (getSlot (g1 0x400 { run := .running 7 } []) 511).law = none ∧ slotOf (g1 0x400 { run := .running 7 } []) 7 = some 511
    ∧ Runs (g1 0x400 { run := .running 7 } []) (hd (.cle 7)) 39 { word := encA 0b111100 5 0 3 0, grp := .law, bad := decide (3 < (3 : Reg).toNat) }
    ∧ Runs (g1 0x400 { run := .running 7 } []) (hd (.cle 7)) 39 { word := encA 0b111100 5 0 0 1, grp := .law, bad := false }
    ∧ Runs (g1 0x400 { run := .running 7, law := some {} } []) (hd (.cle 7)) 39 { word := encA 0b111100 0 1 0 2, grp := .law, bad := false }
    ∧ Runs (g1 0x400 { run := .running 7 } []) (hd (.cle 7)) 39 { word := encA 0b111100 0 1 0 2, grp := .law, bad := false }
    ∧ Runs (g1 0x400 { run := .running 7 } []) (hd (.cle 7)) 39 { word := encA 0b111100 0 0 0 3, grp := .law, bad := false } :=
  ⟨by decide, by decide, by decide, by decide, by decide, by decide, runs_of (by decide), runs_of (by decide), runs_of (by decide),
    runs_of (by decide), runs_of (by decide)⟩

/-- SAF with an image that tests SI_15 with TP_3 and pairs SI_14 with SI_15. -/
def i1 : SafImage := { mask := 0x81, si := List.replicate 15 0 ++ [0xC000], pairs := List.replicate 7 0 ++ [0x40] }
def s1 (x : Saf) (req : Word) : State :=
  { setWords (on State.reset) 0x0180070040 [req, 0x8000] with saf := { x with image := some i1 }, ctxs := [(2, ctx [])] }

/-- `SafetyCyclesCommandTheOutputs`, `SafetyCyclesCommandTheOutputs`, `SafeStateTurnsTheOutputsOff`. -/
theorem witness_safety :
    (let s := s1 { safe := false } 0xFF;
      s.saf.image = some i1 ∧ s.clk.tick.toNat % (max 1 i1.cycle * 100) = 0 ∧ s.saf.lastRel ≠ some s.clk.tick.toNat
      ∧ s.pwr.asleep = false ∧ fBit s 0x0C 2 0 = false ∧ s.saf.safe = false ∧ s.clk.refClk = true ∧ s.saf.inCycle = false)
    ∧ (s1 { safe := false, inCycle := true } 0).saf.inCycle = true
    ∧ (let s := s1 { safe := false, inCycle := true } 0xFF;
      Tbl.get 0 s.mem.ecc (0x0180070040 / 8) = 0 ∧ s.gate = [] ∧ Tbl.find s.cfg.pend 0x0C = none
      ∧ (memW s 0x0180070040).toNat < 256 ∧ (memW s 0x0180070044).toNat < 65536
      ∧ 256 ≤ (memW (s1 { safe := false, inCycle := true } 0x100) 0x0180070040).toNat)
    ∧ Runs (s1 { safe := false, inCycle := true } 0xFF) (hd .saf) 2 { word := encA 0b110101 0 0 0 1, grp := .mer }
    ∧ (let s := s1 { safe := false, monitor := some 0 } 0;
      s.saf.monitor = some 0 ∧ 0 ≤ s.clk.tick.toNat ∧ (true : Bool) ≠ s.saf.soPins.getLsbD 7 ∧ s.clk.refClk = true) :=
  ⟨by decide, by decide, by decide, runs_of (by decide), by decide⟩

/-- `SafetyInputsAndPulsesAreChecked`, `SafetyInputsAndPulsesAreChecked`: the last input, test output, pair and output. -/
theorem witness_safety_io :
    (let s := s1 { safe := false, tpLow := 8 } 0;
      s.saf.image.isSome = true ∧ (s1 {} 0).saf.tpLow = 0 ∧ s.saf.tpLow.getLsbD 3 = true ∧ s.saf.enabled 15 = true ∧ siSource s 15 = 3 + 1
      ∧ pairDisagrees (s1 { filt := 0x8000 } 0) 7 = true)
    ∧ (let s := s1 { safe := false, cmd := 0x01 } 0;
      s.saf.safe = false ∧ s.saf.cmd.getLsbD 0 = true ∧ s.saf.pulse.getLsbD 0 = false ∧ (opInterval s 0).2 ≤ s.clk.tick.toNat
      ∧ Tbl.get 0 s.saf.pulsed 0 ≠ (opInterval s 0).1 + 1) := by decide

/-- `LoopSlotsRunTheirLaws`: sources that need a conversion and those that may, a counter zero that is aligned with network time, and
channel configurations that wait for it. -/
theorem witness_loop_rest :
    (let s := setWords (g1 0 { on := true, kind := 1, trigs := 1 } []) (slotBase 511 + 16) [0x20000000];
      (slotW s 511 4).field 29 3 = 1 ∧ (∀ k < 4, (slotW s 511 (4 + 3 * k)).field 29 3 ∈ [0, 1]) ∧ s.mem.ecc = [])
    ∧ (let s := setWords (g1 0 { on := true, kind := 1, trigs := 1 } []) (slotBase 511 + 16) [0x60000000, 0, 0, 0xC0000000];
      ∀ k < 2, (slotW s 511 (4 + 3 * k)).field 29 3 ∈ [3, 6] ∧ (slotW s 511 (4 + 3 * k)).tst 28 = false)
    ∧ (let s := withF (g1 0 {} []) [(0x10, 0x17C, 0x90000000), (0x10, 0x17D, 50000)];
      fBit s 0x10 (0x100 + 4 * 31) 28 = true ∧ alignedZero s 31 = some 0 ∧ zeroDue s 31 = true)
    ∧ zeroDue (g1 0 {} []) 31 = true
    ∧ (let s := g1 0 {} [];
      let p := { s with cfg := { s.cfg with pend := [(0x10, [(fid 0x10 0x17D, 4000)])] } };
      pendFind p 0x10 (0x101 + 4 * 31) = some 4000 ∧ pendFind p 0x10 (0x100 + 4 * 31) = none)
    ∧ cleTakes (on State.reset) = false ∧ (getSlot (g1 0 { dl := 250, run := .ready } []) 511).run ≠ .idle
    ∧ ((g1 0 {} []).clk.tick.toNat + 1) * 250 ≤ (getSlot (g1 0 { dl := 250 } []) 511).dl := by decide

/-- The same: a run in time and one at its deadline, and an engine without a run. -/
theorem witness_law_rest :
    (let s := g1 0 { run := .ready, dl := 1 } []; nextRun s = some 511 ∧ (slotW s 511 3).field 0 20 = 0
      ∧ s.clk.tick.toNat * 250 < (getSlot s 511).dl ∧ s.mem.ecc = [] ∧ 511 < 512)
    ∧ (let s := g1 0 { run := .ready, dl := 0 } []; nextRun s = some 511 ∧ (getSlot s 511).dl ≤ s.clk.tick.toNat * 250)
    ∧ (let s := g1 0x400 { run := .running 7, law := some {}, dl := 1 } []; slotOf s 7 = some 511 ∧ s.clk.tick.toNat * 250 < (getSlot s 511).dl)
    ∧ slotOf (g1 0 {} []) 7 = none ∧ nextRun (g1 0 {} []) = none := by decide

/-- `SafetyCyclesCommandTheOutputs`: in time; at the monitor's expiry; at the next release; a request or an acknowledgement that is no
byte or halfword; a request that cannot be read. -/
theorem witness_safety_rest :
    let now (s : State) (t : Nat) : State := { s with clk := { s.clk with tick := BitVec.ofNat 48 t } }
    let late (s : State) : Prop := ∃ d, s.saf.monitor = some d ∧ d ≤ s.clk.tick.toNat
    (let s := now (s1 { safe := false, inCycle := true, monitor := some 2 } 0xFF) 1;
      ¬ late s ∧ safReleaseNow s = false ∧ Tbl.get 0 s.mem.ecc (0x0180070040 / 8) = 0 ∧ gateFind s (0x0C * 64) = none)
    ∧ late (now (s1 { safe := false, inCycle := true, monitor := some 2 } 0xFF) 2)
    ∧ (let s := s1 { safe := false, inCycle := true, monitor := some 2 } 0xFF; ¬ late s ∧ safReleaseNow s = true)
    ∧ 256 ≤ (memW (s1 {} 0x100) 0x0180070040).toNat
    ∧ 65536 ≤ (memW (setW (s1 {} 0) 0x0180070044 0x10000) 0x0180070044).toNat
    ∧ 3 ≤ Tbl.get 0 { s1 {} 0 with mem := { (s1 {} 0).mem with ecc := [(0x0180070040 / 8, 3)] } }.mem.ecc (0x0180070040 / 8) := by
  refine ⟨⟨?_, by decide, by decide, by decide⟩, ⟨2, by decide, by decide⟩, ⟨?_, by decide⟩, by decide, by decide, by decide⟩
  · rintro ⟨d, h, k⟩; cases h; revert k; decide
  · rintro ⟨d, h, k⟩; cases h; revert k; decide

end Loops

namespace Network

/-! ## Witnesses: the field network, network time and the message bus -/

/-- NET runs; port 3 is enabled, with its link up or down. -/
def n1 (link : Word) (x : Net) : State :=
  { withF (on State.reset) [(0x18, 1, 1), (0x18, 0x130, 0x80000000), (0x18, 0x131, 0x44332211), (0x18, 0x132, 0x6655), (0x18, 0x133, link)] with net := x }

/-- A frame to port 3. -/
def rh (et : BitVec 16) (fcs : Bool) : RxHdr :=
  { port := 3, fcsOk := fcs, len := 64, dst := 0x665544332211, src := 7, tags := 0, vlan := 0, ethertype := et, trailer := none }

/-- The PRP pair runs. -/
def n2 : State := withF (n1 0 {}) [(0x18, 4, 0x80000000)]

/-- `PortsAndManagementPathCarryFrames`: the last port and queue; a frame that is not accepted, a supervision frame, one of no queue. -/
theorem witness_ports :
    (netRuns (n1 0 {}) = true ∧ fBit (n1 0 {}) 0x18 (portField 3 0) 31 = true ∧ portUp (n1 0 {}) 3 = false ∧ portUp (n1 1 {}) 3 = true)
    ∧ (portMac (n1 1 {}) 3 ≠ 0 ∧ txPick ((Tbl.find (n1 1 { txq := [(11, [{}])] }).net.txq 11).getD []) = some ({}, [])
      ∧ portUp (n1 1 { txq := [(11, [{}])] }) 3 = true)
    ∧ (frameOk (n1 1 {}) (rh 0x800 false) = false ∧ frameOk (n1 1 {}) (rh 0x88FB true) = true ∧ (rh 0x88FB true).trailer = none
      ∧ (rh 0x88FB true).ethertype = 0x88FB ∧ frameOk (n1 1 {}) (rh 0x800 true) = true ∧ rxClass (n1 1 {}) (rh 0x800 true) 0 = .other)
    ∧ (netRuns n2 = true ∧ prpOn n2 = true ∧ ((Tbl.find n2.net.txq 0).getD []).length < 256 ∧ ((Tbl.find n2.net.txq 3).getD []).length < 256) := by
  decide

/-- Slot 2,047 is bound to the source of `rh` on port 3. -/
def n3 (st : Nat) : State :=
  setWords (n1 1 { slots := [(2047, { state := st })] }) (slotAddr 2047) [0x88000000, 7, 0]
def rep0 : List Byte := [0x10, 1, 0xFF, 7, 1, 0, 122, 0] ++ List.replicate 488 5
def rep : List Byte := rep0 ++ leBytes 4 (crc32c rep0).toNat

/-- `PortsAndManagementPathCarryFrames`: the longest report for the last slot, one with a wrong sum, a slot whose report is old. -/
theorem witness_reports :
    (netRx (n3 1) (rh 0x88B5 true)).2 = true ∧ rxClass (netRx (n3 1) (rh 0x88B5 true)).1 (rh 0x88B5 true) (rep.headD 0) = .report
    ∧ natAt rep 2 2 = 2047 ∧ natAt rep 6 1 = 122 ∧ reportOk (netRx (n3 1) (rh 0x88B5 true)).1 (rh 0x88B5 true) rep = true
    ∧ rxClass (netRx (n3 1) (rh 0x88B5 true)).1 (rh 0x88B5 true) (rep0.headD 0) = .report
    ∧ reportOk (netRx (n3 1) (rh 0x88B5 true)).1 (rh 0x88B5 true) rep0 = false
    ∧ (let s := { n3 2 with clk := { (n3 2).clk with tick := 0xFFFFFFFFFFFF } };
      unitOn s 0x18 = true ∧ (slotSt s 2047).state = 2 ∧ (slotSt s 2047).tick + slotAge s 2047 * 100 < s.clk.tick.toNat) := by decide +kernel

/-- The management path is on with an address. -/
def n4 (x : Net) : State := withF (n1 1 x) [(0x18, 6, 0x80000000), (0x18, 0xF, 1), (0x18, 7, 0xC0A80001)]
def udp : List Byte := [0, 1, 0x96, 0x10, 0, 8, 0, 0]

/-- `PortsAndManagementPathCarryFrames`: a datagram in one fragment, a first fragment, a reassembly that is a second old. -/
theorem witness_management :
    (mgtRx (clearOut (n4 {})) .mgtEth).2 = true ∧ (0xC0A80001 : Word) ≠ 0 ∧ 0xC0A80001 = fGet (mgtRx (clearOut (n4 {})) .mgtEth).1 0x18 7
    ∧ (List.replicate 1468 (0 : Byte)).length ≤ 1468 ∧ (mgtRx (clearOut (n4 {})) .mgtEth).1.net.reasm = [] ∧ 24 + udp.length ≤ 4184
    ∧ udp ≠ [] ∧ natAt udp 2 1 * 256 + natAt udp 3 1 = 38416
    ∧ (let s := { n4 { reasm := [{}, {}, {}, { ident := 7 }] } with clk := { (n4 {}).clk with tick := 100000 } };
      s.net.reasm[3]? = some { ident := 7 } ∧ ({ ident := 7 } : Reasm).start + 100000 ≤ s.clk.tick.toNat) := by decide

/-- TIME runs PTP on port 3 and follows master 9; the mechanism is E2E or P2P. -/
def ds9 : Announce :=
  { priority1 := 1, clockClass := 6, accuracy := 0, variance := 0, priority2 := 0, grandmaster := 9, stepsRemoved := 0, sender := 9, senderPort := 1
    logInterval := 0, utcOffset := 37, utcValid := true, leap61 := false, leap59 := false, ptpTimescale := true }
def p1 (p2p : Word) (x : TimeU) : State := { withF (n1 1 {}) [(0x19, 1, 1), (0x19, 2, 0xFF030003 ||| (p2p <<< 8))] with time := x }
def rp : RxHdr := rh 0x88F7 true

/-- `PtpMessagesDriveNetworkTime`: what each message needs, in the last domain. -/
theorem witness_ptp :
    let r (s : State) : State := (ptpRx s rp).1
    (let s := p1 0 { master := some 9 };
      (ptpRx s rp).2 = true ∧ (0xFF : Byte).toNat = fPart (r s) 0x19 2 24 8 ∧ (r s).time.master = some (9 : BitVec 64).toNat
      ∧ (r s).time.delay = none)
    ∧ (let s := p1 0 { master := some 9, delay := some { n := 5, e := 1 } };
      (ptpRx s rp).2 = true ∧ (r s).time.delay = some { n := 5, e := 1 } ∧ (r s).time.badDelay = false ∧ Tbl.find (r s).cfg.pend 0x19 = none)
    ∧ (let s := p1 0 { master := some 9, reqStamp := some (65535, { n := 3 }), syncDiff := some { n := 9 } };
      (ptpRx s rp).2 = true ∧ (r s).time.reqStamp = some ((65535 : BitVec 16).toNat, { n := 3 }) ∧ (r s).time.syncDiff = some { n := 9 }
      ∧ isE2e (r s) = true ∧ (r s).time.delay = none ∧ ((({ n := 9 } : Dy).add (((stampNs 0).sub { n := 3 }).sub (stampNs 0))).shr 1).isNeg = false)
    ∧ (let s := p1 1 { reqStamp := some (65535, { n := 3 }) };
      (ptpRx s rp).2 = true ∧ (r s).time.reqStamp = some ((65535 : BitVec 16).toNat, { n := 3 }) ∧ isE2e (r s) = false
      ∧ ((((((stampNs 655360).add (tsCorr (r s) 3 16)).sub { n := 3 }).sub (stampNs 0)).sub (stampNs 0)).shr 1).isNeg = false
      ∧ unitOn (r s) 0x18 = true ∧ ((Tbl.find (r s).net.txq (3 * ptpPort (r s))).getD []).length < 256 ∧ fBit (r s) 0x19 3 8 = false)
    ∧ (let s := p1 0 { masters := [{ ds := ds9, count := 1 }] };
      (ptpRx s rp).2 = true ∧ (r s).time.masters = [{ ds := ds9, count := 1 }] ∧ (r s).clk.tick.toNat ≤ 0 + 4 * announceTicks ds9
      ∧ (r s).time.master = none)
    ∧ (let s := p1 0 { masters := [{ ds := ds9, count := 2 }], master := some 9, state := 2 };
      ptpRuns s = true ∧ netRuns s = true ∧ isE2e s = true ∧ s.time.master.isSome = true ∧ isE2e (p1 1 {}) = false ∧ ptpRuns (p1 1 {}) = true)
    ∧ (let s := { p1 0 { masters := [{ ds := ds9, count := 2 }], master := some 9, state := 2 } with clk := { (p1 0 {}).clk with tick := 300000 } };
      s.time.masters = [{ ds := ds9, count := 2 }] ∧ s.time.master = some ds9.sender.toNat ∧ ptpRuns s = true
      ∧ 0 + fPart s 0x19 2 0 8 * announceTicks ds9 ≤ s.clk.tick.toNat ∧ s.time.state = 2) := by decide

/-- `PortsAndManagementPathCarryFrames`: a queue that is served for the command's and one that overtakes it, when another is owed more
than its slack; frames of a link that is down; a PRP frame seen before and one seen first. -/
theorem witness_port_rest :
    (let s := n1 1 { txq := [(9, [{}]), (11, [{}])], owed := [(9, 154201)] };
      txPick ((Tbl.find s.net.txq 11).getD []) = some ({}, []) ∧ 154200 < owedAfter s 3 0 (lineBytes {}) ∧ txServe s 3 2 = 0)
    ∧ txServe (n1 1 { txq := [(9, [{}]), (11, [{}])] }) 3 2 = 2
    ∧ portUp (n1 0 {}) 3 = false ∧ (netRx (n1 0 {}) (rh 0x800 true)).2 = false
    ∧ (let s := withF (n1 0 { prp := [{ src := 7, seq := 65535 }] }) [(0x18, 4, 0x80000000), (0x18, 5, 400), (0x18, 0x110, 0x80000000),
        (0x18, 0x101, 0x44332211), (0x18, 0x102, 0x6655), (0x18, 0x113, 1)];
      let r (q : BitVec 16) : RxHdr := { rh 0x88B5 true with port := 1, trailer := some (q, true) };
      portUp s 1 = true ∧ frameOk s (r 0) = true ∧ prpOn s = true ∧ (r 0).port.val < 2 ∧ true = ((r 0).port.val == 1)
      ∧ (prpFresh s).any (fun e => e.src == (r 0).src.toNat && e.seq == (65535 : BitVec 16).toNat) = true
      ∧ (prpFresh s).any (fun e => e.src == (r 0).src.toNat && e.seq == (0 : BitVec 16).toNat) = false)
    ∧ rxClass (n1 1 {}) (rh 0x88FB true) 0 = .supervision ∧ rxClass (withF (n1 1 {}) [(0x19, 2, 0)]) (rh 0x88F7 true) 0 = .ptpOther
    ∧ rxClass (n1 1 {}) (rh 0x88B5 true) 1 = .station := by decide +kernel

/-- The same: a slot that is not stale; a management frame on a field port; a second fragment, and a fifth reassembly. -/
theorem witness_management_rest :
    (let s := n3 2; (slotSt s 2047).state = 2 ∧ s.clk.tick.toNat ≤ (slotSt s 2047).tick + slotAge s 2047 * 100 ∧ s.mem.ecc = [])
    ∧ (mgtRx (clearOut (n1 1 {})) .mgtEth).2 = false ∧ (0 : Word) = 0
    ∧ (let r : RxHdr := { rh 0x800 true with tags := 1, vlan := 5 };
      let s := withF (n4 {}) [(0x18, 6, 0xC0000005)];
      (mgtRx (clearOut s) (.field r)).2 = true ∧ 0xC0A80001 = fGet (mgtRx (clearOut s) (.field r)).1 0x18 7 ∧ prpOn s = false
      ∧ ((Tbl.find s.net.txq (3 * 3 + 2)).getD []).length < 256)
    ∧ (let y : Reasm := { path := 4, src := 0xC0A80002, ident := 9, proto := 17, parts := [(0, udp)] };
      let s1 := (mgtRx (clearOut (n4 { reasm := [y] })) .mgtEth).1;
      s1.net.reasm = [y] ∧ y.total = none ∧ udp ≠ [] ∧ udp.length + [(7 : Byte)].length + max y.hdr 20 ≤ 4184
      ∧ natAt (udp ++ [7]) 2 1 * 256 + natAt (udp ++ [7]) 3 1 = 38416)
    ∧ (let s1 := (mgtRx (clearOut (n4 { reasm := [{}, {}, {}, { ident := 7 }] })) .mgtEth).1;
      s1.net.reasm.length = 4 ∧ ∀ z ∈ s1.net.reasm, z.ident ≠ 9)
    ∧ ({ ident := 7 } : Reasm).start + 100000 > (n4 {}).clk.tick.toNat ∧ natAt [0, 0, 0, 1] 2 1 * 256 + natAt [0, 0, 0, 1] 3 1 ≠ 38416 := by
  decide +kernel

/-- `PtpMessagesDriveNetworkTime`: a port without PTP, a delay that is not taken, an offset beyond the step threshold and one within, a
negative delay, another domain and another mechanism, an announcement that is not too old. -/
theorem witness_ptp_rest :
    let r (s : State) : State := (ptpRx s rp).1
    let q (step : Word) : State := withF (p1 0 { master := some 9, delay := some { n := 5, e := 1 } }) [(0x19, 0xA, step)]
    let off (s : State) (t2 : Int) : Dy := ((((stampNs t2).add (tsCorr s 3 16)).sub (stampNs 0)).sub (stampNs 0)).sub { n := 5, e := 1 }
    (ptpRx (n1 1 {}) rp).2 = false ∧ (r (p1 0 { master := some 9, delay := some {}, badDelay := true })).time.badDelay = true
    ∧ (let s := r (q 100); (fGet s 0x19 0x00A).toNat = 100 ∧ (off s (1000 * 65536)).abs.le (Dy.int 100) = false ∧ (off s (50 * 65536)).abs.le (Dy.int 100) = true)
    ∧ (fGet (r (q 0)) 0x19 0x00A).toNat = 0
    ∧ ((({ n := 1 } : Dy).add (((stampNs 0).sub { n := 3 }).sub (stampNs 0))).shr 1).isNeg = true
    ∧ ¬ ((0 : Byte).toNat = fPart (r (p1 0 {})) 0x19 2 24 8) ∧ isE2e (r (p1 1 {})) = false
    ∧ fBit (r (withF (p1 1 {}) [(0x19, 3, 0x100)])) 0x19 3 8 = true ∧ (r (p1 0 {})).time.reqStamp = none ∧ (r (p1 0 {})).time.syncDiff = none
    ∧ (p1 0 {}).clk.tick.toNat < 0 + fPart (p1 0 {}) 0x19 2 0 8 * announceTicks ds9 := by decide

end Network

namespace Bus

/-! ## Witnesses: the message bus -/

/-- Controller 7 is active, with buffer 127 pending and filter 63 as given. -/
def cn (st : Nat) (f2 cfg : Word) (x : Can) : State :=
  let s := setCanState (withF (on State.reset) [(0x21, 1, 1), (0x21, 2, f2), (0x21, 0xF, 0x80000000), (0x21, 0x1FE, cfg)]) 7 st
  { s with can := [(7, x)] }

/-- `CanFramesAreSentAndErrorsCounted`: a frame that starts, one that has the bus, a controller that joins. -/
theorem witness_can_send :
    (let s := cn 3 0 0 {};
      canOn s 7 = true ∧ s.clk.refClk = true ∧ fBit s 0x21 1 0 = true ∧ canState s 7 = 3 ∧ canListen s 7 = false
      ∧ (getCan s 7).active = none ∧ txCandidates s 7 ≠ [])
    ∧ (let s := cn 3 0 0 { active := some { buf := some 127 } };
      fBit s 0x21 1 0 = true ∧ (getCan s 7).active = some { buf := some 127 } ∧ ({ buf := some 127 } : CanTx).buf = some 127 ∧ 127 < 128
      ∧ ({ buf := some 127 } : CanTx).cancel = false)
    ∧ (canState (cn 1 0 0 { tec := 127, rec_ := 127 }) 7 = 1 ∧ (getCan (cn 1 0 0 { tec := 127, rec_ := 127 }) 7).tec ≤ 127
      ∧ (getCan (cn 1 0 0 { tec := 127, rec_ := 127 }) 7).rec_ ≤ 127) := by decide

/-- The frame with the highest standard identifier, as CAN FD. -/
def cf : CanFrame := { id := 2047, ide := false, rtr := false, fdf := true, brs := true, esi := false, dlc := 15 }

/-- `CanFramesAreReceivedByTheirFilter`: no filter; the last one, to the urgent buffer, to a FIFO with a place and to a full one. -/
theorem witness_can_receive :
    (let s := cn 3 4 0 {};
      canOn s 7 = true ∧ canState s 7 = 3 ∧ cf.id.toNat < 2048 ∧ ¬ (cf.fdf = true ∧ cf.rtr = true) ∧ cf.fdf = true
      ∧ fBit s 0x21 2 2 = true ∧ stationOf s 7 cf = false ∧ ∀ m < 64, fltTakes s 7 cf m = false)
    ∧ (let s := withF (cn 3 4 0xC0000000 {}) [(0x21, 0x1FC, 2047)];
      (∀ m < 63, fltTakes s 7 cf m = false) ∧ fltTakes s 7 cf 63 = true ∧ (fltField s 7 63 2).tst 30 = true)
    ∧ (let s := withF (cn 3 4 0x8000007F { fifo := [(127, [])] }) [(0x21, 0x1FC, 2047)];
      fltTakes s 7 cf 63 = true ∧ (fltField s 7 63 2).tst 30 = false ∧ (fltField s 7 63 2).field 0 7 = 127
      ∧ (fltField s 7 63 2).field 7 7 = 0 ∧ 127 ∉ (Tbl.find (getCan s 7).fifo 127).getD [])
    ∧ (let s := withF (cn 3 4 0x8000007F { fifo := [(127, [127])] }) [(0x21, 0x1FC, 2047)];
      (fltField s 7 63 2).tst 29 = false ∧ (Tbl.find (getCan s 7).fifo 127).getD [] = [127]) := by decide

/-- `CanFramesAreSentAndErrorsCounted`: listening, below the limits, beyond 127, beyond 255, and recovering. -/
theorem witness_can_errors :
    (canListen (cn 2 2 0 {}) 7 = true ∧ canState (cn 2 2 0 {}) 7 = 2 ∧ canOn (cn 2 2 0 {}) 7 = true)
    ∧ (let s (n : Nat) := cn 3 0 0 { tec := n, rec_ := 127 };
      canListen (s 0) 7 = false ∧ (getCan (s 0) 7).active = none ∧ (getCan (s 119) 7).tec + 8 ≤ 127 ∧ (getCan (s 119) 7).rec_ ≤ 127
      ∧ 127 < (getCan (s 247) 7).tec + 8 ∧ (getCan (s 247) 7).tec + 8 ≤ 255 ∧ 255 < (getCan (s 248) 7).tec + 8)
    ∧ canState (cn 5 1 0 {}) 7 = 5 ∧ 1 ≤ (6 : BitVec 3).toNat ∧ (6 : BitVec 3).toNat ≤ 6 := by decide

/-! ## Witnesses: redundancy -/

/-- TWIN runs in a configured role with a state. -/
def tw (cfg : Word) (x : Twin) : State := { withF (on State.reset) [(0x23, 1, 1), (0x23, 2, cfg)] with twin := x }

/-- `TwinLinkSyncsAndCopies`, `TwinLinkSyncsAndCopies`. -/
theorem witness_hello :
    ((tw 1 { zenithOut := true }).twin.zenithOut = true ∧ (tw 1 {}).twin.zenithOut = false ∧ laneUp (tw 1 { laneB := true }) .b = true
      ∧ laneUp (tw 1 {}) .b = false)
    ∧ (let s := tw 0x201 { role := .severed, laneB := true };
      let f : LinkFrame := { ty := 1, state := 5, period := critPeriodUs s / 10, lines := helloLines s };
      twinRuns s = true ∧ roleCfg s = 1 ∧ f.ty = 1 ∧ laneUp s .b = true ∧ f.state = 5 ∧ s.twin.role = .severed ∧ syncAuto s = true
      ∧ f.period = critPeriodUs s / 10 ∧ f.period + 1 ≠ critPeriodUs s / 10)
    ∧ (let s := tw 1 { role := .starting, laneB := true };
      twinRuns s = true ∧ roleCfg s = 1 ∧ laneUp s .b = true ∧ s.twin.role = .starting ∧ syncAuto s = false) := by
  refine ⟨by decide, ⟨by decide, by decide, rfl, by decide, rfl, by decide, by decide, rfl, ?_⟩, by decide⟩
  exact Nat.succ_ne_self _

/-- NET runs for witness frames on port 3. -/
def twNet (cfg : Word) (x : Twin) : State :=
  withF (tw cfg x) [(0x18, 1, 1), (0x18, 0x130, 0x80000000), (0x18, 0x131, 0x44332211), (0x18, 0x132, 0x6655), (0x18, 0x133, 1)]
def wr : RxHdr :=
  { port := 3, fcsOk := true, len := 64, dst := 0x665544332211, src := 7, tags := 0, vlan := 0, ethertype := 0x88B5, trailer := none }
def wf : WitFrame := { seq := 65535, ep := 9, arg := 100, id := 7 }

/-- `TwinLinkSyncsAndCopies`: a follower's copy, a bulk line, what is left to send, an acknowledged Meridian. -/
theorem witness_copies :
    (let s := tw 1 { role := .standby };
      twinRuns s = true ∧ ({ ty := 2 } : LinkFrame).ty = 2 ∧ s.twin.role = .standby)
    ∧ (let s := tw 1 { role := .syncing };
      let f : LinkFrame := { ty := 4, area := 7, lines := [List.replicate 16 5] };
      f.ty = 4 ∧ f.area < 8 ∧ s.twin.role = .syncing ∧ f.ep.toNat ≤ s.twin.seen.toNat ∧ f.last = false)
    ∧ (let s := tw 1 { role := .active, ep := 9, bulk := [(7, 40)], marks := [{ count := 5, seq := 65535, us := 3 }], lease := some 50 };
      s.twin.role = .active ∧ (32 : Fin 33).val ≠ 0 ∧ s.twin.bulk = [(7, 40)] ∧ (32 : Fin 33).val < 40
      ∧ ({ ty := 3, ep := 9, count := 5 } : LinkFrame).ep = s.twin.ep
      ∧ s.twin.marks.find? (fun x => x.count == (5 : Word).toNat) = some { count := 5, seq := 65535, us := 3 }
      ∧ s.twin.lease = some 50 ∧ usReached s (50 + 10) = false)
    ∧ (let s := twNet 1 { role := .active, ep := 9, marks := [{ count := 5, seq := 65535, us := 3 }], lease := some 50 };
      (witRx s wr 0x21).2 = true ∧ (witRx s wr 0x21).1.twin.role = .active ∧ wf.ep = (witRx s wr 0x21).1.twin.ep
      ∧ (witRx s wr 0x21).1.twin.marks.find? (fun x => x.seq == wf.seq) = some { count := 5, seq := 65535, us := 3 }
      ∧ usReached (witRx s wr 0x21).1 (50 + 10) = false) := by decide

/-- `RolesChangeByLeaseWatchAndWitness`. -/
theorem witness_roles :
    (let s (c : Word) := tw c { role := .active, lease := some 0 };
      (s 1).twin.lease = some 0 ∧ (s 1).twin.role = .active ∧ usReached (s 1) 0 = true ∧ soloHold (s 1) = false ∧ soloHold (s 0x101) = true)
    ∧ (let s := { tw 1 { role := .standby } with clk := { State.reset.clk with tick := 0xFFFFFF } };
      twinRuns s = true ∧ usReached s s.twin.watch = true ∧ s.twin.ask = none ∧ s.twin.role = .standby ∧ witnessEn s = false
      ∧ usReached s (s.twin.beaconUs + 2 * critPeriodUs s) = true)
    ∧ (let s := tw 0x401 { role := .demoted, lapsed := true };
      usReached s s.twin.watch = true ∧ s.twin.role = .demoted ∧ s.twin.lapsed = true ∧ witnessEn s = true)
    ∧ (let s := tw 1 { role := .starting };
      s.twin.role = .starting ∧ witnessEn s = false ∧ s.twin.heard = false ∧ witnessEn (tw 0x401 { role := .starting }) = true)
    ∧ (let s := { tw 1 { ask := some { seq := 65535, ep := 9, us := 0 } } with clk := { State.reset.clk with tick := 0xFFFFFF } };
      twinRuns s = true ∧ s.twin.ask = some { seq := 65535, ep := 9, us := 0 } ∧ usReached s (0 + fPart s 0x23 5 0 16) = true)
    ∧ (let s := tw 1 { role := .standby };
      s.twin.role = .standby ∧ ({ ty := 5 } : LinkFrame).ep.toNat ≤ s.twin.seen.toNat)
    ∧ (let s := twNet 1 { role := .standby, ask := some { seq := 65535, ep := 9 } };
      (witRx s wr 0x23).2 = true ∧ (witRx s wr 0x23).1.twin.ask = some { seq := 65535, ep := 9 } ∧ 65535 = wf.seq ∧ 9 = wf.ep
      ∧ (witRx s wr 0x24).2 = true ∧ (witRx s wr 0x24).1.twin.ask = some { seq := 65535, ep := 9 } ∧ (witRx s wr 0x24).1.twin.role = .standby)
    ∧ (let s := twNet 1 { role := .active, ep := 8 };
      (witRx s wr 0x25).2 = true ∧ (witRx s wr 0x25).1.twin.role = .active ∧ (witRx s wr 0x25).1.twin.ep.toNat < wf.ep.toNat) := by decide

/-- `WitnessGrantsOneHolder`: epochs at, above and below the request's; no heartbeat yet, one a moment ago; a held request whose gap has
passed. -/
theorem witness_witness :
    (let s (e : Word) (hb : Option Nat) := twNet 2 { role := .witness, ew := e, hbUs := hb };
      let t (e : Word) (hb : Option Nat) (ty : Byte) : State := (witRx (s e hb) wr ty).1;
      isWitness (t 9 none 0x20) = true ∧ (witRx (s 9 none) wr 0x20).2 = true ∧ (witRx (s 9 none) wr 0x22).2 = true
      ∧ isWitness (t 9 none 0x22) = true
      ∧ hearId (t 9 none 0x20) wf.id = some [{ id := 7 }] ∧ repeated (t 9 none 0x20) wf.id 0x20 wf.seq = none
      ∧ hearId (t 9 none 0x22) wf.id = some [{ id := 7 }] ∧ repeated (t 9 none 0x22) wf.id 0x22 wf.seq = none
      ∧ (t 9 none 0x20).twin.ew.toNat ≤ wf.ep.toNat ∧ wf.ep.toNat < (t 10 none 0x20).twin.ew.toNat ∧ wf.ep.toNat ≤ (t 9 none 0x22).twin.ew.toNat
      ∧ (t 8 none 0x22).twin.ew.toNat < wf.ep.toNat ∧ (t 8 none 0x22).twin.hbUs = none
      ∧ (t 8 (some 0) 0x22).twin.hbUs = some 0 ∧ usNow (t 8 (some 0) 0x22) < 0 + wf.arg.toNat)
    ∧ (let h : Held := { ep := 9 };
      let s := tw 2 { role := .witness, ew := 8, held := [h] };
      isWitness s = true ∧ s.twin.held.find? (gapPassed s) = some h ∧ s.twin.ew.toNat < h.ep.toNat) := by decide

/-- `CanFramesAreSentAndErrorsCounted`: a cancelled frame, a station's frame, a controller that stops, one that is off. -/
theorem witness_can_send_rest :
    (let s := cn 3 0 0 { active := some { buf := some 127, cancel := true } };
      (getCan s 7).active = some { buf := some 127, cancel := true } ∧ fBit s 0x21 1 0 = true ∧ s.mem.ecc = [])
    ∧ (let s := cn 3 0 0 { active := some { station := 255 }, stq := [(255, [])] };
      (getCan s 7).active = some { station := 255 } ∧ ({ station := 255 } : CanTx).buf = none)
    ∧ (let s := withF (cn 3 0 0 { active := some { buf := some 0 } }) [(0x21, 1, 0)];
      canOn s 7 = true ∧ fBit s 0x21 1 0 = false ∧ Tbl.find s.cfg.pend 0x21 = none)
    ∧ canOn (withF State.reset [(2, 2, 0)]) 7 = false ∧ canState (cn 1 0 0 { tec := 256 }) 7 = 1 ∧ 255 < 256 ∧ txCandidates (cn 3 0 0 {}) 7 ≠ []
    ∧ txCandidates (withF (cn 3 0 0 {}) [(0x21, 0xF, 0)]) 7 = [] := by decide

/-- `CanFramesAreReceivedByTheirFilter`: CAN FD that is not allowed; a full FIFO that overwrites; a controller that is off the bus. -/
theorem witness_can_receive_rest :
    (fBit (cn 3 0 0 {}) 0x21 2 2 = false ∧ (getCan (cn 3 0 0 {}) 7).active = none ∧ canListen (cn 3 0 0 {}) 7 = false
      ∧ (getCan (cn 3 0 0 {}) 7).rec_ ≤ 127)
    ∧ (let s := withF (cn 3 4 0xA000007F { fifo := [(127, [127])] }) [(0x21, 0x1FC, 2047)];
      (fltField s 7 63 2).tst 30 = false ∧ (fltField s 7 63 2).tst 29 = true ∧ fltTakes s 7 cf 63 = true
      ∧ (Tbl.find (getCan s 7).fifo 127).getD [] = [127] ∧ 127 < 128 ∧ s.mem.ecc = [])
    ∧ canState (cn 4 0 0 {}) 7 ≠ 2 ∧ canState (cn 4 0 0 {}) 7 ≠ 3 ∧ ¬ (cf.ide = true) ∧ (cf.fdf = true ∨ cf.brs = false) := by decide

/-- `CanFramesAreSentAndErrorsCounted`: an error behind a frame that was being sent, and no error code. -/
theorem witness_can_error_rest :
    (let s := cn 3 0 0 { active := some { buf := some 1 } }; (getCan s 7).active.isSome = true ∧ fBit s 0x21 1 0 = true)
    ∧ ¬ (1 ≤ (0 : BitVec 3).toNat) ∧ ¬ ((7 : BitVec 3).toNat ≤ 6) ∧ canState (cn 3 0 0 {}) 7 ≠ 5 := by decide

/-- `TwinLinkSyncsAndCopies`: a HELLO of another period, of a syncing twin and of a starting one; the last bulk lines of each area; an
acknowledgement before the lease's end, at it, and of no Meridian. -/
theorem witness_twin_rest :
    (let s := tw 0x201 { role := .severed, laneB := true };
      syncAuto s = true ∧ (helloLines s).drop 1 ≠ [[1], [2], [3]] ∧ syncAuto (tw 1 {}) = false)
    ∧ (let s := tw 1 { role := .active, laneB := true, seen := 3, ep := 3 };
      twinRuns s = true ∧ roleCfg s = 1 ∧ laneUp s .b = true ∧ s.twin.peerSync = false
      ∧ ({ ty := 1, state := 3, ep := 3 } : LinkFrame).ep.toNat ≤ s.twin.ep.toNat)
    ∧ (let s := tw 1 { role := .starting, laneB := true };
      witnessEn s = false ∧ ({ ty := 1, state := 1 } : LinkFrame).ep.toNat ≤ s.twin.seen.toNat)
    ∧ (let s := tw 1 { role := .standby };
      (∀ a ∈ [8, 9, 10], ({ ty := 4, area := a, last := true } : LinkFrame).area = a) ∧ s.twin.role ≠ .active ∧ s.twin.role ≠ .syncing
      ∧ (0 : Word).toNat ≤ s.twin.seen.toNat)
    ∧ (let s := tw 1 { role := .active, bulk := [(7, 32), (8 * 2 ^ 28, 1)] };
      (32 : Fin 33).val ≤ 32 ∧ 7 / 2 ^ 28 < 8 ∧ (∀ e ∈ [(8 * 2 ^ 28, 1)], 8 ≤ e.1 / 2 ^ 28) ∧ s.twin.bulk ≠ [])
    ∧ (let s := tw 1 { role := .active, lease := some 50 };
      usNow s < 50 ∧ s.twin.solo = false ∧ 50 ≤ usNow { s with clk := { s.clk with tick := 5 } }
      ∧ s.twin.marks.find? (fun x => x.count == (5 : Word).toNat) = none)
    ∧ twinRuns (on State.reset) = false ∧ (witRx State.reset wr 0x21).2 = false := by decide

/-- `RolesChangeByLeaseWatchAndWitness`: a witness that is asked, one that does not answer yet, an answer to another question, a higher
epoch at the witness. -/
theorem witness_role_rest :
    (let s := { tw 0x401 { role := .standby } with clk := { State.reset.clk with tick := 0xFFFFFF } };
      usReached s s.twin.watch = true ∧ s.twin.ask = none ∧ witnessEn s = true)
    ∧ (let s := { tw 1 { role := .standby, beaconUs := 2 ^ 30 } with clk := { State.reset.clk with tick := 100 } };
      usReached s s.twin.watch = true ∧ witnessEn s = false ∧ usReached s (s.twin.beaconUs + 2 * critPeriodUs s) = false)
    ∧ (tw 1 { role := .starting, heard := true }).twin.heard = true
    ∧ usReached (tw 1 { role := .active, lease := some 10 }) 10 = false
    ∧ (let s := tw 1 { ask := some { us := 100 } }; usReached s (100 + fPart s 0x23 5 0 16) = false)
    ∧ (let s := (witRx (twNet 1 { role := .standby, ask := some { seq := 1, ep := 9 } }) wr 0x23).1;
      s.twin.ask = some { seq := 1, ep := 9 } ∧ 1 ≠ wf.seq)
    ∧ (let s := (witRx (twNet 1 { role := .standby, ask := some { seq := 65535, ep := 8 } }) wr 0x23).1;
      s.twin.ask = some { seq := 65535, ep := 8 } ∧ 8 ≠ wf.ep)
    ∧ (let s := (witRx (twNet 1 { role := .active, ep := 8 }) wr 0x24).1;
      s.twin.ask = none ∧ ({ wf with reason := 2 } : WitFrame).reason = 2 ∧ s.twin.role = .active ∧ s.twin.ep.toNat < wf.ep.toNat)
    ∧ (tw 1 { role := .active }).twin.role ≠ .standby := by decide

/-- `WitnessGrantsOneHolder`: a question asked again; a third twin; a held request whose epoch has passed. -/
theorem witness_grant_rest :
    (let s := (witRx (twNet 2 { role := .witness, ew := 9, answers := [(7, 0x20, 65535, [1])] }) wr 0x20).1;
      isWitness s = true ∧ repeated s wf.id 0x20 wf.seq = some [1])
    ∧ (let s := (witRx (twNet 2 { role := .witness, ew := 9, answers := [(7, 0x22, 65535, [1])] }) wr 0x22).1;
      repeated s wf.id 0x22 wf.seq = some [1])
    ∧ (let s := (witRx (withF (twNet 2 { role := .witness, ids := [{ id := 1 }, { id := 2 }] }) [(0x23, 0x18, 60)]) wr 0x20).1;
      hearId s wf.id = none)
    ∧ (let s := tw 2 { role := .witness, ew := 9, held := [{ ep := 9 }] };
      isWitness s = true ∧ s.twin.held.find? (gapPassed s) = some { ep := 9 } ∧ (9 : Word).toNat ≤ s.twin.ew.toNat)
    ∧ (tw 2 { role := .witness }).twin.held.find? (gapPassed (tw 2 { role := .witness })) = none ∧ isWitness (tw 1 {}) = false := by decide

end Bus

namespace Link

/-! ## Witnesses: the management link -/

/-- A request whose CRC is right. -/
def mq (cmd : Byte) (q : MgtReq) : MgtReq := { q with crc := crc32c (mgtHeader cmd q ++ q.payload) }
def mq0 : MgtReq := { b1 := 0, seq := 0xFFFF, len := 0, addr := 0, b13 := 0, b14 := 0, payload := [], crc := 0 }

/-- The device runs; MGT has job entry 255, and a job runs or not. -/
def ml (j : Option RunJob) : State :=
  { withF State.reset [(2, 0xD, 0x4000000)] with mgt := { State.reset.mgt with entries := [(255, 0x1000)], running := j } }

/-- What every request needs, and a link that has had one. -/
def mgtGood (s : State) (t : Nat) (cmd : Byte) (q : MgtReq) : Bool :=
  !s.pwr.asleep && crc32c (mgtHeader cmd q ++ q.payload) == q.crc && (getLink s t).last != some (q.seq.toNat, q.crc) && decide (3 ≤ bootState s)
    && !mgtBadFields cmd q

/-- All bytes of a range may be reached, in pieces of any size, and are clean. -/
def reachB (s : State) (wr : Bool) (a n : Nat) : Bool :=
  s.mem.ecc.isEmpty && (List.range n).all (fun i => (List.range (n - i + 1)).all (fun m => accessCause s 0 wr (a + i) m == none))

theorem reach_of {s : State} {wr : Bool} {a n : Nat} (h : reachB s wr a n = true) :
    (∀ x m, a ≤ x → 1 ≤ m → x + m ≤ a + n → accessCause s 0 wr x m = none) ∧ ∀ x, a ≤ x → x < a + n → Tbl.get 0 s.mem.ecc (x / 8) = 0 := by
  simp only [reachB, Bool.and_eq_true, List.isEmpty_iff, List.all_eq_true, List.mem_range, beq_iff_eq] at h
  refine ⟨fun x m h1 h2 h3 => ?_, fun x _ _ => by rw [h.1]; rfl⟩
  have := h.2 (x - a) (by omega) m (by omega)
  rwa [Nat.add_sub_cancel' h1] at this

def qRead : MgtReq := mq 2 { mq0 with addr := 0x00101FFFF8, len := 8 }
def qWrite : MgtReq := mq 3 { mq0 with addr := 0x00101FFFF8, len := 8, payload := [1, 2, 3, 4, 5, 6, 7, 8] }
def qRun : MgtReq := mq 4 { mq0 with addr := 0x00101FFFFC, b13 := 255, b14 := 1 }
def qUpdate : MgtReq := mq 5 { mq0 with addr := 0x0B00FFFFF8, len := 8 }

/-- `ManagementLinkCommandsAreAnswered`: each command on the last transport, at the end of the memory it may reach; a job that runs. -/
theorem witness_link :
    mgtGood (ml none) 3 1 (mq 1 mq0) = true
    ∧ (mgtGood (ml none) 3 2 qRead = true ∧ crossesEnd 0x00101FFFF8 8 = false ∧ viaGate (ml none) .mgt 0x00101FFFF8 1 = false
      ∧ qRead.addr.toNat = 0x00101FFFF8)
    ∧ (mgtGood (ml none) 3 3 qWrite = true ∧ hostMayWrite 0x00101FFFF8 8 = true)
    ∧ (mgtGood (ml none) 3 4 qRun = true ∧ (ml none).mgt.entries.any (fun x => x.1 == qRun.b13.toNat) = true ∧ (ml none).mgt.runQ = []
      ∧ qRun.addr.toNat + 4 ≤ 0x0010200000 ∧ (ml none).mgt.running = none ∧ (ml (some {})).mgt.running.isSome = true
      ∧ mgtGood (ml (some {})) 3 4 qRun = true)
    ∧ (mgtGood (ml none) 3 5 qUpdate = true ∧ qUpdate.addr.toNat + 8 ≤ 0x0B01000000)
    ∧ ((6 : Byte).toNat > 5 ∧ crc32c (mgtHeader 6 (mq 6 mq0) ++ (mq 6 mq0).payload) = (mq 6 mq0).crc)
    ∧ (let s := { ml (some { timeout := 1 }) with clk := { State.reset.clk with tick := 99 } };
      s.mgt.running = some { timeout := 1 } ∧ s.pwr.asleep = false ∧ 0 + 100 * 1 ≤ s.clk.tick.toNat + 1) := by decide +kernel

/-- The ranges of that READ and that WRITE can be reached, and that UPDATE's bytes are read. -/
theorem witness_link_reach : reachB (ml none) false 0x00101FFFF8 8 = true ∧ reachB (ml none) true 0x00101FFFF8 8 = true
    ∧ ∃ d, hostRead .hostWrite 8 (ml none) 0x0B00FFFFF8 8 [] = (ml none, .ok d) := ⟨by decide +kernel, by decide +kernel, ⟨_, rfl⟩⟩

/-- `ManagementLinkCommandsAreAnswered`: a READ of the process image and one that goes through the gate; a job that has timed out, one
that waits in the queue. -/
theorem witness_link_rest :
    (let q := mq 2 { mq0 with addr := 0x02000FFFFC, len := 4 };
      mgtGood (ml none) 3 2 q = true ∧ crossesEnd 0x02000FFFFC 4 = false ∧ 0x0200000000 ≤ q.addr.toNat ∧ q.addr.toNat < 0x0200100000
      ∧ reachB (ml none) false 0x02000FFFFC 4 = true)
    ∧ (let s := withF (ml none) [(2, 0xD, 0x4000000)]; viaGate s .mgt 0x0100000000 1 = true ∧ mgtGood s 3 2 (mq 2 { mq0 with addr := 0x0100000000, len := 4 }) = true)
    ∧ (let j : RunJob := { timedOut := true, arg := 0x00101FFFFC };
      let s := ml (some j);
      s.mgt.running = some j ∧ j.timedOut = true ∧ accessCause s 0 true j.arg 4 = none ∧ Tbl.get 0 s.mem.ecc (storedAt s j.arg / 8) = 0)
    ∧ (let s := { ml (some {}) with mgt := { (ml (some {})).mgt with runQ := [{}, {}, {}, { timeout := 1 }] }, clk := { State.reset.clk with tick := 99 } };
      s.mgt.runQ[3]? = some { timeout := 1 } ∧ 0 + 100 * 1 ≤ s.clk.tick.toNat + 1) := by decide +kernel

end Link

namespace Keeping

/-! ## Witnesses: Almanac, clocks, start-up, power, keys and the panel -/

/-- Almanac has restored; it has written slots `o`, and pinned `p` of them. -/
def al (o p : List Nat) : State :=
  { State.reset with
    alm := { State.reset.alm with restored := true, order := o, pinned := p, queue := [{ sev := 3, payload := [1, 2, 3] }], lastSave := 5 }
    clk := { State.reset.clk with opMs := 60005 } }

/-- `AlmanacWritesRecordsAndCounters`: the first slot of an empty log and the last one that may be pinned; a counter save that is just due. -/
theorem witness_almanac :
    ((al [] []).alm.restored = true ∧ (al [] []).alm.queue = [{ sev := 3, payload := [1, 2, 3] }] ∧ lowestEmpty (al [] []) = some 0)
    ∧ lowestEmpty (al (List.range 255) (List.range 255)) = some 255
    ∧ (al (List.range 255) (List.range 255)).alm.pinned.length < 256
    ∧ ((al [] []).pwr.asleep = false ∧ (al [] []).alm.lastSave + 60000 ≤ (al [] []).clk.opMs.toNat) := by decide +kernel

/-- The calendar shows a time and a date. -/
def cal (t d : Word) : State := withF State.reset [(0x25, 1, t), (0x25, 2, d)]

/-- The seconds of `CalendarAndBackupDomainKeepTime`. -/
def seconds : List (Word × Word) := [(0, 0x20240115), (9, 0x20240115), (0x59, 0x20240115), (0x5959, 0x20240115), (0x235959, 0x20240115),
  (0x235959, 0x20240228), (0x235959, 0x20230228), (0x235959, 0x21000228), (0x235959, 0x20240430), (0x235959, 0x20991231)]

/-- `CalendarAndBackupDomainKeepTime`: each of its seconds. -/
theorem witness_calendar : ∀ i < 10, let e := seconds.getD i (0, 0)
    alarmArmed (cal e.1 e.2) = false ∧ calTime (cal e.1 e.2) = e.1 ∧ calDate (cal e.1 e.2) = e.2 := by decide +kernel

/-- `CalendarAndBackupDomainKeepTime`: an alarm at the turn of a century's last year. -/
theorem witness_alarm :
    let s := withF (cal 0x235959 0x20991231) [(0x25, 6, 0), (0x25, 7, 0x21000101), (0x25, 8, 1), (0x25, 0xB, 1)]
    alarmArmed s = true ∧ fGet s 0x25 6 = (calStep_ (calTime s) (calDate s)).1 ∧ fGet s 0x25 7 = (calStep_ (calTime s) (calDate s)).2 := by
  decide +kernel

/-- `CalendarAndBackupDomainKeepTime`: the oscillator runs and WAKE_BTN has been low. -/
theorem witness_backup : fBit State.reset 0x25 0xB 6 = false ∧ fBit State.reset 0x25 0xB 3 = false := by decide

/-- `ResetsAndStartUpKeepWhatIsNonVolatile`: the boot ROM is about to run, with the tamper latch set, and clear without an image. -/
theorem witness_start :
    let l := { State.reset with key := { State.reset.key with latch := 0x80 }, rtc := { State.reset.rtc with lostNew := false } }
    let c := { State.reset with rtc := { State.reset.rtc with lostNew := false } }
    (bootState l = 0 ∧ l.key.latch ≠ 0 ∧ l.rtc.lostNew = false)
    ∧ (bootState c = 0 ∧ c.key.latch = 0 ∧ c.rtc.lostNew = false ∧ c.key.stored = [] ∧ fPart c 2 0xD 0 16 = 0)
    ∧ bootState (withF State.reset [(2, 0xD, 0x1000000)]) ≠ 0 := by decide

/-- `PowerChangesComplete`: the last domain, and the one that is not shown. -/
theorem witness_switch :
    (9 < 10 ∧ { State.reset with pwr := { State.reset.pwr with switches := [{ idx := 9, on := true }] } }.pwr.switches = [{ idx := 9, on := true }])
    ∧ (9 ≠ 6 ∧ 9 ≠ 0) := by decide

/-- MGT executes `sleep`; WAKE_EN holds `en`. -/
def sl (en : Word) : State := withF (mgt []) [(2, 6, en)]

/-- `PowerChangesComplete`: a sleep that is entered, one without a wake source, a wake by the last one. -/
theorem witness_sleep :
    (Runs (sl 0x1000) (hd .mgt) 0 { word := encA 0b110101 31 0 0 2, grp := .sleep } ∧ sleepRefusal (past (sl 0x1000) 0 4) = 0)
    ∧ (Runs (sl 0) (hd .mgt) 0 { word := encA 0b110101 31 0 0 2, grp := .sleep } ∧ sleepRefusal (past (sl 0) 0 4) ≠ 0)
    ∧ (let s := suspend { sl 0x1000 with pwr := { (sl 0x1000).pwr with asleep := true } } 0 (.asleep 31);
      s.pwr.asleep = true ∧ wakeSources s 0x400 &&& fPart s 2 6 0 13 ≠ 0 ∧ (getCtx s 0).wait = .asleep 31 ∧ s.key.slept = 0 ∧ s.key.latch = 0) :=
  ⟨⟨runs_of (by decide +kernel), by decide +kernel⟩, ⟨runs_of (by decide +kernel), by decide +kernel⟩, by decide +kernel⟩

/-- `PowerChangesComplete`: a change with one step to go, and the third failure. -/
theorem witness_volts :
    let s := { withF State.reset [(2, 4, 740), (2, 5, 5)] with pwr := { State.reset.pwr with avsFails := 2 } }
    s.pwr.asleep = false ∧ fBit s 2 5 0 = true ∧ fBit s 2 5 2 = true ∧ avsNext s = fPart s 2 4 0 10 ∧ 2 ≤ s.pwr.avsFails := by decide +kernel

/-! ### Keys -/

/-- MGT executes `key.use` with its descriptor in the last 32 bytes of its home. -/
def kd (l : List Word) (slots : Tbl KeySlot) (streams : Tbl KeyStream) : State :=
  let s := mgt [(1, 0x1FFFE0)]
  setWords { s with key := { s.key with slots := slots, streams := streams } } 0x00101FFFE0 l

/-- `KeyReady` as a test. -/
def keyReady (s : State) (o : Nat) (d : KeyDesc) : Bool :=
  !s.key.locked && decide (o + 32 ≤ 0x200000) && decide (d = readKeyDesc s o) && d.fits && s.mem.ecc.isEmpty
    && (decide (d.outOfs + d.cap ≤ o) || decide (o + 32 ≤ d.outOfs))

theorem ready_of {s : State} {o : Nat} {d : KeyDesc} (x : keyReady s o d = true) : KeyReady s o d := by
  simp only [keyReady, Bool.and_eq_true, Bool.or_eq_true, decide_eq_true_eq, Bool.not_eq_true', List.isEmpty_iff] at x
  exact ⟨x.1.1.1.1.1, x.1.1.1.1.2, x.1.1.1.2, x.1.1.2, by simp [x.1.2], x.2⟩

/-- It runs with that descriptor: instruction `op`, rd = r31, ra = r1. -/
def keyRuns (s : State) (op : Nat) : Bool :=
  runs s (hd .mgt) 0 { word := encA 0b110110 31 1 0 op, grp := .key } && keyReady s (reg s 0 1).toNat (readKeyDesc s 0x1FFFE0)

theorem key_runs {s : State} {op : Nat} (x : keyRuns s op = true) :
    Runs s (hd .mgt) 0 { word := encA 0b110110 31 1 0 op, grp := .key } ∧ KeyReady s (reg s 0 1).toNat (readKeyDesc s 0x1FFFE0) := by
  rw [keyRuns, Bool.and_eq_true] at x
  exact ⟨runs_of x.1, ready_of x.2⟩

/-- The last slot holds a key with one use left. -/
def slot255 (kind perms len : Nat) : Tbl KeySlot :=
  [(255, { st := 1, kind := kind, perms := perms, counted := true, uses := 1, key := List.replicate len 3 })]
def seven : Tbl KeyStream := (List.range 7).map (fun n => (n + 1, {}))
/-- Opens a stream on slot 255 with 65,536 bytes of input and an iv. -/
def ka : State := kd [0xFF, 0, 65536, 0, 0, 0, 0x1FFFD0, 12] (slot255 1 7 32) seven
/-- Goes on with handle 8: one byte of input; the output's 16 bytes end where the descriptor begins. -/
def kb (op len : Nat) : State :=
  kd [0x080000, 0, BitVec.ofNat 32 len, 0x1FFFD0, 16, 0, 0, 0] (slot255 1 7 32) [(8, { op := op, slot := 255, iv := List.replicate 12 1 })]

/-- `KeyStreamsOpenContinueAndEnd`: the last slot and the last handle. -/
theorem witness_streams :
    usable ka 255
    ∧ (keyRuns ka 2 = true ∧ keyRuns ka 3 = true ∧ keyRuns ka 4 = true ∧ freeHandle ka = some 8 ∧ keyCheck ka 255 [1] (some 0) = 0
      ∧ keyCheck ka 255 [1] (some 1) = 0 ∧ keyCheck ka 255 [1] (some 2) = 0
      ∧ (readKeyDesc ka 0x1FFFE0).a = 255 ∧ (readKeyDesc ka 0x1FFFE0).auxLen = 12 ∧ (readKeyDesc ka 0x1FFFE0).inLen ≤ 65536)
    ∧ (∀ op ∈ [2, 3, 4], let d := readKeyDesc (kb op 1) 0x1FFFE0;
      keyRuns (kb op 1) 5 = true ∧ keyRuns (kb op 16) 6 = true ∧ keyRuns (kb op 1) 7 = true
      ∧ Tbl.find (kb op 1).key.streams d.handle = some { op := op, slot := 255, iv := List.replicate 12 1 }
      ∧ (readKeyDesc (kb op 16) 0x1FFFE0).handle = 8 ∧ (readKeyDesc (kb op 16) 0x1FFFE0).inLen = 16
      ∧ 0 < d.inLen ∧ d.inLen ≤ 65536 ∧ d.inLen ≤ d.cap ∧ 16 ≤ d.cap)
    ∧ (gcmCtr (List.replicate 32 3) (List.replicate 12 1) 0 [0]).length ≤ 16
    ∧ (cmac256 (List.replicate 32 3) []).length ≤ 16 :=
  ⟨by unfold usable; decide +kernel, by decide +kernel⟩

/-- The descriptor of an operation on slot `a`, with `b` in its second byte: input and aux at 0x100000, the output of `cap` bytes behind. -/
def ko (a b inLen cap auxLen : Nat) (aux : List Byte) (slots : Tbl KeySlot) : State :=
  setBytes (kd [BitVec.ofNat 32 (a + 256 * b), 0x100000, BitVec.ofNat 32 inLen, 0x110000, BitVec.ofNat 32 cap, 0, 0x100000, BitVec.ofNat 32 auxLen]
    slots []) 0x0010100000 aux
/-- An aux block that makes a 384-bit key, with the longest label. -/
def auxKey : List Byte := [2, 0, 0, 0, 0, 0, 0, 0, 0, 0, 0, 0] ++ List.replicate 64 7

theorem sha384_len (m : List Byte) : (sha384 m).length ≤ 48 := by
  unfold sha384; exact List.length_take_le _ _

/-- `KeyOperationsAnswerWithTheirResult`: what each operation needs. -/
theorem witness_operations :
    (keyRuns (ko 255 0 0 96 0 [] []) 1 = true ∧ (slotRecord (ko 255 0 0 96 0 [] []) 255).length ≤ 96)
    ∧ (keyRuns (ko 0 0 65536 48 0 [] []) 0xA = true)
    ∧ (let s := ko 255 0 0 96 0 [] (slot255 4 0 96);
      keyRuns s 0x10 = true ∧ keyCheck s 255 [3, 4, 5] none = 0 ∧ (keySlot s 255).pub.length ≤ 96)
    ∧ (keyRuns (ko 0 0 0 4096 0 [] []) 0xF = true ∧ (ko 0 0 0 4096 0 [] []).key.entropyFail = false)
    ∧ (let s := ko 255 0 48 96 0 [] (slot255 3 8 48); keyRuns s 8 = true ∧ keyCheck s 255 [3] (some 3) = 0 ∧ s.key.entropyFail = false)
    ∧ (let s := ko 0 0 0 4096 48 [] factorySlots; keyRuns s 0xE = true ∧ keyCheck s 1 [3] none = 0 ∧ s.key.entropyFail = false)
    ∧ (let s := ko 255 254 0 0 76 auxKey [];
      let t := ko 255 254 0 0 76 auxKey (slot255 2 32 48);
      let x : KeyAux := { kind := 2, perms := 0, expire := false, counted := false, uses := 0, label := List.replicate 64 7 };
      keyRuns s 0xC = true ∧ readKeyAux ((readKeyDesc s 0x1FFFE0).aux s) = some x ∧ makeCheck s (readKeyDesc s 0x1FFFE0) 255 x = 0
      ∧ keyRuns t 0xB = true ∧ readKeyAux ((readKeyDesc t 0x1FFFE0).aux t) = some x ∧ keyCheck t 255 [2] (some 5) = 0
      ∧ makeCheck t (readKeyDesc t 0x1FFFE0) 255 x = 0)
    ∧ (let s := ko 255 0 48 0 96 [] (slot255 4 16 96); keyRuns s 9 = true ∧ keyCheck s 255 [4] (some 4) = 0)
    ∧ (let s := ko 4 0 0 0 0 [] [(4, { st := 5, kind := 1, perms := 0x400 })];
      keyRuns s 0xD = true ∧ (keySlot s 4).holds = true ∧ (keySlot s 4).perms.testBit 10 = true) := by decide +kernel

/-- The counted slot allows its last use, the attestation key any; the statement with its signature fits. -/
theorem witness_operations_fit (nonce : List Byte) (h : nonce.length ≤ 32) :
    (∀ s : State, s.key.slots = slot255 4 16 96 ∨ s.key.slots = slot255 3 8 48 ∨ s.key.slots = slot255 2 32 48 → usable s 255)
    ∧ usable (ko 0 0 0 4096 48 [] factorySlots) 1
    ∧ (sha384 []).length ≤ 48
    ∧ (statement (ko 0 0 0 4096 48 [] factorySlots) nonce []).length + 96 ≤ 4096 := by
  refine ⟨?_, by unfold usable; decide +kernel, sha384_len _, ?_⟩
  · intro s hs
    rcases hs with hs | hs | hs <;> simp [usable, keySlot, hs, slot255, Tbl.get, Tbl.find]
  · have hp : ∀ x : KeySlot, x.fp.length ≤ 48 → x.print.length ≤ 48 := by
      intro x hx
      unfold KeySlot.print
      split
      · split
        · exact hx
        · exact sha384_len _
      · simp
    have := hp (keySlot (ko 0 0 0 4096 48 [] factorySlots) 1) (by decide +kernel)
    have hm : (ko 0 0 0 4096 48 [] factorySlots).key.meas = [] := by decide +kernel
    simp only [statement, hm, List.length_append, List.flatMap_nil, List.flatMap_cons, leBytes_length, List.length_cons, List.length_nil,
      List.append_nil]
    omega

/-- `KeyProtectionRefusesAndErases`: KEY is locked; the descriptor ends one byte outside; a source with LOCK fires; the operations on both sides. -/
theorem witness_refusals :
    (let s := ko 0 0 0 0 0 [] [];
      let l := { s with key := { s.key with locked := true } };
      l.key.locked = true ∧ runs l (hd .mgt) 0 { word := encA 0b110110 31 1 0 1, grp := .key } = true)
    ∧ (let s := mgt [(1, 0x1FFFE1)];
      runs s (hd .mgt) 0 { word := encA 0b110110 31 1 0 0x10, grp := .key } = true ∧ s.key.locked = false
      ∧ 0x200000 < (reg s 0 1).toNat + 32)
    ∧ (let s := withF (ko 0 0 0 0 0 [] []) [(0x26, 2, 0x8000)]; keyRuns s 1 = true ∧ 2 ≤ tamperResponse s 7)
    ∧ ((0 : BitVec 8).toNat = 0 ∧ 0x10 < (0x11 : BitVec 8).toNat ∧ (ko 0 0 0 0 0 [] []).key.locked = false
      ∧ runs (ko 0 0 0 0 0 [] []) (hd .mgt) 0 { word := encA 0b110110 31 1 0 0x11, grp := .key } = true) := by decide +kernel

/-- The device runs, source 7 has a response, slot 255 holds a key. -/
def kt (resp : Word) (fail : Bool) : State :=
  let s := withF State.reset [(2, 0xD, 0x3000000), (0x26, 2, resp <<< 14)]
  { s with key := { s.key with slots := slot255 2 32 48, entropyFail := fail } }

/-- `KeyProtectionRefusesAndErases`: the last slot and the last source, each response. -/
theorem witness_tamper :
    (∀ r ∈ [1, 2, 3], let s := kt (BitVec.ofNat 32 r) true; s.pwr.asleep = false ∧ deviceRuns s = true ∧ tamperResponse s 7 = r)
    ∧ (BitVec.ofNat 256 (2 ^ 255)).getLsbD 255 = true ∧ (keySlot (kt 1 true) 255).holds = true ∧ (kt 1 true).key.entropyFail = true := by
  decide +kernel

/-! ### The panel -/

/-- HMI is on with a control word, a configuration and a Halo word. -/
def hm (run cfg halo : Word) (x : Hmi) : State := { withF (on State.reset) [(0x27, 1, run), (0x27, 2, cfg), (0x27, 0xB, halo)] with hmi := x }

/-- `PanelFramesAndHaloReadings`: a frame boundary, the pump of an LCD that starts, a conversion requested or refused for the third
time, a reading at the limit that is the last one to a crack. -/
theorem witness_panel :
    (let s := hm 1 0 0 { lcd := some {} }; hmiOn s = true ∧ s.hmi.lcd = some {} ∧ Tbl.find s.cfg.pend 0x27 = none)
    ∧ (let s := hm 1 0x100 0 {};
      hmiOn s = true ∧ fBit s 0x27 2 8 = true ∧ fBit s 0x27 1 0 = true ∧ fBit s 0x27 2 0 = false ∧ s.hmi.lcd = none ∧ s.hmi.bistable = false)
    ∧ (let s := hm 0 0 0x80000000 {}; hmiOn s = true ∧ fBit s 0x27 0xB 31 = true ∧ domainOn s 5 = true)
    ∧ (let s := withF (hm 0 0 0x80000000 { haloRefused := 2 }) [(2, 2, 0x200)];
      hmiOn s = true ∧ fBit s 0x27 0xB 31 = true ∧ domainOn s 5 = false ∧ s.hmi.haloRefused = 2)
    ∧ (let s := hm 0 0 0x8003FFFF { haloReq := true, haloOpen := 2 };
      hmiOn s = true ∧ s.hmi.haloReq = true ∧ fPart s 0x27 0xB 0 16 ≤ (0xFFFF : BitVec 16).toNat
      ∧ fPart s 0x27 0xB 16 8 ≤ s.hmi.haloOpen + 1 ∧ fBit s 0x27 0xE 2 = false) := by decide +kernel

/-- The last runner updates the whole panel and has completed `n` frames of 24; the last ring position holds its BEGIN. -/
def hu (n : Nat) : HmiUpd := { req := { rect := 0x38B0, target := List.replicate 12 0x0F }, phaseN := 12, frame := n, slot := 1019 }
def hb (n : Nat) : State := hm 1 1 0 { bistable := true, running := [(3, hu n)] }

/-- The panel waits for its recovery. -/
def hr : State := hm 1 1 0 { rcv := .scan }
def balCopy : List Byte := [9, 0, 0, 0] ++ List.replicate 96 5 ++ List.replicate 24 0

/-- `BistableUpdatesAreBalancedAndJournalled`: a frame before the last and the last; a recovery without a balance copy and with copy A. -/
theorem witness_bistable :
    (∀ n ∈ [22, 23], let s := hb n;
      hmiOn s = true ∧ s.hmi.bistable = true ∧ s.hmi.rcv = .none ∧ 3 < 4 ∧ s.hmi.running = [(3, hu n)] ∧ (hu n).drives = true
      ∧ (hu n).slot < 1020 ∧ s.hmi.queue = [] ∧ Tbl.find s.cfg.pend 0x27 = none ∧ fBit s 0x27 1 0 = true)
    ∧ ((hu 22).frame + 1 < 2 * (hu 22).phaseN ∧ (hu 23).frame + 1 = 2 * (hu 23).phaseN)
    ∧ (hmiOn hr = true ∧ hr.hmi.rcv = .scan ∧ balValid hr false = none ∧ balValid hr true = none)
    ∧ (let s := setBytes hr (balAddr false) (balCopy ++ leBytes 4 (crc32c balCopy).toNat);
      hmiOn s = true ∧ s.hmi.rcv = .scan ∧ balValid s false = some 9 ∧ balValid s true = none) := by
  decide +kernel

/-- No entry of the ring is written in either of them. -/
theorem witness_ring (bs : List Byte) (h : bs.length ≤ 256) : ∀ k < 1020, ringEntry (setBytes hr (balAddr false) bs) k = none := by
  intro k hk
  have hz : ∀ i < 64, memByte (setBytes hr (balAddr false) bs) (ringAddr k + i) = 0 := by
    intro i hi
    have hp : plainAddr (ringAddr k + i) := by constructor <;> unfold ringAddr <;> omega
    rw [memByte_setBytes_out _ _ _ _ hp (Or.inr (by unfold ringAddr balAddr; simp; omega))]
    exact memByte_unlisted _ _ hp rfl rfl
  have hm : memBytes (setBytes hr (balAddr false) bs) (ringAddr k) 64 = List.replicate 64 0 := by
    refine List.ext_getElem (by simp [memBytes]) ?_
    intro i h1 h2
    simp only [memBytes, List.getElem_map, List.getElem_range, List.getElem_replicate]
    exact hz i (by simpa [memBytes] using h1)
  unfold ringEntry
  simp only [hm]
  rw [if_pos (Or.inl (by decide))]

/-! ### Further witnesses -/

/-- `ResetsAndStartUpKeepWhatIsNonVolatile`: the first and the last byte of MRAM, and of the memory in front of it. -/
theorem witness_kept : let s := setW (setW State.reset 0x0C00000000 5) 0x0C007FFFFC 6
    memByte s 0x0C00000000 = 5 ∧ memByte s 0x0C007FFFFC = 6 ∧ 0x0BFFFFFFFF < 0x0C00000000 ∧ (16 : Nat) ≤ 0x10 := by decide

/-- `KeyStreamsOpenContinueAndEnd`: a stream that is broken, and a handle without one. -/
theorem witness_stream_rest :
    (let s := kd [0x080000, 0, 1, 0x1FFFD0, 16, 0, 0, 0] (slot255 1 7 32) [(8, { op := 2, slot := 255, broken := 0x11 })];
      keyRuns s 5 = true ∧ Tbl.find s.key.streams 8 = some { op := 2, slot := 255, broken := 0x11 })
    ∧ (let s := kd [0x090000, 0, 1, 0x1FFFD0, 16, 0, 0, 0] (slot255 1 7 32) [];
      keyRuns s 5 = true ∧ Tbl.find s.key.streams (readKeyDesc s 0x1FFFE0).handle = none) := by decide +kernel

/-- `KeyProtectionRefusesAndErases`: a source that fires in sleep, and before the device runs. -/
theorem witness_tamper_rest :
    (let s := { kt 2 false with pwr := { State.reset.pwr with asleep := true } }; s.pwr.asleep = true ∧ deviceRuns s = true ∧ tamperResponse s 7 = 2)
    ∧ deviceRuns (withF (kt 2 false) [(2, 0xD, 0)]) = false ∧ tamperResponse (withF (kt 2 false) [(2, 0xD, 0)]) 7 = 2 := by decide +kernel

/-- `PowerChangesComplete`: each reason for which a sleep is refused, a core's transition, a wake by the tamper latch and none, a
transaction that fails, a change that is not done. -/
theorem witness_power_rest :
    fBit (withF (sl 0x1000) [(0x0C, 1, 1)]) 0x0C 1 0 = true
    ∧ ¬ ({ sl 0x1000 with hmi := { State.reset.hmi with queue := [{}] } }.hmi.queue = [])
    ∧ ¬ (fBit (withF (sl 0x1000) [(0x23, 1, 1), (0x23, 2, 1)]) 0x23 1 0 = false ∨ roleCfg (withF (sl 0x1000) [(0x23, 1, 1), (0x23, 2, 1)]) = 0)
    ∧ { sl 0x1000 with gate := [{ target := 0, change := .payload 0 [] }] }.gate ≠ []
    ∧ pendFind { sl 0x1000 with cfg := { (sl 0x1000).cfg with pend := [(2, [(fid 2 3, 0xFF)])] } } 2 3 ≠ none
    ∧ fPart (sl 0) 2 6 0 13 = 0 ∧ fBit (sl 0x1000) 0x0C 1 0 = false ∧ (sl 0x1000).gate = [] ∧ (sl 0x1000).pwr.switches = []
    ∧ (let s := { State.reset with pwr := { State.reset.pwr with switches := [{ core := true, idx := 7, on := true }] } };
      s.pwr.switches = [{ core := true, idx := (7 : Fin 8).val, on := true }])
    ∧ (let s := { sl 0 with pwr := { (sl 0).pwr with asleep := true }, key := { State.reset.key with latch := 1 } };
      s.pwr.asleep = true ∧ s.key.latch ≠ 0)
    ∧ (let s := withF State.reset [(2, 4, 740), (2, 5, 5)]; s.pwr.avsFails < 2 ∧ fBit s 2 5 0 = true ∧ fBit s 2 5 2 = true ∧ s.pwr.asleep = false)
    ∧ fBit State.reset 2 5 2 = false := by decide +kernel

/-- `PanelFramesAndHaloReadings`: a pump of a bistable panel, a reading below the limit, one while an urgent conversion runs. -/
theorem witness_panel_rest :
    (let s := hm 1 0x101 0 {}; fBit s 0x27 2 0 = true ∧ fBit s 0x27 2 8 = true ∧ s.hmi.bistable = false ∧ s.hmi.lcd = none)
    ∧ (let s := hm 0 0 0x8003FFFF { haloReq := true };
      s.hmi.haloReq = true ∧ domainOn s 5 = true ∧ haloHas s = true ∧ adcCode 0 < fPart s 0x27 0xB 0 16)
    ∧ (let s := { hm 0 0 0x80000000 { haloReq := true } with afe := [(15, { urgRun := true })] }; haloHas s = false)
    ∧ (hm 0 0 0 {}).hmi.lcd = none ∧ fBit (hm 0 0 0 {}) 0x27 2 8 = false ∧ fBit (hm 0 0 0 {}) 0x27 0xB 31 = false := by decide +kernel

/-- `BistableUpdatesAreBalancedAndJournalled`: what was open is balanced first; both balance copies are valid. -/
theorem witness_bistable_rest :
    (let s := hm 1 1 0 { bistable := true, rcv := .balance, opens := [{ req := { rect := 0x38B0 } }] };
      s.hmi.rcv = .balance ∧ s.hmi.running = [] ∧ s.hmi.opens = [{ req := { rect := 0x38B0 } }] ∧ ([] : List HmiOpen).length < 4 ∧ s.mem.ecc = [])
    ∧ (let c := balCopy ++ leBytes 4 (crc32c balCopy).toNat;
      let s := setBytes (setBytes hr (balAddr false) c) (balAddr true) c;
      balValid s false = some 9 ∧ balValid s true = some 9)
    ∧ (hb 0).hmi.opens = [] ∧ (hb 0).mem.ecc = [] ∧ (hb 0).hmi.rcv ≠ .scan ∧ hr.hmi.bistable = false := by decide +kernel

/-- `CalendarAndBackupDomainKeepTime`: WAKE_BTN is high, and the oscillator has stopped. -/
theorem witness_backup_rest : fBit (withF State.reset [(0x25, 0xB, 8)]) 0x25 0xB 3 = true ∧ fBit (withF State.reset [(0x25, 0xB, 64)]) 0x25 0xB 6 = true := by
  decide

end Keeping

namespace Whole

/-! ## Witnesses: the block as a whole -/

/-- Two commands wait; MGT runs with r3 naming a word of its home, and one byte is listed. -/
def w0 : State :=
  setW { mgt [(2, 7), (3, 0x1000)] with pending := [.stW (hd .mgt) 2 3 1, .oscStop] } 0x0010001000 5

/-- `StepRunsTheFrontCommand`, `EveryQueueIsWorkedOff`: a queue of two and an empty one. -/
theorem witness_queue : w0.pending = .stW (hd .mgt) 2 3 1 :: [.oscStop] ∧ w0.pending ≠ [] ∧ State.reset.pending = [] := by decide

/-- `EveryStepKeepsThePinsSafe`: an event that leaves the safety outputs off, and the step of an idle block. -/
theorem witness_steps : ∃ t u, step { State.reset with pending := [.refClkLoss] } = .next t ∧ step State.reset = .next u := ⟨_, _, rfl, rfl⟩

/-- `RegisterResultsChangeNothingElse`: an `addi` that writes r31. -/
theorem witness_result : ∃ t,
    Writes w0 (hd .mgt) 0 (.addi (hd .mgt) 31 2 0x3FFF) { word := encI 0b00100 31 2 0x3FFF, grp := .alu } 31 6
    ∧ Runs w0 (hd .mgt) 0 { word := encI 0b00100 31 2 0x3FFF, grp := .alu }
    ∧ exec (.addi (hd .mgt) 31 2 0x3FFF) w0 = .next t ∧ (31 : Reg) ≠ 0 :=
  ⟨_, fun _ => rfl, runs_of (by decide), rfl, by decide⟩

/-- `StoresKeepMemoryCanonical`: a store into memory that lists a byte. -/
theorem witness_canonical : MemoryOk w0 ∧ ∃ t, exec (.stW (hd .mgt) 2 3 1) w0 = .next t := ⟨by decide, ⟨_, rfl⟩⟩

/-- `UnitsThatAreOffTakeNothing`: all domains are off. -/
theorem witness_off : let s := withF State.reset [(2, 2, 0)]
    canOn s 7 = false ∧ hmiOn s = false ∧ mtrRuns s = false ∧ twinRuns s = false := by decide

end Whole

end Sys2Proof.Tests
end

section
/-! SUPPORT. What a read gives after a write, an event or a record; and what each command of the twin link does (R475 to R483, R491,
R495). -/
namespace Sys2Proof.Machine

/-! ## Fields: what a read gives after a write -/

@[simp] theorem fGet_fSet_self (s : State) (u f : Nat) (v : Word) : fGet (fSet s u f v) u f = v :=
  Tbl.get_put_self _ _ _ _

theorem fGet_fSet_ne (s : State) (u f u' f' : Nat) (v : Word) (h : fid u f ≠ fid u' f') :
    fGet (fSet s u' f' v) u f = fGet s u f := Tbl.get_put_ne _ _ _ _ _ _ h

/-- Fields whose numbers differ within a unit are different fields, whatever their units. -/
theorem fid_ne_of_field_ne (u f u' f' : Nat) (h : f % 1024 ≠ f' % 1024) : fid u f ≠ fid u' f' := by
  unfold fid
  omega

/-- Counting in a field leaves every other field alone. -/
theorem fGet_fInc_ne (s : State) (u f u' f' lo len : Nat) (h : fid u f ≠ fid u' f') :
    fGet (fInc s u' f' lo len) u f = fGet s u f := fGet_fSet_ne s u f u' f' _ h

/-- The bit just set is set. -/
theorem tst_setField_one (w : Word) (k : Nat) (hk : k < 32) : (w.setField k 1 1).tst k = true := by
  have hp : 0 < 2 ^ k := Nat.two_pow_pos k
  have hd : (w.toNat - w.toNat / 2 ^ k % 2 * 2 ^ k + 2 ^ k) / 2 ^ k = w.toNat / 2 ^ k - w.toNat / 2 ^ k % 2 + 1 := by
    rw [Nat.add_div_right _ hp, Nat.mul_comm, Nat.sub_mul_div]
  simp only [Word.setField, Word.field, Word.tst, Word.ofN, BitVec.getLsbD_ofNat, hk, decide_true, Bool.true_and, pow_one,
    Nat.one_mod, one_mul, Nat.testBit_eq_decide_div_mod_eq, hd, decide_eq_true_eq]
  omega

theorem fBit_fSetBit_true (s : State) (u f k : Nat) (hk : k < 32) : fBit (fSetBit s u f k true) u f k = true := by
  unfold fBit fSetBit fSetPart
  rw [fGet_fSet_self]
  exact tst_setField_one _ k hk

/-! ## Events and records: what a report leaves pending, and which fields it may change -/

theorem evtPending_evtSetAll_self (s : State) (e n : Nat) (he : e < 32) : evtPending (evtSetAll s n) e n = true := by
  simp only [evtPending, evtSetAll, Word.tst, Tbl.get_put_self, BitVec.getLsbD_allOnes, he, decide_true]

/-- An event that occurs clears no pending bit. -/
theorem evtPending_evtSetAll (s : State) (m e n : Nat) (he : e < 32) (h : evtPending s e n = true) :
    evtPending (evtSetAll s m) e n = true := by
  by_cases hn : n = m
  · exact hn ▸ evtPending_evtSetAll_self s e n he
  · simpa [evtPending, evtSetAll, Tbl.get_put_ne _ _ _ _ _ _ hn] using h

/-- A pending bit stays through the overruns that an event counts. -/
theorem evtPending_overruns (l : List (Nat × Nat)) (s : State) (e n : Nat) (he : e < 32) (h : evtPending s e n = true) :
    evtPending (l.foldl (fun s (c, t) => evtSetAll (fInc s (4 + c) (taskField t 6) 16 16) (64 + 16 * c)) s) e n = true :=
  List.foldlRecOn (motive := fun s => evtPending s e n = true) l _ h (fun _ hs _ _ => evtPending_evtSetAll _ _ e n he hs)

theorem evtPending_raise_self (s : State) (e n : Nat) (he : e < 32) : evtPending (raise s n) e n = true :=
  evtPending_overruns _ _ e n he (evtPending_evtSetAll_self _ e n he)

theorem evtPending_raise (s : State) (m e n : Nat) (he : e < 32) (h : evtPending s e n = true) :
    evtPending (raise s m) e n = true :=
  evtPending_overruns _ _ e n he (evtPending_evtSetAll _ m e n he h)

theorem evtPending_post (s : State) (src sev code : Nat) (payload : List Word) (e n : Nat) (he : e < 32)
    (h : evtPending s e n = true) : evtPending (post s src sev code payload) e n = true := by
  unfold post enqueue
  split
  · exact h
  · split
    · exact evtPending_raise _ 577 e n he h
    · exact h

theorem evtPending_raisePost_self (s : State) (src sev n : Nat) (payload : List Word) (e : Nat) (he : e < 32) :
    evtPending (raisePost s src sev n payload) e n = true :=
  evtPending_post _ src sev n payload e n he (evtPending_raise_self s e n he)

/-- An event changes no field but the overrun counts of the cycle cores' tasks. -/
theorem fGet_raise (s : State) (n u f : Nat) (hu : u < 4 ∨ 12 ≤ u) (hf : f < 1024) : fGet (raise s n) u f = fGet s u f := by
  unfold raise
  refine List.foldlRecOn (motive := fun t => fGet t u f = fGet s u f) _ _ rfl (fun t ht x hx => ?_)
  have hx : x ∈ coreTasks := (List.mem_filter.1 hx).1
  obtain ⟨i, hi, rfl⟩ := List.mem_map.1 hx
  have hi := List.mem_range.1 hi
  refine Eq.trans (fGet_fInc_ne t u f _ _ 16 16 ?_) ht
  unfold fid taskField
  omega

/-- A record changes no field outside the cycle cores and the Almanac. -/
theorem fGet_post (s : State) (src sev code : Nat) (payload : List Word) (u f : Nat) (hu : u < 4 ∨ 12 ≤ u) (h24 : u ≠ 0x24)
    (hf : f < 1024) : fGet (post s src sev code payload) u f = fGet s u f := by
  have alm (k lo len : Nat) (hk : k < 1024) : fGet (fInc s 0x24 k lo len) u f = fGet s u f :=
    fGet_fInc_ne s u f 0x24 k lo len (by unfold fid; omega)
  unfold post enqueue
  split
  · exact alm _ _ _ (by decide)
  · split
    · exact (fGet_raise _ 577 u f hu hf).trans (alm (4 + sev % 4) 0 32 (by omega))
    · rfl

theorem fGet_raisePost (s : State) (src sev n : Nat) (payload : List Word) (u f : Nat) (hu : u < 4 ∨ 12 ≤ u) (h24 : u ≠ 0x24)
    (hf : f < 1024) : fGet (raisePost s src sev n payload) u f = fGet s u f :=
  (fGet_post _ src sev n payload u f hu h24 hf).trans (fGet_raise s n u f hu hf)

theorem raisePost_reports (s : State) (src sev n : Nat) (payload : List Word) : Reports s (raisePost s src sev n payload) :=
  (raise_reports s n).trans (post_reports _ src sev n payload)

theorem Reports.twin_eq {s t : State} (h : Reports s t) : t.twin = s.twin := by
  obtain ⟨m, c, e, a, l, rfl⟩ := h
  rfl

@[simp] theorem raise_twin (s : State) (n : Nat) : (raise s n).twin = s.twin := (raise_reports s n).twin_eq

@[simp] theorem raisePost_twin (s : State) (src sev n : Nat) (payload : List Word) :
    (raisePost s src sev n payload).twin = s.twin := (raisePost_reports s src sev n payload).twin_eq

/-! ## ZENITH pins and lanes (R475, R477) -/

theorem zenithInLow_gives (s : State) : Gives s .zenithInLow { s with twin := { s.twin with
    zinLow := true, zenithOut := s.twin.zenithOut || (holdsZenith s && twinRuns s) } } := rfl

/-- The state in which a rise of ZENITH_IN is noted and reported (R475). -/
def zenithRisen (s : State) : State := raisePost { s with twin := { s.twin with zinLow := false } } 0x23 3 572 []

@[simp] theorem zenithRisen_twin (s : State) : (zenithRisen s).twin = { s.twin with zinLow := false } := raisePost_twin _ _ _ _ _

theorem zenithInRise_asserted (s : State) (h : s.twin.zenithOut = true) : Gives s .zenithInRise
    (if (zenithRisen s).twin.solo then { zenithRisen s with twin := { (zenithRisen s).twin with zenithOut := false } }
      else zenithRisen s) := congrArg (done s) (if_pos h)

/-- A rise is reported while ZENITH_OUT is asserted, which stays unless the holder is alone (R475). -/
theorem zenithInRise_reported (s : State) (h : s.twin.zenithOut = true) : ∃ t, Gives s .zenithInRise t ∧ t.twin.zinLow = false
    ∧ evtPending t 0 572 = true ∧ t.twin.zenithOut = !s.twin.solo := by
  have told : evtPending (zenithRisen s) 0 572 = true := evtPending_raisePost_self _ _ _ _ _ 0 (by decide)
  refine ⟨_, zenithInRise_asserted s h, ?_⟩
  rw [zenithRisen_twin]
  cases hs : s.twin.solo
  · exact ⟨by simp, told, by simp [h]⟩
  · exact ⟨rfl, told, rfl⟩

theorem zenithInRise_quiet (s : State) (h : s.twin.zenithOut = false) :
    Gives s .zenithInRise { s with twin := { s.twin with zinLow := false } } := congrArg (done s) (if_neg (by simp [h]))

@[simp] theorem laneUp_setLane (s : State) (l : Lane) (b : Bool) : laneUp (setLane s l b) l = b := by cases l <;> rfl

theorem laneUp_congr {s t : State} (h : t.twin = s.twin) (l : Lane) : laneUp t l = laneUp s l := by
  cases l <;> simp only [laneUp, h]

@[simp] theorem fInc_twin (s : State) (u f lo len : Nat) : (fInc s u f lo len).twin = s.twin := rfl

theorem laneLoss_up (s : State) (l : Lane) (h : laneUp s l = true) :
    ∃ t, Gives s (.laneLoss l) t ∧ laneUp t l = false ∧ evtPending t 0 567 = true := by
  refine ⟨_, rfl, ?_⟩
  rw [if_pos h]
  exact ⟨(laneUp_congr (by simp) l).trans (laneUp_setLane s l false), evtPending_raisePost_self _ _ _ _ _ 0 (by decide)⟩

theorem laneLoss_down (s : State) (l : Lane) (h : laneUp s l = false) : Gives s (.laneLoss l) s :=
  congrArg (done s) (if_neg (by simp [h]))

theorem laneRegained_up (s : State) (l : Lane) (h : laneUp s l = true) : Gives s (.laneRegained l) s :=
  congrArg (done s) (if_pos h)

theorem laneRegained_down (s : State) (l : Lane) (h : laneUp s l = false) :
    ∃ t, Gives s (.laneRegained l) t ∧ laneUp t l = true ∧ evtPending t 0 568 = true := by
  refine ⟨_, rfl, ?_⟩
  rw [if_neg (by simp [h])]
  exact ⟨(laneUp_congr (by simp) l).trans (laneUp_setLane s l true), evtPending_raise_self _ 0 568 (by decide)⟩

/-! ## Epochs that are seen (R493, R496) -/

theorem seeEpoch_eq (s : State) (e : Word) : seeEpoch s e =
    { s with twin := { s.twin with seen := if s.twin.seen.toNat < e.toNat then e else s.twin.seen } } := by
  unfold seeEpoch
  split <;> rfl

/-- An epoch that is not above the highest one seen shows nothing new. -/
theorem seeEpoch_known (s : State) (e : Word) (h : e.toNat ≤ s.twin.seen.toNat) : seeEpoch s e = s :=
  if_neg (Nat.not_lt.2 h)

/-- A unit that is not ACTIVE, or whose epoch is as high, only sees the epoch. -/
theorem learnEpoch_keeps (s : State) (e : Word) (h : s.twin.role ≠ .active ∨ e.toNat ≤ s.twin.ep.toNat) :
    learnEpoch s e = seeEpoch s e := by
  have hn : ¬ ((seeEpoch s e).twin.role = .active ∧ (seeEpoch s e).twin.ep.toNat < e.toNat) := by
    rw [seeEpoch_eq]
    rintro ⟨ha, hl⟩
    exact h.elim (fun h => h ha) (fun h => Nat.not_lt.2 h hl)
  exact if_neg hn

/-- An ACTIVE unit that learns of a higher epoch is demoted. -/
theorem learnEpoch_demotes (s : State) (e : Word) (ha : s.twin.role = .active) (hl : s.twin.ep.toNat < e.toNat) :
    learnEpoch s e = twinDemote (seeEpoch s e) 563 := by
  have hy : (seeEpoch s e).twin.role = .active ∧ (seeEpoch s e).twin.ep.toNat < e.toNat := by
    rw [seeEpoch_eq]
    exact ⟨ha, hl⟩
  exact if_pos hy

@[simp] theorem twinDemote_role (s : State) (n : Nat) : (twinDemote s n).twin.role = .demoted := by simp [twinDemote]

/-- An epoch that is learned makes no unit anything but DEMOTED. -/
theorem learnEpoch_role (s : State) (e : Word) :
    (learnEpoch s e).twin.role = s.twin.role ∨ (learnEpoch s e).twin.role = .demoted := by
  by_cases h : s.twin.role ≠ .active ∨ e.toNat ≤ s.twin.ep.toNat
  · exact .inl (by rw [learnEpoch_keeps s e h, seeEpoch_eq])
  · obtain ⟨ha, hl⟩ := not_or.1 h
    exact .inr (by rw [learnEpoch_demotes s e (not_not.1 ha) (Nat.not_le.1 hl), twinDemote_role])

/-! ## HELLO (R479, R491, R495) -/

@[simp] theorem twinRuns_clearTx (s : State) : twinRuns (clearTx s) = twinRuns s := rfl
theorem clearTx_role (s : State) : (clearTx s).twin.role = s.twin.role := rfl
@[simp] theorem roleCfg_clearTx (s : State) : roleCfg (clearTx s) = roleCfg s := rfl
@[simp] theorem laneUp_clearTx (s : State) (l : Lane) : laneUp (clearTx s) l = laneUp s l := by cases l <;> rfl

theorem helloTx_paired (s : State) (h : twinRuns s = true ∧ roleCfg s = 1) : ∃ t, Gives s .helloTx t ∧ t.twin.tx.length = 1
    ∧ ∀ g ∈ t.twin.tx, g.ty = 1 ∧ g.ep = s.twin.ep ∧ g.state = s.twin.role.code ∧ g.period = critPeriodUs s / 10
        ∧ g.lines = helloLines s := by
  have hp : (twinRuns (clearTx s) && roleCfg (clearTx s) == 1) = true := by
    simp [h]
  refine ⟨_, rfl, ?_⟩
  dsimp only
  rw [if_pos hp]
  refine ⟨rfl, fun g hg => ?_⟩
  obtain rfl := List.mem_singleton.1 hg
  exact ⟨rfl, rfl, rfl, rfl, rfl⟩

theorem helloTx_unpaired (s : State) (h : ¬ (twinRuns s = true ∧ roleCfg s = 1)) : Gives s .helloTx (clearTx s) := by
  have hp : ¬ (twinRuns (clearTx s) && roleCfg (clearTx s) == 1) = true := by
    simpa using h
  exact congrArg (done s) (if_neg hp)

/-! ### What a HELLO's link delay leaves: every other field, and what is read from them -/

section
variable {s t : State} (hf : ∀ u k, k % 1024 ≠ 0x011 → fGet t u k = fGet s u k)
include hf

theorem fBit_of_fields (u k b : Nat) (hk : k % 1024 ≠ 0x011) : fBit t u k b = fBit s u k b := by
  unfold fBit
  rw [hf u k hk]

theorem critPeriodUs_of_fields : critPeriodUs t = critPeriodUs s := by
  have hc : critCore t = critCore s := by
    unfold critCore
    simp only [fBit_of_fields hf _ 0x004 _ (by decide)]
  unfold critPeriodUs
  simp only [hc, hf _ (taskField 0 1) (by decide)]

theorem helloLines_of_fields (hb : t.cyc.banks = s.cyc.banks) : helloLines t = helloLines s := by
  have hm : bankMeas t = bankMeas s := by
    funext l
    simp only [bankMeas, hb]
  unfold helloLines
  simp only [hm, List.map_cons, List.map_nil, hf _ 9 (by decide), hf _ 8 (by decide), hf _ 5 (by decide), hf _ 6 (by decide),
    hf _ 7 (by decide)]

theorem bulkRanges_of_fields (hb : t.cyc.bankOf = s.cyc.bankOf) (hp : t.pi.stnLines = s.pi.stnLines) :
    bulkRanges t = bulkRanges s := by
  have hw : windowOfs t = windowOfs s := by
    funext l
    simp only [windowOfs, fPart, hb, hf _ 9 (by decide)]
  unfold bulkRanges
  simp only [hw, hp]

theorem bgRanges_of_fields : bgRanges t = bgRanges s := by
  unfold bgRanges
  simp only [fBit_of_fields hf _ 0x00B _ (by decide), hf _ 0x00D (by decide)]

end

/-! ### The steps of a HELLO -/

/-- A HELLO is noted: the lane's delay, the epoch and that the twin was heard. -/
def helloNoted (s : State) (f : LinkFrame) (rtt : Nat) : State :=
  let s := learnEpoch (fSet (clearTx s) 0x23 0x011 (Word.ofN (rtt / 2))) f.ep
  { s with twin := { s.twin with heard := true } }

/-- An ACTIVE unit whose twin begins to sync has the bulk copy to send (R495). -/
def helloPeer (s : State) (sync : Bool) : State :=
  let s :=
    if s.twin.role = .active ∧ sync ∧ !s.twin.peerSync then
      { s with twin := { s.twin with bulk := bulkRanges s ++ bgRanges s, bulkTotal := ((bulkRanges s).map (·.2)).sum } }
    else s
  { s with twin := { s.twin with peerSync := sync } }

/-- A unit that hears an ACTIVE twin has started (R491). -/
def helloStarted (s : State) (ep : Word) : State :=
  let s := { s with twin := { s.twin with activeEp := ep } }
  if s.twin.role = .starting then { s with twin := { s.twin with role := .unsynced, ask := none } } else s

/-- The unit holds no copy: a sync is due once it hears an ACTIVE twin (R495). -/
abbrev Unsynced (s : State) : Prop := s.twin.role = .unsynced ∨ s.twin.role = .demoted ∨ s.twin.role = .severed

/-- What a unit does about its twin's state. -/
def helloAnswer (s : State) (f : LinkFrame) : State :=
  if f.state = 5 then
    let s := helloStarted s f.ep
    if Unsynced s ∧ syncAuto s then syncStart s f else s
  else if f.state = 1 ∧ s.twin.role = .starting ∧ !witnessEn s ∧ Config.identity.toNat < idOf (f.lines.getD 0 []) then
    promote s (s.twin.seen + 1)
  else s

/-- TWIN refuses a HELLO unless it runs as one of a pair and the lane is up (R479). -/
theorem helloRefused_iff (s : State) (l : Lane) (f : LinkFrame) :
    (!twinRuns (clearTx s) || roleCfg (clearTx s) ≠ 1 || f.ty ≠ 1 || !laneUp (clearTx s) l) = true
      ↔ ¬ (twinRuns s = true ∧ roleCfg s = 1) ∨ f.ty ≠ 1 ∨ laneUp s l = false := by
  by_cases hr : roleCfg s = 1 <;> simp [hr, or_assoc]

theorem helloRx_refused (s : State) (l : Lane) (f : LinkFrame) (rtt : Nat)
    (h : ¬ (twinRuns s = true ∧ roleCfg s = 1) ∨ f.ty ≠ 1 ∨ laneUp s l = false) : Gives s (.helloRx l f rtt) (clearTx s) :=
  congrArg (done s) (if_pos ((helloRefused_iff s l f).2 h))

/-! ### A HELLO that does not demote -/

/-- The state in which a HELLO is answered by a unit that is not ACTIVE. -/
def helloHeard (s : State) (f : LinkFrame) (rtt : Nat) : State :=
  { fSet s 0x23 0x011 (Word.ofN (rtt / 2)) with twin := { s.twin with
      tx := [], seen := if s.twin.seen.toNat < f.ep.toNat then f.ep else s.twin.seen, heard := true, peerSync := f.state == 3 } }

theorem helloNoted_eq (s : State) (f : LinkFrame) (rtt : Nat) (h : s.twin.role ≠ .active ∨ f.ep.toNat ≤ s.twin.ep.toNat) :
    helloNoted s f rtt = { fSet s 0x23 0x011 (Word.ofN (rtt / 2)) with twin := { s.twin with
      tx := [], seen := if s.twin.seen.toNat < f.ep.toNat then f.ep else s.twin.seen, heard := true } } := by
  have hk := learnEpoch_keeps (fSet (clearTx s) 0x23 0x011 (Word.ofN (rtt / 2))) f.ep h
  unfold helloNoted
  rw [hk, seeEpoch_eq]
  rfl

theorem fGet_helloHeard (s : State) (f : LinkFrame) (rtt u k : Nat) (hk : k % 1024 ≠ 0x011) :
    fGet (helloHeard s f rtt) u k = fGet s u k :=
  fGet_fSet_ne s u k 0x23 0x011 _ (fid_ne_of_field_ne u k 0x23 0x011 hk)

/-! ### A HELLO of an ACTIVE twin, and the sync that it begins -/

/-- The state in which a unit that is not ACTIVE has heard an ACTIVE twin. -/
def activeHeard (s : State) (f : LinkFrame) (rtt : Nat) : State := helloStarted (helloHeard s f rtt) f.ep

theorem activeHeard_only (s : State) (f : LinkFrame) (rtt : Nat) :
    ∃ x, activeHeard s f rtt = { fSet s 0x23 0x011 (Word.ofN (rtt / 2)) with twin := x } ∧ x.activeEp = f.ep := by
  unfold activeHeard helloStarted
  dsimp only
  split <;> exact ⟨_, rfl, rfl⟩

theorem activeHeard_starting (s : State) (f : LinkFrame) (rtt : Nat) (h : s.twin.role = .starting) :
    (activeHeard s f rtt).twin.role = .unsynced := by
  have he : activeHeard s f rtt = _ := if_pos h
  rw [he]

theorem activeHeard_role (s : State) (f : LinkFrame) (rtt : Nat) (h : s.twin.role ≠ .starting) :
    (activeHeard s f rtt).twin.role = s.twin.role := by
  have he : activeHeard s f rtt = _ := if_neg h
  rw [he]
  rfl

theorem fGet_activeHeard (s : State) (f : LinkFrame) (rtt u k : Nat) (hk : k % 1024 ≠ 0x011) :
    fGet (activeHeard s f rtt) u k = fGet s u k := by
  obtain ⟨x, h, -⟩ := activeHeard_only s f rtt
  rw [h]
  exact fGet_fSet_ne s u k 0x23 0x011 _ (fid_ne_of_field_ne u k 0x23 0x011 hk)

/-- A unit without a copy is neither ACTIVE nor STARTING. -/
theorem unsynced_role (s : State) (h : Unsynced s) : s.twin.role ≠ .active ∧ s.twin.role ≠ .starting := by
  rcases h with h | h | h <;> simp [h]

theorem activeHeard_period (s : State) (f : LinkFrame) (rtt : Nat) : critPeriodUs (activeHeard s f rtt) = critPeriodUs s :=
  critPeriodUs_of_fields (fGet_activeHeard s f rtt)

theorem activeHeard_lines (s : State) (f : LinkFrame) (rtt : Nat) : helloLines (activeHeard s f rtt) = helloLines s := by
  obtain ⟨x, h, -⟩ := activeHeard_only s f rtt
  exact helloLines_of_fields (fGet_activeHeard s f rtt) (by rw [h]; rfl)

theorem syncStart_agreed (s : State) (f : LinkFrame) (hp : f.period = critPeriodUs s / 10) (hl : f.lines = helloLines s) :
    (syncStart s f).twin.role = .syncing := by
  unfold syncStart
  dsimp only
  rw [if_pos (by simp [hp, hl])]

/-- Images or periods that differ refuse the sync (R495). -/
theorem syncStart_refused (s : State) (f : LinkFrame)
    (h : f.period ≠ critPeriodUs s / 10 ∨ f.lines.drop 1 ≠ (helloLines s).drop 1) :
    (syncStart s f).twin.role = .unsynced ∧ fBit (syncStart s f) 0x23 0x014 31 = true := by
  have hn : ¬ (f.period == critPeriodUs s / 10 && (f.lines.getD 0 []).drop 4 == ((helloLines s).getD 0 []).drop 4
      && f.lines.drop 1 == (helloLines s).drop 1) = true := by
    simp only [Bool.and_eq_true, beq_iff_eq]
    rintro ⟨⟨hp, -⟩, hl⟩
    exact h.elim (fun h => h hp) (fun h => h hl)
  unfold syncStart
  dsimp only
  rw [if_neg hn]
  split
  · next hb => exact ⟨rfl, hb⟩
  · refine ⟨by simp, ?_⟩
    unfold fBit
    rw [fGet_raisePost _ _ _ _ _ 0x23 0x014 (by decide) (by decide) (by decide)]
    exact fBit_fSetBit_true _ 0x23 0x014 31 (by decide)

/-! ### The promotion of a unit that hears a STARTING twin -/

/-- The first causes of the enabled tasks of a unit that promotes (R489). -/
def releaseTasks (stood : Bool) (s : State) : State :=
  (List.range 8).foldl (fun s n =>
    (List.range 16).foldl (fun s t =>
      let k := getTask s n t
      if fBit s (4 + n) (taskField t 0) 31 then
        setTask s n t { k with causes := (3, 0) :: k.causes, prevRel := if stood then none else k.prevRel }
      else s) s) s

@[simp] theorem releaseTasks_twin (stood : Bool) (s : State) : (releaseTasks stood s).twin = s.twin := by
  unfold releaseTasks
  refine List.foldlRecOn (motive := fun t : State => t.twin = s.twin) _ _ rfl (fun t ht n _ => ?_)
  refine List.foldlRecOn (motive := fun t : State => t.twin = s.twin) _ _ ht (fun t ht n _ => ?_)
  dsimp only
  split
  · rwa [setTask_twin]
  · exact ht

/-- A promotion releases the tasks of a unit that is ACTIVE with the new epoch, and reports it (R489). -/
theorem promote_steps (s : State) (ep : Word) : ∃ u stood cnt, u.twin.role = .active ∧ u.twin.ep = ep
    ∧ promote s ep = raisePost (fInc (releaseTasks stood u) 0x23 0x016 24 8) 0x23 3 560 [ep, cnt] :=
  ⟨_, _, _, rfl, rfl, rfl⟩

theorem promote_role (s : State) (ep : Word) : (promote s ep).twin.role = .active ∧ (promote s ep).twin.ep = ep := by
  obtain ⟨u, stood, cnt, hr, he, h⟩ := promote_steps s ep
  rw [h, raisePost_twin, fInc_twin, releaseTasks_twin]
  exact ⟨hr, he⟩

/-! ### What a HELLO does that TWIN takes -/

section
variable (s : State) (l : Lane) (f : LinkFrame) (rtt : Nat) (hp : twinRuns s = true ∧ roleCfg s = 1) (ht : f.ty = 1)
  (hl : laneUp s l = true)
include hp ht hl

theorem helloRx_steps : Gives s (.helloRx l f rtt) (helloAnswer (helloPeer (helloNoted s f rtt) (f.state == 3)) f) :=
  congrArg (done s) (if_neg (mt (helloRefused_iff s l f).1 (by simp [hp, ht, hl])))

/-- A unit that is not ACTIVE goes on from the HELLO that it heard. -/
theorem helloRx_follower (hr : s.twin.role ≠ .active) : Gives s (.helloRx l f rtt) (helloAnswer (helloHeard s f rtt) f) := by
  have hn : helloPeer (helloNoted s f rtt) (f.state == 3) = helloHeard s f rtt := by
    rw [helloNoted_eq s f rtt (.inl hr)]
    unfold helloPeer
    rw [if_neg (fun h => hr h.1)]
    rfl
  exact hn ▸ helloRx_steps s l f rtt hp ht hl

/-- A unit that is not ACTIVE hears an ACTIVE twin: without a copy it begins the sync where SYNC_AUTO is set (R495). -/
theorem helloRx_ofActive (hf : f.state = 5) (hr : s.twin.role ≠ .active) : Gives s (.helloRx l f rtt)
      (if Unsynced (activeHeard s f rtt) ∧ syncAuto s then syncStart (activeHeard s f rtt) f else activeHeard s f rtt) := by
  have ha : syncAuto (activeHeard s f rtt) = syncAuto s := fBit_of_fields (fGet_activeHeard s f rtt) 0x23 2 9 (by decide)
  have he : helloAnswer (helloHeard s f rtt) f = _ := if_pos hf
  rw [← ha]
  exact he ▸ helloRx_follower s l f rtt hp ht hl hr

/-- The HELLO of an ACTIVE twin ends the start-up (R491). -/
theorem helloRx_endsStartUp (hf : f.state = 5) (hr : s.twin.role = .starting) (ha : syncAuto s = false) :
    ∃ t, Gives s (.helloRx l f rtt) t ∧ t.twin.role = .unsynced ∧ t.twin.activeEp = f.ep ∧ fGet t 0x23 0x011 = Word.ofN (rtt / 2) := by
  have hg := helloRx_ofActive s l f rtt hp ht hl hf (by simp [hr])
  rw [if_neg (by simp [ha])] at hg
  refine ⟨_, hg, activeHeard_starting s f rtt hr, ?_⟩
  obtain ⟨x, h, hx⟩ := activeHeard_only s f rtt
  rw [h]
  exact ⟨hx, fGet_fSet_self s 0x23 0x011 _⟩

/-- Without SYNC_AUTO a unit without a copy only notes the epoch of its ACTIVE twin. -/
theorem helloRx_waits (hf : f.state = 5) (hr : Unsynced s) (ha : syncAuto s = false) :
    ∃ t, Gives s (.helloRx l f rtt) t ∧ t.twin.role = s.twin.role ∧ t.twin.activeEp = f.ep := by
  obtain ⟨hna, hns⟩ := unsynced_role s hr
  have hg := helloRx_ofActive s l f rtt hp ht hl hf hna
  rw [if_neg (by simp [ha])] at hg
  obtain ⟨x, h, hx⟩ := activeHeard_only s f rtt
  exact ⟨_, hg, activeHeard_role s f rtt hns, h ▸ hx⟩

/-- With SYNC_AUTO a unit without a copy begins a sync. -/
theorem helloRx_syncs (hf : f.state = 5) (hr : Unsynced s) (ha : syncAuto s = true) :
    Gives s (.helloRx l f rtt) (syncStart (activeHeard s f rtt) f) := by
  obtain ⟨hna, hns⟩ := unsynced_role s hr
  have hu : Unsynced (activeHeard s f rtt) := by
    unfold Unsynced
    rw [activeHeard_role s f rtt hns]
    exact hr
  have hg := helloRx_ofActive s l f rtt hp ht hl hf hna
  rwa [if_pos ⟨hu, ha⟩] at hg

/-- The HELLO of a twin that begins to sync has the ACTIVE unit send the bulk copy (R495). -/
theorem helloRx_startsBulk (hf : f.state = 3) (hr : s.twin.role = .active) (hs : s.twin.peerSync = false)
    (he : f.ep.toNat ≤ s.twin.ep.toNat) : ∃ t, Gives s (.helloRx l f rtt) t ∧ t.twin.peerSync = true
      ∧ t.twin.bulk = bulkRanges s ++ bgRanges s ∧ t.twin.role = .active := by
  have hg := helloRx_steps s l f rtt hp ht hl
  have hk (x : Twin) (u k : Nat) (hk : k % 1024 ≠ 0x011) :
      fGet { fSet s 0x23 0x011 (Word.ofN (rtt / 2)) with twin := x } u k = fGet s u k :=
    fGet_fSet_ne s u k 0x23 0x011 _ (fid_ne_of_field_ne u k 0x23 0x011 hk)
  rw [helloNoted_eq s f rtt (.inr he)] at hg
  unfold helloPeer at hg
  rw [if_pos ⟨hr, by simp [hf], by simp [hs]⟩] at hg
  unfold helloAnswer at hg
  rw [if_neg (by simp [hf]), if_neg (by simp [hf])] at hg
  refine ⟨_, hg, by simp [hf], ?_, hr⟩
  dsimp only
  rw [bulkRanges_of_fields (hk _) rfl rfl, bgRanges_of_fields (hk _)]

/-- Of two units that start without a witness, the one of the lower identity promotes and the other waits (R491). -/
theorem helloRx_bothStart (hf : f.state = 1) (hr : s.twin.role = .starting) (hw : witnessEn s = false)
    (he : f.ep.toNat ≤ s.twin.seen.toNat) : ∃ t, Gives s (.helloRx l f rtt) t
      ∧ (Config.identity.toNat < idOf (f.lines.getD 0 []) → t.twin.role = .active ∧ t.twin.ep = s.twin.seen + 1)
      ∧ (idOf (f.lines.getD 0 []) ≤ Config.identity.toNat → t.twin.role = .starting ∧ t.twin.heard = true) := by
  have hg := helloRx_follower s l f rtt hp ht hl (by simp [hr])
  have hs : (helloHeard s f rtt).twin.seen = s.twin.seen := if_neg (Nat.not_lt.2 he)
  have hwit : witnessEn (helloHeard s f rtt) = false := (fBit_of_fields (fGet_helloHeard s f rtt) 0x23 2 10 (by decide)).trans hw
  unfold helloAnswer at hg
  rw [if_neg (by simp [hf])] at hg
  by_cases hi : Config.identity.toNat < idOf (f.lines.getD 0 [])
  · rw [if_pos ⟨hf, hr, by simp [hwit], hi⟩, hs] at hg
    exact ⟨_, hg, fun _ => promote_role _ _, fun h => absurd hi (Nat.not_lt.2 h)⟩
  · rw [if_neg (fun ⟨_, _, _, h⟩ => hi h)] at hg
    exact ⟨_, hg, fun h => absurd h hi, fun _ => ⟨hr, rfl⟩⟩

end

/-! ## Frames of the lanes (R478 to R483) -/

theorem frameRefused_iff (s : State) (f : LinkFrame) (ty : Nat) :
    (!twinRuns (clearTx s) || f.ty ≠ ty) = true ↔ twinRuns s = false ∨ f.ty ≠ ty := by simp

/-- A frame of the type that a running TWIN takes is not refused. -/
theorem frameTaken (s : State) (f : LinkFrame) (ty : Nat) (hr : twinRuns s = true) (ht : f.ty = ty) :
    ¬ (!twinRuns (clearTx s) || f.ty ≠ ty) = true := by simp [hr, ht]

/-- The unit gathers copies (R482). -/
abbrev Gathers (s : State) : Prop := s.twin.role = .standby ∨ s.twin.role = .syncing

theorem gathers_not_active (s : State) (h : Gathers s) : s.twin.role ≠ .active := by
  rcases h with h | h <;> simp [h]

/-! ### COPY frames (R478, R482) -/

theorem copyRx_refused (s : State) (f : LinkFrame) (whole : Bool) (h : twinRuns s = false ∨ f.ty ≠ 2) :
    Gives s (.copyRx f whole) (clearTx s) := congrArg (done s) (if_pos ((frameRefused_iff s f 2).2 h))

/-- A unit that learns of an epoch gathers afterwards only if it did before. -/
theorem learnEpoch_not_gathers (s : State) (e : Word) (h : ¬ Gathers s) : ¬ Gathers (learnEpoch s e) := by
  rcases learnEpoch_role s e with he | he
  · unfold Gathers
    rwa [he]
  · simp [Gathers, he]

/-- A unit that gathers no copies only learns the epoch of one. -/
theorem copyRx_learns (s : State) (f : LinkFrame) (whole : Bool) (hr : twinRuns s = true) (ht : f.ty = 2) (hg : ¬ Gathers s) :
    Gives s (.copyRx f whole) (learnEpoch (clearTx s) f.ep) := by
  have hn : ¬ Gathers (learnEpoch (clearTx s) f.ep) := learnEpoch_not_gathers (clearTx s) f.ep hg
  exact congrArg (done s) ((if_neg (frameTaken s f 2 hr ht)).trans (if_pos (not_or.1 hn)))

/-- The copy buffers once the lines of a frame are in them (R482). -/
def gathered (s : State) (f : LinkFrame) (whole : Bool) : Gather :=
  let k0 := f.area * 2 ^ 28 + f.first
  let lines := (f.lines.zipIdx).foldl (fun t e => Tbl.ins t (k0 + e.2) e.1) s.twin.gather.lines
  if f.last && f.complete && whole && (s.twin.role == .standby || s.twin.bulkEnd) then
    { whole := lines.foldl (fun t e => Tbl.ins t e.1 e.2) s.twin.gather.whole, ready := some (f.count.toNat, f.ep) }
  else { s.twin.gather with lines := lines }

theorem gathered_ready (s : State) (f : LinkFrame) (whole : Bool) : (gathered s f whole).ready =
    if f.last && f.complete && whole && (s.twin.role == .standby || s.twin.bulkEnd) then some (f.count.toNat, f.ep)
    else s.twin.gather.ready := by
  unfold gathered
  dsimp only
  split <;> rfl

/-- The state of a unit that has put a frame's lines into its copy buffers. -/
def copyGathered (s : State) (f : LinkFrame) (whole : Bool) : State :=
  { s with twin := { s.twin with
      tx := [], seen := if s.twin.seen.toNat < f.ep.toNat then f.ep else s.twin.seen, activeEp := f.ep, gather := gathered s f whole } }

theorem copyRx_gathers (s : State) (f : LinkFrame) (whole : Bool) (hr : twinRuns s = true) (ht : f.ty = 2) (hg : Gathers s) :
    Gives s (.copyRx f whole) (if f.last then copySeen (copyGathered s f whole) f else copyGathered s f whole) := by
  have he : learnEpoch (clearTx s) f.ep = _ :=
    (learnEpoch_keeps (clearTx s) f.ep (.inl (gathers_not_active s hg))).trans (seeEpoch_eq _ _)
  have hn : ¬ ((learnEpoch (clearTx s) f.ep).twin.role ≠ .standby ∧ (learnEpoch (clearTx s) f.ep).twin.role ≠ .syncing) := by
    rw [he]
    exact not_and_or.2 (hg.imp not_not.2 not_not.2)
  refine congrArg (done s) ((if_neg (frameTaken s f 2 hr ht)).trans ((if_neg hn).trans ?_))
  rw [he]
  rfl

/-- A copy is gathered and changes nothing else; it is ready once it has arrived whole (R482, R495). -/
theorem copyRx_changesNothingElse (s : State) (f : LinkFrame) (whole : Bool) (hr : twinRuns s = true) (ht : f.ty = 2) (hg : Gathers s) :
    ∃ t, Gives s (.copyRx f whole) t ∧ t.mem = s.mem ∧ t.pi = s.pi ∧ t.cyc = s.cyc ∧ t.twin.activeEp = f.ep
      ∧ t.twin.gather.ready = if f.last && f.complete && whole && (s.twin.role == .standby || s.twin.bulkEnd) then
          some (f.count.toNat, f.ep) else s.twin.gather.ready := by
  refine ⟨_, copyRx_gathers s f whole hr ht hg, ?_⟩
  rw [← gathered_ready]
  split <;> exact ⟨rfl, rfl, rfl, rfl, rfl⟩

/-! ### BULK frames (R482, R495) -/

/-- The lines that a frame carries, by key. -/
def frameLines (f : LinkFrame) : Tbl (List Word) := (f.lines.zipIdx).map (fun e => (f.area * 2 ^ 28 + f.first + e.2, e.1))

/-- Lines of Afterglow wait until their record is whole (R482). -/
def afterglowIn (s : State) (t : Tbl (List Word)) (last : Bool) : State :=
  let held := t.foldl (fun c e => Tbl.ins c e.1 e.2) s.twin.bgLines
  if last then
    let s := held.foldl (fun s e => hwWords s 0x16 (0x0802800000 + 64 * (e.1 % 2 ^ 28)) e.2) s
    agRefresh { s with twin := { s.twin with bgLines := [] } }
  else { s with twin := { s.twin with bgLines := held } }

/-- A line of the sync applies as it comes, and the last one ends the bulk copy (R495). -/
def syncLinesIn (s : State) (t : Tbl (List Word)) (last : Bool) : State :=
  let s := applyLines s t
  if last then fSetPart { s with twin := { s.twin with bulkEnd := true } } 0x23 0x014 0 8 100 else s

/-- What the lines of a BULK frame do, by their area. -/
def bulkIn (s : State) (f : LinkFrame) : State :=
  if f.area < 8 ∧ s.twin.role = .syncing then syncLinesIn s (frameLines f) f.last
  else if f.area = 8 ∧ Gathers s then afterglowIn s (frameLines f) f.last
  else if f.area = 9 ∧ Gathers s then applyLines s (frameLines f)
  else s

theorem bulkRx_refused (s : State) (f : LinkFrame) (h : twinRuns s = false ∨ f.ty ≠ 4) : Gives s (.bulkRx f) (clearTx s) :=
  congrArg (done s) (if_pos ((frameRefused_iff s f 4).2 h))

theorem bulkRx_steps (s : State) (f : LinkFrame) (hr : twinRuns s = true) (ht : f.ty = 4) (he : f.ep.toNat ≤ s.twin.seen.toNat)
    (ha : s.twin.role ≠ .active) : Gives s (.bulkRx f) (bulkIn (clearTx s) f) := by
  have hk : learnEpoch (clearTx s) f.ep = clearTx s :=
    (learnEpoch_keeps (clearTx s) f.ep (.inl ha)).trans (seeEpoch_known (clearTx s) f.ep he)
  refine congrArg (done s) ((if_neg (frameTaken s f 4 hr ht)).trans ?_)
  rw [hk]
  rfl

theorem bulkIn_sync (s : State) (f : LinkFrame) (h : f.area < 8) (hr : s.twin.role = .syncing) :
    bulkIn s f = syncLinesIn s (frameLines f) f.last := if_pos ⟨h, hr⟩

theorem bulkIn_afterglow (s : State) (f : LinkFrame) (h : f.area = 8) (hg : Gathers s) :
    bulkIn s f = afterglowIn s (frameLines f) f.last := (if_neg (by omega)).trans (if_pos ⟨h, hg⟩)

theorem bulkIn_solver (s : State) (f : LinkFrame) (h : f.area = 9) (hg : Gathers s) :
    bulkIn s f = applyLines s (frameLines f) :=
  (if_neg (by omega)).trans ((if_neg (by omega)).trans (if_pos ⟨h, hg⟩))

theorem bulkIn_other (s : State) (f : LinkFrame) (h : (f.area < 8 ∧ s.twin.role ≠ .syncing) ∨ 9 < f.area ∨ ¬ Gathers s) :
    bulkIn s f = s := by
  have h1 : ¬ (f.area < 8 ∧ s.twin.role = .syncing) := by
    rintro ⟨ha, hr⟩
    rcases h with ⟨-, h⟩ | h | h
    · exact h hr
    · omega
    · exact h (.inr hr)
  have h2 (a : Nat) (hb : 8 ≤ a ∧ a ≤ 9) : ¬ (f.area = a ∧ Gathers s) := by
    rintro ⟨ha, hg⟩
    rcases h with ⟨h, -⟩ | h | h
    · omega
    · omega
    · exact h hg
  exact (if_neg h1).trans ((if_neg (h2 8 (by decide))).trans (if_neg (h2 9 (by decide))))

/-- Lines of the sync apply as they come, and the last frame ends the bulk copy (R495). -/
theorem bulkRx_sync (s : State) (f : LinkFrame) (hg : Gives s (.bulkRx f) (bulkIn (clearTx s) f)) (h : f.area < 8)
    (hr : s.twin.role = .syncing) :
    (f.last = false → Gives s (.bulkRx f) (applyLines (clearTx s) (frameLines f)))
    ∧ (f.last = true → ∃ t, Gives s (.bulkRx f) t ∧ t.twin.bulkEnd = true
        ∧ t.mem.cells = (applyLines (clearTx s) (frameLines f)).mem.cells) := by
  rw [bulkIn_sync (clearTx s) f h hr] at hg
  constructor <;> intro hl <;> rw [hl] at hg
  · exact hg
  · exact ⟨_, hg, rfl, rfl⟩

/-- Lines of Afterglow wait and leave memory alone until the last frame, which leaves none waiting (R482). -/
theorem bulkRx_afterglow (s : State) (f : LinkFrame) (hg : Gives s (.bulkRx f) (bulkIn (clearTx s) f)) (h : f.area = 8)
    (hr : Gathers s) :
    (f.last = false → ∃ t, Gives s (.bulkRx f) t ∧ t.mem = s.mem
      ∧ t.twin.bgLines = (frameLines f).foldl (fun c e => Tbl.ins c e.1 e.2) s.twin.bgLines)
    ∧ (f.last = true → ∃ t, Gives s (.bulkRx f) t ∧ t.twin.bgLines = []) := by
  rw [bulkIn_afterglow (clearTx s) f h hr] at hg
  constructor <;> intro hl <;> rw [hl] at hg
  · exact ⟨_, hg, rfl, rfl⟩
  · exact ⟨_, hg, rfl⟩

/-! ### Sending BULK frames (R482) -/

/-- What is left of the ranges to send once the first `m` lines are sent. -/
def bulkLeft (m k c : Nat) (rest : List (Nat × Nat)) : List (Nat × Nat) := if m < c then (k + m, c - m) :: rest else rest

/-- A range of the sync, not of the background (R481, R482). -/
def syncRange (e : Nat × Nat) : Bool := e.1 / 2 ^ 28 < 8

theorem bulkTxRefused_iff (s : State) (n : Fin 33) :
    (!twinRuns (clearTx s) || (clearTx s).twin.role ≠ .active || n.val = 0) = true
      ↔ twinRuns s = false ∨ s.twin.role ≠ .active ∨ n.val = 0 := by
  by_cases ha : s.twin.role = .active <;> simp [clearTx_role, ha]

theorem bulkTx_idle (s : State) (n : Fin 33) (h : twinRuns s = false ∨ s.twin.role ≠ .active ∨ n.val = 0 ∨ s.twin.bulk = []) :
    Gives s (.bulkTx n) (clearTx s) := by
  by_cases hc : twinRuns s = false ∨ s.twin.role ≠ .active ∨ n.val = 0
  · exact congrArg (done s) (if_pos ((bulkTxRefused_iff s n).2 hc))
  · have hb : (clearTx s).twin.bulk = [] := by
      rcases h with h | h | h | h
      · exact absurd (.inl h) hc
      · exact absurd (.inr (.inl h)) hc
      · exact absurd (.inr (.inr h)) hc
      · exact h
    refine congrArg (done s) ((if_neg (mt (bulkTxRefused_iff s n).1 hc)).trans ?_)
    rw [hb]

/-- The frame that an ACTIVE unit sends of the first range, and what it leaves; behind the last line the background begins (R482). -/
theorem bulkTx_frame (s : State) (n : Fin 33) (k c : Nat) (rest : List (Nat × Nat)) (hr : twinRuns s = true) (ha : s.twin.role = .active)
    (hn : n.val ≠ 0) (hb : s.twin.bulk = (k, c) :: rest) : ∃ t g u, Gives s (.bulkTx n) t ∧ t.twin.tx = [g] ∧ g.ty = 4 ∧ g.ep = s.twin.ep
      ∧ g.area = k / 2 ^ 28 ∧ g.first = k % 2 ^ 28 ∧ g.lines.length = min n.val c
      ∧ g.last = (syncRange (k, c) && !(bulkLeft (min n.val c) k c rest).any syncRange)
      ∧ t.twin.bulk = if (bulkLeft (min n.val c) k c rest).isEmpty then bgRanges u else bulkLeft (min n.val c) k c rest := by
  have hc : ¬ (twinRuns s = false ∨ s.twin.role ≠ .active ∨ n.val = 0) := by simp [hr, ha, hn]
  have hb' : (clearTx s).twin.bulk = (k, c) :: rest := hb
  have hg : Gives s (.bulkTx n) _ := congrArg (done s) (if_neg (mt (bulkTxRefused_iff s n).1 hc))
  rw [hb'] at hg
  exact ⟨_, _, _, hg, rfl, rfl, rfl, rfl, rfl, by rw [List.length_map, List.length_range], rfl, rfl⟩

/-- A BULK frame carries the first lines of the first range; the last one of the sync says so (R482, R495). -/
theorem bulkTx_sends (s : State) (n : Fin 33) (k c : Nat) (rest : List (Nat × Nat)) (hr : twinRuns s = true) (ha : s.twin.role = .active)
    (hn : n.val ≠ 0) (hb : s.twin.bulk = (k, c) :: rest) : ∃ t g, Gives s (.bulkTx n) t ∧ t.twin.tx = [g] ∧ g.ty = 4 ∧ g.ep = s.twin.ep
      ∧ g.area = k / 2 ^ 28 ∧ g.first = k % 2 ^ 28 ∧ g.lines.length = min n.val c
      ∧ (n.val < c → t.twin.bulk = (k + n.val, c - n.val) :: rest)
      ∧ (c ≤ n.val → rest ≠ [] → t.twin.bulk = rest)
      ∧ (c ≤ n.val → k / 2 ^ 28 < 8 → (∀ e ∈ rest, 8 ≤ e.1 / 2 ^ 28) → g.last = true) := by
  obtain ⟨t, g, u, hg, htx, hty, hep, harea, hfirst, hlen, hlast, hbulk⟩ := bulkTx_frame s n k c rest hr ha hn hb
  have hall (h : c ≤ n.val) : bulkLeft (min n.val c) k c rest = rest := if_neg (by omega)
  refine ⟨t, g, hg, htx, hty, hep, harea, hfirst, hlen, fun h => ?_, fun h hne => ?_, fun h hk hrest => ?_⟩
  · have hpart : bulkLeft (min n.val c) k c rest = (k + min n.val c, c - min n.val c) :: rest := if_pos (by omega)
    rw [hbulk, hpart, Nat.min_eq_left h.le]
    rfl
  · rw [hbulk, hall h, if_neg (by simpa using hne)]
  · have hnone : rest.any syncRange = false := List.any_eq_false.2 (fun e he => by simpa [syncRange] using hrest e he)
    rw [hlast, hall h, hnone]
    simpa [syncRange] using hk

/-! ## The lease (R6, R483) -/

/-- The lease deadline of a Meridian: T_LEASE and a period after it, less the guard time (R483). -/
def leaseEnd (s : State) (m : LeaseMark) : Nat := m.us + fPart s 0x23 3 0 16 + critPeriodUs s - fPart s 0x23 4 0 16

theorem renew_open (s : State) (m : LeaseMark) (d : Nat) (hd : s.twin.lease = some d) (h : usNow s < d ∨ s.twin.solo = true) :
    renew s m = { s with twin := { s.twin with
      lease := some (max d (leaseEnd s m)), solo := if usNow s < leaseEnd s m then false else s.twin.solo } } := by
  have hn : ¬ (d ≤ usNow s && !s.twin.solo) = true := by
    rcases h with h | h <;> simp [h]
  unfold renew
  rw [hd]
  exact if_neg hn

/-- At the deadline itself the lease is no longer renewed (R6). -/
theorem renew_late (s : State) (m : LeaseMark) (d : Nat) (hd : s.twin.lease = some d) (h : d ≤ usNow s) (hs : s.twin.solo = false) :
    renew s m = s := by
  unfold renew
  rw [hd]
  exact if_pos (by simp [h, hs])

/-- What a command does to the lease that renews it. -/
theorem gives_renewal (b s : State) (i : Instr) (m : LeaseMark) (d : Nat) (hg : Gives b i (renew s m)) (ha : s.twin.role = .active)
    (hd : s.twin.lease = some d) :
    (usNow s < d ∨ s.twin.solo = true → ∃ t, Gives b i t ∧ t.twin.lease = some (max d (leaseEnd s m)) ∧ t.twin.role = .active
      ∧ (usNow s < leaseEnd s m → t.twin.solo = false))
    ∧ (d ≤ usNow s → s.twin.solo = false → ∃ t, Gives b i t ∧ t.twin.lease = some d) := by
  refine ⟨fun h => ⟨_, hg, ?_⟩, fun h hs => ⟨_, hg, ?_⟩⟩
  · rw [renew_open s m d hd h]
    exact ⟨rfl, ha, fun hu => if_pos hu⟩
  · rw [renew_late s m d hd h hs]
    exact hd

theorem copyAckRx_refused (s : State) (f : LinkFrame) (h : twinRuns s = false ∨ f.ty ≠ 3) : Gives s (.copyAckRx f) (clearTx s) :=
  congrArg (done s) (if_pos ((frameRefused_iff s f 3).2 h))

/-- An acknowledged copy renews the lease of its Meridian (R483). -/
theorem copyAckRx_renews (s : State) (f : LinkFrame) (m : LeaseMark) (hr : twinRuns s = true) (ht : f.ty = 3)
    (ha : s.twin.role = .active) (he : f.ep = s.twin.ep) (hm : s.twin.marks.find? (fun x => x.count == f.count.toNat) = some m) :
    Gives s (.copyAckRx f) (renew (seeEpoch (clearTx s) f.ep) m) := by
  have hk : learnEpoch (clearTx s) f.ep = seeEpoch (clearTx s) f.ep := learnEpoch_keeps (clearTx s) f.ep (.inr (he ▸ le_refl _))
  refine congrArg (done s) ((if_neg (frameTaken s f 3 hr ht)).trans ?_)
  rw [hk, seeEpoch_eq]
  refine (if_pos ⟨ha, he⟩).trans ?_
  rw [show List.find? _ (clearTx s).twin.marks = _ from hm]

/-- The lease so renewed is the one that the unit held when the acknowledgement came. -/
theorem copyAckRx_renewal (s : State) (f : LinkFrame) (m : LeaseMark) (d : Nat) (hr : twinRuns s = true) (ht : f.ty = 3)
    (ha : s.twin.role = .active) (he : f.ep = s.twin.ep) (hm : s.twin.marks.find? (fun x => x.count == f.count.toNat) = some m)
    (hd : s.twin.lease = some d) :
    (usNow s < d ∨ s.twin.solo = true → ∃ t, Gives s (.copyAckRx f) t ∧ t.twin.lease = some (max d (leaseEnd s m))
      ∧ t.twin.role = .active ∧ (usNow s < leaseEnd s m → t.twin.solo = false))
    ∧ (d ≤ usNow s → s.twin.solo = false → ∃ t, Gives s (.copyAckRx f) t ∧ t.twin.lease = some d) := by
  have hg := copyAckRx_renews s f m hr ht ha he hm
  rw [seeEpoch_eq] at hg
  exact (gives_renewal s _ _ m d hg ha hd :)

/-- An acknowledgement of no Meridian of this unit's lease only shows its epoch. -/
theorem copyAckRx_learns (s : State) (f : LinkFrame) (hr : twinRuns s = true) (ht : f.ty = 3)
    (h : s.twin.role ≠ .active ∨ f.ep ≠ s.twin.ep ∨ s.twin.marks.find? (fun x => x.count == f.count.toNat) = none) :
    Gives s (.copyAckRx f) (learnEpoch (clearTx s) f.ep) := by
  refine congrArg (done s) ((if_neg (frameTaken s f 3 hr ht)).trans ?_)
  by_cases hd : s.twin.role ≠ .active ∨ f.ep.toNat ≤ s.twin.ep.toNat
  · rw [learnEpoch_keeps (clearTx s) f.ep hd, seeEpoch_eq]
    by_cases hc : s.twin.role = .active ∧ f.ep = s.twin.ep
    · have hm : s.twin.marks.find? (fun x => x.count == f.count.toNat) = none := by
        rcases h with h | h | h
        · exact absurd hc.1 h
        · exact absurd hc.2 h
        · exact h
      refine (if_pos hc).trans ?_
      rw [show List.find? _ (clearTx s).twin.marks = _ from hm]
    · exact if_neg hc
  · obtain ⟨hact, hlow⟩ := not_or.1 hd
    have hdem := learnEpoch_demotes (clearTx s) f.ep (not_not.1 hact) (Nat.not_le.1 hlow)
    exact if_neg (fun hc => by simp [hdem] at hc)

theorem hbAckRx_refused (s s1 : State) (r : RxHdr) (w : WitFrame) (h : witRx s r 0x21 = (s1, false)) : Gives s (.hbAckRx r w) s1 := by
  show execHbAckRx r w s = _
  unfold execHbAckRx
  rw [h]
  rfl

/-- An acknowledged heartbeat renews the lease of its Meridian (R483). -/
theorem hbAckRx_renews (s s1 : State) (r : RxHdr) (w : WitFrame) (m : LeaseMark) (h : witRx s r 0x21 = (s1, true))
    (ha : s1.twin.role = .active) (he : w.ep = s1.twin.ep) (hm : s1.twin.marks.find? (fun x => x.seq == w.seq) = some m) :
    Gives s (.hbAckRx r w) (renew s1 m) := by
  show execHbAckRx r w s = _
  unfold execHbAckRx
  rw [h]
  refine congrArg (done s) ((if_pos ⟨ha, he⟩).trans ?_)
  rw [hm]

theorem hbAckRx_sees (s s1 : State) (r : RxHdr) (w : WitFrame) (h : witRx s r 0x21 = (s1, true))
    (hn : s1.twin.role ≠ .active ∨ w.ep ≠ s1.twin.ep) : Gives s (.hbAckRx r w) (seeEpoch s1 w.ep) := by
  show execHbAckRx r w s = _
  unfold execHbAckRx
  rw [h]
  exact congrArg (done s) (if_neg (not_and_or.2 hn))

/-! ## The statement -/

/-- Settles O49: each clause is what one of the commands of the twin link does; those of the lease hold of any state in which it is
renewed. -/
theorem twinLinkSyncsAndCopies : Obligations.TwinLinkSyncsAndCopies := by
  unfold Obligations.TwinLinkSyncsAndCopies
  refine ⟨fun s l => ?pins, fun s l f rtt => ?hello, fun s s1 f whole n k c d rest m r w => ?copies⟩
  case pins =>
    exact ⟨zenithInLow_gives s, zenithInRise_reported s, zenithInRise_quiet s,
      fun h => ⟨laneRegained_up s l h, laneLoss_up s l h⟩, fun h => ⟨laneLoss_down s l h, laneRegained_down s l h⟩⟩
  case hello =>
    refine ⟨helloTx_paired s, helloTx_unpaired s, helloRx_refused s l f rtt, fun hp ht hl => ⟨fun hf => ⟨?_, fun hr ha => ⟨?_, ?_⟩, ?_⟩,
      helloRx_startsBulk s l f rtt hp ht hl, helloRx_bothStart s l f rtt hp ht hl⟩⟩
    · exact helloRx_endsStartUp s l f rtt hp ht hl hf
    · exact fun hper hlines => ⟨_, helloRx_syncs s l f rtt hp ht hl hf hr ha, syncStart_agreed _ f
        (hper.trans (by rw [activeHeard_period])) (hlines.trans (activeHeard_lines s f rtt).symm)⟩
    · refine fun hdiff => ⟨_, helloRx_syncs s l f rtt hp ht hl hf hr ha, syncStart_refused _ f ?_⟩
      rwa [activeHeard_period, activeHeard_lines]
    · exact helloRx_waits s l f rtt hp ht hl hf
  case copies =>
    refine ⟨fun hr i hi => ?off, fun hr => ⟨fun h => copyRx_refused s f whole (.inr h), copyRx_learns s f whole hr,
      copyRx_changesNothingElse s f whole hr, fun h => bulkRx_refused s f (.inr h), fun ht he ha => ?bulk, bulkTx_sends s n k c rest hr,
      fun h => bulkTx_idle s n (.inr h), fun h => copyAckRx_refused s f (.inr h),
      fun ht ha he hm hd => copyAckRx_renewal s f m d hr ht ha he hm hd, copyAckRx_learns s f hr⟩,
      hbAckRx_refused s s1 r w, fun h => ⟨fun ha he hm hd => gives_renewal s s1 _ m d (hbAckRx_renews s s1 r w m h ha he hm) ha hd,
        hbAckRx_sees s s1 r w h⟩⟩
    case off =>
      simp only [List.mem_cons, List.not_mem_nil, or_false] at hi
      obtain rfl | rfl | rfl | rfl := hi
      · exact copyRx_refused s f whole (.inl hr)
      · exact bulkRx_refused s f (.inl hr)
      · exact bulkTx_idle s n (.inl hr)
      · exact copyAckRx_refused s f (.inl hr)
    case bulk =>
      have hg := bulkRx_steps s f hr ht he ha
      exact ⟨bulkRx_sync s f hg, bulkRx_afterglow s f hg, fun h hgath => bulkIn_solver (clearTx s) f h hgath ▸ hg,
        fun h => bulkIn_other (clearTx s) f h ▸ hg⟩
end Sys2Proof.Machine
end

section
/-! SUPPORT. The step on the front of the queue; what an error response leaves of the code of the word that holds its log entry
(R97, R109), and where that settles the scrub step (R99); the length limit of a reassembly (R435). -/
namespace Sys2Proof.Machine

/-! ## The step (R32, R33) -/

/-- Settles O1: the two cases of the queue. -/
theorem stepRunsTheFrontCommand : Obligations.StepRunsTheFrontCommand := by
  unfold Obligations.StepRunsTheFrontCommand
  refine fun s => ⟨fun c rest h => ?front, fun h => ?idle⟩
  case front =>
    unfold step
    rw [h]
  case idle =>
    unfold step
    rw [h]
    rfl

/-! ## What a command answers -/

/-- A command's answer fixes every part of the next state but the queue and the pins. -/
theorem Gives.unique {s t u : State} {i : Instr} (ht : Gives s i t) (hu : Gives s i u) : settle s t = settle s u :=
  Host.Outcome.next.inj (ht.symm.trans hu)

/-! ## Memory under events, records and stores -/

@[simp] theorem raise_mem (s : State) (n : Nat) : (raise s n).mem = s.mem := by
  unfold raise
  exact List.foldlRecOn (motive := fun t : State => t.mem = s.mem) _ _ rfl (fun _ ht _ _ => ht)

@[simp] theorem post_mem (s : State) (src sev code : Nat) (payload : List Word) : (post s src sev code payload).mem = s.mem := by
  unfold post enqueue
  split
  · rfl
  · split
    · exact raise_mem _ 577
    · rfl

theorem setN_ecc (n : Nat) : ∀ (s : State) (a v : Nat), (setN s a n v).mem.ecc = s.mem.ecc := by
  induction n with
  | zero => exact fun _ _ _ => rfl
  | succ n ih => exact fun s a v => ih (setByte s a (BitVec.ofNat 8 v)) (a + 1) (v / 256)

/-- A store of words leaves the codes alone: what they become is said apart (R97). -/
@[simp] theorem setWords_ecc (ws : List Word) : ∀ (s : State) (a : Nat), (setWords s a ws).mem.ecc = s.mem.ecc := by
  induction ws with
  | nil => exact fun _ _ => rfl
  | cons w ws ih => exact fun s a => (ih (setW s a w) (a + 4)).trans (setN_ecc 4 s a w.toNat)

/-- A word that a write covers whole has a fresh code (R97). -/
theorem ecc_eccSpan_covered (s : State) (a len x : Nat) (h : a ≤ 8 * x ∧ 8 * x + 8 ≤ a + len) :
    Tbl.get 0 (eccSpan s a len).mem.ecc x = 0 := by
  have hn : ∀ e ∈ (eccSpan s a len).mem.ecc, e.1 ≠ x := by
    intro e he hx
    have := (List.mem_filter.1 he).2
    simp only [Bool.or_eq_true, decide_eq_true_eq] at this
    omega
  rw [Tbl.get, Tbl.find_none _ x hn]
  rfl

/-! ## The violation log's own words (R109) -/

/-- Index of the log entry that the next error response makes. -/
def logIndex (s : State) : Nat := ((fPart s 1 0x007 16 16 + 1) % 65536 + 63) % 64

/-- An error response changes no codes but those of its log entry. -/
theorem errorResp_ecc (s : State) (w : Who) (k : Kind) (c : Cause) (addr field : Nat) :
    (errorResp s w k c addr field).mem.ecc = (eccSpan s (0x80000 + 16 * logIndex s) 16).mem.ecc := by
  unfold errorResp
  dsimp only
  split
  · rw [raise_mem, fSet_mem, setWords_ecc]
    rfl
  · rw [post_mem, raise_mem, fSet_mem, setWords_ecc]
    rfl

/-- An error response writes its log entry whole, so the entry's first word is clean afterwards (R97, R109). -/
theorem errorResp_cleansEntry (s : State) (w : Who) (k : Kind) (c : Cause) (addr field a : Nat) (ha : a = 0x80000 + 16 * logIndex s) :
    Tbl.get 0 (errorResp s w k c addr field).mem.ecc (a / 8) = 0 := by
  rw [errorResp_ecc, ← ha]
  exact ecc_eccSpan_covered s a 16 (a / 8) (by omega)

/-! ## The scrub step (R99) -/

/-- The state in which a read has met an uncorrectable word that was not known before: reported, with its address kept (R96). -/
def uncorrFound (s : State) (a : Nat) : State :=
  let w := a / 8
  let s := { s with mem := { s.mem with ecc := Tbl.put 0 s.mem.ecc w 4 } }
  raisePost (keepUeAddr (fInc s 1 0x005 0 32) w) 1 3 16 [Word.ofN (8 * w), Word.ofN (8 * w / 2 ^ 32)]

theorem eccRead_uncorr (s : State) (a : Nat) (h : Tbl.get 0 s.mem.ecc (a / 8) = 3) : eccRead s a = (uncorrFound s a, false) := by
  unfold eccRead
  dsimp only
  rw [h]
  rfl

/-- Finding an uncorrectable word makes no log entry. -/
theorem logIndex_uncorrFound (s : State) (a : Nat) : logIndex (uncorrFound s a) = logIndex s := by
  have hf : fGet (uncorrFound s a) 1 0x007 = fGet s 1 0x007 := by
    unfold uncorrFound keepUeAddr
    rw [fGet_raisePost _ _ _ _ _ 1 0x007 (by decide) (by decide) (by decide), fGet_fSet_ne _ _ _ _ _ _ (by decide),
      fGet_fSet_ne _ _ _ _ _ _ (by decide), fGet_fInc_ne _ _ _ _ _ _ _ (by decide)]
    rfl
  unfold logIndex fPart
  rw [hf]

theorem scrubPass_ecc (s : State) : (scrubPass s).mem.ecc = s.mem.ecc := by
  unfold scrubPass
  split
  · rfl
  · simp

theorem scrubDone_ecc (s : State) (a : Nat) : (scrubDone s a).mem.ecc = s.mem.ecc := rfl

/-- An uncorrectable word below the control memory does not make an active unit abdicate (R488). -/
theorem uncorrHook_low (s : State) (a : Nat) (h : a < 0x0100000000) : uncorrHook s a = s := by
  refine if_neg ?_
  simp only [inRetainWindow, Bool.and_eq_true, decide_eq_true_eq]
  omega

/-- The scrubber meets an uncorrectable word: its error response is reported, then the scrubber moves on. -/
theorem scrubStep_uncorr (s : State) (word : BitVec 40) (a : Nat) (hw : s.pwr.asleep = false) (hon : fBit s 1 0x002 0 = true)
    (hat : scrubNext s = some a) (hbad : Tbl.get 0 s.mem.ecc (a / 8) = 3) : Gives s (.scrubStep word 0)
      (scrubPass (scrubDone (uncorrHook (errorResp (uncorrFound s a) { unit := 1 } .scrub .uncorr a 0) a) a)) := by
  have hup : upset s word.toNat 0 = s := by simp [upset]
  show execScrubStep word 0 s = _
  unfold execScrubStep
  dsimp only [Fin.val_zero]
  rw [hup, if_neg (by simp [hw, hon]), hat]
  dsimp only
  rw [eccRead_uncorr s a hbad]
  rfl

/-- A word of the violation log that the scrubber finds uncorrectable does not stay so where its error response makes its entry: the entry
overwrites it (R97, R109). -/
theorem scrubStep_cleansEntry (s : State) (word : BitVec 40) (a : Nat) (hw : s.pwr.asleep = false) (hon : fBit s 1 0x002 0 = true)
    (hat : scrubNext s = some a) (hbad : Tbl.get 0 s.mem.ecc (a / 8) = 3) (ha : a = 0x80000 + 16 * logIndex s) :
    ∃ t, Gives s (.scrubStep word 0) t ∧ Tbl.get 0 t.mem.ecc (a / 8) = 0 := by
  have hi : logIndex s < 64 := Nat.mod_lt _ (by decide)
  refine ⟨_, scrubStep_uncorr s word a hw hon hat hbad, ?_⟩
  rw [scrubPass_ecc, scrubDone_ecc, uncorrHook_low _ a (by omega)]
  exact errorResp_cleansEntry _ _ _ _ _ _ a (by rw [logIndex_uncorrFound, ha])

/-- MEM scrubs, and stands at the first entry of an empty violation log, a word with three bad bits. -/
def logWordBad : State :=
  let s := fSet State.reset 1 0x002 1
  { s with mem := { s.mem with ecc := [(0x80000 / 8, 3)] } }

/-- Refutes O26 in its clause on an uncorrectable word, which it says stays marked: where that word is the violation log's next entry, the
error response that reports it writes it anew with a fresh code. -/
theorem not_boundariesApplyWhatWaits : ¬ Obligations.BoundariesApplyWhatWaits := by
  unfold Obligations.BoundariesApplyWhatWaits
  rintro ⟨-, -, -, hscrub⟩
  have hat : scrubNext logWordBad = some 0x80000 := by decide
  have hbad : Tbl.get 0 logWordBad.mem.ecc (0x80000 / 8) = 3 := by decide
  have hlog : logIndex logWordBad = 0 := by decide
  obtain ⟨-, -, huncorr⟩ := hscrub logWordBad 0x80000 1 0 (by decide) (by decide) hat (by decide)
  obtain ⟨t, ht, hmarked, -⟩ := huncorr hbad
  obtain ⟨u, hu, hclean⟩ := scrubStep_cleansEntry logWordBad 0 0x80000 (by decide) (by decide) hat hbad (by rw [hlog])
  have hmem : t.mem = u.mem := (congrArg State.mem (ht.unique hu) :)
  rw [← hmem] at hclean
  exact absurd (hmarked.symm.trans hclean) (by decide)

/-! ## Reassembly (R435) -/

/-- A datagram that is longer than 4,184 bytes with the shortest IPv4 header is not taken: its first fragment begins no reassembly. -/
theorem ipFragment_tooLong (s s1 : State) (path : MgtPath) (ip target : Word) (ident : BitVec 16) (proto : Byte) (hdr : Nat) (more : Bool)
    (d : List Byte) (hrx : mgtRx (clearOut s) path = (s1, true)) (ht : target ≠ 0) (hip : target = fGet s1 0x18 7)
    (hr : s1.net.reasm = []) (hd : 4184 < d.length + 20) : Gives s (.ipFragment path ip target ident proto hdr 0 more d) s1 := by
  have hkeep : { s1 with net := { s1.net with reasm := [] } } = s1 := by rw [← hr]
  show execIpFragment path ip target ident proto hdr 0 more d s = _
  unfold execIpFragment
  rw [hrx]
  refine congrArg (done s) ((if_neg (not_or.2 ⟨ht, not_not.2 hip⟩)).trans ?_)
  dsimp only
  rw [hr]
  refine (if_pos ?_).trans hkeep
  simp only [List.find?_nil, Option.getD_none]
  omega

/-- NET runs with its management path on, and answers to an address. -/
def mgtPathOn : State :=
  fSet (fSet (fSet (fSet State.reset 2 0x002 0x3FF) 0x18 1 1) 0x18 0xF 1) 0x18 7 0xC0A80001

/-- The header of a frame that the refutation names and does not use. -/
def anyFrame : RxHdr :=
  { port := 0, fcsOk := true, len := 64, dst := 0, src := 0, tags := 0, vlan := 0, ethertype := 0, trailer := none }

/-- A fragment's data that the statement's bound admits with a header of no bytes. -/
def longData : List Byte := List.replicate 4184 0

theorem longData_length : longData.length = 4184 := List.length_replicate

/-- Refutes O45 in its clause on the first fragment of a datagram, which bounds the length by the header as it is given: with a header of
less than the 20 bytes that the model counts at least, a fragment of 4,184 bytes meets the bound and begins no reassembly. -/
theorem not_portsAndManagementPathCarryFrames : ¬ Obligations.PortsAndManagementPathCarryFrames := by
  unfold Obligations.PortsAndManagementPathCarryFrames
  rintro ⟨-, hmgt, -⟩
  have hrx : mgtRx (clearOut mgtPathOn) .mgtEth = (clearOut mgtPathOn, true) := Prod.ext rfl (by decide)
  have hip : 0xC0A80001 = fGet (clearOut mgtPathOn) 0x18 7 := by decide
  have hd := longData_length
  obtain ⟨-, -, heth, -⟩ := hmgt mgtPathOn (clearOut mgtPathOn) anyFrame .mgtEth 0 0 0xC0A80001 longData [] 0 17 0 0 true 0 {} {}
  obtain ⟨-, -, hfirst, -⟩ := heth hrx (by decide) hip
  obtain ⟨-, -, t, y, ht, hy, -⟩ := hfirst rfl (by omega) (List.ne_nil_of_length_pos (by omega))
  have hu := ipFragment_tooLong mgtPathOn (clearOut mgtPathOn) .mgtEth 0 0xC0A80001 0 17 0 true longData hrx (by decide) hip
    rfl (by omega)
  have hnet : t.net = (clearOut mgtPathOn).net := (congrArg State.net (ht.unique hu) :)
  have hnone : t.net.reasm = [] := congrArg Net.reasm hnet
  exact List.cons_ne_nil y [] (hy.symm.trans hnone)
end Sys2Proof.Machine
end

section
/-! SUPPORT. The ALU and immediate instructions: what each operation computes (R53 to R55). -/
namespace Sys2Proof.Machine

/-! ## Words, saturation and the operations of R53 -/

/-- Saturation is the clamp between the least and the greatest number of the format (R10). -/
theorem clampS_eq (n : Nat) (x : Int) (h : sMin n ≤ sMax n) : clampS n x = max (sMin n) (min (sMax n) x) := by
  unfold clampS
  split
  · omega
  · split <;> omega

theorem satW_eq (x : Int) : satW x = BitVec.ofInt 32 (max (-2147483648) (min 2147483647 x)) :=
  congrArg (BitVec.ofInt 32) (clampS_eq 32 x (by decide))

/-- A number that a signed word can hold is not changed by saturation. -/
theorem satW_fits (x : Int) (h : -2147483648 ≤ x ∧ x ≤ 2147483647) : satW x = BitVec.ofInt 32 x := by
  rw [satW_eq]
  congr 1
  omega

theorem word_toInt_bounds (a : Word) : -2147483648 ≤ a.toInt ∧ a.toInt ≤ 2147483647 := by
  have h1 := BitVec.le_toInt a
  have h2 := BitVec.toInt_lt (x := a)
  omega

theorem word_toInt_ne_zero (b : Word) (h : b ≠ 0) : b.toInt ≠ 0 := fun e => h (BitVec.eq_of_toInt_eq (by rw [e]; rfl))

/-- A quotient is no greater than its dividend. -/
theorem tdiv_fits (a b : Word) (hb : b ≠ 0) (ho : ¬ (a = 0x80000000 ∧ b = 0xFFFFFFFF)) :
    -2147483648 ≤ a.toInt.tdiv b.toInt ∧ a.toInt.tdiv b.toInt ≤ 2147483647 := by
  obtain ⟨ha1, ha2⟩ := word_toInt_bounds a
  have hle : (a.toInt.tdiv b.toInt).natAbs ≤ a.toInt.natAbs := by
    rw [Int.natAbs_tdiv]
    exact Nat.div_le_self _ _
  by_cases hmin : a.toInt = -2147483648
  · have hbm : b.toInt ≠ -1 := fun e => ho ⟨BitVec.eq_of_toInt_eq hmin, BitVec.eq_of_toInt_eq e⟩
    have hb0 := word_toInt_ne_zero b hb
    rw [hmin]
    by_cases h1 : b.toInt = 1
    · rw [h1]; decide
    · have hle2 : ((-2147483648 : Int).tdiv b.toInt).natAbs ≤ 2147483648 / 2 := by
        rw [Int.natAbs_tdiv]
        exact Nat.div_le_div_left (by omega) (by decide)
      omega
  · omega

theorem divS_eq (a b : Word) (hb : b ≠ 0) (ho : ¬ (a = 0x80000000 ∧ b = 0xFFFFFFFF)) :
    divS a b = BitVec.ofInt 32 (a.toInt.tdiv b.toInt) := (if_neg hb).trans (satW_fits _ (tdiv_fits a b hb ho))

/-- The high word of a signed product. -/
theorem mulh_eq (a b : Word) :
    BitVec.ofInt 32 ((a.toInt * b.toInt).fdiv (2 ^ 32 : Nat)) = BitVec.ofInt 32 (a.toInt * b.toInt / 4294967296) :=
  congrArg (BitVec.ofInt 32) (Int.fdiv_eq_ediv_of_nonneg _ (by decide))

theorem ite_slt (a b x y : Word) : (if a.slt b then x else y) = if a.toInt < b.toInt then x else y := by
  simp [BitVec.slt]

theorem ite_ult (a b x y : Word) : (if a.ult b then x else y) = if a.toNat < b.toNat then x else y := by
  simp [BitVec.ult]

/-- The absolute value before its saturation lies above the least number. -/
theorem satW_abs (a : Word) :
    satW (if a.toInt < 0 then -a.toInt else a.toInt) = BitVec.ofInt 32 (min 2147483647 (max a.toInt (-a.toInt))) := by
  rw [satW_eq]
  congr 1
  split <;> omega

/-! ## The shared forms: each writes its destination -/

section
variable (i : Instr) (s : State) (h : Hdr) (k : Nat) (rd ra rb : Reg)

theorem aluOp_writes (func : Nat) (f : Word → Word → Word) (v : Word) (hi : exec i s = done s (aluOp h rd ra rb func f s))
    (hv : f (reg s k ra) (reg s k rb) = v) : Writes s h k i { word := encA 1 rd ra rb func, grp := .alu } rd v :=
  takes_ok h _ k _ i s _ hi (by simp only [reg_past, hv])

theorem shiftOp_writes (func : Nat) (f : Word → Nat → Word) (hi : exec i s = done s (shiftOp h rd ra rb func f s)) :
    Writes s h k i { word := encA 1 rd ra rb func, grp := .alu } rd (f (reg s k ra) rb.toNat) :=
  takes_ok h _ k _ i s _ hi (by simp only [reg_past])

theorem immOp_writes (imm : BitVec 14) (op5 : Nat) (f : Word → Word) (v : Word)
    (hi : exec i s = done s (immOp h rd ra imm op5 f s)) (hv : f (reg s k ra) = v) : Writes s h k i { word := encI op5 rd ra imm, grp := .alu } rd v :=
  takes_ok h _ k _ i s _ hi (by simp only [reg_past, hv])

theorem extOp_writes (func : Nat) (f : Word → Word) (v : Word) (hi : exec i s = done s (extOp h rd ra func f s))
    (hv : f (reg s k ra) = v) : Writes s h k i { word := encA 0b111000 rd ra 0 func, len := 8, grp := .alu } rd v :=
  takes_ok h _ k _ i s _ hi (by simp only [reg_past, hv])

end

/-! ## R53, R54: the ALU instructions -/

/-- Settles O8: each row of R53 is an `aluOp` or `shiftOp` of the function that the row names. -/
theorem aluInstructionsComputeTheirResult : Obligations.AluInstructionsComputeTheirResult := by
  unfold Obligations.AluInstructionsComputeTheirResult
  intro s h k rd ra rb a b alu
  have op {i : Instr} {func : Nat} {v : Word} {f : Word → Word → Word}
      (hi : exec i s = done s (aluOp h rd ra rb func f s)) (hv : f a b = v) : alu i func v := aluOp_writes i s h k rd ra rb func f v hi hv
  have sh {i : Instr} {func : Nat} {f : Word → Nat → Word}
      (hi : exec i s = done s (shiftOp h rd ra rb func f s)) : alu i func (f a rb.toNat) := shiftOp_writes i s h k rd ra rb func f hi
  exact ⟨op rfl rfl, op rfl rfl, op rfl rfl, op rfl rfl, op rfl rfl, op rfl rfl, op rfl rfl,
    op rfl (satW_eq _), op rfl (satW_eq _), op rfl (by simp), op rfl (by simp), op rfl (by simp), op rfl (by simp),
    sh rfl, sh rfl, sh rfl, op rfl rfl, op rfl (mulh_eq a b), op rfl rfl,
    fun hb ho => op rfl (divS_eq a b hb ho), fun hb => op rfl (if_neg hb), fun hb => op rfl (if_neg hb),
    fun hb => op rfl (if_neg hb), op rfl (ite_slt a b _ _), op rfl (ite_slt a b _ _), op rfl (ite_ult a b _ _),
    op rfl (ite_ult a b _ _), aluOp_writes _ s h k rd ra 0 27 _ _ rfl (satW_abs a)⟩

/-- Settles O9: the boundary cases of the four divisions and of `abs`, by their branches. -/
theorem divisionBoundaryCasesAreFixed : Obligations.DivisionBoundaryCasesAreFixed := by
  unfold Obligations.DivisionBoundaryCasesAreFixed
  intro s h k rd ra rb a b alu
  have op {i : Instr} {func : Nat} {v : Word} {f : Word → Word → Word}
      (hi : exec i s = done s (aluOp h rd ra rb func f s)) (hv : f a b = v) : alu i func v := aluOp_writes i s h k rd ra rb func f v hi hv
  refine ⟨fun hb ha => op rfl ((if_pos hb).trans (if_neg (not_lt.2 ha))), fun hb ha => op rfl ((if_pos hb).trans (if_pos ha)),
    fun hb => op rfl (if_pos hb), fun hb => op rfl (if_pos hb), fun hb => op rfl (if_pos hb),
    fun ha hb => ⟨op rfl ?_, op rfl ?_⟩, fun ha => aluOp_writes _ s h k rd ra 0 27 _ _ rfl ?_,
    ⟨_, op rfl rfl⟩, ⟨_, op rfl rfl⟩, ⟨_, op rfl rfl⟩, ⟨_, op rfl rfl⟩⟩
  · rw [ha, hb]; decide
  · rw [ha, hb]; decide
  · rw [show reg s k ra = 0x80000000 from ha]; decide

/-! ## R55: immediates -/

theorem sext_eq {n : Nat} (v : BitVec n) : sext v = BitVec.ofInt 32 v.toInt := rfl

theorem zext_eq {n : Nat} (v : BitVec n) : zext v = BitVec.ofNat 32 v.toNat := BitVec.eq_of_toNat_eq (by simp [zext])

theorem lui_eq (v : BitVec 20) : zext v <<< 12 = BitVec.ofNat 32 (v.toNat * 4096) :=
  BitVec.eq_of_toNat_eq (by simp [zext, Nat.shiftLeft_eq])

/-- Settles O10: the immediate forms by their operation, the immediate extended as each states. -/
theorem immediatesAreExtendedAndApplied : Obligations.ImmediatesAreExtendedAndApplied := by
  unfold Obligations.ImmediatesAreExtendedAndApplied
  intro s h k rd ra imm big w a i14 x32
  have op {i : Instr} {op5 : Nat} {v : Word} {f : Word → Word}
      (hi : exec i s = done s (immOp h rd ra imm op5 f s)) (hv : f a = v) : i14 i op5 v := immOp_writes i s h k rd ra imm op5 f v hi hv
  refine ⟨op rfl (congrArg (a + ·) (sext_eq imm)), op rfl (congrArg (a &&& ·) (zext_eq imm)),
    op rfl (congrArg (a ||| ·) (zext_eq imm)), op rfl (congrArg (a ^^^ ·) (zext_eq imm)),
    takes_ok h _ k _ _ s _ rfl (by simp only [sext_eq]),
    takes_ok h _ k _ _ s _ rfl (by simp only [lui_eq]),
    extOp_writes _ s h k rd 0 0 _ _ rfl rfl, extOp_writes _ s h k rd ra 1 _ _ rfl rfl, extOp_writes _ s h k rd ra 2 _ _ rfl rfl,
    extOp_writes _ s h k rd ra 3 _ _ rfl rfl, extOp_writes _ s h k rd ra 4 _ _ rfl rfl⟩

end Sys2Proof.Machine
end

section
/-! SUPPORT. The bits of fields and bytes of words, and the bit field instructions (R56). -/
namespace Sys2Proof.Machine

/-! ## Bits of numbers -/

/-- The bits of a number one of whose fields is replaced: the new value's in the field, the old ones outside. -/
theorem testBit_replace (n x lo len j : Nat) (hx : x < 2 ^ len) :
    (n - n / 2 ^ lo % 2 ^ len * 2 ^ lo + x * 2 ^ lo).testBit j =
      if lo ≤ j ∧ j < lo + len then x.testBit (j - lo) else n.testBit j := by
  have hlow : n % 2 ^ lo < 2 ^ lo := Nat.mod_lt _ (Nat.two_pow_pos lo)
  have hmid (y : Nat) (hy : y < 2 ^ len) : (2 ^ lo * (2 ^ len * (n / 2 ^ lo / 2 ^ len) + y) + n % 2 ^ lo).testBit j =
      if lo ≤ j ∧ j < lo + len then y.testBit (j - lo) else
        (2 ^ lo * (2 ^ len * (n / 2 ^ lo / 2 ^ len)) + n % 2 ^ lo).testBit j := by
    rw [Nat.testBit_two_pow_mul_add _ hlow, Nat.testBit_two_pow_mul_add _ hlow, Nat.testBit_two_pow_mul_add _ hy,
      Nat.testBit_two_pow_mul]
    by_cases h1 : j < lo
    · simp [h1]
    · by_cases h2 : j < lo + len
      · simp [h1, h2, show j - lo < len by omega, show lo ≤ j by omega]
      · simp [h1, h2, show ¬ j - lo < len by omega, show len ≤ j - lo by omega]
  have hn : 2 ^ lo * (2 ^ len * (n / 2 ^ lo / 2 ^ len) + n / 2 ^ lo % 2 ^ len) + n % 2 ^ lo = n := by
    rw [Nat.div_add_mod, Nat.div_add_mod]
  have hr : n - n / 2 ^ lo % 2 ^ len * 2 ^ lo + x * 2 ^ lo = 2 ^ lo * (2 ^ len * (n / 2 ^ lo / 2 ^ len) + x) + n % 2 ^ lo := by
    conv_lhs => enter [1, 1]; rw [← hn]
    rw [Nat.mul_add, Nat.mul_add, Nat.mul_comm (n / 2 ^ lo % 2 ^ len), Nat.mul_comm x]
    omega
  have hold := hmid (n / 2 ^ lo % 2 ^ len) (Nat.mod_lt _ (Nat.two_pow_pos len))
  rw [hn] at hold
  rw [hr, hmid x hx]
  split
  · rfl
  · next h => rw [hold, if_neg h]

theorem getLsbD_ofN (n j : Nat) : (Word.ofN n).getLsbD j = (decide (j < 32) && n.testBit j) := BitVec.getLsbD_ofNat ..

theorem testBit_field (a : Word) (lo len j : Nat) : (a.field lo len).testBit j = (decide (j < len) && a.getLsbD (lo + j)) := by
  rw [Word.field, Nat.testBit_mod_two_pow, Nat.testBit_div_two_pow, Nat.add_comm]
  rfl

/-- The bits of a word one of whose fields is replaced. -/
theorem getLsbD_setField (w : Word) (lo len v j : Nat) (hj : j < 32) :
    (w.setField lo len v).getLsbD j = if lo ≤ j ∧ j < lo + len then v.testBit (j - lo) else w.getLsbD j := by
  rw [Word.setField, getLsbD_ofN, Word.field, testBit_replace _ _ _ _ _ (Nat.mod_lt _ (Nat.two_pow_pos len)), Nat.testBit_mod_two_pow]
  simp only [hj, decide_true, Bool.true_and]
  split
  · next h => simp [show j - lo < len by omega]
  · rfl

/-- The bits of a number read from its bytes. -/
theorem testBit_leNat (bs : List Byte) (j : Nat) : (leNat bs).testBit j = (bs.getD (j / 8) 0).getLsbD (j % 8) := by
  induction bs generalizing j with
  | nil => simp [leNat]
  | cons b bs ih =>
    have hb : b.toNat < 2 ^ 8 := b.isLt
    rw [leNat, Nat.add_comm, show 256 = 2 ^ 8 from rfl, Nat.testBit_two_pow_mul_add _ hb, ih]
    by_cases h : j < 8
    · rw [if_pos h, Nat.div_eq_of_lt h, Nat.mod_eq_of_lt h]
      rfl
    · rw [if_neg h, show j / 8 = (j - 8) / 8 + 1 by omega, show (j - 8) % 8 = j % 8 by omega]
      rfl

/-- Byte `i` of a number. -/
theorem getElem?_leBytes (n v i : Nat) (hi : i < n) : (leBytes n v)[i]? = some (BitVec.ofNat 8 (v / 256 ^ i)) := by
  induction n generalizing v i with
  | zero => omega
  | succ n ih =>
    cases i with
    | zero => simp [leBytes]
    | succ i => rw [leBytes, List.getElem?_cons_succ, ih _ _ (by omega), Nat.div_div_eq_div_mul, Nat.pow_succ']

/-! ## R56: the bits of each result -/

theorem getLsbD_bext (a : Word) (pos w j : Nat) (hj : j < 32) :
    (bext a pos w).getLsbD j = (decide (j < w) && a.getLsbD (pos + j)) := by
  rw [bext, getLsbD_ofN, testBit_field]
  simp [hj]

/-- A sign-extended field is the sign extension of the field as a vector of its width. -/
theorem bexts_eq (a : Word) (pos w : Nat) : bexts a pos (w + 1) = (BitVec.ofNat (w + 1) (a.field pos (w + 1))).signExtend 32 := by
  have hlt : a.field pos (w + 1) < 2 ^ (w + 1) := Nat.mod_lt _ (Nat.two_pow_pos _)
  have hp : 2 ^ (w + 1) = 2 * 2 ^ w := Nat.pow_succ'
  have hn : (BitVec.ofNat (w + 1) (a.field pos (w + 1))).toNat = a.field pos (w + 1) := Nat.mod_eq_of_lt hlt
  unfold bexts
  dsimp only
  rw [BitVec.signExtend, BitVec.toInt_eq_toNat_cond, hn, Nat.add_sub_cancel]
  by_cases h : a.field pos (w + 1) < 2 ^ w
  · rw [if_pos h, if_pos (by omega)]
    exact (BitVec.ofInt_natCast ..).symm
  · rw [if_neg h, if_neg (by omega)]

theorem getLsbD_bexts (a : Word) (pos w j : Nat) (hj : j < 32) :
    (bexts a pos (w + 1)).getLsbD j = a.getLsbD (pos + min j w) := by
  rw [bexts_eq, BitVec.getLsbD_signExtend, BitVec.msb_eq_getLsbD_last]
  simp only [hj, decide_true, Bool.true_and, BitVec.getLsbD_ofNat, testBit_field, Nat.add_sub_cancel, Nat.lt_succ_self]
  split
  · next h => simp [h, show min j w = j by omega]
  · next h => simp [show min j w = w by omega]

theorem getLsbD_bins (d a : Word) (pos w j : Nat) (hj : j < 32) :
    (bins d a pos w).getLsbD j = if pos ≤ j ∧ j < pos + w then a.getLsbD (j - pos) else d.getLsbD j :=
  getLsbD_setField d pos w a.toNat j hj

theorem word_ofN_toNat (n : Nat) (h : n < 2 ^ 32) : (Word.ofN n).toNat = n := Nat.mod_eq_of_lt h

theorem clz_le (a : Word) : clz a ≤ 32 := by
  unfold clz
  split <;> omega

theorem clz_spec (a : Word) : a.toNat < 2 ^ (32 - clz a) ∧ (clz a < 32 → 2 ^ (31 - clz a) ≤ a.toNat) := by
  unfold clz
  split
  · next h => simp [h]
  · next h =>
    have hn : a.toNat ≠ 0 := fun e => h (BitVec.eq_of_toNat_eq e)
    have hl : a.toNat.log2 < 32 := (Nat.log2_lt hn).2 a.isLt
    rw [show 32 - (31 - a.toNat.log2) = a.toNat.log2 + 1 by omega, show 31 - (31 - a.toNat.log2) = a.toNat.log2 by omega]
    exact ⟨Nat.lt_log2_self, fun _ => Nat.log2_self_le hn⟩

theorem ctz_spec (a : Word) : ctz a ≤ 32 ∧ (∀ j < ctz a, a.getLsbD j = false) ∧ (ctz a < 32 → a.getLsbD (ctz a) = true) := by
  unfold ctz
  cases h : (List.range 32).find? (fun i => a.getLsbD i) with
  | none =>
    refine ⟨le_rfl, fun j hj => ?_, fun hlt => absurd hlt (lt_irrefl _)⟩
    simpa using List.find?_eq_none.1 h j (List.mem_range.2 hj)
  | some i =>
    obtain ⟨hset, hmem, hbelow⟩ := List.find?_range_eq_some.1 h
    exact ⟨(List.mem_range.1 hmem).le, fun j hj => by simpa using hbelow j hj, fun _ => hset⟩

theorem popc_eq (a : Word) : popc a = (List.range 32).countP (fun j => a.getLsbD j) := List.countP_eq_length_filter.symm

/-- Bits pushed one after another into a number: the last one pushed lies lowest. -/
theorem testBit_pushBits (f : Nat → Bool) (m j : Nat) :
    ((List.range m).foldl (fun n i => 2 * n + bit (f i)) 0).testBit j = (decide (j < m) && f (m - 1 - j)) := by
  have hb (x : Bool) : bit x < 2 ^ 1 := by cases x <;> decide
  induction m generalizing j with
  | zero => simp
  | succ m ih =>
    rw [List.range_succ, List.foldl_append, List.foldl_cons, List.foldl_nil]
    refine (Nat.testBit_two_pow_mul_add _ (hb _) j).trans ?_
    rw [ih]
    cases j with
    | zero => cases h : f m <;> simp [bit, h]
    | succ j => simp [show m - 1 - j = m - (j + 1) by omega]

theorem getLsbD_brev (a : Word) (j : Nat) (hj : j < 32) : (brev a).getLsbD j = a.getLsbD (31 - j) := by
  rw [brev, getLsbD_ofN, testBit_pushBits]
  simp [hj]

theorem getLsbD_bswap (a : Word) (j : Nat) (hj : j < 32) : (bswap a).getLsbD j = a.getLsbD (8 * (3 - j / 8) + j % 8) := by
  have hi : 4 - 1 - j / 8 < 4 := by omega
  rw [bswap, getLsbD_ofN, testBit_leNat, List.getD_eq_getElem?_getD, List.getElem?_reverse (by simp; omega), leBytes_length,
    getElem?_leBytes _ _ _ hi, Option.getD_some, BitVec.getLsbD_ofNat, show 256 = 2 ^ 8 from rfl, ← Nat.pow_mul,
    Nat.testBit_div_two_pow, Nat.add_comm]
  simp [hj, Nat.mod_lt]
  rfl

/-! ## The instructions -/

theorem fieldOp_writes (i : Instr) (s : State) (h : Hdr) (k : Nat) (rd ra pos wm1 : Reg) (op : Nat) (f : Word → Word → Word) (bad : Bool)
    (hi : exec i s = done s (fieldOp h rd ra pos wm1 op bad f s)) :
    Writes s h k i
      { word := encF 5 [(rd.toNat, 18), (ra.toNat, 13), (pos.toNat, 8), (op, 5), (wm1.toNat, 0)], grp := .alu, bad := bad } rd
      (f (reg s k rd) (reg s k ra)) := takes_ok h _ k _ i s _ hi (by simp only [reg_past])

/-- Settles O11: each instruction writes its operation's result, whose bits the lemmas of R56 give. -/
theorem bitFieldInstructionsComputeTheirResult : Obligations.BitFieldInstructionsComputeTheirResult := by
  unfold Obligations.BitFieldInstructionsComputeTheirResult
  intro s h k rd ra pos wm1 a d w dec
  have op (i : Instr) (pos wm1 : Reg) (n : Nat) (f : Word → Word → Word) (bad : Bool)
      (hi : exec i s = done s (fieldOp h rd ra pos wm1 n bad f s)) (hb : bad = false) :
      Writes s h k i (dec pos.toNat wm1.toNat n false) rd (f d a) := hb ▸ fieldOp_writes i s h k rd ra pos wm1 n f bad hi
  refine ⟨fun hw => ?field, ?counts⟩
  case field =>
    have hb : fieldTooWide pos wm1 = false := decide_eq_false (by omega)
    exact ⟨⟨_, op _ pos wm1 0 _ _ rfl hb, fun j hj => getLsbD_bext a _ _ j hj⟩,
      ⟨_, op _ pos wm1 1 _ _ rfl hb, fun j hj => getLsbD_bexts a _ _ j hj⟩,
      ⟨_, op _ pos wm1 2 _ _ rfl hb, fun j hj => getLsbD_bins d a _ _ j hj⟩⟩
  case counts =>
    have hclz := word_ofN_toNat (clz a) ((clz_le a).trans_lt (by decide))
    have hctz := word_ofN_toNat (ctz a) ((ctz_spec a).1.trans_lt (by decide))
    refine ⟨⟨_, op _ 0 0 3 _ _ rfl rfl, ?_⟩, ⟨_, op _ 0 0 4 _ _ rfl rfl, ?_⟩, ?_,
      ⟨_, op _ 0 0 6 _ _ rfl rfl, getLsbD_brev a⟩, ⟨_, op _ 0 0 7 _ _ rfl rfl, getLsbD_bswap a⟩⟩
    · rw [hclz]
      exact ⟨clz_le a, clz_spec a⟩
    · rw [hctz]
      exact ctz_spec a
    · rw [← popc_eq]
      exact op (.popc h rd ra) 0 0 5 _ _ rfl rfl

end Sys2Proof.Machine
end

section
/-! SUPPORT. Fixed point, accumulators and comparisons (R57 to R61). -/
namespace Sys2Proof.Machine

/-! ## R57 to R60: rounding and saturation -/

/-- A number fits a signed word exactly when saturation leaves it as it is. -/
theorem outOf_iff (x : Int) : outOf 32 x = true ↔ x ≠ max (-2147483648) (min 2147483647 x) := by
  have h1 : sMin 32 = -2147483648 := by decide
  have h2 : sMax 32 = 2147483647 := by decide
  simp only [outOf, h1, h2, Bool.or_eq_true, decide_eq_true_eq]
  omega

theorem satAcc_eq (x : Int) :
    satAcc x = BitVec.ofInt 80 (max (-604462909807314587353088) (min 604462909807314587353087 x)) :=
  congrArg (BitVec.ofInt 80) (clampS_eq 80 x (by decide))

theorem satAcc_zero : satAcc 0 = 0 := by decide

/-- The floored quotient and its remainder, by which every mode rounds. -/
theorem fdiv_fmod (x : Int) (d : Nat) (hd : 0 < d) : x = x.fdiv d * d + x.fmod d ∧ 0 ≤ x.fmod d ∧ x.fmod d < d := by
  refine ⟨?_, Int.fmod_nonneg_of_pos x (by omega), Int.fmod_lt_of_pos x (by omega)⟩
  rw [Int.mul_comm]
  exact (Int.mul_fdiv_add_fmod x d).symm

theorem roundDiv_floor (x : Int) (d : Nat) (hd : 0 < d) :
    roundDiv .floor x d * d ≤ x ∧ x < (roundDiv .floor x d + 1) * d := by
  obtain ⟨hx, h0, hlt⟩ := fdiv_fmod x d hd
  have hs : (x.fdiv d + 1) * d = x.fdiv d * d + d := by ring
  show x.fdiv d * d ≤ x ∧ x < (x.fdiv d + 1) * d
  omega

/-- The nearest modes: half a step at the most lies between the number and its rounding, and a tie is decided as the mode says. -/
theorem roundDiv_nearest (x : Int) (d : Nat) (hd : 0 < d) :
    let e := 2 * (x - roundDiv .nearest x d * d)
    e ≤ d ∧ -(d : Int) ≤ e ∧ (e = d → x < 0) ∧ (e = -(d : Int) → 0 ≤ x) := by
  obtain ⟨hx, h0, hlt⟩ := fdiv_fmod x d hd
  have hs : (x.fdiv d + 1) * d = x.fdiv d * d + d := by ring
  dsimp only [roundDiv]
  split <;> omega

theorem roundDiv_even (x : Int) (d : Nat) (hd : 0 < d) :
    let e := 2 * (x - roundDiv .even x d * d)
    e ≤ d ∧ -(d : Int) ≤ e ∧ ((e = d ∨ e = -(d : Int)) → roundDiv .even x d % 2 = 0) := by
  obtain ⟨hx, h0, hlt⟩ := fdiv_fmod x d hd
  have hs : (x.fdiv d + 1) * d = x.fdiv d * d + d := by ring
  have hm : (x.fdiv d).fmod 2 = x.fdiv d % 2 := Int.fmod_eq_emod_of_nonneg _ (by decide)
  dsimp only [roundDiv]
  rw [hm]
  split <;> omega

theorem roundDiv_zero (x : Int) (d : Nat) (hd : 0 < d) :
    let q := roundDiv .zero x d
    (0 ≤ x → q * d ≤ x ∧ x < (q + 1) * d) ∧ (x < 0 → x ≤ q * d ∧ (q - 1) * d < x) := by
  obtain ⟨hx, h0, hlt⟩ := fdiv_fmod x d hd
  have hs : (x.fdiv d + 1) * d = x.fdiv d * d + d := by ring
  have hs2 : (x.fdiv d + 1 + 1) * d = x.fdiv d * d + d + d := by ring
  have hp : (x.fdiv d - 1) * d = x.fdiv d * d - d := by ring
  have hp2 : (x.fdiv d + 1 - 1) * d = x.fdiv d * d := by ring
  dsimp only [roundDiv]
  split <;> omega

/-! ## The instructions of R57 to R60 -/

/-- An instruction none of whose operands is a reserved value, and whose body does not trap. -/
theorem takes_good (h : Hdr) (w : Word) (len : Nat) (g : Grp) (bad : Bool) (k : Nat) (body : Nat → State → Res) (i : Instr) (s t : State)
    (hgood : bad = false) (hi : exec i s = done s (runInstr h { word := w, len := len, grp := g, bad := bad } body s))
    (hb : body k (past s k len) = .ok t) : Takes s h k i { word := w, len := len, grp := g } t := by
  subst hgood
  exact takes_ok h _ k body i s t hi hb

section
variable (i : Instr) (s : State) (h : Hdr) (k : Nat)

/-- `fmul.q` and `acc.rd` write the saturated result, unless they are to trap on saturation and saturate. -/
theorem satResult_writes (w : Word) (body : Nat → State → Res) (rd : Reg) (t : Bool) (x : Int)
    (hi : exec i s = done s (runInstr h { word := w, grp := .fixed } body s))
    (hb : body k (past s k 4) = if t ∧ outOf 32 x then .trap (past s k 4) { cause := 5 } else .ok (setReg (past s k 4) k rd (satW x)))
    (hx : t = false ∨ x = max (-2147483648) (min 2147483647 x)) :
    Writes s h k i { word := w, grp := .fixed } rd (BitVec.ofInt 32 (max (-2147483648) (min 2147483647 x))) := by
  refine takes_ok h _ k body i s _ hi (hb.trans ((if_neg ?_).trans (by rw [satW_eq])))
  rintro ⟨ht, ho⟩
  rcases hx with hx | hx
  · simp [hx] at ht
  · exact (outOf_iff x).1 ho hx

theorem satResult_traps (w : Word) (body : Nat → State → Res) (rd : Reg) (t : Bool) (x : Int)
    (hi : exec i s = done s (runInstr h { word := w, grp := .fixed } body s))
    (hb : body k (past s k 4) = if t ∧ outOf 32 x then .trap (past s k 4) { cause := 5 } else .ok (setReg (past s k 4) k rd (satW x)))
    (ht : t = true) (hx : x ≠ max (-2147483648) (min 2147483647 x)) : Traps s h k i { word := w, grp := .fixed } { cause := 5 } :=
  traps_ok h _ k body i s _ hi (hb.trans (if_pos ⟨ht, (outOf_iff x).2 hx⟩))

theorem accOp_takes (w : Word) (acc : BitVec 3) (ra rb : Reg) (f : Acc → Word → Word → Acc) (bad : Bool) (v : Acc)
    (hgood : bad = false) (hi : exec i s = done s (accOp h w acc ra bad f rb s)) (hv : f (rdA (getCtx s k) acc) (reg s k ra) (reg s k rb) = v) :
    Takes s h k i { word := w, grp := .fixed } (setCtx (past s k 4) k (wrA (getCtx (past s k 4) k) acc v)) := by
  refine takes_good h w 4 .fixed bad k _ i s _ hgood hi ?_
  have hr (r : Reg) : rdG (getCtx (past s k 4) k) r = reg s k r := reg_past s k 4 r
  dsimp only
  rw [rdA_past, hr, hr, hv]

end

theorem accWord_eq (v : Acc) (n : Nat) : Word.ofN (v.toNat / 2 ^ n) = (v >>> n).setWidth 32 :=
  BitVec.eq_of_toNat_eq (by simp [Word.ofN, Nat.shiftRight_eq_div_pow])

/-- The raw word that `acc.wrw` writes holds 32 bits, or the 16 that are left of the accumulator (R59). -/
def rawLen (w : BitVec 2) : Nat := if w = 2 then 16 else 32

theorem accWrw_bits (v : Acc) (a : Word) (w : BitVec 2) (j : Nat) (hj : j < 80) :
    (BitVec.ofNat 80 (v.toNat - v.toNat / 2 ^ (32 * w.toNat) % 2 ^ rawLen w * 2 ^ (32 * w.toNat)
      + a.toNat % 2 ^ rawLen w * 2 ^ (32 * w.toNat))).getLsbD j =
      if 32 * w.toNat ≤ j ∧ j < 32 * w.toNat + 32 then a.getLsbD (j - 32 * w.toNat) else v.getLsbD j := by
  have hend : (32 * w.toNat ≤ j ∧ j < 32 * w.toNat + rawLen w) ↔ (32 * w.toNat ≤ j ∧ j < 32 * w.toNat + 32) := by
    unfold rawLen
    split
    · next h =>
      have hw2 : w.toNat = 2 := by rw [h]; rfl
      omega
    · rfl
  rw [BitVec.getLsbD_ofNat, testBit_replace _ _ _ _ _ (Nat.mod_lt _ (Nat.two_pow_pos _))]
  simp only [hj, decide_true, Bool.true_and, hend]
  split
  · next h =>
    rw [Nat.testBit_mod_two_pow, decide_eq_true (show j - 32 * w.toNat < rawLen w by have := hend.2 h; omega)]
    rfl
  · rfl

/-- Settles O12: the fixed-point instructions by their shared forms, the rounding modes by the floored quotient. -/
theorem fixedPointInstructionsRoundAndSaturate : Obligations.FixedPointInstructionsRoundAndSaturate := by
  unfold Obligations.FixedPointInstructionsRoundAndSaturate
  refine ⟨fun s h k rd ra rb acc sh mode w t => ?instrs, fun x sh => ?modes⟩
  case instrs =>
    intro a b v clamp round toAcc fdec fmul accRd
    have toAcc_of {i : Instr} {w : Word} {f : Acc → Word → Word → Acc} {ra rb : Reg} {x : Int}
        (hi : exec i s = done s (accOp h w acc ra false f rb s))
        (hv : f (rdA (getCtx s k) acc) (reg s k ra) (reg s k rb) = satAcc x) : toAcc i (fdec w) x :=
      accOp_takes i s h k w acc ra rb f false _ rfl hi (hv.trans (satAcc_eq x))
    refine ⟨satResult_writes _ s h k fmul _ rd t _ rfl (by simp only [reg_past]; rfl),
      satResult_traps _ s h k fmul _ rd t _ rfl (by simp only [reg_past]; rfl),
      toAcc_of rfl rfl, toAcc_of rfl rfl, toAcc_of rfl satAcc_zero.symm, toAcc_of rfl (by simp [a]),
      satResult_writes _ s h k accRd _ rd t _ rfl (by simp only [rdA_past]; rfl),
      satResult_traps _ s h k accRd _ rd t _ rfl (by simp only [rdA_past]; rfl), fun hw => ?rdw, fun hw => ⟨_, ?wrw, accWrw_bits _ _ w⟩⟩
    case rdw => exact takes_good h _ 4 .fixed (w == 3) k _ _ s _ (by simpa using hw) rfl (by simp only [rdA_past, accWord_eq]; rfl)
    case wrw => exact accOp_takes _ s h k _ acc ra 0 _ (w == 3) _ (by simpa using hw) rfl rfl
  case modes =>
    intro q p
    have hp : 0 < 2 ^ sh := Nat.two_pow_pos sh
    have hc : p = (2 ^ sh : Nat) := by simp [p]
    rw [hc]
    exact ⟨roundDiv_floor x _ hp, roundDiv_nearest x _ hp, roundDiv_even x _ hp, roundDiv_zero x _ hp⟩

/-! ## R61: comparisons -/

theorem not_decide_lt {α : Type} [LinearOrder α] (x y : α) : (!decide (x < y)) = decide (y ≤ x) := by
  rw [← decide_not, decide_eq_decide, not_lt]

/-- The eight conditions, by their number. -/
theorem condOf_eq (cond : BitVec 8) (a b : Word) (hc : cond.toNat ≤ 7) : condOf cond a b =
    [decide (a = b), decide (a ≠ b), decide (a.toInt < b.toInt), decide (b.toInt ≤ a.toInt), decide (a.toNat < b.toNat),
      decide (b.toNat ≤ a.toNat), decide (a &&& b ≠ 0), decide (a &&& b = 0)].getD cond.toNat false := by
  have hcases : cond = 0 ∨ cond = 1 ∨ cond = 2 ∨ cond = 3 ∨ cond = 4 ∨ cond = 5 ∨ cond = 6 ∨ cond = 7 := by bv_omega
  rcases hcases with rfl | rfl | rfl | rfl | rfl | rfl | rfl | rfl <;>
    simp [condOf, BitVec.slt, BitVec.ult, Bool.beq_eq_decide_eq, bne, not_decide_lt]

/-- The four combine modes, by their number. -/
theorem combine_eq (mode : BitVec 2) (old c : Bool) :
    combine mode old c = [c, old && c, old || c, !c].getD mode.toNat false := by
  have hcases : mode = 0 ∨ mode = 1 ∨ mode = 2 ∨ mode = 3 := by bv_omega
  rcases hcases with rfl | rfl | rfl | rfl <;> rfl

/-- Settles O13: the body of both forms is `cmpBody`, of the condition and the mode by their numbers. -/
theorem comparisonsWriteTheirPredicate : Obligations.ComparisonsWriteTheirPredicate := by
  unfold Obligations.ComparisonsWriteTheirPredicate
  intro s h k pd comb ra rb imm cond a old c new hc
  have hbad : decide (7 < cond.toNat) = false := decide_eq_false (by omega)
  have hbody (b : Word) (n : Nat) : cmpBody pd comb cond a b k (past s k n) = .ok (setPred (past s k n) k pd (new b)) := by
    unfold cmpBody
    rw [rdP_past, condOf_eq cond _ _ hc, combine_eq]
  exact ⟨takes_good h _ 4 .alu _ k _ _ s _ hbad rfl (by simpa only [reg_past] using hbody (reg s k rb) 4),
    takes_good h _ 8 .alu _ k _ _ s _ hbad rfl (by simpa only [reg_past] using hbody imm 8)⟩

end Sys2Proof.Machine
end

section
/-! SUPPORT. Branches (R62), and what an instruction that writes rd leaves alone (R40). -/
namespace Sys2Proof.Machine

/-! ## R62: branches and calls -/

@[simp] theorem homeOf_past (s : State) (k n : Nat) (e : Eng) : homeOf (past s k n) e = homeOf s e := by cases e <;> rfl

/-- The pc behind a branch of 4 bytes leads back to the branch itself. -/
theorem branchTarget_past (s : State) (k : Nat) (off : BitVec 20) :
    branchTarget (past s k 4) k off = (getCtx s k).pc + BitVec.ofInt 32 (4 * off.toInt) := by
  have h4 : Word.ofN 4 = (4 : Word) := rfl
  have hoff : sext off * 4 = BitVec.ofInt 32 (4 * off.toInt) := by
    rw [sext_eq, Int.mul_comm, BitVec.ofInt_mul]
    rfl
  rw [branchTarget, getCtx_past, hoff]
  dsimp only
  rw [h4, BitVec.add_sub_cancel]

section
variable (i : Instr) (s : State) (h : Hdr) (k : Nat) (w : Word) (body : Nat → State → Res) (goal : Word)
  (hi : exec i s = done s (runInstr h { word := w, grp := .branch } body s))
include hi

theorem jump_continues (hb : body k (past s k 4) = jumpTo h.eng k goal (past s k 4)) :
    (goal.toNat % 4 = 0 → Takes s h k i { word := w, grp := .branch } (setPc (past s k 4) k goal))
    ∧ (goal.toNat % 4 ≠ 0 → Traps s h k i { word := w, grp := .branch } { cause := 2, addr := (homeOf s h.eng).1 + goal.toNat }) :=
  ⟨fun hg => takes_ok h _ k body i s _ hi (hb.trans (if_neg (not_not.2 hg))),
    fun hg => traps_ok h _ k body i s _ hi (hb.trans ((if_pos hg).trans (by rw [homeOf_past])))⟩

theorem call_links (r : Reg) (hb : body k (past s k 4) = (jumpTo h.eng k goal (past s k 4)).andThen
      fun s' => .ok (setReg s' k r (getCtx (past s k 4) k).pc)) :
    (goal.toNat % 4 = 0 → Takes s h k i { word := w, grp := .branch }
      (setReg (setPc (past s k 4) k goal) k r ((getCtx s k).pc + 4)))
    ∧ (goal.toNat % 4 ≠ 0 → Traps s h k i { word := w, grp := .branch } { cause := 2, addr := (homeOf s h.eng).1 + goal.toNat }) := by
  rw [getCtx_past] at hb
  refine ⟨fun hg => takes_ok h _ k body i s _ hi (hb.trans ?_), fun hg => traps_ok h _ k body i s _ hi (hb.trans ?_)⟩
  · rw [jumpTo, if_neg (not_not.2 hg)]
    rfl
  · rw [jumpTo, if_pos hg, homeOf_past]
    rfl

end

/-- Settles O14: all four forms go by `jumpTo`, and the calls link behind it. -/
theorem branchesContinueAtTheirTarget : Obligations.BranchesContinueAtTheirTarget := by
  unfold Obligations.BranchesContinueAtTheirTarget
  intro s h k off rd ra pc b near far go link
  exact ⟨jump_continues _ s h k _ _ near rfl (by rw [branchTarget_past]), call_links _ s h k _ _ near rfl 31 (by rw [branchTarget_past]),
    jump_continues _ s h k _ _ far rfl (by rw [reg_past]), call_links _ s h k _ _ far rfl rd (by rw [reg_past])⟩

/-! ## R40: what an instruction that writes rd leaves alone -/

/-- Settles O5: the answer is the state behind the instruction with rd written, in which only that context differs. -/
theorem registerResultsChangeNothingElse : Obligations.RegisterResultsChangeNothingElse := by
  unfold Obligations.RegisterResultsChangeNothingElse
  intro s t h k i d rd v hw hr ht
  obtain rfl : settle s (setReg (past s k d.len) k rd v) = t := Host.Outcome.next.inj ((hw hr).symm.trans ht)
  have hk : getCtx (settle s (setReg (past s k d.len) k rd v)) k = wrG { getCtx s k with pc := (getCtx s k).pc + Word.ofN d.len } rd v :=
    (getCtx_setCtx _ _ _).trans (by rw [getCtx_past])
  have hne (r : Reg) (hr : r ≠ rd) : reg (settle s (setReg (past s k d.len) k rd v)) k r = reg s k r := by
    rw [reg, hk, rdG_wrG_ne _ _ _ _ hr]
    rfl
  refine ⟨fun h0 => ?_, rdG_zero _, hne, fun p => ?_, fun a => ?_, ?_, fun j hj => ?_, fun _ => rfl, rfl⟩
  · rw [reg, hk, rdG_wrG _ _ _ h0]
  · rw [hk, wrG]
    split <;> rfl
  · rw [hk, wrG]
    split <;> rfl
  · rw [hk, wrG]
    split <;> rfl
  · exact (getCtx_setCtx_ne _ _ _ _ hj).trans (getCtx_setCtx_ne _ _ _ _ hj)

end Sys2Proof.Machine
end

section
/-! SUPPORT. Near loads and stores (R63, R64, R67, R97): the bytes of a word in memory, what a store changes, and the accesses that get
their word. -/
namespace Sys2Proof.Machine

/-! ## The bytes of a word -/

theorem toNat_append_add {m n : Nat} (x : BitVec m) (y : BitVec n) : (x ++ y).toNat = x.toNat * 2 ^ n + y.toNat := by
  rw [BitVec.toNat_append, ← Nat.shiftLeft_add_eq_or_of_lt y.isLt, Nat.shiftLeft_eq]

theorem memW_eq (s : State) (a : Nat) : memW s a = memByte s (a + 3) ++ memByte s (a + 2) ++ memByte s (a + 1) ++ memByte s a := by
  apply BitVec.eq_of_toNat_eq
  have h (x : Nat) := (memByte s x).isLt
  have h0 := h a; have h1 := h (a + 1); have h2 := h (a + 2); have h3 := h (a + 3)
  simp only [toNat_append_add]
  rw [memW, word_ofN_toNat] <;> simp only [memN, Nat.add_assoc, Nat.reduceAdd] <;> omega

/-- A near load of less than a word, extended as its flag says (R64). -/
theorem loadExt_byte (s : State) (a : Nat) (x : Bool) :
    loadExt s a 1 x = if x then (memByte s a).signExtend 32 else (memByte s a).setWidth 32 := by
  have hb := (memByte s a).isLt
  have hn : (Word.ofN (memN s a 1)).toNat = (memByte s a).toNat := by rw [word_ofN_toNat] <;> simp only [memN] <;> omega
  have hf : BitVec.ofNat 8 ((Word.ofN (memN s a 1)).field 0 8) = memByte s a := by
    rw [Word.field, hn]
    apply BitVec.eq_of_toNat_eq
    rw [BitVec.toNat_ofNat]
    omega
  cases x
  · exact BitVec.eq_of_toNat_eq (hn.trans (by rw [if_neg (by decide), BitVec.toNat_setWidth]; omega))
  · exact (bexts_eq _ 0 7).trans (by rw [hf]; rfl)

theorem loadExt_half (s : State) (a : Nat) (x : Bool) : loadExt s a 2 x =
    if x then (memByte s (a + 1) ++ memByte s a).signExtend 32 else (memByte s (a + 1) ++ memByte s a).setWidth 32 := by
  have hb := (memByte s a).isLt
  have hb1 := (memByte s (a + 1)).isLt
  have hn : (Word.ofN (memN s a 2)).toNat = (memByte s (a + 1) ++ memByte s a).toNat := by
    rw [word_ofN_toNat, toNat_append_add] <;> simp only [memN] <;> omega
  have hh := (memByte s (a + 1) ++ memByte s a).isLt
  have hf : BitVec.ofNat 16 ((Word.ofN (memN s a 2)).field 0 16) = memByte s (a + 1) ++ memByte s a := by
    rw [Word.field, hn]
    apply BitVec.eq_of_toNat_eq
    rw [BitVec.toNat_ofNat]
    omega
  cases x
  · exact BitVec.eq_of_toNat_eq (hn.trans (by rw [if_neg (by decide), BitVec.toNat_setWidth]; omega))
  · exact (bexts_eq _ 0 15).trans (by rw [hf]; rfl)

theorem setN_eq_setBytes (n : Nat) : ∀ (s : State) (a v : Nat), setN s a n v = setBytes s a (leBytes n v) := by
  induction n with
  | zero => exact fun _ _ _ => rfl
  | succ n ih => exact fun s a v => ih (setByte s a (BitVec.ofNat 8 v)) (a + 1) (v / 256)

theorem setBytes_append (xs ys : List Byte) : ∀ (s : State) (a : Nat),
    setBytes s a (xs ++ ys) = setBytes (setBytes s a xs) (a + xs.length) ys := by
  induction xs with
  | nil => exact fun _ _ => rfl
  | cons x xs ih => exact fun s a => (ih (setByte s a x) (a + 1)).trans (by rw [List.length_cons, Nat.add_assoc, Nat.add_comm 1]; rfl)

/-- The bytes of a word are its eight-bit fields. -/
theorem leBytes_word (w : Word) (n : Nat) : leBytes n w.toNat = (List.range n).map (fun j => w.extractLsb' (8 * j) 8) := by
  refine List.ext_getElem? fun i => ?_
  by_cases hi : i < n
  · rw [getElem?_leBytes _ _ _ hi, List.getElem?_map, List.getElem?_range hi, Option.map_some]
    refine congrArg some (BitVec.eq_of_toNat_eq ?_)
    rw [BitVec.extractLsb'_toNat, BitVec.toNat_ofNat, Nat.shiftRight_eq_div_pow, Nat.pow_mul]
  · rw [List.getElem?_eq_none (by simp; omega), List.getElem?_eq_none (by simp; omega)]

/-! ## What a store leaves alone -/

/-- A write below the Almanac's area leaves every other byte alone, those that the read window shows too. -/
theorem memByte_setByte_low (s : State) (a x : Nat) (b : Byte) (ha : a < 0x0C00000000) (hx : x ≠ a) :
    memByte (setByte s a b) x = memByte s x := by
  by_cases hr : x < 0x40000
  · unfold memByte
    rw [if_pos hr, if_pos hr]
  by_cases hw : 0x0E00000000 ≤ x ∧ x < 0x0E00200000
  · have hcell (n k : Nat) : Tbl.get 0 (setByte s a b).mem.cells (0x0C00000000 + 64 * n + k) =
        Tbl.get 0 s.mem.cells (0x0C00000000 + 64 * n + k) := Tbl.get_put_ne _ _ _ _ _ _ (by omega)
    have hshown (i : Nat) : shownSlot (setByte s a b) i = shownSlot s i := rfl
    unfold memByte winByte
    rw [if_neg hr, if_pos hw, if_neg hr, if_pos hw]
    simp only [hcell, hshown]
  · exact memByte_setByte_ne s a x b ⟨by omega, hw⟩ hx

theorem memByte_setBytes_low (bs : List Byte) : ∀ (s : State) (a x : Nat), a + bs.length ≤ 0x0C00000000 →
    (x < a ∨ a + bs.length ≤ x) → memByte (setBytes s a bs) x = memByte s x := by
  induction bs with
  | nil => exact fun _ _ _ _ _ => rfl
  | cons b bs ih =>
    intro s a x ha hx
    rw [List.length_cons] at ha hx
    rw [setBytes, ih _ _ x (by omega) (by omega), memByte_setByte_low s a x b (by omega) (by omega)]

/-- Stored bytes read back. -/
theorem memN_setN (n : Nat) : ∀ (s : State) (a v : Nat), (∀ x, a ≤ x → x < a + n → plainAddr x) →
    memN (setN s a n v) a n = v % 256 ^ n := by
  induction n with
  | zero => intro s a v _; simp [memN, Nat.mod_one]
  | succ n ih =>
    intro s a v hp
    have hself : memByte (setN s a (n + 1) v) a = BitVec.ofNat 8 v := by
      rw [setN, memByte_setN_out n _ _ _ a (hp a le_rfl (by omega)) (by omega), memByte_setByte_self s a _ (hp a le_rfl (by omega))]
    rw [memN, hself, setN, ih _ _ _ (fun x h1 h2 => hp x (by omega) (by omega)), BitVec.toNat_ofNat]
    exact Nat.mod_mul.symm.trans (congrArg (v % ·) (Nat.pow_succ' (n := n) (m := 256)).symm)

theorem memW_setW (s : State) (a : Nat) (v : Word) (hp : ∀ x, a ≤ x → x < a + 4 → plainAddr x) : memW (setW s a v) a = v := by
  rw [memW, setW, memN_setN 4 s a _ hp]
  exact BitVec.eq_of_toNat_eq (by rw [word_ofN_toNat] <;> have := v.isLt <;> omega)

/-! ## Accesses that get their word -/

theorem effective_eq (b : Word) (off : BitVec 12) (n : Nat) : effective b off n = (b + BitVec.ofInt 32 (off.toInt * n)).toNat := by
  rw [effective, sext_eq, BitVec.ofInt_mul, BitVec.ofInt_natCast]
  rfl

/-- What an access meets does not depend on the pc. -/
theorem near_past (s : State) (k : Nat) (e : Eng) (wr : Bool) (ea n : Nat) (hn : Near s e wr ea n) : Near (past s k 4) e wr ea n := by
  obtain ⟨h1, h2, h3, h4⟩ := hn
  exact ⟨h1, by rwa [homeOf_past], by rw [homeOf_past]; exact h3, by rw [homeOf_past]; exact h4⟩

section
variable (i : Instr) (s : State) (h : Hdr) (k : Nat) (w : Word) (rb : Reg) (off : BitVec 12) (n : Nat) (bad : Bool)
  (f : Nat → Nat → State → State) (t : State) (hgood : bad = false)
include hgood

theorem loadOp_takes (hi : exec i s = done s (loadOp h w rb off n bad f s))
    (hn : Near s h.eng false (reg s k rb + BitVec.ofInt 32 (off.toInt * n)).toNat n)
    (ht : f k ((homeOf s h.eng).1 + (reg s k rb + BitVec.ofInt 32 (off.toInt * n)).toNat) (past s k 4) = t) :
    Takes s h k i { word := w, grp := .near } t := by
  refine takes_good h w 4 .near bad k _ i s _ hgood hi ?_
  rw [reg_past, effective_eq, nearAccess_ok _ _ _ _ _ _ _ _ (near_past s k _ _ _ _ hn) (by simp), homeOf_past, ht]

theorem storeOp_takes (hi : exec i s = done s (storeOp h w rb off n bad f s)) (h8 : n ≠ 8)
    (hn : Near s h.eng true (reg s k rb + BitVec.ofInt 32 (off.toInt * n)).toNat n)
    (ht : f k ((homeOf s h.eng).1 + (reg s k rb + BitVec.ofInt 32 (off.toInt * n)).toNat) (past s k 4) = t) :
    Takes s h k i { word := w, grp := .near } t := by
  refine takes_good h w 4 .near bad k _ i s _ hgood hi ?_
  rw [reg_past, effective_eq, nearAccess_ok _ _ _ _ _ _ _ _ (near_past s k _ _ _ _ hn) (by simp [h8]), homeOf_past, ht]

theorem storeOp_takes_whole (hi : exec i s = done s (storeOp h w rb off 8 bad f s))
    (hn : Near s h.eng true (reg s k rb + BitVec.ofInt 32 (off.toInt * (8 : Nat))).toNat 8)
    (ht : f k ((homeOf s h.eng).1 + (reg s k rb + BitVec.ofInt 32 (off.toInt * (8 : Nat))).toNat) (eccFresh (past s k 4)
      ((homeOf s h.eng).1 + (reg s k rb + BitVec.ofInt 32 (off.toInt * (8 : Nat))).toNat)) = t) :
    Takes s h k i { word := w, grp := .near } t := by
  refine takes_good h w 4 .near bad k _ i s _ hgood hi ?_
  rw [reg_past, effective_eq, nearAccess_fresh _ _ _ _ _ _ (near_past s k _ _ _ _ hn) (homeOf_aligned _ _), homeOf_past, ht]

end

/-! ## The statement -/

@[simp] theorem memByte_past (s : State) (k n a : Nat) : memByte (past s k n) a = memByte s a := rfl

@[simp] theorem memW_past (s : State) (k n a : Nat) : memW (past s k n) a = memW s a := rfl

@[simp] theorem reg_eccFresh (s : State) (a k : Nat) (r : Reg) : reg (eccFresh s a) k r = reg s k r := rfl

section
variable (s : State) (h : Hdr) (k : Nat) (rd rb : Reg) (off : BitVec 12)

/-- Where a near access of `n` bytes goes (R63). -/
def nearAddr (n : Nat) : Nat := (homeOf s h.eng).1 + (reg s k rb + BitVec.ofInt 32 (off.toInt * n)).toNat

/-- The low `n` bytes of a register. -/
def regBytes (r : Reg) (n : Nat) : List Byte := (List.range n).map (fun j => (reg s k r).extractLsb' (8 * j) 8)

theorem setN_reg (t : State) (a n : Nat) (r : Reg) : setN t a n (reg s k r).toNat = setBytes t a (regBytes s k r n) := by
  rw [setN_eq_setBytes, leBytes_word]
  rfl

theorem setW_pair (t : State) (a : Nat) (r q : Reg) :
    setW (setW t a (reg s k r)) (a + 4) (reg s k q) = setBytes t a (regBytes s k r 4 ++ regBytes s k q 4) := by
  rw [setBytes_append, setW, setW, setN_reg, setN_reg]
  rfl

theorem stB_takes (hn : Near s h.eng true (reg s k rb + BitVec.ofInt 32 (off.toInt * (1 : Nat))).toNat 1) :
    Takes s h k (.stB h rd rb off) { word := encM 0b100100 rd rb false off, grp := .near }
      (setBytes (past s k 4) (nearAddr s h k rb off 1) (regBytes s k rd 1)) :=
  storeOp_takes _ s h k _ rb off 1 _ _ _ rfl rfl (by decide) hn (by rw [reg_past, setN_reg]; rfl)

theorem stH_takes (hn : Near s h.eng true (reg s k rb + BitVec.ofInt 32 (off.toInt * (2 : Nat))).toNat 2) :
    Takes s h k (.stH h rd rb off) { word := encM 0b100101 rd rb false off, grp := .near }
      (setBytes (past s k 4) (nearAddr s h k rb off 2) (regBytes s k rd 2)) :=
  storeOp_takes _ s h k _ rb off 2 _ _ _ rfl rfl (by decide) hn (by rw [reg_past, setN_reg]; rfl)

theorem stW_takes (hn : Near s h.eng true (reg s k rb + BitVec.ofInt 32 (off.toInt * (4 : Nat))).toNat 4) :
    Takes s h k (.stW h rd rb off) { word := encM 0b100110 rd rb false off, grp := .near }
      (setBytes (past s k 4) (nearAddr s h k rb off 4) (regBytes s k rd 4)) :=
  storeOp_takes _ s h k _ rb off 4 _ _ _ rfl rfl (by decide) hn (by rw [reg_past, setW, setN_reg]; rfl)

theorem stD_takes (hodd : oddReg rd = false) (hn : Near s h.eng true (reg s k rb + BitVec.ofInt 32 (off.toInt * (8 : Nat))).toNat 8) :
    Takes s h k (.stD h rd rb off) { word := encM 0b100111 rd rb false off, grp := .near }
      (setBytes (eccFresh (past s k 4) (nearAddr s h k rb off 8)) (nearAddr s h k rb off 8) (regBytes s k rd 4 ++ regBytes s k (rd + 1) 4)) :=
  storeOp_takes_whole _ s h k _ rb off _ _ _ hodd rfl hn
    (by rw [reg_eccFresh, reg_eccFresh, reg_past, reg_past, setW_pair]; rfl)

end

/-- The home regions lie below the Almanac's area. -/
theorem home_low (s : State) (e : Eng) (ea n : Nat) (h : ea + n ≤ (homeOf s e).2) : (homeOf s e).1 + ea + n ≤ 0x0C00000000 := by
  have hb (n : Nat) : coreBank s n < 8 := Nat.mod_lt _ (by decide)
  cases e with
  | cyc c => have := hb c.val; simp only [homeOf] at h ⊢; omega
  | afe c => have := c.isLt; simp only [homeOf] at h ⊢; omega
  | _ => simp only [homeOf] at h ⊢; omega

/-- The state in which a near store puts its bytes: a whole doubleword has a fresh code (R97). -/
def storeBase (s : State) (k n a : Nat) : State := if n = 8 then eccFresh (past s k 4) a else past s k 4

/-- A near store changes its bytes, their code and the pc only. -/
theorem storedBytes_frame (s : State) (k n a : Nat) (bs : List Byte) (hl : bs.length = n) (ha : a + n ≤ 0x0C00000000) :
    let t := settle s (setBytes (storeBase s k n a) a bs)
    (∀ x, x < a ∨ a + n ≤ x → memByte t x = memByte s x)
    ∧ getCtx t k = { getCtx s k with pc := (getCtx s k).pc + 4 }
    ∧ (∀ j, j ≠ k → getCtx t j = getCtx s j)
    ∧ t = { s with mem := t.mem, ctxs := t.ctxs, pins := t.pins } := by
  obtain ⟨m, hm⟩ := setBytes_only bs (storeBase s k n a) a
  obtain ⟨c, hbase⟩ : ∃ c, storeBase s k n a = { past s k 4 with mem := c } := by
    unfold storeBase
    split
    · exact ⟨_, rfl⟩
    · exact ⟨_, rfl⟩
  have hctx (j : Nat) : getCtx (settle s (setBytes (storeBase s k n a) a bs)) j = getCtx (past s k 4) j := by rw [hm, hbase]; rfl
  refine ⟨fun x hx => ?_, (hctx k).trans (getCtx_past s k 4), fun j hj => (hctx j).trans (getCtx_setCtx_ne _ _ _ _ hj), ?_⟩
  · have hout := memByte_setBytes_low bs (storeBase s k n a) a x (by omega) (by omega)
    refine Eq.trans (show _ = memByte (setBytes (storeBase s k n a) a bs) x from rfl) (hout.trans ?_)
    unfold storeBase
    split <;> rfl
  · rw [hm, hbase]
    rfl

/-- Settles O15: the loads and stores by the access that gets its word, the frame of a store by the bytes it sets, and the laws of a word. -/
theorem nearAccessesReadAndWriteTheHomeRegion : Obligations.NearAccessesReadAndWriteTheHomeRegion := by
  unfold Obligations.NearAccessesReadAndWriteTheHomeRegion
  refine ⟨fun s h k rd rb x off => ?loads, fun s h k rd rb off => ?stores, fun s t h k n rd rb off i op hi hodd hr => ?frame,
    fun s a v ha hp => ?laws⟩
  case loads =>
    intro ea byte word dec
    exact ⟨fun hn => loadOp_takes _ s h k _ rb off 1 _ _ _ rfl rfl hn (by rw [loadExt_byte]; rfl),
      fun hn => loadOp_takes _ s h k _ rb off 2 _ _ _ rfl rfl hn (by rw [loadExt_half]; rfl),
      fun hn => loadOp_takes _ s h k _ rb off 4 _ _ _ rfl rfl hn (by rw [memW_eq]; rfl),
      fun hn hodd => loadOp_takes _ s h k _ rb off 8 _ _ _ hodd rfl hn (by rw [memW_eq, memW_eq]; rfl)⟩
  case stores =>
    exact ⟨stB_takes s h k rd rb off, stH_takes s h k rd rb off, stW_takes s h k rd rb off, fun hn hodd => stD_takes s h k rd rb off hodd hn⟩
  case frame =>
    intro ea hn ht
    have frame (bs : List Byte) (hl : bs.length = n)
        (hg : Takes s h k i { word := encM op rd rb false off, grp := .near } (setBytes (storeBase s k n (nearAddr s h k rb off n))
          (nearAddr s h k rb off n) bs)) := by
      have he := Host.Outcome.next.inj ((hg hr).symm.trans ht)
      exact he ▸ storedBytes_frame s k n (nearAddr s h k rb off n) bs hl (home_low s h.eng ea n hn.inside)
    have hlen (r : Reg) (m : Nat) : (regBytes s k r m).length = m := by simp [regBytes]
    simp only [List.mem_cons, Prod.mk.injEq, List.not_mem_nil, or_false] at hi
    obtain ⟨rfl, rfl, rfl⟩ | ⟨rfl, rfl, rfl⟩ | ⟨rfl, rfl, rfl⟩ | ⟨rfl, rfl, rfl⟩ := hi
    · exact frame _ (hlen rd 1) (stB_takes s h k rd rb off hn)
    · exact frame _ (hlen rd 2) (stH_takes s h k rd rb off hn)
    · exact frame _ (hlen rd 4) (stW_takes s h k rd rb off hn)
    · exact frame _ (by rw [List.length_append, hlen, hlen]) (stD_takes s h k rd rb off (hodd rfl) hn)
  case laws =>
    exact ⟨memW_setW s a v (fun x h1 h2 => ⟨by omega, by omega⟩),
      fun x h1 h2 h3 => memByte_setN_out 4 s a _ x ⟨h1, by omega⟩ h3⟩

end Sys2Proof.Machine
end

section
/-! SUPPORT. Far accesses and atomics, and the accesses that are misaligned (R65 to R67, R94). -/
namespace Sys2Proof.Machine

/-! ## Instructions that trap -/

/-- An instruction none of whose operands is a reserved value, and whose body traps. -/
theorem traps_good (h : Hdr) (w : Word) (len : Nat) (g : Grp) (bad : Bool) (k : Nat) (body : Nat → State → Res) (i : Instr) (s : State)
    (e : Trap) (hgood : bad = false) (hi : exec i s = done s (runInstr h { word := w, len := len, grp := g, bad := bad } body s))
    (hb : body k (past s k len) = .trap (past s k len) e) : Traps s h k i { word := w, len := len, grp := g } e := by
  subst hgood
  exact traps_ok h _ k body i s e hi hb

/-- An instruction whose body traps on a state that an error response has changed (R67). -/
theorem gives_trap (h : Hdr) (w : Word) (len : Nat) (g : Grp) (bad : Bool) (k : Nat) (body : Nat → State → Res) (i : Instr) (s t : State)
    (e : Trap) (hgood : bad = false) (hi : exec i s = done s (runInstr h { word := w, len := len, grp := g, bad := bad } body s))
    (hb : body k (past s k len) = .trap t e) (r : Runs s h k { word := w, len := len, grp := g }) :
    Gives s i (takeTrap (setPc t k (getCtx s k).pc) h.eng k (getCtx s k).pc (fullWord h { word := w, len := len, grp := g }) e) := by
  subst hgood
  unfold Gives
  rw [hi, runInstr_trap h _ k body s t e r hb]
  rfl

/-! ## Far accesses (R65, R94) -/

/-- The address of a far access that gets its word, as the pair holds it. -/
theorem Far.pair {s : State} {e : Eng} {wr : Bool} {lo hi : Word} {n a : Nat} (hf : Far s e wr lo hi n a) :
    hi.toNat % 256 * 2 ^ 32 + lo.toNat = a ∧ farAddr lo hi = some a :=
  ⟨by rw [Nat.mod_eq_of_lt hf.high, hf.addr], by rw [farAddr, if_pos hf.high, hf.addr]⟩

/-- Only MGT stores through the gate, into the station tables and CLE's memory. -/
theorem storeTarget_some (e : Eng) (a t : Nat) (h : storeTarget e a = some t) : unitOf e = 0 ∧ (t = 0x22 * 64 ∨ t = 0x10 * 64) := by
  unfold storeTarget at h
  split at h
  · exact absurd h (by simp)
  · next hu =>
    split at h <;> simp only [Option.some.injEq, reduceCtorEq] at h
    · exact ⟨not_not.1 hu, .inl h.symm⟩
    · exact ⟨not_not.1 hu, .inr h.symm⟩

section
variable (i : Instr) (s : State) (h : Hdr) (k : Nat) (r ra : Reg) (func n a : Nat) (f : Nat → Nat → State → State)
  (hgood : (oddReg ra || (n == 8 && oddReg r)) = false)
include hgood

/-- A far load that need not wait for the gate reads its word at once. -/
theorem farLoad_takes (t : State) (hi : exec i s = done s (farOp h func r ra false n f s)) (ht : f k a (past s k 4) = t)
    (hf : Far s h.eng false (reg s k ra) (reg s k (ra + 1)) n a) (hg : viaGate s h.eng a n = false) :
    Takes s h k i { word := encA 0b101010 r ra 0 func, grp := .far } t := by
  refine takes_good h _ 4 .far _ k _ i s _ hgood hi ?_
  obtain ⟨ha40, hfar⟩ := hf.pair
  have hv : viaGate (past s k 4) h.eng a n = false := hg
  have hx := access_ok (past s k 4) (whoIs h.eng k) .read false a n hf.may hf.clean (by simp)
  simp only [reg_past, pairReg, ha40, hf.aligned, ne_eq, not_true_eq_false, if_false, hfar, hf.outside, hv, Bool.false_eq_true, and_false,
    withAccess, hx, ht]

/-- A load of MGT from another plane's memory waits for its owner's boundary (R94). -/
theorem farLoad_waits (hi : exec i s = done s (farOp h func r ra false n f s))
    (hf : Far s h.eng false (reg s k ra) (reg s k (ra + 1)) n a) (hg : ¬ viaGate s h.eng a n = false) :
    Takes s h k i { word := encA 0b101010 r ra 0 func, grp := .far } (setCtx (past s k 4) k { getCtx (past s k 4) k with
      wait := .gate r.toNat a n (fullWord h { word := encA 0b101010 r ra 0 func, grp := .far }) }) := by
  refine takes_good h _ 4 .far _ k _ i s _ hgood hi ?_
  obtain ⟨ha40, hfar⟩ := hf.pair
  have hv : viaGate (past s k 4) h.eng a n = true := Bool.eq_true_of_not_eq_false hg
  simp only [reg_past, pairReg, ha40, hf.aligned, ne_eq, not_true_eq_false, if_false, hfar, hf.outside, hv, Bool.not_false, and_self,
    if_true, Bool.false_eq_true]

/-- A far store that does not pass the gate is done at once; a whole doubleword has a fresh code (R97). -/
theorem farStore_takes (t : State) (hi : exec i s = done s (farOp h func r ra true n f s)) (ht : f k a (storeBase s k n a) = t)
    (hf : Far s h.eng true (reg s k ra) (reg s k (ra + 1)) n a) (hg : storeTarget h.eng a = none) :
    Takes s h k i { word := encA 0b101010 0 ra r func, grp := .far } t := by
  refine takes_good h _ 4 .far _ k _ i s _ hgood hi ?_
  obtain ⟨ha40, hfar⟩ := hf.pair
  have hx : access (past s k 4) (whoIs h.eng k) .write true a n = (storeBase s k n a, none) := by
    unfold storeBase
    split
    · next h8 => subst h8; exact access_fresh (past s k 4) (whoIs h.eng k) .write a hf.may hf.aligned
    · next h8 => exact access_ok (past s k 4) (whoIs h.eng k) .write true a n hf.may hf.clean (by simp [h8])
  simp only [reg_past, pairReg, ha40, hf.aligned, ne_eq, not_true_eq_false, if_false, hfar, hf.outside, Bool.not_true, Bool.false_eq_true,
    false_and, hg, withAccess, hx, if_true, ht]

/-- A store of MGT into another plane's memory passes the gate (R24, R85). -/
theorem farStore_gates (t : Nat) (hi : exec i s = done s (farOp h func r ra true n f s))
    (hf : Far s h.eng true (reg s k ra) (reg s k (ra + 1)) n a) (hg : storeTarget h.eng a = some t) (hn : n = 4 ∨ n = 8)
    (hfree : s.gate.any (fun x => x.target == t) = false) (bs : List Byte)
    (hbs : leBytes 4 (reg s k r).toNat ++ (if n = 8 then leBytes 4 (reg s k (r + 1)).toNat else []) = bs) :
    let g : GateItem := { target := t, change := .store a bs }
    let d : Dec := { word := encA 0b101010 0 ra r func, grp := .far }
    (unitStopped s (t / 64) = false → Takes s h k i d { past s k 4 with gate := s.gate ++ [g] })
    ∧ (unitStopped s (t / 64) = true → Takes s h k i d (gateDone (storeNow (past s k 4) a bs) g)) := by
  obtain ⟨ha40, hfar⟩ := hf.pair
  have hlen : bs.length = n := by rcases hn with rfl | rfl <;> simp [← hbs]
  obtain ⟨hunit, htarget⟩ := storeTarget_some h.eng a t hg
  have hmay : accessCause (past s k 4) 0 true a bs.length = none := by rw [hlen, ← hunit]; exact hf.may
  have hstop : unitStopped (past s k 4) (t / 64) = unitStopped s (t / 64) := by rcases htarget with rfl | rfl <;> rfl
  constructor <;> intro hs <;> refine takes_good h _ 4 .far _ k _ i s _ hgood hi ?_ <;>
    simp only [reg_past, pairReg, ha40, hf.aligned, ne_eq, not_true_eq_false, if_false, hfar, hf.outside, Bool.not_true,
      Bool.false_eq_true, false_and, hg, if_true, gateStore, hbs, hmay, past_gate, hfree, hstop, hs]

end

/-! ## Atomics and misaligned accesses (R66, R67) -/

section
variable (i : Instr) (s : State) (h : Hdr) (k : Nat) (rd ra rb : Reg) (func : Nat) (f : Word → Word → Word → Word)
  (hi : exec i s = done s (amoOp h func rd ra rb f s))
include hi

theorem amoOp_takes (new : Word) (hn : Near s h.eng true (reg s k ra).toNat 4)
    (hnew : f (memW s ((homeOf s h.eng).1 + (reg s k ra).toNat)) (reg s k rb) (reg s k rd) = new) :
    Takes s h k i { word := encA 0b101011 rd ra rb func, grp := .near }
      (setReg (setW (past s k 4) ((homeOf s h.eng).1 + (reg s k ra).toNat) new) k rd (memW s ((homeOf s h.eng).1 + (reg s k ra).toNat))) := by
  refine takes_ok h _ k _ i s _ hi ?_
  dsimp only
  rw [reg_past, nearAccess_ok _ _ _ _ _ _ _ _ (near_past s k _ _ _ _ hn) (by simp), homeOf_past, memW_past, reg_past, reg_past, hnew]

theorem amoOp_misaligned (hm : (reg s k ra).toNat % 4 ≠ 0) :
    Traps s h k i { word := encA 0b101011 rd ra rb func, grp := .near }
      { cause := 2, addr := (homeOf s h.eng).1 + (reg s k ra).toNat } := by
  refine traps_ok h _ k _ i s _ hi ?_
  dsimp only
  rw [reg_past, nearAccess, if_pos hm, homeOf_past]

end

section
variable (i : Instr) (s : State) (h : Hdr) (k : Nat) (w : Word) (rb : Reg) (off : BitVec 12) (n : Nat) (bad : Bool)
  (f : Nat → Nat → State → State) (hgood : bad = false)
  (hm : (reg s k rb + BitVec.ofInt 32 (off.toInt * n)).toNat % n ≠ 0)
include hgood hm

theorem loadOp_misaligned (hi : exec i s = done s (loadOp h w rb off n bad f s)) : Traps s h k i { word := w, grp := .near }
    { cause := 2, addr := (homeOf s h.eng).1 + (reg s k rb + BitVec.ofInt 32 (off.toInt * n)).toNat } := by
  refine traps_good h w 4 .near bad k _ i s _ hgood hi ?_
  rw [reg_past, effective_eq, nearAccess, if_pos hm, homeOf_past]

theorem storeOp_misaligned (hi : exec i s = done s (storeOp h w rb off n bad f s)) : Traps s h k i { word := w, grp := .near }
    { cause := 2, addr := (homeOf s h.eng).1 + (reg s k rb + BitVec.ofInt 32 (off.toInt * n)).toNat } := by
  refine traps_good h w 4 .near bad k _ i s _ hgood hi ?_
  rw [reg_past, effective_eq, nearAccess, if_pos hm, homeOf_past]

end

/-! ## The statement -/

/-- Settles O16: a far access by the class of its address, an atomic by the near access that gets its word, and the misaligned ones. -/
theorem farAndAtomicAccessesActOnTheirAddress : Obligations.FarAndAtomicAccessesActOnTheirAddress := by
  unfold Obligations.FarAndAtomicAccessesActOnTheirAddress
  refine ⟨fun s h k r ra a => ?far, fun s h k r ra => ?high, fun s h k rd ra rb => ?atomic, fun s h k rd rb ra x off => ?misaligned⟩
  case far =>
    intro dec far mine stw std waits byGate hodd
    have good4 : (oddReg ra || ((4 : Nat) == 8 && oddReg r)) = false := by rw [hodd]; rfl
    have good8 (h : oddReg r = false) : (oddReg ra || ((8 : Nat) == 8 && oddReg r)) = false := by rw [hodd, h]; rfl
    refine ⟨farLoad_takes _ s h k r ra 0 4 a _ good4 _ rfl rfl, farLoad_waits _ s h k r ra 0 4 a _ good4 rfl, farStore_takes _ s h k r ra 1 4 a _ good4 _ rfl (by rw [storeBase, if_neg (by decide), reg_past]),
      fun hr => ⟨farLoad_takes _ s h k r ra 2 8 a _ (good8 hr) _ rfl rfl, farLoad_waits _ s h k r ra 2 8 a _ (good8 hr) rfl,
        farStore_takes _ s h k r ra 3 8 a _ (good8 hr) _ rfl (by rw [storeBase, if_pos rfl, reg_eccFresh, reg_eccFresh, reg_past, reg_past]; rfl)⟩,
      fun t ht hfree => ⟨fun hf => farStore_gates _ s h k r ra 1 4 a _ good4 t rfl hf ht (.inl rfl) hfree _ (by simp),
        fun hr hf => farStore_gates _ s h k r ra 3 8 a _ (good8 hr) t rfl hf ht (.inr rfl) hfree _ rfl⟩⟩
  case high =>
    intro hi a hodd hhi halign hr
    have hnone : farAddr (reg s k ra) (reg s k (ra + 1)) = none := if_neg (Nat.not_lt.2 hhi)
    have good4 : (oddReg ra || ((4 : Nat) == 8 && oddReg r)) = false := by rw [hodd]; rfl
    refine gives_trap h _ 4 .far _ k _ _ s _ _ good4 rfl ?_ hr
    simp only [reg_past, pairReg, hnone, ne_eq, a, hi] at halign ⊢
    rw [if_neg (not_not.2 halign)]
    rfl
  case atomic =>
    intro ea a old b amo hn
    exact ⟨amoOp_takes _ s h k rd ra rb 0 _ rfl _ hn rfl, amoOp_takes _ s h k rd ra rb 1 _ rfl _ hn rfl,
      amoOp_takes _ s h k rd ra rb 2 _ rfl _ hn rfl, amoOp_takes _ s h k rd ra rb 3 _ rfl _ hn rfl,
      amoOp_takes _ s h k rd ra rb 4 _ rfl _ hn (ite_slt ..), amoOp_takes _ s h k rd ra rb 5 _ rfl _ hn (ite_slt ..),
      amoOp_takes _ s h k rd ra rb 6 _ rfl _ hn rfl⟩
  case misaligned =>
    intro ea bad
    refine ⟨fun hm => loadOp_misaligned _ s h k _ rb off 2 _ _ rfl hm rfl, fun hm => loadOp_misaligned _ s h k _ rb off 4 _ _ rfl hm rfl,
      fun hm => storeOp_misaligned _ s h k _ rb off 2 _ _ rfl hm rfl, fun hm => storeOp_misaligned _ s h k _ rb off 4 _ _ rfl hm rfl,
      fun hodd => ⟨fun hm => loadOp_misaligned _ s h k _ rb off 8 _ _ hodd hm rfl,
        fun hm => storeOp_misaligned _ s h k _ rb off 8 _ _ hodd hm rfl⟩, fun i func hi hm => ?_⟩
    simp only [List.mem_cons, Prod.mk.injEq, List.not_mem_nil, or_false] at hi
    obtain ⟨rfl, rfl⟩ | ⟨rfl, rfl⟩ | ⟨rfl, rfl⟩ | ⟨rfl, rfl⟩ | ⟨rfl, rfl⟩ | ⟨rfl, rfl⟩ | ⟨rfl, rfl⟩ := hi <;>
      exact amoOp_misaligned _ s h k rd ra rb _ _ rfl hm

end Sys2Proof.Machine
end

section
/-! SUPPORT. What is judged before an instruction's body: its fetch, its words and its predicate (R50, R51, R88, R90). -/
namespace Sys2Proof.Machine

/-- A word with a reserved opcode has no second word, and a short instruction none either. -/
theorem fetchLen_word (h : Hdr) (d : Dec) (hd : d.len = 4) : fetchLen h d = 4 := by
  unfold fetchLen
  split
  · rfl
  · exact hd

/-- Only MGT sleeps (R88). -/
theorem inSubset_sleep (e : Eng) (h1 : e ≠ .mgt) (h2 : e ≠ .mgtJob) : inSubset .sleep e = false := by
  cases e with
  | mgt => exact absurd rfl h1
  | mgtJob => exact absurd rfl h2
  | _ => rfl

/-- Only the cycle cores and SAF have slots (R88). -/
theorem inSubset_slot (e : Eng) (h1 : ∀ n, e ≠ .cyc n) (h2 : e ≠ .saf) : inSubset .slot e = false := by
  cases e with
  | cyc n => exact absurd rfl (h1 n)
  | saf => exact absurd rfl h2
  | _ => rfl

section
variable (i : Instr) (s : State) (h : Hdr) (k : Nat) (w : Word) (g : Grp) (bad : Bool) (body : Nat → State → Res)
  (hready : engReady s h.eng = some k) (hhome : (getCtx s k).pc.toNat + 4 ≤ (homeOf s h.eng).2)
  (hclean : Tbl.get 0 s.mem.ecc (((homeOf s h.eng).1 + (getCtx s k).pc.toNat) / 8) = 0)
include hhome hclean

/-- The fetch of one clean word inside the home region goes on. -/
theorem fetch_word (f : State → Res) : fetch s h.eng k 4 f = f s := by
  have hread : eccRead s ((homeOf s h.eng).1 + (getCtx s k).pc.toNat) = (s, true) := by simp [eccRead, hclean]
  unfold fetch
  dsimp only
  rw [if_neg (by omega), hread]
  rfl

include hready
variable (hi : exec i s = done s (runInstr h { word := w, grp := g, bad := bad } body s))
include hi

/-- An instruction that decodes and whose predicate is false only moves the pc on (R50). -/
theorem predicateOff_gives (hgood : bad = false) (hrsv : h.rsv = 0) (hop : h.op = none) (hsub : inSubset g h.eng = true)
    (hp : rdP (getCtx s k) h.pr = false) : Gives s i (past s k 4) := by
  have hres : reservedOpcode h = false := by rw [reservedOpcode, hop]
  unfold Gives
  rw [hi, runInstr, hready]
  dsimp only
  rw [instrRes, fetchLen_word h _ rfl, fetch_word s h k hhome hclean]
  simp only [hres, hgood, hrsv, hsub, hp, Bool.or_false, Bool.not_true, bne_self_eq_false, Bool.false_eq_true, if_false]
  rfl

/-- An illegal word traps before its predicate is looked at (R51, R90). -/
theorem illegal_gives (hbad : (reservedOpcode h || bad || h.rsv != 0 || !inSubset g h.eng) = true) :
    Gives s i (takeTrap (setPc s k (getCtx s k).pc) h.eng k (getCtx s k).pc
      (fullWord h { word := w, grp := g, bad := bad }) { cause := 1 }) := by
  unfold Gives
  rw [hi, runInstr, hready]
  dsimp only
  rw [instrRes, fetchLen_word h _ rfl, fetch_word s h k hhome hclean, if_pos hbad]
  rfl

end

/-- Settles O22: a false predicate and an illegal word are both found behind the fetch of the first word. -/
theorem predicatesAndIllegalWordsAreJudgedFirst : Obligations.PredicatesAndIllegalWordsAreJudgedFirst := by
  unfold Obligations.PredicatesAndIllegalWordsAreJudgedFirst
  refine ⟨fun s h k d i rd ra rb pd n off slot code hid hready hhome hclean hrsv hop hsub hp => ?off,
    fun s h k rd ra rb slot pd hready hhome hclean => ?illegal⟩
  case off =>
    simp only [List.mem_cons, Prod.mk.injEq, List.not_mem_nil, or_false] at hid
    obtain ⟨rfl, rfl⟩ | ⟨rfl, rfl⟩ | ⟨rfl, rfl⟩ | ⟨rfl, rfl⟩ | ⟨rfl, rfl⟩ | ⟨rfl, rfl⟩ | ⟨rfl, rfl⟩ | ⟨rfl, rfl⟩ | ⟨rfl, rfl⟩ := hid <;>
      exact predicateOff_gives _ s h k _ _ false _ hready hhome hclean rfl rfl hrsv hop hsub hp
  case illegal =>
    intro illegal
    have illegal_of {i : Instr} {w : Word} {g : Grp} {body : Nat → State → Res}
        (hi : exec i s = done s (runInstr h { word := w, grp := g } body s))
        (hbad : (reservedOpcode h || false || h.rsv != 0 || !inSubset g h.eng) = true) : illegal i { word := w, grp := g } :=
      illegal_gives i s h k w g false body hready hhome hclean hi hbad
    refine ⟨fun hr => illegal_of rfl ?_, fun o ho hl => illegal_of rfl ?_, fun h1 h2 => illegal_of rfl ?_, fun h1 h2 => illegal_of rfl ?_⟩
    · rw [bne_iff_ne.2 hr, Bool.or_true, Bool.true_or]
    · simp [reservedOpcode, ho, hl]
    · simp [inSubset_sleep h.eng h1 h2]
    · simp [inSubset_slot h.eng h1 h2]

end Sys2Proof.Machine
end

section
/-! SUPPORT. Edge, timer and counter slots (R71 to R75). -/
namespace Sys2Proof.Machine

@[simp] theorem poolOf_setPool (s : State) (e : Eng) (p : Slots) : poolOf (setPool s e p) e = p := by cases e <;> rfl

@[simp] theorem setPool_ctxs (s : State) (e : Eng) (p : Slots) : (setPool s e p).ctxs = s.ctxs := by cases e <;> rfl

@[simp] theorem poolOf_past (s : State) (k n : Nat) (e : Eng) : poolOf (past s k n) e = poolOf s e := by cases e <;> rfl

@[simp] theorem slotOk_past (s : State) (k n : Nat) (e : Eng) (kd : SlotKind) (i : Nat) : slotOk (past s k n) e kd i = slotOk s e kd i := by
  cases e <;> rfl

@[simp] theorem slotNow_past (s : State) (k n : Nat) (e : Eng) (c : Nat) : slotNow (past s k n) e c = slotNow s e c := by
  cases e <;> rfl

theorem bne_eq_decide (v w : Word) : (v != w) = decide (v ≠ w) := Bool.eq_iff_iff.2 (by simp)

theorem inRange_ok (e : Eng) (kd : SlotKind) (i : Nat) (f : State → Res) (s : State) (h : slotOk s e kd i = true) :
    inRange e kd i f s = f s := if_pos h

/-! ## Edges (R72, R354) -/

/-- Either edge instruction. -/
def edgeInstr (h : Hdr) (pd : PReg) (ra : Reg) (slot : BitVec 14) (falling : Bool) : Instr :=
  if falling then .edgF h pd ra slot else .edgR h pd ra slot

theorem edgeInstr_exec (h : Hdr) (pd : PReg) (ra : Reg) (slot : BitVec 14) (falling : Bool) (s : State) :
    exec (edgeInstr h pd ra slot falling) s = done s (edgeOp h pd ra slot falling s) := by cases falling <;> rfl

theorem edge_out (pending falling prev inp : Bool) : (!pending && (if falling then prev && !inp else inp && !prev)) =
    if pending then false else if falling then prev && !inp else inp && !prev := by cases pending <;> rfl

theorem edge_takes (s : State) (h : Hdr) (k : Nat) (pd : PReg) (ra : Reg) (slot : BitVec 14) (falling : Bool)
    (hok : slotOk s h.eng .edge slot.toNat = true) :
    let inp := decide (reg s k ra ≠ 0)
    let e := Tbl.get {} (poolOf s h.eng).edges slot.toNat
    Takes s h k (edgeInstr h pd ra slot falling)
      { word := encF 0b101100 [(pd.toNat, 20), (bit falling, 19), (ra.toNat, 14), (slot.toNat, 0)], grp := .slot }
      (setPred (setPool (past s k 4) h.eng { poolOf s h.eng with edges := Tbl.put {} (poolOf s h.eng).edges slot.toNat { prev := inp } })
        k pd (if e.pending then false else if falling then e.prev && !inp else inp && !e.prev)) := by
  intro inp e
  refine takes_ok h _ k _ _ s _ (edgeInstr_exec h pd ra slot falling s) ?_
  dsimp only
  rw [inRange_ok _ _ _ _ _ ((slotOk_past ..).trans hok), poolOf_past, reg_past, edge_out, bne_eq_decide]

theorem edge_traps (s : State) (h : Hdr) (k : Nat) (pd : PReg) (ra : Reg) (slot : BitVec 14) (falling : Bool)
    (hok : slotOk s h.eng .edge slot.toNat = false) : Traps s h k (edgeInstr h pd ra slot falling)
      { word := encF 0b101100 [(pd.toNat, 20), (bit falling, 19), (ra.toNat, 14), (slot.toNat, 0)], grp := .slot } { cause := 6 } := by
  refine traps_ok h _ k _ _ s _ (edgeInstr_exec h pd ra slot falling s) ?_
  dsimp only
  rw [inRange, slotOk_past, hok]
  rfl

/-! ## Reading and writing slot state (R75) -/

section
variable (s : State) (h : Hdr) (k : Nat) (rd : Reg) (slot : BitVec 14)

theorem slotRd_writes (kind : BitVec 2) (v : Word) (hok : slotOk s h.eng (kindOf kind) slot.toNat = true)
    (hnum : slotNumOk kind slot.toNat = true)
    (hv : (let t := Tbl.get {} (poolOf s h.eng).timers slot.toNat
      let e := Tbl.get {} (poolOf s h.eng).edges slot.toNat
      if kind = 0 then Word.ofN (if t.run then min t.pt (since (slotNow s h.eng k) t.start) else t.et)
      else if kind = 1 then Word.ofN (bit t.q + 2 * bit t.run + 4 * bit t.prev)
      else if kind = 2 then (Tbl.get {} (poolOf s h.eng).counters slot.toNat).cv
      else Word.ofN (bit (e.prev && !e.pending))) = v) :
    Writes s h k (.slotRd h rd kind slot) { word := encSlot rd false kind slot, grp := .slot } rd v := by
  refine takes_ok h _ k _ _ s _ rfl ?_
  dsimp only at hv ⊢
  rw [inRange_ok _ _ _ _ _ ((slotOk_past ..).trans hok), hnum, poolOf_past, slotNow_past, hv]
  rfl

/-- The slot pool after `slot.wr`. -/
def slotWritten (kind : BitVec 2) (now : Nat) (v : Word) (n : Nat) (p : Slots) : Slots :=
  let et := min v.toNat (Tbl.get {} p.timers n).pt
  if kind = 0 then { p with timers := Tbl.put {} p.timers n { Tbl.get {} p.timers n with et := et, start := since now et } }
  else if kind = 2 then { p with counters := Tbl.put {} p.counters n { Tbl.get {} p.counters n with cv := v } }
  else { p with edges := Tbl.put {} p.edges n { prev := v != 0 } }

theorem slotWr_takes (kind : BitVec 2) (hok : slotOk s h.eng (kindOf kind) slot.toNat = true)
    (hnum : slotNumOk kind slot.toNat = true) (hkind : kind ≠ 1) :
    Takes s h k (.slotWr h rd kind slot) { word := encSlot rd true kind slot, grp := .slot }
      (setPool (past s k 4) h.eng (slotWritten kind (slotNow s h.eng k) (reg s k rd) slot.toNat (poolOf s h.eng))) := by
  refine takes_good h _ 4 .slot (kind == 1) k _ _ s _ (by simpa using hkind) rfl ?_
  dsimp only
  rw [inRange_ok _ _ _ _ _ ((slotOk_past ..).trans hok), hnum, poolOf_past, slotNow_past, reg_past]
  rfl

end

/-! ## Timers and counters (R73, R74) -/

/-- Takes a timer instruction whose register preset names a register. -/
theorem timerOp_takes (i : Instr) (s : State) (h : Hdr) (k kind : Nat) (pd pin : PReg) (src : Bool) (slot : BitVec 13) (w2 : Word)
    (f : Timer → Bool → Nat → Nat → Timer) (hi : exec i s = done s (timerOp h kind pd pin src slot w2 f s))
    (hok : slotOk s h.eng .timer slot.toNat = true) (hsrc : src = true → w2.toNat < 32) :
    let pt := if src then (reg s k (w2.setWidth 5)).toNat else w2.toNat
    let t := f (Tbl.get {} (poolOf s h.eng).timers slot.toNat) (rdP (getCtx s k) pin) pt (slotNow s h.eng k)
    Takes s h k i
      { word := encF 0b111010 [(pd.toNat, 20), (pin.toNat, 17), (kind, 15), (bit src, 14), (slot.toNat, 0)], len := 8, grp := .slot }
      (setPred (setPool (past s k 8) h.eng { poolOf s h.eng with timers := Tbl.put {} (poolOf s h.eng).timers slot.toNat t }) k pd t.q) := by
  have hgood : (src && decide (31 < w2.toNat)) = false := by
    cases hs : src
    · rfl
    · have := hsrc hs
      simp only [Bool.true_and, decide_eq_false_iff_not]
      omega
  refine takes_good h _ 8 .slot _ k _ i s _ hgood hi ?_
  dsimp only
  rw [inRange_ok _ _ _ _ _ ((slotOk_past ..).trans hok), poolOf_past, slotNow_past, reg_past, rdP_past]

theorem counterOp_takes (i : Instr) (s : State) (h : Hdr) (k kind : Nat) (pd pin pr : PReg) (slot : BitVec 12) (pv : Word)
    (f : Counter → Bool → Bool → Word → Counter) (q : Word → Bool)
    (hi : exec i s = done s (counterOp h kind pd pin pr slot pv f q s)) (hok : slotOk s h.eng .counter slot.toNat = true) :
    let c := f (Tbl.get {} (poolOf s h.eng).counters slot.toNat) (rdP (getCtx s k) pin) (rdP (getCtx s k) pr) pv
    Takes s h k i
      { word := encF 0b111011 [(pd.toNat, 20), (pin.toNat, 17), (pr.toNat, 14), (kind, 12), (slot.toNat, 0)], len := 8, grp := .slot }
      (setPred (setPool (past s k 8) h.eng { poolOf s h.eng with counters := Tbl.put {} (poolOf s h.eng).counters slot.toNat c })
        k pd (q c.cv)) := by
  refine takes_ok h _ k _ i s _ hi ?_
  dsimp only
  rw [inRange_ok _ _ _ _ _ ((slotOk_past ..).trans hok), poolOf_past, rdP_past, rdP_past]

theorem since_self (now : Nat) : since now now = 0 := by
  unfold since
  omega

theorem satW_up (c : Word) : satW (c.toInt + 1) = BitVec.ofInt 32 (min 2147483647 (c.toInt + 1)) := by
  rw [satW_eq]
  have := word_toInt_bounds c
  congr 1
  omega

theorem satW_down (c : Word) : satW (c.toInt - 1) = BitVec.ofInt 32 (max (-2147483648) (c.toInt - 1)) := by
  rw [satW_eq]
  have := word_toInt_bounds c
  congr 1
  omega

/-- Settles O18: each instruction by its shared form, and each case of a timer by its branch. -/
theorem edgesTimersAndCountersFollowTheirInput : Obligations.EdgesTimersAndCountersFollowTheirInput := by
  unfold Obligations.EdgesTimersAndCountersFollowTheirInput
  refine ⟨fun s h k pd ra slot falling => ?edges, fun s h k rd kind slot => ?state, fun s h k pd pin slot w2 src => ?timers,
    fun s h k pd pin pr slot pv => ?counters⟩
  case edges =>
    refine ⟨fun hok => ⟨_, edge_takes s h k pd ra slot falling hok, ?_, fun j hj => ?_, setPool_ctxs ..⟩, edge_traps s h k pd ra slot falling⟩
    · rw [poolOf_setPool, Tbl.get_put_self]
    · rw [poolOf_setPool, Tbl.get_put_ne _ _ _ _ _ _ hj]
  case state =>
    intro n p t now read write v
    have written (hok : slotOk s h.eng (kindOf kind) n = true) (hnum : slotNumOk kind n = true) (hkind : kind ≠ 1) (q : State → Prop)
        (hq : ∀ z, poolOf z h.eng = slotWritten kind now v n p → q z) : write q :=
      ⟨_, slotWr_takes s h k rd slot kind hok hnum hkind, hq _ (poolOf_setPool ..), setPool_ctxs ..⟩
    refine ⟨fun hk hn hok => ?timer, fun hk hn hok => ?timerState, fun hk hn hok => ?counter, fun hk hok => ?edge⟩
    case timer =>
      subst hk
      refine ⟨slotRd_writes s h k rd slot 0 _ hok (decide_eq_true hn) rfl, written hok (decide_eq_true hn) (by decide) _ fun z hz => ?_⟩
      rw [hz, slotWritten, if_pos rfl, Tbl.get_put_self]
    case timerState =>
      subst hk
      exact slotRd_writes s h k rd slot 1 _ hok (decide_eq_true hn) rfl
    case counter =>
      subst hk
      refine ⟨slotRd_writes s h k rd slot 2 _ hok (decide_eq_true hn) rfl, written hok (decide_eq_true hn) (by decide) _ fun z hz => ?_⟩
      rw [hz, slotWritten, if_neg (by decide), if_pos rfl, Tbl.get_put_self]
    case edge =>
      subst hk
      refine ⟨slotRd_writes s h k rd slot 3 _ hok rfl rfl, written hok rfl (by decide) _ fun z hz => ?_⟩
      rw [hz, slotWritten, if_neg (by decide), if_neg (by decide), Tbl.get_put_self, bne_eq_decide]
  case timers =>
    intro t inp pt now run ton tof tp et hok hsrc
    have run_of {i : Instr} {kind : Nat} {f : Timer → Bool → Nat → Nat → Timer} {u : Timer}
        (hi : exec i s = done s (timerOp h kind pd pin src slot w2 f s)) (hu : f t inp pt now = { u with prev := inp, pt := pt }) :
        run i kind u := by
      have ht := timerOp_takes i s h k kind pd pin src slot w2 f hi hok hsrc
      dsimp only at ht
      rw [show f _ _ _ _ = _ from hu] at ht
      exact ⟨_, ht, by rw [poolOf_setPool, Tbl.get_put_self], setPool_ctxs ..⟩
    refine ⟨fun hi => run_of rfl ?_, fun hi hp => run_of rfl ?_, fun hi hp => run_of rfl ?_, fun hi => run_of rfl ?_,
      fun hi hp => run_of rfl ?_, fun hi hp hr => run_of rfl ?_, fun hi hp hr => run_of rfl ?_, fun hi hp hr => run_of rfl ?_,
      fun hr he => run_of rfl ?_, fun hr he => run_of rfl ?_, fun hi hr => run_of rfl ?_, fun hi hp hr => run_of rfl ?_⟩
    · simp [tonStep, hi]
    · simp [tonStep, hi, hp, et]
    · simp [tonStep, hi, hp, et]
    · simp [tofStep, hi]
    · by_cases h0 : pt = 0 <;> simp [tofStep, hi, hp, since_self, h0, Nat.pos_iff_ne_zero]
    · simp [tofStep, hi, hp, hr]
    · simp [tofStep, hi, hp, hr, et]
    · by_cases h0 : pt = 0 <;> simp [tpStep, hi, hp, hr, since_self, h0, Nat.pos_iff_ne_zero]
    · have hn : ¬ pt ≤ since now t.start := fun hle => absurd he (by simp [et, hle])
      simp [tpStep, hr, hn, et]
    · rcases Bool.eq_false_or_eq_true inp with hi | hi <;> simp [tpStep, hr, he, et, hi]
    · simp [tpStep, hr, hi]
    · simp [tpStep, hr, hi, hp]
  case counters =>
    intro c inp reset run up down hok
    have run_of {i : Instr} {kind : Nat} {f : Counter → Bool → Bool → Word → Counter} {q : Word → Bool} {cv : Word}
        (hi : exec i s = done s (counterOp h kind pd pin pr slot pv f q s)) (hc : f c inp reset pv = { cv := cv, prev := inp }) :
        run i kind cv (q cv) := by
      have ht := counterOp_takes i s h k kind pd pin pr slot pv f q hi hok
      dsimp only at ht
      rw [show f _ _ _ _ = _ from hc] at ht
      exact ⟨_, ht, by rw [poolOf_setPool, Tbl.get_put_self], setPool_ctxs ..⟩
    refine ⟨run_of (q := fun cv => pv.toInt ≤ cv.toInt) rfl ?_, run_of (q := fun cv => cv.toInt ≤ 0) rfl ?_⟩
    · simp only [ctuStep, satW_up, up]
    · simp only [ctdStep, satW_down, down]

end Sys2Proof.Machine
end

section
/-! SUPPORT. Events: `sig`, `wait`, `waitany`, `evt.clr` and the end of a suspension (R76 to R78). -/
namespace Sys2Proof.Machine

/-! ## Pending bits -/

theorem Reports.ctxs_eq {s t : State} (h : Reports s t) : t.ctxs = s.ctxs := by
  obtain ⟨m, c, e, a, l, rfl⟩ := h
  rfl

/-- Bit `k` of a word with bit `j` set to `b`. -/
theorem tst_put (w : Word) (j k : Nat) (b : Bool) (hk : k < 32) : (w.put j b).tst k = if k = j then b else w.tst k := by
  have hb : (bit b).testBit 0 = b := by cases b <;> rfl
  rw [Word.tst, Word.put, getLsbD_setField _ _ _ _ _ hk]
  by_cases hj : k = j
  · rw [if_pos (by omega), if_pos hj, hj, Nat.sub_self, hb]
  · rw [if_neg (by omega), if_neg hj]
    rfl

theorem evtPending_evtClear_self (s : State) (e n : Nat) (he : e < 32) : evtPending (evtClear s e n) e n = false := by
  rw [evtPending, evtClear, Tbl.get_put_self, tst_put _ _ _ _ he, if_pos rfl]

theorem evtPending_evtClear_engine (s : State) (e j n : Nat) (hj : j < 32) (hne : j ≠ e) :
    evtPending (evtClear s e n) j n = evtPending s j n := by
  rw [evtPending, evtClear, Tbl.get_put_self, tst_put _ _ _ _ hj, if_neg hne]
  rfl

theorem evtPending_evtClear_event (s : State) (e j n m : Nat) (hm : m ≠ n) :
    evtPending (evtClear s e n) j m = evtPending s j m := by
  rw [evtPending, evtClear, Tbl.get_put_ne _ _ _ _ _ _ hm]
  rfl

theorem evtOwner_lt (e : Eng) : evtOwner e < 32 := by
  cases e with
  | cyc n => have := n.isLt; simp only [evtOwner]; omega
  | afe n => have := n.isLt; simp only [evtOwner]; omega
  | _ => simp only [evtOwner]; omega

@[simp] theorem evtPending_past (s : State) (k n e m : Nat) : evtPending (past s k n) e m = evtPending s e m := rfl

@[simp] theorem groupBits_past (s : State) (k n e g : Nat) (mask : Word) : groupBits (past s k n) e g mask = groupBits s e g mask := rfl

/-! ## `sig` (R76, R77) -/

theorem softEvent_eq (p : Plane) (n : Nat) : softEvent p n =
    match p with
    | .control => decide (0x380 ≤ n ∧ n ≤ 0x3BF)
    | .data => decide (0x3C0 ≤ n ∧ n ≤ 0x3DF)
    | .management => decide (0x3E0 ≤ n ∧ n ≤ 0x3FF) := by cases p <;> simp [softEvent, Bool.decide_and]

theorem sig_takes (s : State) (h : Hdr) (k : Nat) (n : BitVec 10) (hm : softEvent (planeOf (unitOf h.eng)) n.toNat = true) :
    Takes s h k (.sig h n) { word := encEvt 0 0 0 n.toNat, grp := .sig } (raise (past s k 4) n.toNat) :=
  takes_ok h _ k _ _ s _ rfl (if_pos hm)

theorem sig_traps (s : State) (h : Hdr) (k : Nat) (n : BitVec 10) (hm : softEvent (planeOf (unitOf h.eng)) n.toNat = false) :
    Traps s h k (.sig h n) { word := encEvt 0 0 0 n.toNat, grp := .sig } { cause := 7 } :=
  traps_ok h _ k _ _ s _ rfl (if_neg (by rw [hm]; decide))

/-! ## Waiting (R78) -/

/-- A deadline has passed. -/
def duePast (s : State) (d : Option Nat) : Prop := ∃ t, d = some t ∧ t ≤ s.clk.tick.toNat

theorem mayResume_event (s : State) (e pd n : Nat) (d : Option Nat) :
    mayResume s e (.event pd n d) = true ↔ evtPending s e n = true ∨ duePast s d := by
  cases d <;> simp [mayResume, duePast]

theorem mayResume_group (s : State) (e pd g rm : Nat) (mask : Word) (d : Option Nat) :
    mayResume s e (.group pd g rm mask d) = true ↔ groupBits s e g mask ≠ 0 ∨ duePast s d := by
  cases d <;> simp [mayResume, duePast]

/-- A deadline ahead of the present tick has not passed. -/
theorem not_duePast_deadline (s : State) (rt : Word) (h : rt ≠ 0) : ¬ duePast s (deadlineOf s rt) := by
  rintro ⟨t, ht, hle⟩
  have hpos : rt.toNat ≠ 0 := fun e => h (BitVec.eq_of_toNat_eq e)
  unfold deadlineOf at ht
  split at ht
  · simp at ht
  · simp only [Option.some.injEq] at ht
    omega

theorem takeEvents_pending (s : State) (e k pd n : Nat) (d : Option Nat) (h : evtPending s e n = true) :
    takeEvents s e k (.event pd n d) = setPred (suspend (evtClear s e n) k .none) k (BitVec.ofNat 3 pd) true := by
  simp only [takeEvents, h, if_true]

theorem takeEvents_timeout (s : State) (e k pd n : Nat) (d : Option Nat) (h : evtPending s e n = false) :
    takeEvents s e k (.event pd n d) = setPred (suspend s k .none) k (BitVec.ofNat 3 pd) false := by
  simp only [takeEvents, h, Bool.false_eq_true, if_false]

theorem takeEvents_group (s : State) (e k pd g rm : Nat) (mask : Word) (d : Option Nat) :
    takeEvents s e k (.group pd g rm mask d) =
      setPred (setReg (suspend (consumeGroup s e g (groupBits s e g mask)) k .none) k (BitVec.ofNat 5 rm) (groupBits s e g mask)) k
        (BitVec.ofNat 3 pd) (decide (groupBits s e g mask ≠ 0)) := by
  rw [← bne_eq_decide]
  rfl

theorem waitOp_ends (e : Eng) (k : Nat) (w : Wait) (rt : Word) (s : State) (h : rt = 0 ∨ mayResume s (evtOwner e) w = true) :
    waitOp e k w rt s = .ok (takeEvents s (evtOwner e) k w) := if_pos h

theorem waitOp_suspends (e : Eng) (k : Nat) (w : Wait) (rt : Word) (s : State) (h : rt ≠ 0) (hw : ¬ mayResume s (evtOwner e) w = true) :
    waitOp e k w rt s = .ok (suspend s k w) := if_neg (not_or.2 ⟨h, hw⟩)

section
variable (s : State) (h : Hdr) (k : Nat) (pd : PReg) (n : BitVec 10) (g rm rt : Reg) (t : State)

theorem wait_takes (ht : waitOp h.eng k (.event pd.toNat n.toNat (deadlineOf s (reg s k rt))) (reg s k rt) (past s k 4) = .ok t) :
    Takes s h k (.wait h pd n rt) { word := encEvt pd 1 rt n.toNat, grp := .wait } t :=
  takes_ok h _ k _ _ s _ rfl (by rw [reg_past]; exact ht)

theorem waitany_takes (ht : waitOp h.eng k (.group pd.toNat g.toNat rm.toNat (reg s k rm) (deadlineOf s (reg s k rt))) (reg s k rt)
      (past s k 4) = .ok t) :
    Takes s h k (.waitany h pd g rm rt) { word := encEvt pd 2 rt (g.toNat * 32 + rm.toNat), grp := .wait } t :=
  takes_ok h _ k _ _ s _ rfl (by rw [reg_past, reg_past]; exact ht)

end

/-! ## The end of a suspension (R78, R319) -/

/-- The context that `waitResume` speaks of. -/
def resumeCtx (s : State) (eng : Eng) (task : BitVec 4) : Nat :=
  match eng with
  | .cyc n => taskCtx s n.val task.toNat
  | e => soloCtx e

/-- The engine executes at all: a core while it runs, SAF inside its cycle. -/
def resumeRuns (s : State) (eng : Eng) : Bool :=
  match eng with
  | .cyc n => (getCore s n.val).mode == .running
  | .saf => s.saf.inCycle
  | _ => true

theorem waitResume_exec (s : State) (eng : Eng) (task : BitVec 4) : exec (.waitResume eng task) s =
    done s (if (getCtx s (resumeCtx s eng task)).live && resumeRuns s eng && !s.pwr.asleep
        && mayResume s (evtOwner eng) (getCtx s (resumeCtx s eng task)).wait then
      takeEvents s (evtOwner eng) (resumeCtx s eng task) (getCtx s (resumeCtx s eng task)).wait else s) := by
  cases eng <;> rfl

theorem waitResume_gives (s : State) (eng : Eng) (task : BitVec 4) (hw : s.pwr.asleep = false)
    (hl : (getCtx s (resumeCtx s eng task)).live = true) (hc : ∀ n, eng = .cyc n → (getCore s n.val).mode = .running)
    (hs : eng = .saf → s.saf.inCycle = true) :
    Gives s (.waitResume eng task)
      (if mayResume s (evtOwner eng) (getCtx s (resumeCtx s eng task)).wait then
        takeEvents s (evtOwner eng) (resumeCtx s eng task) (getCtx s (resumeCtx s eng task)).wait else s) := by
  have hrun : resumeRuns s eng = true := by
    cases eng with
    | cyc n => exact beq_iff_eq.2 (hc n rfl)
    | saf => exact hs rfl
    | _ => rfl
  unfold Gives
  rw [waitResume_exec, hl, hrun, hw]
  rfl

/-- Settles O19: `sig` by its block, the waits by whether they may end, and a resumption likewise. -/
theorem eventsAreSignalledAwaitedAndTaken : Obligations.EventsAreSignalledAwaitedAndTaken := by
  unfold Obligations.EventsAreSignalledAwaitedAndTaken
  refine ⟨fun s h k n => ?sig, fun s h k pd n g rm rt => ?wait, fun s task eng pd n g rm mask d => ?resume⟩
  case sig =>
    intro dec mine
    have hmine : softEvent (planeOf (unitOf h.eng)) n.toNat = mine := softEvent_eq _ _
    refine ⟨fun hm => ⟨_, sig_takes s h k n (hmine.trans hm), fun e he => evtPending_raise_self _ e _ he, ?_, ?_⟩,
      fun hm => sig_traps s h k n (hmine.trans hm)⟩
    · exact (raise_reports _ _).ctxs_eq
    · rw [raise_mem, past_mem]
  case wait =>
    intro e timeout until_ wdec adec bits
    have hpd : BitVec.ofNat 3 pd.toNat = pd := by simp
    have hrm : BitVec.ofNat 5 rm.toNat = rm := by simp
    have hdue (ht : timeout ≠ 0) : ¬ duePast (past s k 4) (deadlineOf s timeout) := not_duePast_deadline s timeout ht
    refine ⟨fun hp => wait_takes s h k pd n rt _ ?_, fun hp ht => wait_takes s h k pd n rt _ ?_,
      fun hp ht => wait_takes s h k pd n rt _ ?_, fun hb => waitany_takes s h k pd g rm rt _ ?_,
      fun hb ht => waitany_takes s h k pd g rm rt _ ?_,
      ⟨_, takes_ok h _ k _ _ s _ rfl rfl, evtPending_evtClear_self _ _ _ (evtOwner_lt _), fun m hm j => evtPending_evtClear_event _ _ _ _ _ hm,
        fun j hj hne => evtPending_evtClear_engine _ _ _ _ hj hne⟩⟩
    · rw [waitOp_ends _ _ _ _ (past s k 4) (.inr ((mayResume_event ..).2 (.inl hp))), takeEvents_pending (past s k 4) _ _ _ _ _ hp, hpd]
    · rw [waitOp_ends _ _ _ _ (past s k 4) (.inl ht), takeEvents_timeout (past s k 4) _ _ _ _ _ hp, hpd]
    · exact waitOp_suspends _ _ _ _ _ ht (fun hm => ((mayResume_event ..).1 hm).elim (fun hx => by simp [e, hp] at hx) (hdue ht))
    · rw [waitOp_ends _ _ _ _ (past s k 4) (hb.symm.imp id (fun hx => (mayResume_group ..).2 (.inl hx))), takeEvents_group, hpd, hrm]
      rfl
    · exact waitOp_suspends _ _ _ _ _ ht (fun hm => ((mayResume_group ..).1 hm).elim (fun hx => hx hb) (hdue ht))
  case resume =>
    intro k e c bits due hw hl hc hs
    have hg := waitResume_gives s eng task hw hl hc hs
    refine ⟨fun hwait => ⟨fun hp => ?_, fun hp hd => ?_, fun hp hd => ?_⟩, fun hwait => ⟨fun hb => ?_, fun hb hd => ?_⟩⟩ <;>
      rw [show (getCtx s (resumeCtx s eng task)).wait = _ from hwait] at hg
    · rwa [if_pos ((mayResume_event ..).2 (.inl hp)), takeEvents_pending _ _ _ _ _ _ hp] at hg
    · rwa [if_pos ((mayResume_event ..).2 (.inr hd)), takeEvents_timeout _ _ _ _ _ _ hp] at hg
    · rwa [if_neg (fun hm => ((mayResume_event ..).1 hm).elim (fun hx => by simp [e, hp] at hx) hd)] at hg
    · rwa [if_pos ((mayResume_group ..).2 hb), takeEvents_group] at hg
    · rwa [if_neg (fun hm => ((mayResume_group ..).1 hm).elim (fun hx => hx hb) hd)] at hg

end Sys2Proof.Machine
end

section
/-! SUPPORT. Time, special registers and the system instructions (R43, R82, R86). -/
namespace Sys2Proof.Machine

/-! ## What a report leaves of the parts that `halt` speaks of -/

theorem Reports.cyc_eq {s t : State} (h : Reports s t) : t.cyc = s.cyc := by
  obtain ⟨m, c, e, a, l, rfl⟩ := h
  rfl

theorem Reports.saf_eq {s t : State} (h : Reports s t) : t.saf = s.saf := by
  obtain ⟨m, c, e, a, l, rfl⟩ := h
  rfl

theorem Reports.getCore_eq {s t : State} (h : Reports s t) (n : Nat) : getCore t n = getCore s n := by rw [getCore, h.cyc_eq]; rfl

theorem Reports.getCtx_eq {s t : State} (h : Reports s t) (n : Nat) : getCtx t n = getCtx s n := by rw [getCtx, h.ctxs_eq]; rfl

/-- An event changes no field of a cycle core below its tasks' (R315, R344). -/
theorem fGet_raise_low (s : State) (n u f : Nat) (hf : f < 0x100) : fGet (raise s n) u f = fGet s u f := by
  unfold raise
  refine List.foldlRecOn (motive := fun t => fGet t u f = fGet s u f) _ _ rfl (fun t ht x hx => ?_)
  obtain ⟨i, hi, rfl⟩ := List.mem_map.1 (List.mem_filter.1 hx).1
  have hi := List.mem_range.1 hi
  refine Eq.trans (fGet_fInc_ne t u f _ _ 16 16 ?_) ht
  unfold fid taskField
  omega

theorem fGet_post_low (s : State) (src sev code : Nat) (payload : List Word) (u f : Nat) (hu : u ≠ 0x24) (hf : f < 0x100) :
    fGet (post s src sev code payload) u f = fGet s u f := by
  have alm (k lo len : Nat) (hk : k < 1024) : fGet (fInc s 0x24 k lo len) u f = fGet s u f :=
    fGet_fInc_ne s u f 0x24 k lo len (by unfold fid; omega)
  unfold post enqueue
  split
  · exact alm _ _ _ (by decide)
  · split
    · exact (fGet_raise_low _ 577 u f hf).trans (alm (4 + sev % 4) 0 32 (by omega))
    · rfl

/-- A slot's run goes on through the occurrence of its trigger source (R382). -/
theorem getSlot_run_cleOccur (s : State) (p : Slot → Bool) (i : Nat) : (getSlot (cleOccur s p) i).run = (getSlot s i).run := by
  have hfind (l : Tbl Slot) : (Tbl.get {} (l.map (fun e => if e.2.on && p e.2 then (e.1, e.2.occur (cleTakes s)) else e)) i).run =
      (Tbl.get {} l i).run := by
    induction l with
    | nil => rfl
    | cons e l ih =>
      rw [List.map_cons]
      by_cases hp : (e.2.on && p e.2) = true
      · rw [if_pos hp]
        by_cases hi : e.1 = i
        · simp [Tbl.get, Tbl.find, hi, Slot.occur]
        · simpa [Tbl.get, Tbl.find, hi] using ih
      · rw [if_neg hp]
        by_cases hi : e.1 = i
        · simp [Tbl.get, Tbl.find, hi]
        · simpa [Tbl.get, Tbl.find, hi] using ih
  exact hfind s.cle.slots

theorem getSlot_run_raise (s : State) (n i : Nat) : (getSlot (raise s n) i).run = (getSlot s i).run := by
  unfold raise
  refine List.foldlRecOn (motive := fun t => (getSlot t i).run = (getSlot s i).run) _ _ ?_ (fun t ht x _ => ht)
  exact getSlot_run_cleOccur s (fun x => x.kind == 2 && x.index == n && !x.due) i

theorem getSlot_run_post (s : State) (src sev code : Nat) (payload : List Word) (i : Nat) :
    (getSlot (post s src sev code payload) i).run = (getSlot s i).run := by
  unfold post enqueue
  split
  · rfl
  · split
    · exact getSlot_run_raise _ _ i
    · rfl

/-! ## Accesses of the trap record (R86) -/

theorem withAccess_near (s : State) (e : Eng) (k ea n : Nat) (f : State → Res) (hn : Near s e false ea n) :
    withAccess s (whoIs e k) .read false ((homeOf s e).1 + ea) n f = f s := by
  rw [withAccess, access_ok s (whoIs e k) .read false _ n hn.may hn.clean (by simp)]

theorem of_ite_other {c : Prop} [Decidable c] {f : Format} {m n : Nat} {r : Option (Format × Nat)} (hf : f ≠ .x)
    (h : (if c then some (f, m) else r) = some (.x, n)) : r = some (.x, n) := by
  split at h
  · simp [hf] at h
  · exact h

theorem opcode_of_identify_x (op n : Nat) (h : identify op = some (.x, n)) : 0b111000 ≤ op ∧ op ≤ 0b111011 := by
  by_contra hn
  unfold identify at h
  iterate 11 replace h := of_ite_other (by decide) h
  rw [if_neg hn] at h
  cases h

theorem identify_x (op : Nat) (h : 0b111000 ≤ op ∧ op ≤ 0b111011) : identify op = some (.x, op) := by
  have low (a b : Nat) (hb : b < 56) : ¬ (a ≤ op ∧ op ≤ b) := by omega
  simp [identify, low, h, show op ≠ 52 by omega]

theorem opcodeX_iff (op : Nat) : opcodeX op = true ↔ 0b111000 ≤ op ∧ op ≤ 0b111011 := by
  constructor
  · intro h
    unfold opcodeX at h
    split at h
    · next n heq => exact opcode_of_identify_x op n heq
    · cases h
  · intro h
    rw [opcodeX, identify_x op h]

/-- Where a handler returns to (R86). -/
def returnPc (s : State) (base : Nat) (skips : Bool) : Word :=
  memW s (base + 0x44) +
    (if skips then (if 0b111000 ≤ (memW s (base + 0x50)).field 26 6 ∧ (memW s (base + 0x50)).field 26 6 ≤ 0b111011 then 8 else 4) else 0)

theorem tret_takes (s : State) (h : Hdr) (k : Nat) (skips : Bool) (hh : (getCtx s k).inHandler = true) (h1 : Near s h.eng false 0x44 4)
    (h2 : Near s h.eng false 0x50 4) (hb : (returnPc s (homeOf s h.eng).1 skips).toNat % 4 = 0) :
    Takes s h k (.tret h skips) { word := encF 0b110101 [(bit skips, 8), (5, 0)], grp := .sys }
      (setCtx (past s k 4) k { getCtx s k with pc := returnPc s (homeOf s h.eng).1 skips, inHandler := false }) := by
  refine takes_ok h _ k _ _ s _ rfl ?_
  have hin : (getCtx (past s k 4) k).inHandler = true := by rw [getCtx_past]; exact hh
  have n1 := near_past s k h.eng false 0x44 4 h1
  have n2 := near_past s k h.eng false 0x50 4 h2
  have hctx : { getCtx (past s k 4) k with pc := returnPc s (homeOf s h.eng).1 skips, inHandler := false } =
      { getCtx s k with pc := returnPc s (homeOf s h.eng).1 skips, inHandler := false } := by rw [getCtx_past]
  dsimp only
  rw [hin, withAccess_near _ _ _ _ _ _ n1, homeOf_past, memW_past]
  cases skips with
  | false =>
    have hr : returnPc s (homeOf s h.eng).1 false = memW s ((homeOf s h.eng).1 + 0x44) := BitVec.add_zero _
    rw [hr] at hb hctx ⊢
    rw [← hctx]
    simp [hb]
  | true =>
    rw [← homeOf_past s k 4, withAccess_near _ _ _ _ _ _ n2, homeOf_past, memW_past, memW_past, ← hctx]
    have hr : returnPc s (homeOf s h.eng).1 true = memW s ((homeOf s h.eng).1 + 0x44) +
        (if opcodeX ((memW s ((homeOf s h.eng).1 + 0x50)).field 26 6) then 8 else 4) := by
      simp only [returnPc, opcodeX_iff, if_true]
    rw [← hr]
    simp [hb]

/-! ## What stops with `halt` (R86, R138, R201, R341, R396, R412) -/

theorem applyFields_none (s : State) (u : Nat) (h : Tbl.find s.cfg.pend u = none) : applyFields s u = s := by
  rw [applyFields, h]

theorem applyFields_reports (s : State) (u : Nat) : Reports s (applyFields s u) := by
  unfold applyFields
  split
  · exact Reports.refl s
  · next p _ =>
    split
    · exact (Reports.trans ⟨_, _, _, _, _, rfl⟩ (fSet_reports _ u 0x3FF _)).trans (post_reports _ u 2 0x0601 _)
    · have hfold := Reports.fold (fun s (e : Nat × Word) => fSet s u (e.1 % 1024) e.2) (fun s e => fSet_reports s _ _ _) p
        { s with cfg := { s.cfg with pend := Tbl.del s.cfg.pend u } }
      exact (Reports.trans ⟨_, _, _, _, _, rfl⟩ hfold).trans (Reports.trans ⟨_, _, _, _, _, rfl⟩ (fSet_reports _ u 0x3FF _))

/-- Abandoning its cycles changes a core's tasks' contexts and its unsealed writes. -/
theorem abandonCycles_eq (s : State) (n : Nat) : ∃ c, abandonCycles s n = setCore { s with ctxs := c } n
    { getCore s n with wbuf := (getCore s n).wbuf.filter (fun w => w.sealedAt.isSome) } := by
  have hfold : ∃ c : Tbl Ctx, (List.range 16).foldl (fun s t => if (getCtx s (taskCtx s n t)).live then
      setCtx s (taskCtx s n t) (restCtx (getCtx s (taskCtx s n t))) else s) s = { s with ctxs := c } := by
    refine List.foldlRecOn (motive := fun t => ∃ c : Tbl Ctx, t = { s with ctxs := c }) _ _ ⟨s.ctxs, rfl⟩ (fun t ht x _ => ?_)
    obtain ⟨c, rfl⟩ := ht
    split
    · exact ⟨_, rfl⟩
    · exact ⟨_, rfl⟩
  obtain ⟨c, hc⟩ := hfold
  refine ⟨c, ?_⟩
  unfold abandonCycles
  rw [hc]
  rfl

/-- A core that stops with no pending set is stopped with its unsealed writes gone and RUN clear (R341). -/
structure CoreStopped (s z : State) (n : Nat) : Prop where
  mode : (getCore z n).mode = .stopped
  wbuf : (getCore z n).wbuf = (getCore s n).wbuf.filter (fun w => w.sealedAt.isSome)
  run : fGet z (4 + n) 1 = 0

theorem CoreStopped.trans {s y z : State} {n : Nat} (h : CoreStopped s y n) (hc : z.cyc = y.cyc) (hf : fGet z (4 + n) 1 = fGet y (4 + n) 1) :
    CoreStopped s z n := by
  have hg : getCore z n = getCore y n := by unfold getCore; rw [hc]
  exact ⟨hg ▸ h.mode, hg ▸ h.wbuf, hf.trans h.run⟩

theorem coreStop_stops (s : State) (n : Nat) (hp : Tbl.find s.cfg.pend (4 + n) = none) : CoreStopped s (coreStop s n) n := by
  obtain ⟨c, hc⟩ := abandonCycles_eq s n
  have hs : coreStop s n = fSet (setCore (abandonCycles s n) n { getCore (abandonCycles s n) n with mode := .stopped }) (4 + n) 1 0 := by
    unfold coreStop
    rw [applyFields_none _ _ (by rw [hc]; exact hp)]
  have hg : getCore (coreStop s n) n = { getCore s n with
      wbuf := (getCore s n).wbuf.filter (fun w => w.sealedAt.isSome), mode := .stopped } := by
    rw [hs, hc]
    simp [getCore, setCore, fSet]
  exact ⟨by rw [hg], by rw [hg], by rw [hs]; exact fGet_fSet_self _ _ _ _⟩

theorem raise_stopped {s y : State} {n : Nat} (e : Nat) (h : CoreStopped s y n) : CoreStopped s (raise y e) n :=
  h.trans (raise_reports y e).cyc_eq (fGet_raise_low y e _ 1 (by decide))

theorem post_stopped {s y : State} {n : Nat} (hn : n < 8) (src sev code : Nat) (ws : List Word) (h : CoreStopped s y n) :
    CoreStopped s (post y src sev code ws) n :=
  h.trans (post_reports y src sev code ws).cyc_eq (fGet_post_low y src sev code ws _ 1 (by omega) (by decide))

theorem abdicate_stopped {s y : State} {n : Nat} (hn : n < 8) (h : CoreStopped s y n) : CoreStopped s (abdicate y) n := by
  unfold abdicate twinDemote raisePost
  split
  · exact post_stopped hn _ _ _ _ (raise_stopped _ (h.trans rfl (fGet_fInc_ne _ _ 1 0x23 0x016 16 8 (by unfold fid; omega))))
  · exact h

theorem evtPending_abdicate (s : State) (e n : Nat) (he : e < 32) (h : evtPending s e n = true) : evtPending (abdicate s) e n = true := by
  unfold abdicate twinDemote raisePost
  split
  · exact evtPending_post _ _ _ _ _ _ _ he (evtPending_raise _ _ _ _ he h)
  · exact h

theorem coreHalt_stops (s : State) (n : Nat) (hn : n < 8) (hp : Tbl.find s.cfg.pend (4 + n) = none) : CoreStopped s (coreHalt s n) n := by
  have h := raise_stopped (64 + 16 * n + 1) (coreStop_stops s n hp)
  unfold coreHalt
  dsimp only
  split
  · exact abdicate_stopped hn h
  · exact h

theorem coreHalt_event (s : State) (n : Nat) (hn : n < 8) : evtPending (coreHalt s n) (24 + n) (64 + 16 * n + 1) = true := by
  have h := evtPending_raise_self (coreStop s n) (24 + n) (64 + 16 * n + 1) (by omega)
  unfold coreHalt
  dsimp only
  split
  · exact evtPending_abdicate _ _ _ (by omega) h
  · exact h

theorem asmHalt_stops (s : State) : (getCtx (asmHalt s) 3).live = false := by
  unfold asmHalt
  rw [(raise_reports _ _).getCtx_eq, (applyFields_reports _ _).getCtx_eq, getCtx_setCtx]

/-- With nothing pending for it, a sequencer that halts stops with event 277 (R138, R140). -/
theorem afeHalt_stops (s : State) (n : Nat) (hp : Tbl.find s.cfg.pend 0x11 = none) (hg : gateFind s (0x11 * 64 + n) = none) :
    evtPending (afeHalt s n) 0 277 = true ∧ (getCtx (afeHalt s n) (16 + n)).live = false := by
  have hown (l : List Nat) : l.foldl (fun s f => if (pendFind s 0x11 f).isSome then pendTake s 0x11 f else s) s = s := by
    refine List.foldlRecOn (motive := fun t => t = s) l _ rfl (fun t ht f _ => ?_)
    subst ht
    simp [pendFind, hp]
  have hconf : afeConfig s n = s := by
    unfold afeConfig
    dsimp only
    rw [hown]
    simp [afePendGlobals, hp]
  have hplan : afePlan s n = (s, false) := by rw [afePlan, hg]
  have heq : afeHalt s n = raise (fSetBit (setCtx s (16 + n) { getCtx s (16 + n) with live := false }) 0x11 (0x106 + 16 * n) 2 true) 277 := by
    unfold afeHalt
    rw [hconf, hplan]
    rfl
  rw [heq]
  exact ⟨evtPending_raise_self _ 0 277 (by decide), by rw [(raise_reports _ _).getCtx_eq]; exact congrArg Ctx.live (getCtx_setCtx _ _ _)⟩

/-- What a change that takes effect leaves of SAF's state. -/
theorem gateDone_saf (s : State) (g : GateItem) : (gateDone s g).saf = s.saf := by
  have hpost (src sev code : Nat) (ws : List Word) := (post_reports (gateDrop s g.target) src sev code ws).saf_eq
  unfold gateDone keyAdvance measPut
  dsimp only
  split
  · split_ifs <;> exact hpost _ _ _ _
  · exact hpost _ _ _ _

theorem safFields_saf (s : State) (m : SafImage) : (safFields s m).saf = s.saf := by
  unfold safFields
  simp only [fSet_saf]
  exact List.foldlRecOn (motive := fun t => State.saf t = s.saf) _ _ (by simp only [fSet_saf]) (fun t ht _ _ => ht)

/-- A switch of images keeps the safe state and its cause (R423). -/
theorem safSwitch_keeps (s : State) : (safSwitch s).saf.safe = s.saf.safe ∧ (safSwitch s).saf.cause = s.saf.cause := by
  unfold safSwitch
  split
  · split
    · split
      · dsimp only
        rw [gateDone_saf, (raise_reports _ _).saf_eq]
        dsimp only [safLoad]
        simp [loadRange, safFields_saf]
      · exact ⟨rfl, rfl⟩
    · exact ⟨rfl, rfl⟩
  · exact ⟨rfl, rfl⟩

theorem safEnter_safe (s : State) (cause detail : Nat) (h : s.saf.safe = false) :
    (safEnter s cause detail).saf.safe = true ∧ (safEnter s cause detail).saf.cause = cause := by
  unfold safEnter
  rw [if_neg (by simp [h])]
  dsimp only [safBoundary]
  rw [(applyFields_reports _ _).saf_eq]
  obtain ⟨h1, h2⟩ := safSwitch_keeps (raisePost (fInc { s with
      saf := { s.saf with safe := true, cause := cause, detail := detail, cmd := 0, pulse := 0, inCycle := false, monitor := none,
                          wbuf := s.saf.wbuf.filter (fun w => w.sealedAt.isSome) }
      ctxs := Tbl.put {} s.ctxs 2 { Tbl.get {} s.ctxs 2 with live := false } } 0x0C 0x00D 0 32) 0x0C 3 192 [Word.ofN cause, Word.ofN detail])
  rw [(raisePost_reports _ _ _ _ _).saf_eq] at h1 h2
  exact ⟨h1, h2⟩

theorem slotTrap_disabled (s : State) (e i : Nat) (h : slotOf s e = some i) : (getSlot (slotTrap s e true) i).run = .idle := by
  unfold slotTrap
  rw [h]
  dsimp only
  rw [if_pos rfl]
  simp [getSlot, setSlot]

/-- What `halt` makes of the state behind it: its engine stops and posts its record, except on SAF (R86). -/
def halted (s : State) (h : Hdr) (k : Nat) : State :=
  let t := haltEngine (past s k 4) h.eng
  if h.eng = .saf then t else post t (unitOf h.eng) 2 (haltCode h.eng) [(getCtx (past s k 4) k).pc - 4]

theorem halt_takes (s : State) (h : Hdr) (k : Nat) : Takes s h k (.halt h) { word := encA 0b110101 0 0 0 3, grp := .sys } (halted s h k) :=
  takes_ok h _ k _ _ s _ rfl rfl

/-- The effect of `halt` on each kind of engine, in the terms of R86. -/
structure Halts (s : State) (h : Hdr) (k : Nat) (z : State) : Prop where
  core : ∀ n, h.eng = .cyc n → Tbl.find s.cfg.pend (4 + n.val) = none →
    CoreStopped (past s k 4) z n.val ∧ evtPending z (24 + n.val) (64 + 16 * n.val + 1) = true
  asm : h.eng = .asm → (getCtx z 3).live = false ∧ evtPending z 0 328 = true
  afe : ∀ n, h.eng = .afe n → Tbl.find s.cfg.pend 0x11 = none → gateFind s (0x11 * 64 + n.val) = none →
    evtPending z 0 277 = true ∧ (getCtx z (16 + n.val)).live = false
  saf : h.eng = .saf → s.saf.safe = false → z.saf.safe = true ∧ z.saf.cause = 3
  cle : ∀ n i, h.eng = .cle n → slotOf s n.val = some i → (getSlot z i).run = .idle
  mgt : h.eng = .mgt → (getCtx z 0).live = false
  job : h.eng = .mgtJob → (getCtx z 1).live = false

theorem halted_halts (s : State) (h : Hdr) (k : Nat) : Halts s h k (halted s h k) := by
  have hpost (e : Eng) (he : h.eng = e) (hs : e ≠ .saf) :
      halted s h k = post (haltEngine (past s k 4) e) (unitOf e) 2 (haltCode e) [(getCtx (past s k 4) k).pc - 4] := by
    rw [halted, he, if_neg hs]
  have hctx (t : State) (src code : Nat) (ws : List Word) (n : Nat) : getCtx (post t src 2 code ws) n = getCtx t n :=
    (post_reports _ _ _ _ _).getCtx_eq n
  constructor
  case core =>
    intro n he hp
    rw [hpost _ he (by simp)]
    refine ⟨post_stopped n.isLt _ _ _ _ (coreHalt_stops (past s k 4) n.val n.isLt hp), ?_⟩
    exact evtPending_post _ _ _ _ _ _ _ (by omega) (coreHalt_event _ n.val n.isLt)
  case asm =>
    intro he
    rw [hpost _ he (by simp), hctx]
    exact ⟨asmHalt_stops _, evtPending_post _ _ _ _ _ _ _ (by decide) (evtPending_raise_self _ 0 328 (by decide))⟩
  case afe =>
    intro n he hp hg
    obtain ⟨h1, h2⟩ := afeHalt_stops (past s k 4) n.val hp hg
    rw [hpost _ he (by simp), hctx]
    exact ⟨evtPending_post _ _ _ _ _ _ _ (by decide) h1, h2⟩
  case saf =>
    intro he hsafe
    rw [halted, he, if_pos rfl]
    exact safEnter_safe _ 3 0 hsafe
  case cle =>
    intro n i he hi
    rw [hpost _ he (by simp), getSlot_run_post]
    exact slotTrap_disabled (past s k 4) n.val i hi
  case mgt =>
    intro he
    rw [hpost _ he (by simp), hctx]
    exact congrArg Ctx.live (getCtx_setCtx _ 0 _)
  case job =>
    intro he
    rw [hpost _ he (by simp), hctx]
    exact congrArg Ctx.live (getCtx_setCtx _ 1 _)

theorem tst_zero (k : Nat) : Word.tst 0 k = false := BitVec.getLsbD_zero

/-! ## Time and the special registers (R43, R82) -/

theorem timeRd_takes (s : State) (h : Hdr) (k : Nat) (rd : Reg) (hr : oddReg rd = false) :
    ∃ z, Takes s h k (.timeRd h rd) { word := encA 0b110011 rd 0 0 0, grp := .time } z
      ∧ getCtx z k = { wrG (wrG (getCtx (past s k 4) k) rd (Word.ofN s.time.ns)) (rd + 1) (Word.ofN s.time.sec) with
          secHi := Word.ofN (s.time.sec / 65536) } := by
  refine ⟨_, takes_good h _ 4 _ (oddReg rd) k _ _ s _ hr rfl rfl, ?_⟩
  simp only [setReg, getCtx_setCtx]
  rfl

theorem timeRdh_writes (s : State) (h : Hdr) (k : Nat) (rd : Reg) :
    Writes s h k (.timeRdh h rd) { word := encA 0b110011 rd 0 0 1, grp := .time } rd ((getCtx s k).secHi >>> 16) := by
  refine takes_ok h _ k _ _ s _ rfl ?_
  have hb : Word.ofN ((getCtx s k).secHi.field 16 16) = (getCtx s k).secHi >>> 16 := by
    apply BitVec.eq_of_toNat_eq
    simp only [Word.ofN, Word.field, BitVec.toNat_ofNat, BitVec.toNat_ushiftRight, Nat.shiftRight_eq_div_pow]
    omega
  dsimp only
  rw [getCtx_past, hb]

/-- The high part that `sr.rd` latches. -/
theorem shiftHigh (v : BitVec 48) : (v >>> 32).setWidth 16 = v.extractLsb' 32 16 := by
  apply BitVec.eq_of_getLsbD_eq
  intro i hi
  simp

theorem srRd_writes (s : State) (h : Hdr) (k : Nat) (rd : Reg) (sel : BitVec 3) (v : Word) (h0 : sel ≠ 0) (h3 : sel ≠ 3) (h7 : sel ≠ 7)
    (hv : (if sel = 1 then cycReg s h.eng k else if sel = 2 then s.twin.ep else if sel = 4 then (getCtx s k).opHi.setWidth 32
      else if sel = 5 then s.clk.pcc else (getCtx s k).tkHi.setWidth 32) = v) :
    Writes s h k (.srRd h rd sel) { word := encA 0b110011 rd 0 (sel.setWidth 5) 2, grp := .time } rd v := by
  refine takes_good h _ 4 _ (sel == 7) k _ _ s _ (beq_false_of_ne h7) rfl ?_
  dsimp only
  rw [if_neg h0, if_neg h3, getCtx_past, ← hv]
  rfl

theorem pWr_pred (p : PReg) (hp : p ≠ 0) (v : Word) : ((v.setWidth 8) &&& 0xFE : BitVec 8).getLsbD p.toNat = v.getLsbD p.toNat := by
  have hmask : ∀ q : PReg, q ≠ 0 → (0xFE : BitVec 8).getLsbD q.toNat = true := by decide
  have hlt : p.toNat < 8 := p.isLt
  rw [BitVec.getLsbD_and, hmask p hp, BitVec.getLsbD_setWidth]
  simp [hlt]

theorem pWr_takes (s : State) (h : Hdr) (k : Nat) (r : Reg) : ∃ t, Takes s h k (.pWr h r) (sysDec 0 r 0 9) t
    ∧ ∀ p : PReg, p ≠ 0 → rdP (getCtx t k) p = (reg s k r).getLsbD p.toNat := by
  refine ⟨_, takes_ok h _ k _ _ s _ rfl rfl, fun p hp => ?_⟩
  rw [getCtx_setCtx, reg_past]
  simp only [rdP, pWr_pred p hp, decide_eq_false hp, Bool.false_or]

/-- Settles O20: time and the special registers by what each reads, `tret` by the two words of the trap record, `halt` by what stops its
engine. -/
theorem systemAndTimeInstructionsAct : Obligations.SystemAndTimeInstructionsAct := by
  unfold Obligations.SystemAndTimeInstructionsAct
  refine ⟨fun s h k rd sel => ?_, fun s h k r code skips => ?_, fun s h k => ?_⟩
  · refine ⟨timeRd_takes s h k rd, timeRdh_writes s h k rd, ?_⟩
    refine ⟨?_, ?_, ?_, ?_, ?_, ?_, ?_⟩
    · rintro rfl
      refine srRd_writes s h k rd 1 _ (by decide) (by decide) (by decide) ?_
      rw [if_pos rfl]
      cases h.eng <;> rfl
    · rintro rfl
      exact srRd_writes s h k rd 2 _ (by decide) (by decide) (by decide) rfl
    · rintro rfl
      exact srRd_writes s h k rd 4 _ (by decide) (by decide) (by decide) rfl
    · rintro rfl
      exact srRd_writes s h k rd 5 _ (by decide) (by decide) (by decide) rfl
    · rintro rfl
      exact srRd_writes s h k rd 6 _ (by decide) (by decide) (by decide) rfl
    · rintro rfl
      refine takes_good h _ 4 _ _ k _ _ s _ (by decide) rfl ?_
      rw [shiftHigh]
      rfl
    · rintro rfl
      refine takes_good h _ 4 _ _ k _ _ s _ (by decide) rfl ?_
      rw [shiftHigh]
      rfl
  · refine ⟨takes_ok h _ k _ _ s _ rfl rfl, ?_, ?_, fun hh h1 h2 hb => tret_takes s h k skips hh h1 h2 hb, ?_, pWr_takes s h k r⟩
    · exact traps_ok h _ k _ _ s _ rfl rfl
    · intro hh
      refine traps_ok h _ k _ _ s _ rfl ?_
      dsimp only
      rw [getCtx_past, hh]
      rfl
    · refine takes_ok h _ k _ _ s _ rfl ?_
      dsimp only
      rw [getCtx_past]
  · obtain ⟨hcore, hasm, hafe, hsaf, hcle, hmgt, hjob⟩ := halted_halts s h k
    refine ⟨halted s h k, halt_takes s h k, ?_, hasm, hafe, ?_, hcle, hmgt, hjob⟩
    · intro n he hp
      obtain ⟨hstop, hevt⟩ := hcore n he hp
      exact ⟨hstop.mode, by rw [fBit, hstop.run, tst_zero], hstop.wbuf, hevt⟩
    · intro he hsafe
      obtain ⟨h1, h2⟩ := hsaf he hsafe
      exact ⟨h1, h2, by simp [settle, drive, Saf.soPins, h1]⟩

end Sys2Proof.Machine
end

section
/-! SUPPORT. Traps of MGT: the handler and its record, and the stop inside the handler (R89, R91, R92). -/
namespace Sys2Proof.Machine

/-! ## Words stored one after another -/

theorem memByte_setWords_low (ws : List Word) : ∀ (s : State) (a x : Nat), a + 4 * ws.length ≤ 0x0C00000000 →
    (x < a ∨ a + 4 * ws.length ≤ x) → memByte (setWords s a ws) x = memByte s x := by
  induction ws with
  | nil => exact fun _ _ _ _ _ => rfl
  | cons w ws ih =>
    intro s a x ha hx
    rw [List.length_cons] at ha hx
    have hl : (leBytes 4 w.toNat).length = 4 := by rw [leBytes_word, List.length_map, List.length_range]
    rw [setWords, ih _ _ x (by omega) (by omega), setW, setN_eq_setBytes, memByte_setBytes_low _ _ _ x (by omega) (by omega)]

/-- The words just stored read back in their order. -/
theorem memW_setWords (ws : List Word) : ∀ (s : State) (a i : Nat) (v : Word), 0x40000 ≤ a → a + 4 * ws.length ≤ 0x0C00000000 →
    ws[i]? = some v → memW (setWords s a ws) (a + 4 * i) = v := by
  induction ws with
  | nil => intro s a i v _ _ hv; cases hv
  | cons w ws ih =>
    intro s a i v h1 h2 hv
    rw [List.length_cons] at h2
    cases i with
    | zero =>
      cases hv
      have hout (j : Nat) (hj : j < 4) : memByte (setWords (setW s a w) (a + 4) ws) (a + j) = memByte (setW s a w) (a + j) :=
        memByte_setWords_low ws _ _ _ (by omega) (by omega)
      have hself := memW_setW s a w (fun x hx _ => ⟨by omega, by omega⟩)
      show memW (setWords (setW s a w) (a + 4) ws) a = w
      rw [memW_eq] at hself
      have h0 : memByte (setWords (setW s a w) (a + 4) ws) a = memByte (setW s a w) a := hout 0 (by decide)
      rw [memW_eq, hout 3 (by decide), hout 2 (by decide), hout 1 (by decide), h0]
      exact hself
    | succ i =>
      have he : a + 4 * (i + 1) = a + 4 + 4 * i := by omega
      rw [setWords, he]
      exact ih _ _ i v (by omega) (by omega) hv

theorem memByte_below_window {s t : State} (a : Nat) (ha : a < 0x0E00000000) (hm : t.mem = s.mem) (hl : t.asm = s.asm) :
    memByte t a = memByte s a := by
  have hlib : inLib t a = inLib s a := by unfold inLib; rw [hl]
  unfold memByte
  have hw : ¬ (0x0E00000000 ≤ a ∧ a < 0x0E00200000) := by omega
  rw [hm, hlib, if_neg hw, if_neg hw]

theorem memW_below_window {s t : State} (a : Nat) (ha : a + 3 < 0x0E00000000) (hm : t.mem = s.mem) (hl : t.asm = s.asm) :
    memW t a = memW s a := by
  simp only [memW_eq, memByte_below_window _ ha hm hl, memByte_below_window (a + 2) (by omega) hm hl,
    memByte_below_window (a + 1) (by omega) hm hl, memByte_below_window a (by omega) hm hl]

theorem Reports.asm_eq {s t : State} (h : Reports s t) : t.asm = s.asm := by
  obtain ⟨m, c, e, a, l, rfl⟩ := h
  rfl

/-! ## A trap of MGT outside its handler (R89, R91) -/

/-- The trap record as R89 orders its words. -/
def trapRecord (s : State) (pc0 w : Word) (t : Trap) : List Word :=
  [trapWord0 t, pc0, Word.ofN t.addr, Word.ofN (t.addr / 2 ^ 32 % 256), w, 0, Word.ofN s.clk.tick.toNat, 0]

theorem trapRecord_length (s : State) (pc0 w : Word) (t : Trap) : (trapRecord s pc0 w t).length = 8 := rfl

/-- The state with the record of the trap posted, which SOFT has none of (R91). -/
def trapPosted (s : State) (t : Trap) (pc0 : Word) : State :=
  if t.cause = 9 then s else post s 0 2 (0x0400 + t.cause) [trapWord0 t, pc0]

theorem trapPosted_reports (s : State) (t : Trap) (pc0 : Word) : Reports s (trapPosted s t pc0) := by
  unfold trapPosted
  split
  · exact Reports.refl s
  · exact post_reports _ _ _ _ _

theorem trapPosted_mem (s : State) (t : Trap) (pc0 : Word) : (trapPosted s t pc0).mem = s.mem := by
  unfold trapPosted
  split
  · rfl
  · exact post_mem _ _ _ _ _

theorem takeTrap_mgt (s : State) (k : Nat) (pc0 w : Word) (t : Trap) (hh : (getCtx s k).inHandler = false) :
    takeTrap s .mgt k pc0 w t = setCtx (trapPosted (putWords s 0x0010000040 (trapRecord s pc0 w t)) t pc0) k
      { getCtx s k with pc := 0x100, inHandler := true } := by
  unfold takeTrap trapPosted
  dsimp only
  rw [hh]
  simp only [Bool.or_false, decide_eq_true_eq]
  rfl

theorem takeTrap_mgt_handler (s : State) (pc0 w : Word) (t : Trap) (hh : (getCtx s 0).inHandler = true) :
    takeTrap s .mgt 0 pc0 w t = post (setCtx s 0 { getCtx s 0 with live := false }) 0 3 (0x0400 + t.cause) [trapWord0 t, pc0] := by
  unfold takeTrap
  dsimp only
  rw [if_pos hh]
  rfl

section
variable (s : State) (k : Nat) (pc0 w : Word) (t : Trap) (hh : (getCtx s k).inHandler = false)
include hh

theorem memByte_takeTrap_mgt (a : Nat) (ha : a < 0x0E00000000) : memByte (takeTrap s .mgt k pc0 w t) a =
    memByte (putWords s 0x0010000040 (trapRecord s pc0 w t)) a := by
  rw [takeTrap_mgt s k pc0 w t hh]
  exact memByte_below_window a ha (trapPosted_mem _ t pc0) (trapPosted_reports _ t pc0).asm_eq

/-- Word `i` of the trap record stands at its place in the handler's area. -/
theorem memW_takeTrap_mgt (i : Nat) (v : Word) (hv : (trapRecord s pc0 w t)[i]? = some v) :
    memW (takeTrap s .mgt k pc0 w t) (0x0010000040 + 4 * i) = v := by
  have hi : i < 8 := trapRecord_length s pc0 w t ▸ (List.getElem?_eq_some_iff.1 hv).1
  rw [takeTrap_mgt s k pc0 w t hh, ← memW_setWords (trapRecord s pc0 w t) (eccSpan s 0x0010000040 32) 0x0010000040 i v (by decide)
    (by rw [trapRecord_length]; decide) hv]
  exact memW_below_window _ (by omega) (trapPosted_mem _ t pc0) (trapPosted_reports _ t pc0).asm_eq

end

/-- Settles O21: the handler's context, the eight words of its record, and no other byte; inside the handler only the stop. -/
theorem trapsEnterTheHandlerOrStop : Obligations.TrapsEnterTheHandlerOrStop := by
  unfold Obligations.TrapsEnterTheHandlerOrStop
  refine ⟨fun s k pc0 w t hh ha => ?_, fun s pc0 w t hh => ?_⟩
  · have word (i : Nat) (v : Word) := memW_takeTrap_mgt s k pc0 w t hh i v
    have htick : Word.ofN s.clk.tick.toNat = s.clk.tick.setWidth 32 := rfl
    have hhigh : t.addr / 2 ^ 32 % 256 = t.addr / 4294967296 := by omega
    refine ⟨?_, word 0 _ rfl, word 1 _ rfl, word 2 _ rfl, word 3 _ ?_, word 4 _ rfl, word 5 _ rfl, word 6 _ rfl, word 7 _ rfl, ?_⟩
    · rw [takeTrap_mgt s k pc0 w t hh, getCtx_setCtx]
    · exact congrArg (fun n => some (Word.ofN n)) hhigh
    · intro a h1 h2 h3
      rw [memByte_takeTrap_mgt s k pc0 w t hh a (by omega)]
      refine memByte_setWords_low (trapRecord s pc0 w t) _ _ a ?_ ?_
      · rw [trapRecord_length]
        decide
      · rw [trapRecord_length]
        exact h3
  · rw [takeTrap_mgt_handler s pc0 w t hh]
    dsimp only
    rw [(post_reports _ _ _ _ _).getCtx_eq, post_mem]
    exact ⟨getCtx_setCtx _ 0 _, rfl⟩

end Sys2Proof.Machine
end

section
/-! SUPPORT. The stores keep memory canonical: each operation that a store, an atomic, the scrubber or the trap of one may run through
(R63 to R66, R99). -/
namespace Sys2Proof.Machine

/-! ## Reports and accesses -/

/-- Memory is in its canonical form. -/
def Canonical (s : State) : Prop := Memory.wf s.mem.cells = true

theorem canonical_iff (s : State) : Canonical s ↔ MemoryOk s := Iff.rfl

theorem Canonical.of_mem {s t : State} (h : Canonical s) (e : t.mem = s.mem) : Canonical t := by
  unfold Canonical
  rw [e]
  exact h

theorem raise_canonical {s : State} (h : Canonical s) (n : Nat) : Canonical (raise s n) := h.of_mem (raise_mem s n)

theorem post_canonical {s : State} (h : Canonical s) (src sev code : Nat) (ws : List Word) : Canonical (post s src sev code ws) :=
  h.of_mem (post_mem s src sev code ws)

theorem raisePost_canonical {s : State} (h : Canonical s) (src sev n : Nat) (ws : List Word) : Canonical (raisePost s src sev n ws) :=
  post_canonical (raise_canonical h n) src sev n ws

theorem ite_canonical {s t : State} {c : Prop} [Decidable c] (hs : Canonical s) (ht : Canonical t) : Canonical (if c then s else t) := by
  split
  · exact hs
  · exact ht

theorem setCtx_canonical {s : State} (h : Canonical s) (k : Nat) (c : Ctx) : Canonical (setCtx s k c) := h

theorem setSlot_canonical {s : State} (h : Canonical s) (n : Nat) (x : Slot) : Canonical (setSlot s n x) := h

theorem fSetPart_canonical {s : State} (h : Canonical s) (u f lo len v : Nat) : Canonical (fSetPart s u f lo len v) := h

theorem fSetBit_canonical {s : State} (h : Canonical s) (u f k : Nat) (b : Bool) : Canonical (fSetBit s u f k b) := h

theorem fInc_canonical {s : State} (h : Canonical s) (u f lo len : Nat) : Canonical (fInc s u f lo len) := h

theorem fSet_canonical {s : State} (h : Canonical s) (u f : Nat) (v : Word) : Canonical (fSet s u f v) := h

theorem putWords_canonical {s : State} (h : Canonical s) (a : Nat) (ws : List Word) : Canonical (putWords s a ws) :=
  setWords_wf ws (eccSpan s a (4 * ws.length)) a h

theorem errorResp_canonical {s : State} (h : Canonical s) (w : Who) (k : Kind) (c : Cause) (a f : Nat) :
    Canonical (errorResp s w k c a f) := by
  unfold errorResp
  dsimp only
  split
  · exact raise_canonical (fSet_canonical (setWords_wf _ _ _ (by exact h)) 1 0x007 _) 19
  · exact post_canonical (raise_canonical (fSet_canonical (setWords_wf _ _ _ (by exact h)) 1 0x007 _) 19) _ _ _ _

theorem countCe_canonical {s : State} (h : Canonical s) (a : Nat) : Canonical (countCe s a) := by
  unfold countCe
  exact ite_canonical (raisePost_canonical (by exact h) _ _ _ _) h

theorem eccRead_canonical {s : State} (h : Canonical s) (a : Nat) : Canonical (eccRead s a).1 := by
  have hfix (u f : Nat) : Canonical (fInc { s with mem := { s.mem with ecc := Tbl.put 0 s.mem.ecc (a / 8) 0 } } u f 0 32) := h
  have hbad : Canonical (keepUeAddr (fInc { s with mem := { s.mem with ecc := Tbl.put 0 s.mem.ecc (a / 8) 4 } } 1 0x005 0 32) (a / 8)) := h
  unfold eccRead
  dsimp only
  split_ifs
  · exact h
  · exact countCe_canonical (hfix _ _) a
  · exact countCe_canonical (raisePost_canonical (hfix _ _) _ _ _ _) a
  · exact raisePost_canonical hbad _ _ _ _
  · exact h

/-- After the code of a word has been met, whether it gave the data or not. -/
theorem eccRead_gives_canonical {s t : State} {a : Nat} {b : Bool} (h : Canonical s) (he : eccRead s a = (t, b)) : Canonical t := by
  have h1 := eccRead_canonical h a
  rw [he] at h1
  exact h1

theorem edgeRead_canonical {s : State} (h : Canonical s) (w : Who) (a len : Nat) : Canonical (edgeRead s w a len).1 := by
  unfold edgeRead
  refine List.foldlRecOn (motive := fun r : State × List Nat => Canonical r.1) _ _ h (fun r hr x _ => ?_)
  split
  · next heq => exact eccRead_gives_canonical hr heq
  · next heq => exact errorResp_canonical (eccRead_gives_canonical hr heq) _ _ _ _ _

theorem hwWrite_canonical {s : State} (h : Canonical s) (w : Who) (a : Nat) (bs : List Byte) : Canonical (hwWrite s w a bs) := by
  have hr : Canonical (eccSpan (edgeRead s w a bs.length).1 a bs.length) := edgeRead_canonical h w a bs.length
  unfold hwWrite
  dsimp only
  split
  · exact setBytes_wf bs _ a hr
  · exact List.foldlRecOn (motive := fun t : State => Canonical t) _ _ hr (fun t ht e _ => setByte_wf t _ _ ht)

theorem hwWords_canonical {s : State} (h : Canonical s) (u a : Nat) (ws : List Word) : Canonical (hwWords s u a ws) :=
  hwWrite_canonical h _ a _

theorem abdicate_canonical {s : State} (h : Canonical s) : Canonical (abdicate s) := by
  have hd (x : Twin) : Canonical (fInc { s with twin := x } 0x23 0x016 16 8) := h
  unfold abdicate twinDemote
  exact ite_canonical (raisePost_canonical (hd _) _ _ _ _) h

theorem uncorrHook_canonical {s : State} (h : Canonical s) (a : Nat) : Canonical (uncorrHook s a) := by
  unfold uncorrHook
  split
  · exact abdicate_canonical h
  · exact h

/-- The error response of an uncorrectable word, and what the unit does about it (R96, R488). -/
theorem uncorrectable_canonical {s : State} (h : Canonical s) (w : Who) (k : Kind) (a : Nat) :
    Canonical (uncorrHook (errorResp s w k .uncorr a 0) a) := uncorrHook_canonical (errorResp_canonical h w k _ a 0) a

/-! ## The stops of the engines -/

theorem cfg_canonical {s : State} (h : Canonical s) (c : Cfg) : Canonical { s with cfg := c } := h

theorem dropShadow_canonical {s : State} (h : Canonical s) (p : Tbl Word) : Canonical (dropShadow s p) := h

theorem fIncMod_canonical {s : State} (h : Canonical s) (u f lo len : Nat) : Canonical (fIncMod s u f lo len) := h

/-- The counting of a commit that is done (R103). -/
theorem commitDone_canonical {s : State} (h : Canonical s) (u : Nat) :
    Canonical (fIncMod (fSetBit s u 0x3FF 1 false) u 0x3FF 8 8) := fIncMod_canonical (fSetBit_canonical h _ _ _ _) _ _ _ _

theorem applyFields_canonical {s : State} (h : Canonical s) (u : Nat) : Canonical (applyFields s u) := by
  unfold applyFields
  split
  · exact h
  · next p _ =>
    split
    · exact post_canonical (fSetBit_canonical (cfg_canonical h _) _ _ _ _) _ _ _ _
    · exact commitDone_canonical (dropShadow_canonical (List.foldlRecOn (motive := fun t : State => Canonical t) p _
        (cfg_canonical h _) (fun t ht e _ => fSet_canonical ht _ _ _)) p) u

theorem pendTake_canonical {s : State} (h : Canonical s) (u f : Nat) : Canonical (pendTake s u f) := by
  unfold pendTake
  split
  · exact h
  · split
    · exact h
    · have hd (v : Word) (p : Tbl Word) := dropShadow_canonical (fSet_canonical h u f v) p
      exact ite_canonical (commitDone_canonical (cfg_canonical (hd _ _) _) u) (cfg_canonical (hd _ _) _)

theorem keyAdvance_canonical {s : State} (h : Canonical s) (e : EnvInfo) : Canonical (keyAdvance s e) := by
  unfold keyAdvance
  exact ite_canonical (ite_canonical h h) h

theorem gateDone_canonical {s : State} (h : Canonical s) (g : GateItem) : Canonical (gateDone s g) := by
  have hd : Canonical (gateDrop s g.target) := h
  unfold gateDone
  dsimp only
  split
  · exact keyAdvance_canonical (post_canonical hd _ _ _ _) _
  · exact post_canonical hd _ _ _ _

theorem safFields_canonical {s : State} (h : Canonical s) (m : SafImage) : Canonical (safFields s m) := by
  have hfold (t : State) (ht : Canonical t) : Canonical ((List.range 8).foldl (fun s k =>
      fSet s 0x0C (0x10 + k) (Word.ofN (m.si.getD (2 * k + 1) 0 * 2 ^ 16 + m.si.getD (2 * k) 0))) t) :=
    List.foldlRecOn (motive := fun t : State => Canonical t) _ _ ht (fun t ht _ _ => fSet_canonical ht _ _ _)
  exact fSet_canonical (fSet_canonical (hfold _ (fSet_canonical (fSet_canonical (fSet_canonical (fSet_canonical (fSet_canonical h _ _ _) _ _ _) _ _ _) _ _ _) _ _ _)) _ _ _) _ _ _

theorem safLoad_canonical {s : State} (h : Canonical s) (m : SafImage) : Canonical (safLoad s m) := loadRange_wf s _ _ _ h

theorem safSwitch_canonical {s : State} (h : Canonical s) : Canonical (safSwitch s) := by
  have hs (x : Saf) : Canonical { s with saf := x } := h
  unfold safSwitch
  split
  · split
    · split
      · exact gateDone_canonical (raise_canonical (safLoad_canonical (safFields_canonical (hs _) _) _) 194) _
      · exact h
    · exact h
  · exact h

theorem safEnter_canonical {s : State} (h : Canonical s) (cause detail : Nat) : Canonical (safEnter s cause detail) := by
  have hs (x : Saf) (c : Tbl Ctx) : Canonical { s with saf := x, ctxs := c } := h
  unfold safEnter
  exact ite_canonical (post_canonical h _ _ _ _)
    (applyFields_canonical (safSwitch_canonical (raisePost_canonical (fInc_canonical (hs _ _) _ _ _ _) _ _ _ _)) 0x0C)

theorem afeGlobalsDone_canonical {s : State} (h : Canonical s) : Canonical (afeGlobalsDone s) := by
  unfold afeGlobalsDone
  exact ite_canonical (List.foldlRecOn (motive := fun t : State => Canonical t) _ _ h (fun t ht e _ => pendTake_canonical ht 0x11 _)) h

theorem afeConfig_canonical {s : State} (h : Canonical s) (n : Nat) : Canonical (afeConfig s n) := by
  have hown (l : List Nat) : Canonical (l.foldl (fun s f => if (pendFind s 0x11 f).isSome then pendTake s 0x11 f else s) s) :=
    List.foldlRecOn (motive := fun t : State => Canonical t) l _ h (fun t ht f _ => ite_canonical (pendTake_canonical ht 0x11 f) ht)
  have hconv {t : State} (ht : Canonical t) (c : Conv) : Canonical (setConv t n c) := ht
  unfold afeConfig
  exact ite_canonical (hown _) (afeGlobalsDone_canonical (hconv (hown _) _))

theorem afePlan_canonical {s : State} (h : Canonical s) (n : Nat) : Canonical (afePlan s n).1 := by
  have hl (a len : Nat) (u : List Host.Cell) (g : GateItem) := gateDone_canonical (loadRange_wf s a len u h) g
  have hc {t : State} (ht : Canonical t) (c : Tbl Ctx) : Canonical { t with ctxs := c } := ht
  unfold afePlan
  split
  · split
    · split
      · exact ite_canonical (hc (hl _ _ _ _) _) (hl _ _ _ _)
      · exact h
    · exact h
  · exact h

theorem afeHalt_canonical {s : State} (h : Canonical s) (n : Nat) : Canonical (afeHalt s n) := by
  have hp := afePlan_canonical (afeConfig_canonical h n) n
  unfold afeHalt
  exact ite_canonical hp (raise_canonical (fSetBit_canonical (setCtx_canonical hp _ _) _ _ _ _) 277)

theorem coreStop_canonical {s : State} (h : Canonical s) (n : Nat) : Canonical (coreStop s n) := by
  have hc {t : State} (ht : Canonical t) (x : Core) : Canonical (setCore t n x) := ht
  have ha : Canonical (abandonCycles s n) := by
    obtain ⟨c, hc⟩ := abandonCycles_eq s n
    rw [hc]
    exact h
  unfold coreStop
  exact applyFields_canonical (fSet_canonical (hc ha _) _ _ _) (4 + n)

theorem coreHalt_canonical {s : State} (h : Canonical s) (n : Nat) : Canonical (coreHalt s n) := by
  have hr := raise_canonical (coreStop_canonical h n) (64 + 16 * n + 1)
  unfold coreHalt
  exact ite_canonical (abdicate_canonical hr) hr

theorem engStop_canonical {s : State} (h : Canonical s) (e : Eng) : Canonical (engStop s e) := by
  cases e with
  | cyc n => exact coreHalt_canonical h n.val
  | afe n => exact afeHalt_canonical h n.val
  | asm => exact raise_canonical (applyFields_canonical (setCtx_canonical h 3 _) 0x14) 328
  | saf => exact h
  | cle _ => exact h
  | mgt => exact h
  | mgtJob => exact h

/-! ## A loop slot's run ends -/

theorem setLive_canonical {s : State} (h : Canonical s) (n w : Nat) (v : Word) : Canonical (setLive s n w v) :=
  hwWords_canonical h _ _ _

theorem livePart_canonical {s : State} (h : Canonical s) (n w lo len v : Nat) : Canonical (livePart s n w lo len v) :=
  setLive_canonical h n w _

theorem slotFlag_canonical {s : State} (h : Canonical s) (n k : Nat) (b : Bool) : Canonical (slotFlag s n k b) :=
  livePart_canonical h n 1 k 1 _

theorem clearStates_canonical {s : State} (h : Canonical s) (n : Nat) : Canonical (clearStates s n) := hwWords_canonical h _ _ _

theorem slotEnable_canonical {s : State} (h : Canonical s) (n : Nat) : Canonical (slotEnable s n) := by
  have h1 := setLive_canonical (setLive_canonical (clearStates_canonical h n) n 2 0) n 3 0
  exact setSlot_canonical (setLive_canonical (setLive_canonical (setLive_canonical (setLive_canonical h1 n 4 0) n 8 0) n 9 0) n 1 _) n _

theorem slotEn_canonical {s : State} (h : Canonical s) (n : Nat) : Canonical (slotEn s n) := by
  unfold slotEn
  dsimp only
  split
  · exact h
  · have hb (b : Bool) := fSetBit_canonical h 0x10 (2 + n / 32) (n % 32) b
    have hp (b : Bool) {c : Prop} [Decidable c] := ite_canonical (c := c) (pendTake_canonical (hb b) 0x10 (2 + n / 32)) (hb b)
    exact ite_canonical (slotEnable_canonical (hp _) n) (ite_canonical (setSlot_canonical (slotFlag_canonical (hp _) n 30 false) n _) (hp _))

theorem injEnd_canonical {s : State} (h : Canonical s) (n : Nat) : Canonical (injEnd s n) := by
  unfold injEnd
  exact ite_canonical (raise_canonical (slotFlag_canonical h n 26 false) 260) h

theorem slotSwap_canonical {s : State} (h : Canonical s) (n : Nat) : Canonical (slotSwap s n) := by
  have h0 := livePart_canonical h n 0 31 1 0
  have h1 (b : Bool) := slotFlag_canonical (injEnd_canonical h0 n) n 31 b
  unfold slotSwap
  exact ite_canonical (setSlot_canonical (slotFlag_canonical (ite_canonical (h1 _) (clearStates_canonical (h1 _) n)) n 22 false) n _)
    (raisePost_canonical (slotFlag_canonical h0 n 22 true) _ _ _ _)

theorem slotLatch_canonical {s : State} (h : Canonical s) (n : Nat) : Canonical (slotLatch s n) := setSlot_canonical h n _

theorem slotBoundary_canonical {s : State} (h : Canonical s) (n : Nat) : Canonical (slotBoundary s n) := by
  have h0 := slotEn_canonical h n
  have h1 {c : Prop} [Decidable c] := ite_canonical (c := c) (clearStates_canonical (livePart_canonical h0 n 0 28 1 0) n) h0
  have h2 {t : State} (ht : Canonical t) (a len : Nat) {c : Prop} [Decidable c] :=
    ite_canonical (c := c) (zeroRange_wf _ a len (livePart_canonical ht n 0 29 1 0)) ht
  have h3 {t : State} (ht : Canonical t) {c : Prop} [Decidable c] := ite_canonical (c := c) (slotSwap_canonical ht n) ht
  unfold slotBoundary
  exact ite_canonical (slotLatch_canonical (h3 (h2 h1 _ _)) n) (h3 (h2 h1 _ _))

theorem actionDone_canonical {s : State} (h : Canonical s) (u f lo len : Nat) : Canonical (actionDone s u f lo len) := by
  unfold actionDone
  dsimp only
  split
  · exact ite_canonical h h
  · exact h

theorem capSample_canonical {s : State} (h : Canonical s) (n c : Nat) (lost : Bool) : Canonical (capSample s n c lost) := by
  have hw (a : Nat) (ws : List Word) (f lo len v : Nat) := fSetPart_canonical (hwWords_canonical h 0x10 a ws) 0x10 f lo len v
  unfold capSample
  exact ite_canonical (raise_canonical (actionDone_canonical (fSetPart_canonical (hw _ _ _ _ _ _) _ _ _ _ _) _ _ _ _) 259) (hw _ _ _ _ _ _)

theorem captures_canonical {s : State} (h : Canonical s) (n : Nat) (lost : Bool) : Canonical (captures s n lost) :=
  List.foldlRecOn (motive := fun t : State => Canonical t) _ _ h (fun _ ht c _ => capSample_canonical ht n c lost)

theorem slotEnd_canonical {s : State} (h : Canonical s) (n : Nat) : Canonical (slotEnd s n) := by
  have hend {t : State} (ht : Canonical t) (x : Slot) := setSlot_canonical (captures_canonical (slotFlag_canonical ht n 29 false) n false) n x
  have hfree (c : Tbl Ctx) (x : Cle) : Canonical { s with ctxs := c, cle := x } := h
  unfold slotEnd
  refine slotBoundary_canonical (hend ?_ _) n
  split
  · exact hfree _ _
  · exact h

theorem slotTrap_canonical {s : State} (h : Canonical s) (e : Nat) (b : Bool) : Canonical (slotTrap s e b) := by
  unfold slotTrap
  split
  · exact h
  · next n _ =>
    have h0 := raise_canonical (slotFlag_canonical (slotFlag_canonical h n 23 true) n 24 false) 262
    have h1 (x : Slot) := slotEnd_canonical (setSlot_canonical h0 n x) n
    exact ite_canonical (setSlot_canonical (slotFlag_canonical (fSetBit_canonical (h1 _) 0x10 _ _ false) n 30 false) n _) (h1 _)

/-! ## Traps and the run of an instruction -/

theorem takeTrap_canonical {s : State} (h : Canonical s) (e : Eng) (k : Nat) (pc0 w : Word) (t : Trap) :
    Canonical (takeTrap s e k pc0 w t) := by
  have hstop (e : Eng) := post_canonical (engStop_canonical h e) (unitOf e) 3 (0x0400 + t.cause) [trapWord0 t, pc0]
  have hput (a : Nat) (ws : List Word) := putWords_canonical h a ws
  have hpost (c : Prop) [Decidable c] (a : Nat) (ws ps : List Word) (u code : Nat) :
      Canonical (if c then putWords s a ws else post (putWords s a ws) u 2 code ps) := by
    split
    · exact hput a ws
    · exact post_canonical (hput a ws) _ _ _ _
  unfold takeTrap
  dsimp only
  split
  · cases e with
    | saf => exact safEnter_canonical h _ _
    | cyc n => exact hstop (.cyc n)
    | afe n => exact hstop (.afe n)
    | asm => exact hstop .asm
    | cle n => exact hstop (.cle n)
    | mgt => exact hstop .mgt
    | mgtJob => exact hstop .mgtJob
  · cases e with
    | saf =>
      dsimp only
      split
      · exact setCtx_canonical (hpost _ _ _ _ _ _) k _
      · exact safEnter_canonical (hpost _ _ _ _ _ _) _ _
    | cle n => exact slotTrap_canonical (hpost _ _ _ _ _ _) _ _
    | cyc n => exact hpost _ _ _ _ _ _
    | afe n => exact hpost _ _ _ _ _ _
    | asm => exact hpost _ _ _ _ _ _
    | mgt => exact hpost _ _ _ _ _ _
    | mgtJob => exact hpost _ _ _ _ _ _

/-- Whatever an instruction's body comes to, its memory is canonical. -/
def ResOk : Res → Prop
  | .ok s => Canonical s
  | .trap s _ => Canonical s

theorem refuse_canonical {s : State} (h : Canonical s) (w : Who) (k : Kind) (c : Cause) (a f : Nat) : ResOk (refuse s w k c a f) :=
  errorResp_canonical h w k c a f

theorem access_canonical {s : State} (h : Canonical s) (w : Who) (k : Kind) (wr : Bool) (a n : Nat) : Canonical (access s w k wr a n).1 := by
  unfold access
  split
  · exact errorResp_canonical h _ _ _ _ _
  · split
    · exact h
    · split
      · next heq => exact eccRead_gives_canonical h heq
      · next heq => exact uncorrectable_canonical (eccRead_gives_canonical h heq) _ _ _

theorem withAccess_canonical {s : State} (h : Canonical s) (w : Who) (k : Kind) (wr : Bool) (a n : Nat) (f : State → Res)
    (hf : ∀ s, Canonical s → ResOk (f s)) : ResOk (withAccess s w k wr a n f) := by
  have ha := access_canonical h w k wr a n
  unfold withAccess
  split
  · next heq => rw [heq] at ha; exact hf _ ha
  · next heq => rw [heq] at ha; exact ha

theorem nearAccess_canonical {s : State} (h : Canonical s) (e : Eng) (k : Nat) (kd : Kind) (wr : Bool) (ea n : Nat) (f : Nat → State → Res)
    (hf : ∀ a s, Canonical s → ResOk (f a s)) : ResOk (nearAccess s e k kd wr ea n f) := by
  unfold nearAccess
  dsimp only
  split
  · exact h
  · split
    · exact refuse_canonical h _ _ _ _ _
    · exact withAccess_canonical h _ _ _ _ _ _ (hf _)

theorem fetch_canonical {s : State} (h : Canonical s) (e : Eng) (k len : Nat) (f : State → Res)
    (hf : ∀ s, Canonical s → ResOk (f s)) : ResOk (fetch s e k len f) := by
  unfold fetch
  dsimp only
  split
  · exact errorResp_canonical h _ _ _ _ _
  · split
    · next heq => exact uncorrectable_canonical (eccRead_gives_canonical h heq) _ _ _
    · next heq =>
      have h1 := eccRead_gives_canonical h heq
      split
      · exact hf _ h1
      · split
        · next heq2 => exact uncorrectable_canonical (eccRead_gives_canonical h1 heq2) _ _ _
        · next heq2 => exact hf _ (eccRead_gives_canonical h1 heq2)

theorem runInstr_canonical {s : State} (h : Canonical s) (hd : Hdr) (d : Dec) (body : Nat → State → Res)
    (hb : ∀ k s, Canonical s → ResOk (body k s)) : Canonical (runInstr hd d body s) := by
  have hres (k : Nat) : ResOk (instrRes hd d k body s) := by
    refine fetch_canonical h _ _ _ _ (fun t ht => ?_)
    dsimp only
    split
    · exact ht
    · split
      · split
        · exact ht
        · exact hb _ _ ht
      · exact ht
  unfold runInstr
  split
  · exact h
  · next k _ =>
    have hk := hres k
    dsimp only
    split
    · next heq => rw [heq] at hk; exact hk
    · next heq => rw [heq] at hk; exact takeTrap_canonical (setCtx_canonical hk k _) _ _ _ _ _

/-! ## The stores -/

theorem storeOp_canonical {s : State} (h : Canonical s) (hd : Hdr) (w : Word) (rb : Reg) (off : BitVec 12) (n : Nat) (bad : Bool)
    (f : Nat → Nat → State → State) (hf : ∀ k a s, Canonical s → Canonical (f k a s)) : Canonical (storeOp hd w rb off n bad f s) :=
  runInstr_canonical h _ _ _ (fun k _ hs => nearAccess_canonical hs _ _ _ _ _ _ _ (fun a t ht => hf k a t ht))

theorem amoOp_canonical {s : State} (h : Canonical s) (hd : Hdr) (func : Nat) (rd ra rb : Reg) (f : Word → Word → Word → Word) :
    Canonical (amoOp hd func rd ra rb f s) := by
  have hr {t : State} (ht : Canonical t) (k : Nat) (r : Reg) (v : Word) : Canonical (setReg t k r v) := ht
  unfold amoOp
  exact runInstr_canonical h _ _ _ (fun _ _ hs => nearAccess_canonical hs _ _ _ _ _ _ _ (fun a t ht => hr (setW_wf t a _ ht) _ _ _))

theorem slotMirror_canonical {s : State} (h : Canonical s) (n : Nat) : Canonical (slotMirror s n) := by
  have hd {t : State} (ht : Canonical t) (i : Nat) (ws : List Word) : Canonical (deliverSet t i ws) := ht
  unfold slotMirror
  exact ite_canonical h (hd h _ _)

theorem slotState_canonical {s : State} (h : Canonical s) (n st : Nat) : Canonical (slotState s n st) := by
  have hn (x : Net) : Canonical { s with net := x } := h
  exact slotMirror_canonical (hwWords_canonical (hn _) _ _ _) n

theorem slotStored_canonical {s : State} (h : Canonical s) (a : Nat) : Canonical (slotStored s a) := by
  unfold slotStored slotRebind
  dsimp only
  split_ifs
  · exact slotState_canonical h _ _
  · exact slotState_canonical h _ _
  · exact h
  · exact h

theorem bufferFull_canonical {s : State} (h : Canonical s) (n t : Nat) : Canonical (bufferFull s n t) := by
  have ht {u : State} (hu : Canonical u) (x : Task) : Canonical (setTask u n t x) := hu
  have hr := raise_canonical (fSetBit_canonical h (4 + n) 0x00D 4 true) (64 + 16 * n + 2)
  unfold bufferFull
  exact ite_canonical hr (post_canonical (ht hr _) _ _ _ _)

theorem piWriteCtl_canonical {s : State} (h : Canonical s) (e : Eng) (k i : Nat) (v : Word) : Canonical (piWriteCtl s e k i v) := by
  have hsaf (x : Saf) : Canonical { s with saf := x } := h
  unfold piWriteCtl
  refine ite_canonical h ?_
  cases e with
  | cyc n =>
    dsimp only
    split
    · exact h
    · exact bufferFull_canonical h _ _
  | saf =>
    dsimp only
    split
    · exact h
    · exact ite_canonical (hsaf _) (post_canonical (hsaf _) _ _ _ _)
  | cle n =>
    dsimp only
    split
    · exact h
    · exact raise_canonical (fSetBit_canonical h _ _ _ _) 261
  | afe n => exact h
  | asm => exact h
  | mgt => exact h
  | mgtJob => exact h

theorem piWriteSet_canonical {s : State} (h : Canonical s) (k i : Nat) (v : Word) : Canonical (piWriteSet s k i v) := h

theorem piWriteOp_canonical {s : State} (h : Canonical s) (e : Eng) (k : Nat) (r : Reg) (off n : Nat) : ResOk (piWriteOp e k r off n s) := by
  have hfresh : Canonical (eccFresh s (0x0200000000 + off)) := h
  have hset {t : State} (ht : Canonical t) (i j : Nat) (v0 v1 : Word) {c : Prop} [Decidable c] :=
    ite_canonical (c := c) (piWriteSet_canonical (piWriteSet_canonical ht k i v0) k j v1) (piWriteSet_canonical ht k i v0)
  have hctl (i j : Nat) (v0 v1 : Word) {c : Prop} [Decidable c] :=
    ite_canonical (c := c) (piWriteCtl_canonical (piWriteCtl_canonical h e k i v0) e k j v1) (piWriteCtl_canonical h e k i v0)
  unfold piWriteOp
  dsimp only
  split
  · exact h
  split
  · exact h
  split
  · exact refuse_canonical h _ _ _ _ _
  split
  · exact refuse_canonical h _ _ _ _ _
  · split
    · exact refuse_canonical h _ _ _ _ _
    · exact hctl _ _ _ _
  · by_cases hn : n = 2
    · rw [if_pos hn]
      exact hset hfresh _ _ _ _
    · rw [if_neg hn]
      split
      · next heq => exact uncorrectable_canonical (eccRead_gives_canonical h heq) _ _ _
      · next heq => exact hset (eccRead_gives_canonical h heq) _ _ _ _

theorem gateStore_canonical {s : State} (h : Canonical s) (w : Who) (t a : Nat) (bs : List Byte) : ResOk (gateStore s w t a bs) := by
  unfold gateStore
  dsimp only
  split
  · exact refuse_canonical h _ _ _ _ _
  · split
    · exact refuse_canonical h _ _ _ _ _
    · split
      · exact gateDone_canonical (hwWrite_canonical h _ _ _) _
      · exact h

theorem farStore_canonical {s : State} (h : Canonical s) (hd : Hdr) (func : Nat) (r ra : Reg) (n : Nat)
    (f : Nat → Nat → State → State) (hf : ∀ k a s, Canonical s → Canonical (f k a s)) : Canonical (farOp hd func r ra true n f s) := by
  refine runInstr_canonical h _ _ _ (fun k s hs => ?_)
  dsimp only
  split
  · exact hs
  · split
    · exact refuse_canonical hs _ _ _ _ _
    · next a _ =>
      split
      · rw [if_pos rfl]
        generalize a - 0x0200000000 = off
        exact piWriteOp_canonical hs _ _ _ off _
      · split
        · exact hs
        · split
          · exact gateStore_canonical hs _ _ _ _
          · exact withAccess_canonical hs _ _ _ _ _ _ (fun t ht => hf k a t ht)

/-! ## The scrubber -/

/-- A scrub step's effect (R99, R100). -/
def scrubbed (s : State) (a n : Nat) : State :=
  let s := upset s a n
  if s.pwr.asleep ∨ !fBit s 1 0x002 0 then s
  else match scrubNext s with
    | none => scrubPass s
    | some a =>
      let s := match eccRead s a with
        | (s, true) => s
        | (s, false) => uncorrHook (errorResp s { unit := 1 } .scrub .uncorr a 0) a
      scrubPass (scrubDone s a)

theorem scrubPass_canonical {s : State} (h : Canonical s) : Canonical (scrubPass s) := by
  have hm (x y : Tbl Nat) (l : List Nat) : Canonical { s with mem := { s.mem with scrubAt := x, passCe := y, passTold := l } } := h
  unfold scrubPass
  split
  · exact h
  · exact raise_canonical (hm _ _ _) 20

theorem scrubbed_canonical {s : State} (h : Canonical s) (a n : Nat) : Canonical (scrubbed s a n) := by
  have hm (m : List (Nat × Nat)) : Canonical { s with mem := { s.mem with ecc := m } } := h
  have hu : Canonical (upset s a n) := by
    unfold upset
    exact ite_canonical h (hm _)
  have hdone {t : State} (ht : Canonical t) (x : Nat) : Canonical (scrubDone t x) := ht
  unfold scrubbed
  dsimp only
  split
  · exact hu
  · split
    · exact scrubPass_canonical hu
    · next x _ =>
      refine scrubPass_canonical (hdone ?_ x)
      split
      · next heq => exact eccRead_gives_canonical hu heq
      · next heq => exact uncorrectable_canonical (eccRead_gives_canonical hu heq) _ _ _

/-! ## The obligation -/

/-- An instruction whose answer is a settled canonical state keeps memory canonical. -/
theorem canonical_of_done {s u t : State} {i : Instr} (hi : exec i s = done s u) (hu : Canonical u) (ht : exec i s = .next t) : Canonical t := by
  rw [hi] at ht
  cases ht
  exact hu

/-- Settles O6: every operation that these commands may run through, traps and stops among them, keeps the canonical form. -/
theorem storesKeepMemoryCanonical : Obligations.StoresKeepMemoryCanonical := by
  unfold Obligations.StoresKeepMemoryCanonical
  intro s t h rd ra rb off w bad i hi hs ht
  have pair (r : Reg) (k a : Nat) (s : State) (hs : Canonical s) : Canonical (setW (setW s a (reg s k r)) (a + 4) (reg s k (pairReg r))) :=
    setW_wf _ _ _ (setW_wf _ _ _ hs)
  simp only [List.mem_cons, List.not_mem_nil, or_false] at hi
  obtain rfl | rfl | rfl | rfl | rfl | rfl | rfl | rfl | rfl | rfl | rfl | rfl | rfl | rfl := hi
  · exact canonical_of_done rfl (storeOp_canonical hs _ _ _ _ _ _ _ (fun k a t ht => setN_wf 1 t a _ ht)) ht
  · exact canonical_of_done rfl (storeOp_canonical hs _ _ _ _ _ _ _ (fun k a t ht => setN_wf 2 t a _ ht)) ht
  · exact canonical_of_done rfl (storeOp_canonical hs _ _ _ _ _ _ _ (fun k a t ht => setW_wf t a _ ht)) ht
  · exact canonical_of_done rfl (storeOp_canonical hs _ _ _ _ _ _ _ (fun k a t ht => pair rd k a t ht)) ht
  · exact canonical_of_done rfl (farStore_canonical hs _ _ _ _ _ _ (fun k a t ht => slotStored_canonical (setW_wf t a _ ht) a)) ht
  · exact canonical_of_done rfl (farStore_canonical hs _ _ _ _ _ _ (fun k a t ht => slotStored_canonical (pair rd k a t ht) a)) ht
  · exact canonical_of_done rfl (amoOp_canonical hs h 0 rd ra rb _) ht
  · exact canonical_of_done rfl (amoOp_canonical hs h 1 rd ra rb _) ht
  · exact canonical_of_done rfl (amoOp_canonical hs h 2 rd ra rb _) ht
  · exact canonical_of_done rfl (amoOp_canonical hs h 3 rd ra rb _) ht
  · exact canonical_of_done rfl (amoOp_canonical hs h 4 rd ra rb _) ht
  · exact canonical_of_done rfl (amoOp_canonical hs h 5 rd ra rb _) ht
  · exact canonical_of_done rfl (amoOp_canonical hs h 6 rd ra rb _) ht
  · exact canonical_of_done (u := scrubbed s w.toNat bad.val) rfl (scrubbed_canonical hs _ _) ht

end Sys2Proof.Machine
end

section
/-! SUPPORT. Records that the instructions read from the home region, and the job instructions (R79 to R81). -/
namespace Sys2Proof.Machine

/-! ## Records as bytes -/

theorem memBytes_succ (s : State) (a n : Nat) : memBytes s a (n + 1) = memByte s a :: memBytes s (a + 1) n := by
  simp only [memBytes, List.range_succ_eq_map, List.map_cons, List.map_map, Nat.add_zero, Function.comp_def, Nat.succ_eq_add_one,
    Nat.add_comm, Nat.add_left_comm]

theorem memBytes_add (m : Nat) : ∀ (s : State) (a n : Nat), memBytes s a (m + n) = memBytes s a m ++ memBytes s (a + m) n := by
  induction m with
  | zero => intro s a n; rw [Nat.zero_add]; rfl
  | succ m ih =>
    intro s a n
    rw [Nat.add_right_comm, memBytes_succ, memBytes_succ, ih, Nat.add_assoc a 1 m, Nat.add_comm 1 m]
    rfl

theorem memN_lt (n : Nat) : ∀ (s : State) (a : Nat), memN s a n < 256 ^ n := by
  induction n with
  | zero => intro s a; exact Nat.one_pos
  | succ n ih =>
    intro s a
    have h1 := ih s (a + 1)
    have h2 := (memByte s a).isLt
    rw [memN, Nat.pow_succ]
    omega

/-- The bytes of a number read from memory are the bytes there. -/
theorem leBytes_memN (n : Nat) : ∀ (s : State) (a : Nat), leBytes n (memN s a n) = memBytes s a n := by
  induction n with
  | zero => exact fun _ _ => rfl
  | succ n ih =>
    intro s a
    have hb := (memByte s a).isLt
    have h1 : BitVec.ofNat 8 (memN s a (n + 1)) = memByte s a := by
      apply BitVec.eq_of_toNat_eq
      rw [memN, BitVec.toNat_ofNat]
      omega
    have h2 : memN s a (n + 1) / 256 = memN s (a + 1) n := by
      rw [memN]
      omega
    rw [leBytes, h1, h2, ih, memBytes_succ]

theorem leBytes_memW (s : State) (a : Nat) : leBytes 4 (memW s a).toNat = memBytes s a 4 := by
  rw [memW, word_ofN_toNat _ (memN_lt 4 s a), leBytes_memN]

theorem wordBytes_memWords (n : Nat) (s : State) (a : Nat) : wordBytes (memWords s a n) = memBytes s a (4 * n) := by
  induction n with
  | zero => rfl
  | succ n ih =>
    have h : memWords s a (n + 1) = memWords s a n ++ [memW s (a + 4 * n)] := by
      simp only [memWords, List.range_succ, List.map_append, List.map_cons, List.map_nil]
    have hone : wordBytes [memW s (a + 4 * n)] = memBytes s (a + 4 * n) 4 := by
      rw [← leBytes_memW]
      exact List.append_nil _
    rw [Nat.mul_succ, memBytes_add, ← ih, ← hone, h]
    exact List.flatMap_append

/-! ## Reading a record (R79, R80, R96) -/

theorem eccRead_clean (s : State) (a : Nat) (h : Tbl.get 0 s.mem.ecc (a / 8) = 0) : eccRead s a = (s, true) := by
  simp [eccRead, h]

theorem readRecord_clean (s : State) (e : Eng) (k a n : Nat) (f : List Word → State → Res)
    (hc : ∀ x, a ≤ x → x < a + 4 * n → Tbl.get 0 s.mem.ecc (x / 8) = 0) : readRecord s e k a n f = f (memWords s a n) s := by
  have hgo : ∀ m, m ≤ n → readRecord.go a s m = (s, none) := by
    intro m
    induction m with
    | zero => intro _; rfl
    | succ m ih =>
      intro hm
      rw [readRecord.go, ih (by omega)]
      dsimp only
      rw [eccRead_clean s _ (hc _ (by omega) (by omega))]
  rw [readRecord, hgo n le_rfl]

theorem RecordAt.past {s : State} {e : Eng} {ea n : Nat} (h : RecordAt s e ea n) (k : Nat) : RecordAt (past s k 4) e ea n :=
  ⟨h.aligned, by rw [homeOf_past]; exact h.inside, by rw [homeOf_past]; exact h.clean⟩

theorem descAt_record (s : State) (e : Eng) (k : Nat) (ra : Reg) (f : Nat → Res) (h : RecordAt s e (reg s k ra).toNat 48) :
    descAt s e k ra f = f ((homeOf s e).1 + (reg s k ra).toNat) := by
  unfold descAt
  dsimp only
  rw [if_neg (by simp [h.aligned]), if_neg (Nat.not_lt.2 h.inside)]

/-! ## Handles (R81, R247) -/

/-- Issuing a handle draws from the free values, the free entries and their generations, and ends the entry's finished jobs. -/
theorem issueHandle_eq (s : State) : ∃ n l g e, (issueHandle s).1 = { s with free := n, solv := { s.solv with
    free := l, gen := g, jobs := s.solv.jobs.filter (fun x => x.1 % 64 != e || x.2.live) } } := by
  unfold issueHandle
  cases s.solv.free with
  | nil => exact ⟨_, _, _, _, rfl⟩
  | cons e t => exact ⟨_, _, _, _, rfl⟩

/-- A finished job counts among those held nowhere, so that a handle changes none of their number. -/
theorem jobsHeld_issueHandle (s : State) : jobsHeld (issueHandle s).1 = jobsHeld s := by
  obtain ⟨n, l, g, e, h⟩ := issueHandle_eq s
  rw [h]
  unfold jobsHeld
  dsimp only
  rw [List.filter_filter]
  refine congrArg List.length (List.filter_congr fun x _ => ?_)
  have hlive : (x.2.state == 2 || x.2.state == 3) = true → x.2.live = true := by
    intro h
    unfold Job.live
    rw [Bool.or_assoc, h, Bool.or_true]
  cases hx : (x.2.state == 2 || x.2.state == 3) with
  | false => rfl
  | true => rw [hlive hx, Bool.or_true]; rfl

theorem issueHandle_ctxs (s : State) : (issueHandle s).1.ctxs = s.ctxs := by
  obtain ⟨n, l, g, e, h⟩ := issueHandle_eq s
  rw [h]

theorem issueHandle_reqs (s : State) : (issueHandle s).1.solv.reqs = s.solv.reqs := by
  obtain ⟨n, l, g, e, h⟩ := issueHandle_eq s
  rw [h]

theorem issueHandle_gate (s : State) : (issueHandle s).1.gate = s.gate := by
  obtain ⟨n, l, g, e, h⟩ := issueHandle_eq s
  rw [h]

theorem getJob_setJob (s : State) (n : Nat) (j : Job) : getJob (setJob s n j) n = some j := Tbl.find_ins_self _ _ _

theorem getJob_fSetPart (s : State) (u f lo len v n : Nat) : getJob (fSetPart s u f lo len v) n = getJob s n := rfl

theorem getJob_next (s : State) (m n : Nat) : getJob { s with solv := { s.solv with next := m } } n = getJob s n := rfl

/-- A job that the queue takes stands there in state QUEUED. -/
theorem getJob_enterQueue (s : State) (n : Nat) (j : Job) (h : jobsHeld s < 64) :
    ∃ x, getJob (enterQueue s n j) n = some x ∧ x.state = 2 ∧ x.desc = j.desc := by
  refine ⟨{ j with state := 2, order := s.solv.next }, ?_, rfl, rfl⟩
  unfold enterQueue
  rw [if_neg (by omega)]
  dsimp only
  rw [getJob_fSetPart, getJob_next, getJob_setJob]

theorem reg_setReg (s : State) (k : Nat) (r : Reg) (v : Word) (h : r ≠ 0) : reg (setReg s k r v) k r = v := by
  rw [reg, setReg, getCtx_setCtx, rdG_wrG _ _ _ h]

theorem reg_setReg_zero (s : State) (k : Nat) (r : Reg) : reg (setReg s k r 0) k r = 0 := by
  by_cases h : r = 0
  · rw [h, reg, rdG_zero]
  · exact reg_setReg s k r 0 h

section
variable (s : State) (h : Hdr) (k : Nat) (rd ra : Reg)

/-- Where the descriptor that `job.post` names stands. -/
def descAddr : Nat := (homeOf s h.eng).1 + (reg s k ra).toNat

theorem descAt_past (f : Nat → Res) (hr : RecordAt s h.eng (reg s k ra).toNat 48) :
    descAt (past s k 4) h.eng k ra f = f (descAddr s h k ra) := by
  have hp : RecordAt (past s k 4) h.eng (reg (past s k 4) k ra).toNat 48 := by rw [reg_past]; exact hr.past k
  rw [descAt_record _ _ _ _ _ hp, homeOf_past, reg_past, descAddr]

/-- The words of the descriptor, read where they enter the queue or the gate. -/
theorem readDesc_past (e : Eng) (f : List Word → State → Res) (hr : RecordAt s h.eng (reg s k ra).toNat 48) :
    readRecord (past s k 4) e k (descAddr s h k ra) 12 f = f (memWords s (descAddr s h k ra) 12) (past s k 4) :=
  readRecord_clean (past s k 4) _ _ _ 12 f (fun x h1 h2 => hr.clean x h1 h2)

def postDec : Dec := { word := encA 0b110010 rd ra 0 0, grp := .job }

/-- A cycle core's requests that wait for the Meridian. -/
def requestsOf (n : Nat) : Nat := (s.solv.reqs.filter (fun x => (getJob s x).any (·.poster == 4 + n))).length

/-- A core's request behind `b`: its handle waits for the Meridian. -/
def jobRequested (b : State) (u a : Nat) : State :=
  let t := setJob (issueHandle b).1 (issueHandle b).2 { state := 1, poster := u, addr := a }
  setReg { t with solv := { t.solv with reqs := t.solv.reqs ++ [(issueHandle b).2] } } k rd (Word.ofN (issueHandle b).2)

/-- ASM's job behind `b`, in the queue. -/
def jobQueued (b : State) (ws : List Word) : State :=
  setReg (enterQueue (issueHandle b).1 (issueHandle b).2 { poster := unitOf .asm, desc := wordBytes ws }) k rd (Word.ofN (issueHandle b).2)

/-- MGT's job behind `b`, in the gate. -/
def jobGated (b : State) (ws : List Word) : State :=
  let t := setJob (issueHandle b).1 (issueHandle b).2 { state := 1, poster := unitOf .mgt, desc := wordBytes ws }
  setReg { t with gate := t.gate ++ [{ target := 0x16 * 64, change := .job (wordBytes ws) (issueHandle b).2 }] } k rd
    (Word.ofN (issueHandle b).2)

theorem jobPost_cyc (n : Fin 8) (he : h.eng = .cyc n) (hr : RecordAt s h.eng (reg s k ra).toNat 48) (hn : requestsOf s n.val < 16) :
    ∃ z new, Takes s h k (.jobPost h rd ra) (postDec rd ra) z ∧ z.solv.reqs = s.solv.reqs ++ [new] ∧ (rd ≠ 0 → reg z k rd = Word.ofN new)
      ∧ getJob z new = some { state := 1, poster := 4 + n.val, addr := descAddr s h k ra } := by
  refine ⟨jobRequested k rd (past s k 4) (4 + n.val) (descAddr s h k ra), (issueHandle (past s k 4)).2, takes_ok h _ k _ _ s _ rfl ?_, ?_,
    fun hne => reg_setReg _ k rd _ hne, getJob_setJob _ _ _⟩
  · dsimp only [postDec]
    rw [descAt_past s h k ra _ hr, he]
    exact if_neg (Nat.not_le.2 hn)
  · exact congrArg (· ++ [(issueHandle (past s k 4)).2]) (issueHandle_reqs (past s k 4))

theorem jobPost_cyc_full (n : Fin 8) (he : h.eng = .cyc n) (hr : RecordAt s h.eng (reg s k ra).toNat 48) (hn : 16 ≤ requestsOf s n.val) :
    Writes s h k (.jobPost h rd ra) (postDec rd ra) rd 0 := by
  refine takes_ok h _ k _ _ s _ rfl ?_
  dsimp only [postDec]
  rw [descAt_past s h k ra _ hr, he]
  exact if_pos hn

theorem jobPost_asm (he : h.eng = .asm) (hr : RecordAt s h.eng (reg s k ra).toNat 48) (hn : jobsHeld s < 64) :
    ∃ z new, Takes s h k (.jobPost h rd ra) (postDec rd ra) z ∧ (rd ≠ 0 → reg z k rd = Word.ofN new)
      ∧ (∃ x, getJob z new = some x ∧ x.state = 2 ∧ x.desc = memBytes s (descAddr s h k ra) 48) := by
  have hfew : ¬ 64 ≤ jobsHeld (past s k 4) := Nat.not_le.2 hn
  have hheld : jobsHeld (issueHandle (past s k 4)).1 < 64 := by rw [jobsHeld_issueHandle]; exact hn
  obtain ⟨x, hx, hstate, hdesc⟩ := getJob_enterQueue (issueHandle (past s k 4)).1 (issueHandle (past s k 4)).2
    { poster := unitOf .asm, desc := wordBytes (memWords s (descAddr s h k ra) 12) } hheld
  refine ⟨jobQueued k rd (past s k 4) (memWords s (descAddr s h k ra) 12), (issueHandle (past s k 4)).2, takes_ok h _ k _ _ s _ rfl ?_,
    fun hne => reg_setReg _ k rd _ hne, x, hx, hstate, ?_⟩
  · dsimp only [postDec]
    rw [descAt_past s h k ra _ hr, he]
    dsimp only
    rw [readDesc_past s h k ra _ _ hr, if_neg hfew]
    rfl
  · rw [hdesc, wordBytes_memWords]

theorem jobPost_asm_full (he : h.eng = .asm) (hr : RecordAt s h.eng (reg s k ra).toNat 48) (hn : 64 ≤ jobsHeld s) :
    ∃ z, Takes s h k (.jobPost h rd ra) (postDec rd ra) z ∧ reg z k rd = 0 ∧ evtPending z 20 354 = true := by
  refine ⟨setReg (raise (past s k 4) 354) k rd 0, takes_ok h _ k _ _ s _ rfl ?_, reg_setReg_zero (raise (past s k 4) 354) k rd,
    evtPending_raise_self _ 20 354 (by decide)⟩
  dsimp only [postDec]
  rw [descAt_past s h k ra _ hr, he]
  dsimp only
  rw [readDesc_past s h k ra _ _ hr]
  exact if_pos hn

theorem jobPost_mgt (he : h.eng = .mgt) (hr : RecordAt s h.eng (reg s k ra).toNat 48)
    (hg : s.gate.any (fun g => g.target == 0x16 * 64) = false) :
    ∃ z new, Takes s h k (.jobPost h rd ra) (postDec rd ra) z ∧ (rd ≠ 0 → reg z k rd = Word.ofN new)
      ∧ z.gate = s.gate ++ [{ target := 0x16 * 64, change := .job (memBytes s (descAddr s h k ra) 48) new }] := by
  have hgate : (past s k 4).gate.any (fun g => g.target == 0x16 * 64) = false := hg
  refine ⟨jobGated k rd (past s k 4) (memWords s (descAddr s h k ra) 12), (issueHandle (past s k 4)).2, takes_ok h _ k _ _ s _ rfl ?_,
    fun hne => reg_setReg _ k rd _ hne, ?_⟩
  · dsimp only [postDec]
    rw [descAt_past s h k ra _ hr, he]
    dsimp only
    rw [readDesc_past s h k ra _ _ hr, hgate]
    rfl
  · rw [show memBytes s (descAddr s h k ra) 48 = _ from (wordBytes_memWords 12 s _).symm]
    exact congrArg (· ++ [_]) (issueHandle_gate (past s k 4))

/-! ## Polling and cancelling (R80, R81) -/

def pollDec : Dec := { word := encA 0b110010 rd ra 0 1, grp := .job }

theorem jobPoll_live (he : ∀ n, h.eng ≠ .cyc n) : Writes s h k (.jobPoll h rd ra) (pollDec rd ra) rd (statusWord (getJob s (reg s k ra).toNat)) := by
  refine takes_ok h _ k _ _ s _ rfl ?_
  dsimp only [pollDec]
  rw [reg_past]
  split
  · next n heq => exact absurd heq (he n)
  · rfl

theorem jobPoll_cyc (n : Fin 8) (he : h.eng = .cyc n) : Writes s h k (.jobPoll h rd ra) (pollDec rd ra) rd
    (if (reg s k ra).toNat < 65536 then genWord s (readGen s h.eng k) (statusIdx (reg s k ra).toNat) else 0) := by
  refine takes_ok h _ k _ _ s _ rfl ?_
  dsimp only [pollDec]
  rw [reg_past, he]
  rfl

theorem getJob_freeEntry (s : State) (n : Nat) : getJob (freeEntry s n) n = getJob s n := by
  unfold freeEntry
  dsimp only
  split <;> rfl

theorem getJob_cancelJob (s : State) (n : Nat) (j : Job) : getJob (cancelJob s n j) n = some { j with state := 7 } :=
  (getJob_freeEntry _ n).trans (getJob_setJob _ n _)

end

/-- Settles O24: the descriptor is read as it stands, the handle issued leaves requests, gate and the jobs held alone, and a cancelled job
shows state CANCELLED. -/
theorem jobsArePostedPolledAndCancelled : Obligations.JobsArePostedPolledAndCancelled := by
  unfold Obligations.JobsArePostedPolledAndCancelled
  intro s h k rd ra j
  refine ⟨fun hr => ⟨?_, ?_, ?_, ?_, ?_⟩, fun he => jobPoll_live s h k rd ra he, ?_, ?_, ?_, ?_⟩
  · exact fun n he hn => jobPost_cyc s h k rd ra n he hr hn
  · exact fun n he hn => jobPost_cyc_full s h k rd ra n he hr hn
  · exact fun he hn => jobPost_asm s h k rd ra he hr hn
  · exact fun he hn => jobPost_asm_full s h k rd ra he hr hn
  · exact fun he hg => jobPost_mgt s h k rd ra he hr hg
  · intro n he hlt
    have hp := jobPoll_cyc s h k rd ra n he
    rw [if_pos hlt] at hp
    exact hp
  · intro n he hge
    have hp := jobPoll_cyc s h k rd ra n he
    rw [if_neg (Nat.not_lt.2 hge)] at hp
    exact hp
  · intro hj hstate
    refine ⟨_, takes_ok h _ k _ _ s _ rfl ?_, getJob_cancelJob (past s k 4) _ j⟩
    have hj' : getJob (past s k 4) (reg s k ra).toNat = some j := hj
    dsimp only
    rw [reg_past, hj']
    exact if_pos hstate
  · intro hno
    refine takes_ok h _ k _ _ s _ rfl ?_
    dsimp only
    rw [reg_past]
    split
    · next j' heq =>
      obtain ⟨h1, h2⟩ := hno j' heq
      exact if_neg (by rintro (hs | hs) <;> contradiction)
    · rfl

end Sys2Proof.Machine
end

section
/-! SUPPORT. The message instructions: mailboxes and the buffers of the message bus (R79, R460, R461). -/
namespace Sys2Proof.Machine

/-! ## Predicates -/

theorem rdP_wrP (c : Ctx) (p : PReg) (b : Bool) (hp : p ≠ 0) : rdP (wrP c p b) p = b := by
  have hlt : p.toNat < 8 := p.isLt
  have hold : bit (c.p.getLsbD p.toNat) = c.p.toNat / 2 ^ p.toNat % 2 ^ 1 := by
    rw [BitVec.getLsbD, Nat.testBit_eq_decide_div_mod_eq, pow_one]
    unfold bit
    split
    · next h => exact (of_decide_eq_true h).symm
    · next h => have := of_decide_eq_false (Bool.eq_false_iff.2 h); omega
  have hnew : (bit b).testBit 0 = b := by cases b <;> rfl
  rw [wrP, if_neg hp, rdP, decide_eq_false hp, Bool.false_or, BitVec.getLsbD_ofNat, hold,
    testBit_replace _ _ _ _ _ (by cases b <;> decide), if_pos ⟨le_rfl, Nat.lt_succ_self _⟩, Nat.sub_self, hnew, decide_eq_true hlt,
    Bool.true_and]

theorem rdP_setPred_true (s : State) (k : Nat) (p : PReg) : rdP (getCtx (setPred s k p true) k) p = true := by
  by_cases hp : p = 0
  · rw [hp, rdP_zero]
  · rw [setPred, getCtx_setCtx, rdP_wrP _ _ _ hp]

/-! ## Records written and read back -/

@[simp] theorem memByte_setPred (s : State) (k : Nat) (p : PReg) (b : Bool) (a : Nat) : memByte (setPred s k p b) a = memByte s a := rfl

@[simp] theorem memByte_setCan (s : State) (c : Nat) (x : Can) (a : Nat) : memByte (setCan s c x) a = memByte s a := rfl

@[simp] theorem memByte_setMail (s : State) (b : Nat) (l : List (List Byte)) (a : Nat) : memByte (setMail s b l) a = memByte s a := rfl

@[simp] theorem memByte_fSetBit (s : State) (u f k : Nat) (b : Bool) (a : Nat) : memByte (fSetBit s u f k b) a = memByte s a := rfl

theorem memBytes_congr {s t : State} (h : ∀ a, memByte t a = memByte s a) (a n : Nat) : memBytes t a n = memBytes s a n := by
  simp only [memBytes, h]

theorem memWords_congr {s t : State} (h : ∀ a, memByte t a = memByte s a) (a n : Nat) : memWords t a n = memWords s a n := by
  simp only [memWords, memW_eq, h]

/-- Stored bytes read back. -/
theorem memBytes_setBytes (bs : List Byte) : ∀ (s : State) (a : Nat), 0x40000 ≤ a → a + bs.length ≤ 0x0C00000000 →
    memBytes (setBytes s a bs) a bs.length = bs := by
  induction bs with
  | nil => exact fun _ _ _ _ => rfl
  | cons b bs ih =>
    intro s a h1 h2
    rw [List.length_cons] at h2 ⊢
    have hself : memByte (setBytes (setByte s a b) (a + 1) bs) a = b := by
      rw [memByte_setBytes_low bs _ _ a (by omega) (by omega), memByte_setByte_self s a b ⟨h1, by omega⟩]
    rw [memBytes_succ, setBytes, hself, ih _ _ (by omega) (by omega)]

theorem setBytes_wordBytes (ws : List Word) : ∀ (s : State) (a : Nat), setBytes s a (wordBytes ws) = setWords s a ws := by
  induction ws with
  | nil => exact fun _ _ => rfl
  | cons w ws ih =>
    intro s a
    have hl : (leBytes 4 w.toNat).length = 4 := by rw [leBytes_word, List.length_map, List.length_range]
    have hcons : wordBytes (w :: ws) = leBytes 4 w.toNat ++ wordBytes ws := List.flatMap_cons
    rw [hcons, setBytes_append, hl, ih, setWords, setW, setN_eq_setBytes]

theorem wordBytes_length (ws : List Word) : (wordBytes ws).length = 4 * ws.length := by
  induction ws with
  | nil => rfl
  | cons w ws ih =>
    have hl : (leBytes 4 w.toNat).length = 4 := by rw [leBytes_word, List.length_map, List.length_range]
    have hcons : wordBytes (w :: ws) = leBytes 4 w.toNat ++ wordBytes ws := List.flatMap_cons
    rw [hcons, List.length_append, hl, ih, List.length_cons]
    omega

theorem memWords_setBytes (ws : List Word) (s : State) (a n : Nat) (hn : ws.length = n) (h1 : 0x40000 ≤ a) (h2 : a + 4 * n ≤ 0x0C00000000) :
    memWords (setBytes s a (wordBytes ws)) a n = ws := by
  subst hn
  rw [setBytes_wordBytes]
  refine List.ext_getElem? fun i => ?_
  by_cases hi : i < ws.length
  · have hv := List.getElem?_eq_getElem hi
    rw [memWords, List.getElem?_map, List.getElem?_range hi, hv, Option.map_some, memW_setWords ws s a i ws[i] h1 h2 hv]
  · rw [List.getElem?_eq_none (by simpa [memWords] using hi), List.getElem?_eq_none (by omega)]

theorem get_ecc_clean (s : State) (a len x : Nat) (h : CleanAt s a len) (h1 : a ≤ x) (h2 : x < a + len) : Tbl.get 0 s.mem.ecc (x / 8) = 0 := by
  have hf : Tbl.find s.mem.ecc (x / 8) = none := by
    refine Tbl.find_none _ _ fun e he => ?_
    have := h e he
    omega
  rw [Tbl.get, hf]
  rfl

/-- The words that a write covers in part lie in its range. -/
theorem edgeWords_inside (a len x : Nat) (h : x ∈ edgeWords a len) : ∃ y, a ≤ y ∧ y < a + len ∧ y / 8 = x := by
  unfold edgeWords at h
  split at h
  · cases h
  · next hl =>
    rw [List.mem_append] at h
    rcases h with h | h
    · split at h
      · exact ⟨a, le_rfl, by omega, (List.mem_singleton.1 h).symm⟩
      · cases h
    · split at h
      · refine ⟨a + len - 1, by omega, by omega, ?_⟩
        rw [List.mem_singleton.1 h]
        omega
      · cases h

theorem edgeRead_clean (s : State) (w : Who) (a len : Nat) (h : ∀ x, a ≤ x → x < a + len → Tbl.get 0 s.mem.ecc (x / 8) = 0) :
    edgeRead s w a len = (s, []) := by
  unfold edgeRead
  refine List.foldlRecOn (motive := fun r : State × List Nat => r = (s, [])) _ _ rfl (fun r hr x hx => ?_)
  obtain ⟨y, h1, h2, rfl⟩ := edgeWords_inside a len x hx
  have hx : Tbl.get 0 s.mem.ecc (8 * (y / 8) / 8) = 0 := by rw [Nat.mul_div_cancel_left _ (by decide)]; exact h y h1 h2
  rw [hr]
  dsimp only
  rw [eccRead_clean s _ hx]

theorem writeRecord_clean (s : State) (e : Eng) (k a : Nat) (bs : List Byte) (f : State → Res)
    (h : ∀ x, a ≤ x → x < a + bs.length → Tbl.get 0 s.mem.ecc (x / 8) = 0) :
    writeRecord s e k a bs f = f (setBytes (eccSpan s a bs.length) a bs) := by
  rw [writeRecord, edgeRead_clean s _ a _ h]

/-- A write by hardware of whole 64-bit words meets no code. -/
theorem hwWords_whole (s : State) (u a : Nat) (ws : List Word) (ha : a % 8 = 0) (hl : ws.length % 2 = 0) :
    hwWords s u a ws = setBytes (eccSpan s a (wordBytes ws).length) a (wordBytes ws) := by
  have hedge : edgeWords a (wordBytes ws).length = [] := by
    rw [wordBytes_length]
    unfold edgeWords
    split
    · rfl
    · have hfirst : ¬ (a % 8 ≠ 0 ∨ a + 4 * ws.length < a / 8 * 8 + 8) := by omega
      have hlast : ¬ ((a + 4 * ws.length) % 8 ≠ 0 ∧ (a + 4 * ws.length) / 8 ≠ a / 8) := by omega
      rw [if_neg hfirst, if_neg hlast]
      rfl
  unfold hwWords hwWrite edgeRead
  rw [hedge]
  rfl

theorem home_high (s : State) (e : Eng) : 0x40000 ≤ (homeOf s e).1 := by
  cases e <;> simp only [homeOf] <;> omega

/-- A record in the home region lies in ordinary memory. -/
theorem RecordAt.plain {s : State} {e : Eng} {ea n : Nat} (h : RecordAt s e ea n) :
    0x40000 ≤ (homeOf s e).1 + ea ∧ (homeOf s e).1 + ea + n ≤ 0x0C00000000 :=
  ⟨Nat.le_add_right_of_le (home_high s e), home_low s e ea n h.inside⟩

/-! ## The two instructions, up to their target -/

/-- `msg.send` to a mailbox once its record is found (R79). -/
def mailSend (s : State) (e : Eng) (k : Nat) (pd : PReg) (t a : Nat) : Res :=
  readRecord s e k a 4 fun ws s =>
    if 8 ≤ (mail s t).length then .ok (setPred s k pd false)
    else .ok (setPred (setMail s t (mail s t ++ [wordBytes ws])) k pd true)

/-- `msg.recv` from a mailbox once its record is found (R79). -/
def mailRecv (s : State) (e : Eng) (k : Nat) (pd : PReg) (t a : Nat) : Res :=
  if ownBank s e ≠ some (t / 16) then refuse s (whoIs e k) .read .prot 0 0
  else match mail s t with
    | [] => .ok (setPred s k pd false)
    | r :: l => writeRecord s e k a r fun s => .ok (setPred (setMail s t l) k pd true)

section
variable (s : State) (h : Hdr) (k : Nat) (pd : PReg) (ra : Reg) (target : BitVec 11)

def msgDec (dir : Nat) : Dec := { word := encF 0b110001 [(pd.toNat, 20), (dir, 19), (ra.toNat, 14), (target.toNat, 0)], grp := .msg }

def msgAddr : Nat := (homeOf s h.eng).1 + (reg s k ra).toNat

/-- Bytes of a record: sixteen for a mailbox, eighty for a message-bus buffer (R79). -/
def recordLen (t : Nat) : Nat := if t < 0x80 then 16 else 80

/-- What the two instructions do with a record at `a`: of a mailbox, or of a buffer of a controller. -/
def sendTo (s : State) (t a : Nat) : Res :=
  if t < 0x80 then mailSend s h.eng k pd t a else canSend s h.eng k pd a ((t - 0x400) / 128) ((t - 0x400) % 128)

def recvFrom (s : State) (t a : Nat) : Res :=
  if t < 0x80 then mailRecv s h.eng k pd t a else canRecv s h.eng k pd a ((t - 0x400) / 128) ((t - 0x400) % 128)

theorem recordAt_record (kd tk : Kind) (n : Nat) (f : Nat → Res) (hp : planeOf (unitOf h.eng) = .control)
    (hr : RecordAt s h.eng (reg s k ra).toNat n) : recordAt (past s k 4) h.eng k kd tk ra n f = f (msgAddr s h k ra) := by
  unfold recordAt
  dsimp only
  rw [reg_past, homeOf_past, if_neg (by simp [hr.aligned]), if_neg (by simp [hp]), if_neg (Nat.not_lt.2 hr.inside)]
  rfl

theorem recordAt_management (kd tk : Kind) (n : Nat) (f : Nat → Res) (hp : planeOf (unitOf h.eng) ≠ .control)
    (ha : (reg s k ra).toNat % 4 = 0) :
    recordAt (past s k 4) h.eng k kd tk ra n f = refuse (past s k 4) (whoIs h.eng k) tk .wrongPlane 0 0 := by
  unfold recordAt
  dsimp only
  rw [reg_past, if_neg (by simp [ha]), if_pos hp]

section
variable (hp : planeOf (unitOf h.eng) = .control) (ht : targetOk target.toNat = true)
  (hr : RecordAt s h.eng (reg s k ra).toNat (recordLen target.toNat))
include hp ht hr

theorem send_takes (z : State) (hz : sendTo h k pd (past s k 4) target.toNat (msgAddr s h k ra) = .ok z) :
    Takes s h k (.msgSend h pd ra target) (msgDec pd ra target 0) z := by
  refine takes_good h _ 4 _ (!targetOk target.toNat) k _ _ s z (by rw [ht]; rfl) rfl ?_
  exact (recordAt_record s h k ra .read .write (recordLen target.toNat) (sendTo h k pd (past s k 4) target.toNat) hp hr).trans hz

theorem recv_takes (z : State) (hz : recvFrom h k pd (past s k 4) target.toNat (msgAddr s h k ra) = .ok z) :
    Takes s h k (.msgRecv h pd ra target) (msgDec pd ra target 1) z := by
  refine takes_good h _ 4 _ (!targetOk target.toNat) k _ _ s z (by rw [ht]; rfl) rfl ?_
  exact (recordAt_record s h k ra .write .read (recordLen target.toNat) (recvFrom h k pd (past s k 4) target.toNat) hp hr).trans hz

end

/-- A refused message access traps BUS_ERROR with its cause and address 0 (R79). -/
def MsgRefused (i : Instr) (dir : Nat) (kd : Kind) (c : Cause) : Prop :=
  Runs s h k (msgDec pd ra target dir) → Gives s i (takeTrap (setPc (errorResp (past s k 4) (whoIs h.eng k) kd c 0 0) k (getCtx s k).pc)
    h.eng k (getCtx s k).pc (fullWord h (msgDec pd ra target dir)) { cause := 3, resp := c.code, addr := 0 })

theorem send_management (hp : planeOf (unitOf h.eng) ≠ .control) (ht : targetOk target.toNat = true) (ha : (reg s k ra).toNat % 4 = 0) :
    MsgRefused s h k pd ra target (.msgSend h pd ra target) 0 .write .wrongPlane :=
  gives_trap h _ 4 _ (!targetOk target.toNat) k _ _ s _ _ (by rw [ht]; rfl) rfl (recordAt_management s h k ra _ _ _ _ hp ha)

theorem recv_management (hp : planeOf (unitOf h.eng) ≠ .control) (ht : targetOk target.toNat = true) (ha : (reg s k ra).toNat % 4 = 0) :
    MsgRefused s h k pd ra target (.msgRecv h pd ra target) 1 .read .wrongPlane :=
  gives_trap h _ 4 _ (!targetOk target.toNat) k _ _ s _ _ (by rw [ht]; rfl) rfl (recordAt_management s h k ra _ _ _ _ hp ha)

/-! ## Mailboxes (R79) -/

theorem mailSend_eq (hr : RecordAt s h.eng (reg s k ra).toNat 16) : mailSend (past s k 4) h.eng k pd target.toNat (msgAddr s h k ra) =
    if 8 ≤ (mail s target.toNat).length then .ok (setPred (past s k 4) k pd false)
    else .ok (setPred (setMail (past s k 4) target.toNat (mail s target.toNat ++ [memBytes s (msgAddr s h k ra) 16])) k pd true) := by
  have hb : wordBytes (memWords s (msgAddr s h k ra) 4) = memBytes s (msgAddr s h k ra) 16 := wordBytes_memWords 4 s _
  unfold mailSend
  rw [readRecord_clean (past s k 4) h.eng k (msgAddr s h k ra) 4 _ (fun x h1 h2 => hr.clean x h1 h2), ← hb]
  rfl

theorem mail_setMail_self (s : State) (t : Nat) (l : List (List Byte)) : mail (setMail s t l) t = l := by
  unfold mail setMail
  dsimp only
  cases l with
  | nil => exact congrArg (fun o => Option.getD o []) (Tbl.find_del_self _ t)
  | cons r l => rw [if_neg (by simp), Tbl.find_ins_self]; rfl

theorem mail_setMail_ne (s : State) (t m : Nat) (l : List (List Byte)) (h : m ≠ t) : mail (setMail s t l) m = mail s m := by
  unfold mail setMail
  dsimp only
  split
  · rw [Tbl.find_del_ne _ _ _ h]
  · rw [Tbl.find_ins_ne _ _ _ _ h]

theorem targetOk_mailbox (t : Nat) (h : t < 0x80) : targetOk t = true := by simp [targetOk, h]

theorem targetOk_buffer (t : Nat) (h : 0x400 ≤ t) : targetOk t = true := by simp [targetOk, h]

section
variable (core : Fin 8) (he : h.eng = .cyc core)
include he

theorem core_control : planeOf (unitOf h.eng) = .control := by
  rw [he]
  clear he
  revert core
  decide

theorem ownBank_core : ownBank (past s k 4) h.eng = some (coreBank s core.val) := by
  rw [he]
  rfl

section
variable (ht : target.toNat < 0x80) (hr : RecordAt s h.eng (reg s k ra).toNat 16)
include ht hr

theorem sendMail_takes (z : State) (hz : mailSend (past s k 4) h.eng k pd target.toNat (msgAddr s h k ra) = .ok z) :
    Takes s h k (.msgSend h pd ra target) (msgDec pd ra target 0) z :=
  send_takes s h k pd ra target (core_control h core he) (targetOk_mailbox _ ht) (by rw [recordLen, if_pos ht]; exact hr) z
    (by rw [sendTo, if_pos ht]; exact hz)

theorem recvMail_takes (z : State) (hz : mailRecv (past s k 4) h.eng k pd target.toNat (msgAddr s h k ra) = .ok z) :
    Takes s h k (.msgRecv h pd ra target) (msgDec pd ra target 1) z :=
  recv_takes s h k pd ra target (core_control h core he) (targetOk_mailbox _ ht) (by rw [recordLen, if_pos ht]; exact hr) z
    (by rw [recvFrom, if_pos ht]; exact hz)

/-- A core sends to a mailbox with room: the record goes behind the others. -/
theorem sendMail_stores (hn : (mail s target.toNat).length < 8) : ∃ z, Takes s h k (.msgSend h pd ra target) (msgDec pd ra target 0) z
    ∧ mail z target.toNat = mail s target.toNat ++ [memBytes s (msgAddr s h k ra) 16] ∧ rdP (getCtx z k) pd = true
    ∧ (∀ m, m ≠ target.toNat → mail z m = mail s m) ∧ z.mem = s.mem := by
  refine ⟨_, sendMail_takes s h k pd ra target core he ht hr _ ((mailSend_eq s h k pd ra target hr).trans
    (if_neg (Nat.not_le.2 hn))), mail_setMail_self _ _ _, rdP_setPred_true _ k pd, fun m hm => mail_setMail_ne _ _ m _ hm, rfl⟩

theorem sendMail_full (hn : 8 ≤ (mail s target.toNat).length) :
    Takes s h k (.msgSend h pd ra target) (msgDec pd ra target 0) (setPred (past s k 4) k pd false) :=
  sendMail_takes s h k pd ra target core he ht hr _ ((mailSend_eq s h k pd ra target hr).trans (if_pos hn))

theorem recvMail_empty (hbank : coreBank s core.val = target.toNat / 16) (hm : mail s target.toNat = []) :
    Takes s h k (.msgRecv h pd ra target) (msgDec pd ra target 1) (setPred (past s k 4) k pd false) := by
  refine recvMail_takes s h k pd ra target core he ht hr _ ?_
  have hm' : mail (past s k 4) target.toNat = [] := hm
  rw [mailRecv, ownBank_core s h k core he, hbank, if_neg (by simp), hm']

theorem recvMail_first (r : List Byte) (l : List (List Byte)) (hbank : coreBank s core.val = target.toNat / 16)
    (hm : mail s target.toNat = r :: l) (hlen : r.length = 16) :
    ∃ z, Takes s h k (.msgRecv h pd ra target) (msgDec pd ra target 1) z ∧ mail z target.toNat = l
      ∧ memBytes z (msgAddr s h k ra) 16 = r ∧ rdP (getCtx z k) pd = true := by
  have hm' : mail (past s k 4) target.toNat = r :: l := hm
  obtain ⟨h1, h2⟩ := hr.plain
  refine ⟨setPred (setMail (setBytes (eccSpan (past s k 4) (msgAddr s h k ra) r.length) (msgAddr s h k ra) r) target.toNat l) k pd true,
    recvMail_takes s h k pd ra target core he ht hr _ ?_, mail_setMail_self _ _ _, ?_, rdP_setPred_true _ k pd⟩
  · rw [mailRecv, ownBank_core s h k core he, hbank, if_neg (by simp), hm']
    exact writeRecord_clean (past s k 4) _ _ _ r _ (fun x h1 h2 => hr.clean x h1 (hlen ▸ h2))
  · rw [memBytes_congr (memByte_setPred _ k pd true), memBytes_congr (memByte_setMail _ _ l), ← hlen]
    exact memBytes_setBytes r _ _ h1 (hlen.symm ▸ h2)

theorem recvMail_other (hbank : coreBank s core.val ≠ target.toNat / 16) :
    MsgRefused s h k pd ra target (.msgRecv h pd ra target) 1 .read .prot := by
  refine gives_trap h _ 4 _ (!targetOk target.toNat) k _ _ s _ _ (by rw [targetOk_mailbox _ ht]; rfl) rfl ?_
  have hr' : RecordAt s h.eng (reg s k ra).toNat (recordLen target.toNat) := by rw [recordLen, if_pos ht]; exact hr
  refine (recordAt_record s h k ra .write .read (recordLen target.toNat) (recvFrom h k pd (past s k 4) target.toNat)
    (core_control h core he) hr').trans ?_
  rw [recvFrom, if_pos ht, mailRecv, ownBank_core s h k core he, if_pos (by simpa using hbank)]
  rfl

end

/-! ## Buffers of the message bus (R460, R461) -/

section
variable (ht : 0x400 ≤ target.toNat) (hr : RecordAt s h.eng (reg s k ra).toNat 80)
include ht hr

theorem sendCan_takes (z : State) (hz : canSend (past s k 4) h.eng k pd (msgAddr s h k ra) ((target.toNat - 0x400) / 128)
    ((target.toNat - 0x400) % 128) = .ok z) : Takes s h k (.msgSend h pd ra target) (msgDec pd ra target 0) z := by
  have hno : ¬ target.toNat < 0x80 := by omega
  exact send_takes s h k pd ra target (core_control h core he) (targetOk_buffer _ ht) (by rw [recordLen, if_neg hno]; exact hr) z
    (by rw [sendTo, if_neg hno]; exact hz)

theorem recvCan_takes (z : State) (hz : canRecv (past s k 4) h.eng k pd (msgAddr s h k ra) ((target.toNat - 0x400) / 128)
    ((target.toNat - 0x400) % 128) = .ok z) : Takes s h k (.msgRecv h pd ra target) (msgDec pd ra target 1) z := by
  have hno : ¬ target.toNat < 0x80 := by omega
  exact recv_takes s h k pd ra target (core_control h core he) (targetOk_buffer _ ht) (by rw [recordLen, if_neg hno]; exact hr) z
    (by rw [recvFrom, if_neg hno]; exact hz)

end
end
end

section
variable (s : State) (e : Eng) (k : Nat) (pd : PReg) (a c b : Nat) (hu : unitOn s (canUnit c) = true)

/-- The frame record stands in transmit buffer `b`, which is pending (R460). -/
def canSent : State :=
  let t := fSetBit (hwWords s (canUnit c) (canBuf c b) (memWords s a 20)) (canUnit c) (0xC + b / 32) (b % 32) true
  setPred (setCan t c { getCan t c with outcome := (getCan t c).outcome.filter (· != b) }) k pd true

/-- The bytes of a record from buffer `q` stand at `a`. -/
def recordStored (a : Nat) (ws : List Word) : State := setBytes (eccSpan s a (wordBytes ws).length) a (wordBytes ws)

/-- The record of a finished transmit buffer has been taken (R461). -/
def canTaken : State :=
  setPred (setCan (recordStored s a (memWords s (canBuf c b) 20)) c
    { getCan (recordStored s a (memWords s (canBuf c b) 20)) c with outcome := (getCan s c).outcome.filter (· != b) }) k pd true

/-- The record of frame `q` as `msg.recv` gives it: word 1 holds the overrun bit of its FIFO (R461). -/
def fifoRecord (q : Nat) : List Word :=
  (memWords s (canBuf c q) 20).set 1 ((memW s (canBuf c q + 4)).setField 8 8 (bit ((getCan s c).ovr.contains b)))

/-- The oldest frame `q` of FIFO `b` has been taken, and `tl` are left (R461). -/
def fifoTaken (q : Nat) (tl : List Nat) : State :=
  let t := fSetBit (recordStored s a (fifoRecord s c b q)) (canUnit c) (0x14 + q / 32) (q % 32) false
  setPred (setCan t c { getCan t c with
    fifo := if tl.isEmpty then Tbl.del (getCan s c).fifo b else Tbl.ins (getCan s c).fifo b tl
    ovr := (getCan s c).ovr.filter (· != b) }) k pd true

theorem memWords_length (a n : Nat) : (memWords s a n).length = n := by rw [memWords, List.length_map, List.length_range]

theorem memWords_canSent (hc : c < 8) (hb : b < 128) : memWords (canSent s k pd a c b) (canBuf c b) 20 = memWords s a 20 := by
  unfold canSent
  dsimp only
  rw [memWords_congr (memByte_setPred _ k pd true), memWords_congr (memByte_setCan _ c _), memWords_congr (memByte_fSetBit _ _ _ _ _),
    hwWords_whole _ _ _ _ (by unfold canBuf; omega) (by rw [memWords_length])]
  exact memWords_setBytes _ _ _ 20 (memWords_length s a 20) (by unfold canBuf; omega) (by unfold canBuf; omega)

theorem fBit_setPred (s : State) (k : Nat) (p : PReg) (b : Bool) (u f i : Nat) : fBit (setPred s k p b) u f i = fBit s u f i := rfl

theorem fBit_setCan (s : State) (c : Nat) (x : Can) (u f i : Nat) : fBit (setCan s c x) u f i = fBit s u f i := rfl

theorem txPending_canSent : txPending (canSent s k pd a c b) c b = true := by
  unfold txPending canSent
  dsimp only
  rw [fBit_setPred, fBit_setCan, fBit_fSetBit_true _ _ _ _ (Nat.mod_lt _ (by decide))]

theorem memWords_recordStored (ws : List Word) (hl : ws.length = 20) (h1 : 0x40000 ≤ a) (h2 : a + 80 ≤ 0x0C00000000) :
    memWords (recordStored s a ws) a 20 = ws := memWords_setBytes ws _ a 20 hl h1 h2

theorem memWords_canTaken (h1 : 0x40000 ≤ a) (h2 : a + 80 ≤ 0x0C00000000) :
    memWords (canTaken s k pd a c b) a 20 = memWords s (canBuf c b) 20 := by
  unfold canTaken
  rw [memWords_congr (memByte_setPred _ k pd true), memWords_congr (memByte_setCan _ c _)]
  exact memWords_recordStored s a _ (memWords_length s _ 20) h1 h2

theorem fifoRecord_length (q : Nat) : (fifoRecord s c b q).length = 20 := by rw [fifoRecord, List.length_set, memWords_length]

theorem memWords_fifoTaken (q : Nat) (tl : List Nat) (h1 : 0x40000 ≤ a) (h2 : a + 80 ≤ 0x0C00000000) :
    memWords (fifoTaken s k pd a c b q tl) a 20 = fifoRecord s c b q := by
  unfold fifoTaken
  dsimp only
  rw [memWords_congr (memByte_setPred _ k pd true), memWords_congr (memByte_setCan _ c _), memWords_congr (memByte_fSetBit _ _ _ _ _)]
  exact memWords_recordStored s a _ (fifoRecord_length s c b q) h1 h2

theorem getCan_setPred_setCan (t : State) (x : Can) (p : Bool) : getCan (setPred (setCan t c x) k pd p) c = x := by
  simp [getCan, setPred, setCtx, setCan]

theorem fifo_fifoTaken (q : Nat) (tl : List Nat) : (Tbl.find (getCan (fifoTaken s k pd a c b q tl) c).fifo b).getD [] = tl := by
  have hg : (getCan (fifoTaken s k pd a c b q tl) c).fifo =
      if tl.isEmpty then Tbl.del (getCan s c).fifo b else Tbl.ins (getCan s c).fifo b tl := by
    unfold fifoTaken
    dsimp only
    rw [getCan_setPred_setCan]
  rw [hg]
  cases tl with
  | nil => exact congrArg (fun o => Option.getD o []) (Tbl.find_del_self _ b)
  | cons q' tl => exact congrArg (fun o => Option.getD o []) (Tbl.find_ins_self _ b _)

theorem outcome_canTaken : b ∉ (getCan (canTaken s k pd a c b) c).outcome := by
  have hg : (getCan (canTaken s k pd a c b) c).outcome = (getCan s c).outcome.filter (· != b) := by
    unfold canTaken
    rw [getCan_setPred_setCan]
  rw [hg]
  simp

section
include hu

section
variable (hclean : ∀ x, a ≤ x → x < a + 4 * 20 → Tbl.get 0 s.mem.ecc (x / 8) = 0) (htx : isTxBuf s c b = true)
  (hok : sendRecordOk (memWords s a 20) = true) (hfd : (memW s (a + 4)).tst 29 = false ∨ fBit s (canUnit c) 2 2 = true)
include hclean htx hok hfd

theorem canSend_eq : canSend s e k pd a c b =
    if txPending s c b || canListen s c then .ok (setPred s k pd false) else .ok (canSent s k pd a c b) := by
  have hfd' : (((memWords s a 20).getD 1 0).tst 29 && !fBit s (canUnit c) 2 2) = false := by
    have h1 : (memWords s a 20).getD 1 0 = memW s (a + 4) := rfl
    rw [h1]
    rcases hfd with h | h <;> simp [h]
  unfold canSend
  rw [hu, readRecord_clean s e k a 20 _ hclean, htx, hok, hfd']
  rfl

end

section
variable (h1 : isTxBuf s c b = true)
include h1

theorem canRecv_none (hno : (txPending s c b || !(getCan s c).outcome.contains b) = true) :
    canRecv s e k pd a c b = .ok (setPred s k pd false) := by
  unfold canRecv
  dsimp only
  rw [hu, h1, hno]
  rfl

theorem canRecv_outcome (hyes : (txPending s c b || !(getCan s c).outcome.contains b) = false)
    (hread : ∀ x, canBuf c b ≤ x → x < canBuf c b + 4 * 20 → Tbl.get 0 s.mem.ecc (x / 8) = 0)
    (hwrite : ∀ x, a ≤ x → x < a + 80 → Tbl.get 0 s.mem.ecc (x / 8) = 0) :
    canRecv s e k pd a c b = .ok (canTaken s k pd a c b) := by
  have hlen : (wordBytes (memWords s (canBuf c b) 20)).length = 80 := by rw [wordBytes_length, memWords_length]
  unfold canRecv
  dsimp only
  rw [hu, h1, hyes, readRecord_clean s e k _ 20 _ hread, writeRecord_clean s e k a _ _ (by rw [hlen]; exact hwrite)]
  rfl

end

section
variable (h1 : isTxBuf s c b = false)
include h1

theorem canRecv_empty (hno : (Tbl.find (getCan s c).fifo b).getD [] = []) : canRecv s e k pd a c b = .ok (setPred s k pd false) := by
  unfold canRecv
  dsimp only
  rw [hu, h1, hno]
  rfl

theorem canRecv_fifo (q : Nat) (tl : List Nat) (hq : Tbl.find (getCan s c).fifo b = some (q :: tl))
    (hread : ∀ x, canBuf c q ≤ x → x < canBuf c q + 4 * 20 → Tbl.get 0 s.mem.ecc (x / 8) = 0)
    (hwrite : ∀ x, a ≤ x → x < a + 80 → Tbl.get 0 s.mem.ecc (x / 8) = 0) :
    canRecv s e k pd a c b = .ok (fifoTaken s k pd a c b q tl) := by
  have hrec : (memWords s (canBuf c q) 20).set 1 (((memWords s (canBuf c q) 20).getD 1 0).setField 8 8
      (bit ((getCan s c).ovr.contains b))) = fifoRecord s c b q := rfl
  have hlen : (wordBytes (fifoRecord s c b q)).length = 80 := by rw [wordBytes_length, fifoRecord_length]
  unfold canRecv
  dsimp only
  rw [hu, h1, hq]
  dsimp only [Option.getD_some]
  rw [readRecord_clean s e k _ 20 _ hread, hrec, writeRecord_clean s e k a _ _ (by rw [hlen]; exact hwrite)]
  rfl

end
end
end

/-- Settles O23: a mailbox is the list that sending extends and receiving shortens; a bus buffer's record is stored as words and read
back. -/
theorem messagesAreFirstInFirstOut : Obligations.MessagesAreFirstInFirstOut := by
  unfold Obligations.MessagesAreFirstInFirstOut
  refine ⟨fun s h k pd ra target core l r => ⟨fun he ht hr => ?_, fun he ht ha => ?_⟩, fun s h k pd ra target core q tl he ht hr hu => ?_⟩
  · exact ⟨fun hn => sendMail_stores s h k pd ra target core he ht hr hn, fun hn => sendMail_full s h k pd ra target core he ht hr hn,
      fun hb hm hl => recvMail_first s h k pd ra target core he ht hr r l hb hm hl,
      fun hb hm => recvMail_empty s h k pd ra target core he ht hr hb hm, fun hb => recvMail_other s h k pd ra target core he ht hr hb⟩
  · have hp : planeOf (unitOf h.eng) ≠ .control := by
      rcases he with he | he <;> rw [he] <;> decide
    have hok : targetOk target.toNat = true := ht.elim (targetOk_mailbox _) (targetOk_buffer _)
    exact ⟨send_management s h k pd ra target hp hok ha, recv_management s h k pd ra target hp hok ha⟩
  · obtain ⟨hlow, hhigh⟩ := hr.plain
    have hc : (target.toNat - 0x400) / 128 < 8 := by omega
    have hb : (target.toNat - 0x400) % 128 < 128 := Nat.mod_lt _ (by decide)
    have hwrite (x : Nat) (h1 : msgAddr s h k ra ≤ x) (h2 : x < msgAddr s h k ra + 80) : Tbl.get 0 (past s k 4).mem.ecc (x / 8) = 0 :=
      hr.clean x h1 h2
    have send (z : State) := sendCan_takes s h k pd ra target core he ht hr z
    have recv (z : State) := recvCan_takes s h k pd ra target core he ht hr z
    refine ⟨fun htx hok hfd => ?_, fun htx => ⟨?_, ?_⟩, fun htx => ⟨?_, ?_⟩⟩
    · have hz := canSend_eq (past s k 4) h.eng k pd (msgAddr s h k ra) _ _ hu hwrite htx hok hfd
      refine ⟨fun hp hl => ?_, fun hno => ?_⟩
      · refine ⟨_, send _ (hz.trans (if_neg ?_)), txPending_canSent _ k pd _ _ _, rdP_setPred_true _ k pd, ?_⟩
        · exact Bool.eq_false_iff.1 (Bool.or_eq_false_iff.2 ⟨hp, hl⟩)
        · exact memWords_canSent (past s k 4) k pd _ _ _ hc hb
      · exact send _ (hz.trans (if_pos (Bool.or_eq_true_iff.2 hno)))
    · intro hp ho hclean
      have hyes : (txPending (past s k 4) ((target.toNat - 0x400) / 128) ((target.toNat - 0x400) % 128) ||
          !(getCan (past s k 4) ((target.toNat - 0x400) / 128)).outcome.contains ((target.toNat - 0x400) % 128)) = false :=
        Bool.or_eq_false_iff.2 ⟨hp, congrArg not (List.contains_iff_mem.2 ho)⟩
      have hz := canRecv_outcome (past s k 4) h.eng k pd (msgAddr s h k ra) _ _ hu htx hyes
        (fun x h1 h2 => get_ecc_clean s _ 80 x hclean h1 h2) hwrite
      exact ⟨_, recv _ hz, memWords_canTaken (past s k 4) k pd _ _ _ hlow hhigh, outcome_canTaken _ k pd _ _ _, rdP_setPred_true _ k pd⟩
    · intro hno
      refine recv _ (canRecv_none (past s k 4) h.eng k pd _ _ _ hu htx (Bool.or_eq_true_iff.2 (hno.imp_right fun ho => ?_)))
      exact congrArg not (Bool.eq_false_iff.2 fun hc => ho (List.contains_iff_mem.1 hc))
    · intro hq _ hclean
      have hz := canRecv_fifo (past s k 4) h.eng k pd (msgAddr s h k ra) _ _ hu htx q tl hq
        (fun x h1 h2 => get_ecc_clean s _ 80 x hclean h1 h2) hwrite
      exact ⟨_, recv _ hz, rdP_setPred_true _ k pd, fifo_fifoTaken _ k pd _ _ _ q tl, memWords_fifoTaken _ k pd _ _ _ q tl hlow hhigh⟩
    · intro hno
      exact recv _ (canRecv_empty (past s k 4) h.eng k pd _ _ _ hu htx hno)

end Sys2Proof.Machine
end

section
/-! SUPPORT. The configuration instructions, by the class of the field (R83 to R85, R107, R520). -/
namespace Sys2Proof.Machine

theorem fid_fidUnit (f : BitVec 16) : fid (fidUnit f) (fidField f) = f.toNat := Nat.div_add_mod' f.toNat 1024

/-! ## What a checked write stores, by the class of its field -/

section
variable (s : State) (iu u f : Nat) (v : Word) (ok : Bool) (row : FRow) (hrow : fieldRow (fid u f) = some row)
include hrow

theorem cfgStore_commit (hc : row.cls = .c) : cfgStore s iu u f v ok = shadowSet s u f v := by rw [cfgStore, hrow]; dsimp only; rw [hc]

theorem cfgStore_stopped (hc : row.cls = .s) : cfgStore s iu u f v ok = fSet s u f v := by rw [cfgStore, hrow]; dsimp only; rw [hc]

/-- A class L write that is not held acts at once, with the gate's record where it passed the gate (R39, R85). -/
theorem cfgStore_live (hc : row.cls = .l) (hh : isHeld s iu u f = false) : cfgStore s iu u f v ok =
    if byGate iu u f then liveRecord (liveEffect s u f v ok) { target := liveTarget u f, change := .live (fid u f) v }
    else liveEffect s u f v ok := by
  rw [cfgStore, hrow]
  dsimp only
  rw [hc, hh]
  rfl

theorem cfgStore_held (hc : row.cls = .l) (hh : isHeld s iu u f = true) : cfgStore s iu u f v ok =
    { s with gate := s.gate ++ [{ target := liveTarget u f, change := .live (fid u f) v }] } := by
  rw [cfgStore, hrow]
  dsimp only
  rw [hc, hh]
  rfl

end

/-! ## The instructions -/

section
variable (s : State) (h : Hdr) (k : Nat) (r : Reg) (f : BitVec 16)

def cfgDec (sub : Nat) : Dec := { word := encE sub r f, grp := .cfg }

/-- The decoding of `cfg.w`, which names the field by its unit and number. -/
def cfgWDec (u n : Nat) : Dec := { word := encE 1 r (BitVec.ofNat 16 (fid u n)), grp := .cfg }

/-- `cfg.w` to field `n` of unit `u`, checked, does what its class says. -/
theorem cfgWrite_takes (i : Instr) (u n : Nat) (ok : Bool) (hi : exec i s = done s (cfgWriteOp h r u n ok s))
    (hc : cfgWriteCause (past s k 4) (unitOf h.eng) u n (reg s k r) = none) :
    Takes s h k i (cfgWDec r u n) (cfgStore (past s k 4) (unitOf h.eng) u n (reg s k r) ok) := by
  refine takes_ok h _ k _ i s _ hi ?_
  dsimp only [cfgWDec, cfgWrite]
  rw [reg_past, hc]

theorem cfgW_takes (hf : f ≠ 0x9C07) (hc : cfgWriteCause (past s k 4) (unitOf h.eng) (fidUnit f) (fidField f) (reg s k r) = none) :
    Takes s h k (.cfgW h r f) (cfgWDec r (fidUnit f) (fidField f))
      (cfgStore (past s k 4) (unitOf h.eng) (fidUnit f) (fidField f) (reg s k r) true) :=
  cfgWrite_takes s h k r (.cfgW h r f) _ _ true (by dsimp only [exec, execCfgW]; rw [if_neg hf]) hc

theorem Runs.free {s : State} {h : Hdr} {k : Nat} {d : Dec} (hr : Runs s h k d) (n : Nat) : Runs { s with free := n } h k d := by
  obtain ⟨h1, h2, h3, h4, h5, h6, h7⟩ := hr
  refine ⟨?_, ?_, ?_, ?_, h5, h6, ?_⟩ <;> cases heq : h.eng <;> rw [heq] at h1 h2 h3 h4 h7 <;> assumption

theorem cfgWriteCause_free (s : State) (n iu u f : Nat) (v : Word) :
    cfgWriteCause { s with free := n } iu u f v = cfgWriteCause s iu u f v := rfl

theorem isHeld_free (s : State) (n iu u f : Nat) : isHeld { s with free := n } iu u f = isHeld s iu u f := rfl

/-- `cfg.w` of UPD_REQ draws whether the journal takes the request (R566). -/
theorem cfgW_updReq_takes (hc : cfgWriteCause (past s k 4) (unitOf h.eng) (fidUnit 0x9C07) (fidField 0x9C07) (reg s k r) = none) :
    Takes s h k (.cfgW h r 0x9C07) (cfgWDec r (fidUnit 0x9C07) (fidField 0x9C07))
      (cfgStore { past s k 4 with free := s.free + 1 } (unitOf h.eng) (fidUnit 0x9C07) (fidField 0x9C07) (reg s k r)
        (Config.freeBool s.free)) := by
  intro hr
  have hpast : past { s with free := s.free + 1 } k 4 = { past s k 4 with free := s.free + 1 } := rfl
  have hreg : reg { past s k 4 with free := s.free + 1 } k r = reg s k r := reg_past s k 4 r
  have hbody : cfgWrite h.eng k (fidUnit 0x9C07) (fidField 0x9C07) r (Config.freeBool s.free) (past { s with free := s.free + 1 } k 4) =
      .ok (cfgStore { past s k 4 with free := s.free + 1 } (unitOf h.eng) (fidUnit 0x9C07) (fidField 0x9C07) (reg s k r)
        (Config.freeBool s.free)) := by
    unfold cfgWrite
    rw [hpast, hreg, cfgWriteCause_free, hc]
  exact congrArg (done s) (runInstr_ok h (cfgWDec r (fidUnit 0x9C07) (fidField 0x9C07)) k
    (fun k s' => cfgWrite h.eng k (fidUnit 0x9C07) (fidField 0x9C07) r (Config.freeBool s.free) s') _ _ (hr.free _) hbody)

theorem cfgR_writes (hf : f ≠ 0x9401) (hc : cfgCause (past s k 4) (unitOf h.eng) (fidUnit f) (fidField f) = none) :
    Writes s h k (.cfgR h r f) (cfgDec r f 0) r (cfgGet (past s k 4) (fidUnit f) (fidField f)) := by
  refine takes_ok h _ k _ _ s _ rfl ?_
  dsimp only [cfgDec]
  rw [hc, if_neg hf]

/-- A read of CAL_TIME gives the calendar as it latches it (R520). -/
theorem cfgR_calendar (hc : cfgCause (past s k 4) (unitOf h.eng) (fidUnit 0x9401) (fidField 0x9401) = none) :
    Takes s h k (.cfgR h r 0x9401) (cfgDec r 0x9401 0)
      (setReg (rtcLatch (past s k 4)) k r (cfgGet (past s k 4) (fidUnit 0x9401) (fidField 0x9401))) := by
  refine takes_ok h _ k _ _ s _ rfl ?_
  dsimp only [cfgDec]
  rw [hc, if_pos rfl]

theorem cfgRs_writes (row : FRow) (hrow : fieldRow f.toNat = some row)
    (hc : cfgCause (past s k 4) (unitOf h.eng) (fidUnit f) (fidField f) = none) :
    Writes s h k (.cfgRs h r f) (cfgDec r f 3) r (if row.cls = .c then shadowGet (past s k 4) (fidUnit f) (fidField f)
      else cfgGet (past s k 4) (fidUnit f) (fidField f)) := by
  refine takes_ok h _ k _ _ s _ rfl ?_
  dsimp only [cfgDec]
  rw [hc, hrow]
  dsimp only
  simp only [beq_iff_eq]

theorem shadowGet_past (u n : Nat) : shadowGet (past s k 4) u n = (Tbl.find s.cfg.shadow (fid u n)).getD (cfgGet (past s k 4) u n) := by
  have hs : (past s k 4).cfg = s.cfg := rfl
  unfold shadowGet
  rw [hs]
  cases Tbl.find s.cfg.shadow (fid u n) <;> rfl

theorem cfgCommit_takes (hn : fidField f = 0) (hr : r = 0) (hc : cfgCause (past s k 4) (unitOf h.eng) (fidUnit f) 0 = none) :
    Takes s h k (.cfgCommit h r f) (cfgDec r f 2) (if atRest (capture (past s k 4) (fidUnit f)) (fidUnit f) then
      commitNow (capture (past s k 4) (fidUnit f)) (fidUnit f) else capture (past s k 4) (fidUnit f)) := by
  refine takes_good h _ 4 _ (fidField f != 0 || r != 0) k _ _ s _ (by simp [hn, hr]) rfl ?_
  dsimp only
  rw [hc]

/-- A refused configuration access traps BUS_ERROR with its cause and address 0 (R19, R30, R85). -/
def CfgRefused (i : Instr) (d : Dec) (kd : Kind) (c : Cause) : Prop :=
  Runs s h k d → Gives s i (takeTrap (setPc (errorResp (past s k 4) (whoIs h.eng k) kd c 0 f.toNat) k (getCtx s k).pc) h.eng k
    (getCtx s k).pc (fullWord h d) { cause := 3, resp := c.code, addr := 0 })

theorem cfgR_refused (c : Cause) (hc : cfgCause (past s k 4) (unitOf h.eng) (fidUnit f) (fidField f) = some c) :
    CfgRefused s h k f (.cfgR h r f) (cfgDec r f 0) .cfgRead c := by
  refine gives_trap h _ 4 _ false k _ _ s _ _ rfl rfl ?_
  dsimp only
  rw [hc]
  rfl

theorem cfgW_refused (c : Cause) (hf : f ≠ 0x9C07)
    (hc : cfgWriteCause (past s k 4) (unitOf h.eng) (fidUnit f) (fidField f) (reg s k r) = some c) :
    CfgRefused s h k f (.cfgW h r f) (cfgWDec r (fidUnit f) (fidField f)) .cfgWrite c := by
  refine gives_trap h _ 4 _ false k _ (.cfgW h r f) s _ _ rfl (by dsimp only [exec, execCfgW]; rw [if_neg hf]; rfl) ?_
  dsimp only [cfgWrite]
  rw [reg_past, hc, fid_fidUnit]
  rfl

end

/-- Settles O25: each instruction's effect is that of the class of its field, and a refused access leaves only its error response. -/
theorem configurationAccessFollowsItsClass : Obligations.ConfigurationAccessFollowsItsClass := by
  unfold Obligations.ConfigurationAccessFollowsItsClass
  refine ⟨fun s h k r f row hrow => ?_, fun s h k r f c => ⟨fun hc => cfgR_refused s h k r f c hc, fun hc hf => cfgW_refused s h k r f c hf hc⟩⟩
  have hrow' : fieldRow (fid (fidUnit f) (fidField f)) = some row := by rw [fid_fidUnit]; exact hrow
  refine ⟨fun hc hf => ⟨cfgR_writes s h k r f hf hc, fun hcls => ?_, fun hcls => ?_⟩, fun hc hf => ?_, ?_, ?_, ?_, ?_⟩
  · have hw := cfgRs_writes s h k r f row hrow hc
    rw [if_neg hcls] at hw
    exact hw
  · have hw := cfgRs_writes s h k r f row hrow hc
    rw [if_pos hcls, shadowGet_past] at hw
    exact hw
  · have hw := cfgW_takes s h k r f hf hc
    refine ⟨fun hcls => ?_, fun hcls => ?_, fun hcls hheld => ?_, fun hcls hheld => ?_⟩
    · rw [cfgStore_commit _ _ _ _ _ _ row hrow' hcls] at hw
      exact ⟨_, hw, Tbl.find_ins_self _ _ _, rfl, rfl, rfl⟩
    · rw [cfgStore_stopped _ _ _ _ _ _ row hrow' hcls] at hw
      exact ⟨_, hw, fGet_fSet_self _ _ _ _, rfl, rfl, fun u' n' hne => fGet_fSet_ne _ u' n' _ _ _ hne⟩
    · rw [cfgStore_live _ _ _ _ _ _ row hrow' hcls hheld] at hw
      exact hw
    · rw [cfgStore_held _ _ _ _ _ _ row hrow' hcls hheld] at hw
      exact ⟨_, hw, rfl, rfl⟩
  · intro hn hr hc hrest
    have hw := cfgCommit_takes s h k r f hn hr hc
    rw [hrest] at hw
    exact ⟨_, hw, Tbl.find_ins_self _ _ _, rfl, rfl⟩
  · intro hn hr hc hrest
    have hw := cfgCommit_takes s h k r f hn hr hc
    rw [hrest] at hw
    exact hw
  · rintro rfl hc
    exact cfgR_calendar s h k r hc
  · rintro rfl hc hheld
    have hcls : row.cls = .l := by
      have hl : (fieldRow 0x9C07).map (fun x => x.cls) = some .l := by decide
      rw [show fieldRow 0x9C07 = some row from hrow] at hl
      exact Option.some.inj hl
    have hw := cfgW_updReq_takes s h k r hc
    rw [cfgStore_live _ _ _ _ _ _ row hrow' hcls ((isHeld_free _ _ _ _ _).trans hheld)] at hw
    exact hw

end Sys2Proof.Machine
end

section
/-! SUPPORT. A write that stops a converter whose table entry hides a second one (R138, R139). -/
namespace Sys2Proof.Machine

/-- The header of an instruction of MGT whose predicate is p0. -/
def mgtHdr : Hdr := { eng := .mgt, pr := 0, rsv := 0 }

/-- A conversion in progress whose result is wanted. -/
def wantedConversion : Cnv := { rd := 1, ch := 0, prof := 0, ow := false, pri := 0, late := false, due := none }

/-- MGT runs, and a global field of AFE is pending. The table of the converters, which nothing in the statement asks to be canonical,
lists converter 0 twice: the entry in force holds a global field that it took, the hidden one a conversion in progress. -/
def convTwice : State :=
  { State.reset with
    ctxs := [(0, { pc := 0x400, live := true })]
    cfg := { act := [(fid 2 2, 0x20)], pend := [(0x11, [(fid 0x11 7, 0x10000)])] }
    afe := [(0, { glob := [(fid 0x11 7, 0)] }), (0, { run := some wantedConversion })] }

/-- MGT can run the write of the RUN field of converter 0. -/
theorem convTwice_runs : Runs convTwice mgtHdr 0 (cfgWDec 0 0x11 0x100) where
  ready := by decide
  inHome := by decide
  clean := by decide
  clean2 := .inl rfl
  decodes := by decide
  pred := by decide
  fresh := by decide

theorem convTwice_accepts : cfgWriteCause (past convTwice 0 4) 0 0x11 0x100 0 = none := by decide

theorem convTwice_notHeld : isHeld (past convTwice 0 4) 0 0x11 0x100 = false := by decide

/-- The end of the sequence takes the pending global field and with it the converter's entry off the table, and the hidden entry's
conversion comes to light with its result still wanted. -/
theorem convTwice_keepsResult :
    (getConv (cfgStore (past convTwice 0 4) 0 0x11 0x100 0 true) 0).run = some wantedConversion := by decide

theorem settle_getConv (s t : State) (n : Nat) : getConv (settle s t) n = getConv t n := rfl

/-- MGT's write of 0 to RUN of converter 0. -/
theorem convTwice_takes : Takes convTwice mgtHdr 0 (.afeRun mgtHdr 0 0) (cfgWDec 0 0x11 0x100)
    (cfgStore (past convTwice 0 4) 0 0x11 0x100 0 true) :=
  cfgWrite_takes convTwice mgtHdr 0 0 (.afeRun mgtHdr 0 0) 0x11 0x100 true rfl convTwice_accepts

theorem convTwice_result (t : State) (ht : Gives convTwice (.afeRun mgtHdr 0 0) t) : (getConv t 0).run = some wantedConversion := by
  have hsame := ht.unique (convTwice_takes convTwice_runs)
  have hconv : getConv (settle convTwice t) 0 = _ := congrArg (fun z : State => getConv z 0) hsame
  rw [settle_getConv, settle_getConv] at hconv
  rw [hconv]
  exact convTwice_keepsResult

/-- Refutes O27: in `convTwice` a 0 in RUN leaves converter 0 with a conversion whose result is not discarded. -/
theorem not_actionWritesCommandTheirUnit : ¬ Obligations.ActionWritesCommandTheirUnit := by
  unfold Obligations.ActionWritesCommandTheirUnit
  intro hall
  obtain ⟨-, hstop, -⟩ := hall convTwice mgtHdr 0 0 0 0 0
  obtain ⟨hafe, -⟩ := hstop (by decide)
  obtain ⟨t, ht, hdrop⟩ := hafe convTwice_accepts convTwice_notHeld
  have hwanted := hdrop wantedConversion (convTwice_result t (ht convTwice_runs))
  exact absurd hwanted (by decide)

end Sys2Proof.Machine
end

section
/-! SUPPORT. The values that reset leaves (R103, R116, R496, R587, R616). -/
namespace Sys2Proof.Machine

/-- The pins at reset: no safety output is commanded, no unit holds Zenith, no pulse output is active and no test pulse runs. -/
theorem reset_pinsOk : PinsOk State.reset where
  left := by unfold SafetyPinsOk; decide
  right := ⟨by unfold ZenithPinOk; decide, by unfold PulsePinsOk; decide, by unfold TestPinsOk; decide⟩

@[simp] theorem reset_reg (k : Nat) (r : Reg) : reg State.reset k r = 0 := by
  simp only [reg, rdG]
  split <;> rfl

/-- UNIT_INFO of each listed unit shows the revision, the field map's issue and the unit's number (R103). -/
theorem reset_ids : ∀ u ∈ [0, 1, 2, 4, 11, 0x0C, 0x10, 0x11, 0x13, 0x14, 0x16, 0x18, 0x19, 0x1A, 0x21, 0x22, 0x23, 0x24, 0x25, 0x27],
    cfgGet State.reset u 0 = Word.ofN (0xA1010000 + u) := by decide

/-- Settles O2: reset leaves every part of the state at the default of its field, from which each value is read off. -/
theorem resetLeavesTheStatedValues : Obligations.ResetLeavesTheStatedValues := by
  unfold Obligations.ResetLeavesTheStatedValues
  exact ⟨reset_pinsOk, reset_memory_wf, rfl, rfl, rfl, by decide, rfl, fun k _ => ⟨rfl, reset_reg k⟩, reset_ids, by decide⟩

end Sys2Proof.Machine
end

section
/-! SUPPORT. The management link: what the host reaches in memory, the answers of requests, and the commands (R94, R111 to R115). -/
namespace Sys2Proof.Machine

/-! ## Accesses to memory by the host (R67, R94 to R98) -/

/-- Every access of the host to a part of the range is allowed, and no word of it has an error. -/
structure HostReach (s : State) (wr : Bool) (a n : Nat) : Prop where
  may : ∀ x m, a ≤ x → 1 ≤ m → x + m ≤ a + n → accessCause s 0 wr x m = none
  clean : ∀ x, a ≤ x → x < a + n → Tbl.get 0 s.mem.ecc (storedAt s x / 8) = 0

theorem HostReach.drop {s : State} {wr : Bool} {a n : Nat} (h : HostReach s wr a n) (m : Nat) (hm : m ≤ n) :
    HostReach s wr (a + m) (n - m) where
  may x j hx hj hle := h.may x j (by omega) hj (by omega)
  clean x hx hlt := h.clean x (by omega) (by omega)

/-- The part of a range that lies in the 64-bit word of its address is neither empty nor longer than the range. -/
theorem wordPart_bounds (a n : Nat) (hn : n ≠ 0) : 1 ≤ min (8 - a % 8) n ∧ min (8 - a % 8) n ≤ n := by omega

/-- A range that the host reaches is read whole, and its reading changes nothing. -/
theorem hostRead_ok (k : Kind) (fuel : Nat) : ∀ (s : State) (a n : Nat) (acc : List Byte), n ≤ fuel → HostReach s false a n →
    hostRead k fuel s a n acc = (s, .ok (acc ++ memBytes s a n)) := by
  induction fuel with
  | zero =>
    intro s a n acc hn _
    obtain rfl : n = 0 := Nat.le_zero.1 hn
    exact congrArg (fun l => (s, Except.ok l)) (List.append_nil acc).symm
  | succ fuel ih =>
    intro s a n acc hn h
    rw [hostRead]
    by_cases h0 : n = 0
    · subst h0
      rw [if_pos rfl]
      exact congrArg (fun l => (s, Except.ok l)) (List.append_nil acc).symm
    · obtain ⟨hpos, hle⟩ := wordPart_bounds a n h0
      have hword := access_ok s { unit := 0 } k false a (min (8 - a % 8) n) (h.may a _ (le_refl a) hpos (by omega))
        (h.clean a (le_refl a) (by omega)) (by simp)
      rw [if_neg h0]
      dsimp only
      rw [hword]
      dsimp only
      rw [ih s _ _ _ (by omega) (h.drop _ hle), List.append_assoc, ← memBytes_add, Nat.add_sub_cancel' hle]

/-- The state with other codes of its words. -/
def withEcc (s : State) (c : Tbl Nat) : State := { s with mem := { s.mem with ecc := c } }

theorem setBytes_withEcc (bs : List Byte) : ∀ (s : State) (a : Nat) (c : Tbl Nat),
    setBytes (withEcc s c) a bs = withEcc (setBytes s a bs) c := by
  induction bs with
  | nil => exact fun _ _ _ => rfl
  | cons b bs ih => exact fun s a c => ih (setByte s a b) (a + 1) c

@[simp] theorem setBytes_ecc (bs : List Byte) : ∀ (s : State) (a : Nat), (setBytes s a bs).mem.ecc = s.mem.ecc := by
  induction bs with
  | nil => exact fun _ _ => rfl
  | cons b bs ih => exact fun s a => ih (setByte s a b) (a + 1)

/-- Only an error in memory keeps the host from a range: what it may access does not depend on memory. -/
theorem HostReach.of_memory {s : State} {wr : Bool} {a n : Nat} (h : HostReach s wr a n) (m : Mem)
    (hm : ∀ x, Tbl.get 0 s.mem.ecc x = 0 → Tbl.get 0 m.ecc x = 0) : HostReach { s with mem := m } wr a n where
  may := h.may
  clean x hx hlt := hm _ (h.clean x hx hlt)

/-- A write of the host to a part of a word goes on where it is allowed, and leaves at most a fresh code. -/
theorem hostAccess_ok (s : State) (a m : Nat) (hm : m = 8 → a % 8 = 0) (hmay : accessCause s 0 true a m = none)
    (hclean : Tbl.get 0 s.mem.ecc (storedAt s a / 8) = 0) : ∃ c, access s { unit := 0 } .hostWrite true a m = (withEcc s c, none)
      ∧ ∀ x, Tbl.get 0 s.mem.ecc x = 0 → Tbl.get 0 c x = 0 := by
  by_cases hwhole : m = 8
  · subst hwhole
    refine ⟨_, access_fresh s { unit := 0 } .hostWrite a hmay (hm rfl), fun x hx => ?_⟩
    by_cases hxa : x = a / 8
    · rw [hxa, Tbl.get_put_self]
    · rw [Tbl.get_put_ne _ _ _ _ _ _ hxa, hx]
  · exact ⟨s.mem.ecc, access_ok s { unit := 0 } .hostWrite true a m hmay hclean (fun h => hwhole h.2), fun _ hx => hx⟩

/-- A range that the host reaches is written whole; beside its bytes only the codes of words may change. -/
theorem hostWrite_ok (fuel : Nat) : ∀ (s : State) (a : Nat) (bs : List Byte), bs.length ≤ fuel → HostReach s true a bs.length →
    ∃ c, hostWrite fuel s a bs = (setBytes (withEcc s c) a bs, none) := by
  induction fuel with
  | zero =>
    intro s a bs hn _
    obtain rfl : bs = [] := List.length_eq_zero_iff.1 (Nat.le_zero.1 hn)
    exact ⟨s.mem.ecc, rfl⟩
  | succ fuel ih =>
    intro s a bs hn h
    by_cases h0 : bs = []
    · subst h0
      exact ⟨s.mem.ecc, rfl⟩
    have hlen : bs.length ≠ 0 := fun e => h0 (List.length_eq_zero_iff.1 e)
    obtain ⟨hpos, hle⟩ := wordPart_bounds a bs.length hlen
    have h8 : min (8 - a % 8) bs.length = 8 → a % 8 = 0 := by omega
    rw [hostWrite, if_neg (by simpa using h0)]
    dsimp only
    generalize min (8 - a % 8) bs.length = m at hpos hle h8 ⊢
    obtain ⟨c, hacc, hc⟩ := hostAccess_ok s a m h8 (h.may a _ (le_refl a) hpos (by omega)) (h.clean a (le_refl a) (by omega))
    obtain ⟨mem, hmem⟩ := setBytes_only (bs.take m) (withEcc s c) a
    have hecc : mem.ecc = c := (congrArg (fun z : State => z.mem.ecc) hmem).symm.trans (setBytes_ecc _ _ _)
    have hnext : HostReach (setBytes (withEcc s c) a (bs.take m)) true (a + m) (bs.drop m).length := by
      rw [hmem, List.length_drop]
      exact (h.drop m hle).of_memory mem (fun x hx => hecc ▸ hc x hx)
    obtain ⟨c', hrest⟩ := ih _ _ _ (by rw [List.length_drop]; omega) hnext
    have hjoin := setBytes_append (bs.take m) (bs.drop m) (withEcc s c') a
    rw [List.take_append_drop, List.length_take_of_le hle] at hjoin
    refine ⟨c', ?_⟩
    rw [hacc]
    dsimp only
    rw [hrest, ← setBytes_withEcc, hjoin]
    rfl

/-! ## What the host may write -/

theorem regionOf_bounds {a r : Nat} (h : regionOf a = some r) : ∃ e, regions[r]? = some e ∧ e.1 ≤ a ∧ a < e.1 + e.2 := by
  obtain ⟨hr, hin, -⟩ := List.findIdx?_eq_some_iff_getElem.1 h
  simp only [Bool.and_eq_true, decide_eq_true_eq] at hin
  exact ⟨regions[r], List.getElem?_eq_getElem hr, hin⟩

/-- Only the first and the last region are not ordinary memory: the boot ROM and the Almanac's read window (R93, R506). -/
theorem regions_plain : ∀ r < regions.length, r ≠ 0 → r ≠ 20 →
    ∀ e ∈ regions[r]?, 0x40000 ≤ e.1 ∧ e.1 + e.2 ≤ 0x0E00000000 := by decide

/-- An access that is allowed lies in one region, which the unit may write where it writes (R93, R101). -/
theorem region_of_accessCause {s : State} {u : Nat} {wr : Bool} {a n : Nat} (h : accessCause s u wr a n = none) :
    ∃ r, regionOf a = some r ∧ regionOf (a + n - 1) = some r ∧ (wr = true → mayWrite s u r a = true) := by
  unfold accessCause at h
  split at h
  · cases h
  next r hr =>
    refine ⟨r, hr, ?_⟩
    dsimp only at h
    split_ifs at h <;> simp_all

/-- The host writes ordinary memory only. -/
theorem plainAddr_of_hostWrite {s : State} {a n : Nat} (h : accessCause s 0 true a n = none) (x : Nat) (hx : a ≤ x)
    (hlt : x < a + n) : plainAddr x := by
  obtain ⟨r, hfirst, hlast, hmay⟩ := region_of_accessCause h
  obtain ⟨e, he, hlo, -⟩ := regionOf_bounds hfirst
  obtain ⟨e', he', -, hhi⟩ := regionOf_bounds hlast
  obtain rfl : e = e' := Option.some.inj (he.symm.trans he')
  have hrom : r ≠ 0 := by rintro rfl; exact Bool.false_ne_true (hmay rfl)
  have hwindow : r ≠ 20 := by rintro rfl; exact Bool.false_ne_true (hmay rfl)
  have hplain := regions_plain r (List.getElem?_eq_some_iff.1 he).1 hrom hwindow e he
  exact ⟨by omega, by omega⟩

/-! ## Requests and answers (R111, R113, R114) -/

/-- A request that its transport takes up: the device is awake, its CRC is good, and it is no repetition. -/
structure Arrives (s : State) (t : Fin 4) (cmd : Byte) (q : MgtReq) : Prop where
  awake : s.pwr.asleep = false
  crc : crc32c (mgtHeader cmd q ++ q.payload) = q.crc
  new : (getLink s t.val).last ≠ some (q.seq.toNat, q.crc)
  booted : 3 ≤ bootState s

/-- The state in which a new request is executed. -/
def received (s : State) (t : Fin 4) (q : MgtReq) : State :=
  setLink s t.val { getLink s t.val with last := some (q.seq.toNat, q.crc), busy := true }

/-- A request as its answer must know it. -/
def askedBy (t : Fin 4) (cmd : Byte) (q : MgtReq) : Asked :=
  { link := t.val, key := (q.seq.toNat, q.crc), header := mgtHeader cmd q }

theorem linkRequest_arrives {s : State} {t : Fin 4} {cmd : Byte} {q : MgtReq} (h : Arrives s t cmd q) (body : State → Asked → State) :
    linkRequest s t cmd q body =
      if mgtBadFields cmd q then linkAnswer (received s t q) (askedBy t cmd q) 2 0 [] else body (received s t q) (askedBy t cmd q) := by
  obtain ⟨hw, hc, hn, hb⟩ := h
  have hboot (n : Nat) (hlow : n < 3) : bootState (received s t q) ≠ n := fun e => absurd (e ▸ hb : 3 ≤ n) (Nat.not_le.2 hlow)
  refine (if_neg (by simp [hw])).trans ((if_neg (not_not.2 hc)).trans ((if_neg hn).trans ((if_neg ?_).trans (if_neg ?_))))
  · exact fun e => hboot 1 (by decide) e.1
  · exact fun e => e.elim (fun e => hboot 0 (by decide) e.1) (fun e => hboot 2 (by decide) e.1)

@[simp] theorem getLink_setLink (s : State) (t : Nat) (l : Link) : getLink (setLink s t l) t = l := Tbl.get_put_self _ _ _ _

/-- An answer changes only the transports. -/
theorem linkAnswer_only (s : State) (q : Asked) (status cause : Nat) (payload : List Byte) :
    ∃ ls, linkAnswer s q status cause payload = { s with mgt := { s.mgt with links := ls } } := by
  unfold linkAnswer
  dsimp only
  split
  · exact ⟨_, rfl⟩
  · exact ⟨_, rfl⟩

/-- What an answer puts on its transport. -/
theorem getLink_linkAnswer (s : State) (q : Asked) (status cause : Nat) (payload : List Byte) :
    let z := linkAnswer s q status cause payload
    (getLink z q.link).out = mgtResponse q.header status cause payload
      ∧ (getLink z q.link).sent = ((getLink s q.link).sent + 1) % 2 ^ 32 ∧ (getLink z q.link).last = (getLink s q.link).last := by
  unfold linkAnswer linkSend
  dsimp only
  split <;> simp

/-- A request whose fields keep R111 does what its command does. -/
theorem linkRequest_good {s : State} {t : Fin 4} {cmd : Byte} {q : MgtReq} (h : Arrives s t cmd q) (hf : mgtBadFields cmd q = false)
    (body : State → Asked → State) : linkRequest s t cmd q body = body (received s t q) (askedBy t cmd q) :=
  (linkRequest_arrives h body).trans (if_neg (by simp [hf]))

/-- The request has its answer on its transport, and it is the transport's previous request from now on. -/
def Answered (s : State) (t : Fin 4) (cmd : Byte) (q : MgtReq) (status : Nat) (payload : List Byte) (z : State) : Prop :=
  (getLink z t.val).out = mgtResponse (mgtHeader cmd q) status 0 payload
    ∧ (getLink z t.val).sent = ((getLink s t.val).sent + 1) % 2 ^ 32 ∧ (getLink z t.val).last = some (q.seq.toNat, q.crc)

/-- What a command did before its answer does not matter to the answer, as long as it left the transports alone. -/
theorem linkAnswer_answered {s z : State} {t : Fin 4} {q : MgtReq} (hz : z.mgt.links = (received s t q).mgt.links) (cmd : Byte)
    (status : Nat) (payload : List Byte) :
    Answered s t cmd q status payload (linkAnswer z (askedBy t cmd q) status 0 payload) := by
  have hlink : getLink z (askedBy t cmd q).link = getLink (received s t q) t.val :=
    congrArg (fun ls => Tbl.get ({} : Link) ls t.val) hz
  obtain ⟨hout, hsent, hlast⟩ := getLink_linkAnswer z (askedBy t cmd q) status 0 payload
  rw [hlink, received, getLink_setLink] at hsent hlast
  exact ⟨hout, hsent, hlast⟩

/-! ## IDENT, and commands that are not listed -/

section
variable {s : State} {t : Fin 4} {q : MgtReq}

theorem ident_answered (h : Arrives s t 1 q) (hf : mgtBadFields 1 q = false) :
    ∃ z, Gives s (.ident t q) z ∧ Answered s t 1 q 0
      (leBytes 16 Config.identity.toNat ++ leBytes 4 (0xA1 + s.key.latch.toNat * 2 ^ 8 + bootState s * 2 ^ 16)) z :=
  ⟨_, congrArg (done s) (linkRequest_good h hf _), linkAnswer_answered rfl 1 0 _⟩

theorem badCommand_answered {cmd : Byte} (h : Arrives s t cmd q) (hcmd : cmd.toNat = 0 ∨ 5 < cmd.toNat) :
    ∃ z, Gives s (.mgtBadCommand t cmd q) z ∧ Answered s t cmd q 2 [] z := by
  have hf : mgtBadFields cmd q = true := by
    have hlisted : cmd = 0 ∨ 5 < cmd.toNat := hcmd.imp_left (fun e => BitVec.eq_of_toNat_eq e)
    rcases hlisted with e | e <;> simp [mgtBadFields, e]
  refine ⟨_, congrArg (done s) ((if_neg (by omega)).trans ((linkRequest_arrives h _).trans (if_pos hf))), linkAnswer_answered rfl cmd 2 []⟩

/-! ## READ and WRITE (R94, R112, R113) -/

theorem readAnswer_reached {s : State} {a n : Nat} (h : HostReach s false a n) (x : Asked) :
    readAnswer s x a n = linkAnswer s x 0 0 (if 0x0200000000 ≤ a ∧ a < 0x0200100000 then piBytes s a n else memBytes s a n) := by
  unfold readAnswer
  rw [hostRead_ok .hostRead n s a n [] (le_refl n) h]
  rfl

/-- A READ of a range that it may name waits for the owner's boundary or is answered at once. -/
theorem read_gives (h : Arrives s t 2 q) (hf : mgtBadFields 2 q = false) (hlen : q.len.toNat ≤ 4096)
    (hend : crossesEnd q.addr.toNat q.len.toNat = false) :
    Gives s (.read t q)
      (if q.len.toNat ≠ 0 ∧ ¬ (0x0200000000 ≤ q.addr.toNat ∧ q.addr.toNat < 0x0200100000) ∧ viaGate s .mgt q.addr.toNat 1 then
        setLink (received s t q) t.val { getLink (received s t q) t.val with
          gateRead := some (q.addr.toNat, q.len.toNat, mgtHeader 2 q, q.seq.toNat, q.crc) }
      else readAnswer (received s t q) (askedBy t 2 q) q.addr.toNat q.len.toNat) :=
  congrArg (done s) ((linkRequest_good h hf _).trans (if_neg (by simp [hend, hlen])))

theorem read_answered (h : Arrives s t 2 q) (hf : mgtBadFields 2 q = false) (hlen : q.len.toNat ≤ 4096)
    (hend : crossesEnd q.addr.toNat q.len.toNat = false) (hout : ¬ (0x0200000000 ≤ q.addr.toNat ∧ q.addr.toNat < 0x0200100000))
    (hown : viaGate s .mgt q.addr.toNat 1 = false) (hr : HostReach s false q.addr.toNat q.len.toNat) :
    ∃ z, Gives s (.read t q) z ∧ Answered s t 2 q 0 (memBytes s q.addr.toNat q.len.toNat) z ∧ z.mem = s.mem := by
  have hg := read_gives h hf hlen hend
  rw [if_neg (by simp [hown]), readAnswer_reached (s := received s t q) ⟨hr.may, hr.clean⟩, if_neg hout] at hg
  obtain ⟨ls, hls⟩ := linkAnswer_only (received s t q) (askedBy t 2 q) 0 0 (memBytes (received s t q) q.addr.toNat q.len.toNat)
  exact ⟨_, hg, linkAnswer_answered rfl 2 0 _, (congrArg State.mem hls :)⟩

theorem read_image_answered (h : Arrives s t 2 q) (hf : mgtBadFields 2 q = false) (hlen : q.len.toNat ≤ 4096)
    (hend : crossesEnd q.addr.toNat q.len.toNat = false) (him : 0x0200000000 ≤ q.addr.toNat ∧ q.addr.toNat < 0x0200100000)
    (hr : HostReach s false q.addr.toNat q.len.toNat) :
    ∃ z, Gives s (.read t q) z ∧ Answered s t 2 q 0 (piBytes s q.addr.toNat q.len.toNat) z ∧ z.mem = s.mem := by
  have hg := read_gives h hf hlen hend
  rw [if_neg (fun e => e.2.1 him), readAnswer_reached (s := received s t q) ⟨hr.may, hr.clean⟩, if_pos him] at hg
  obtain ⟨ls, hls⟩ := linkAnswer_only (received s t q) (askedBy t 2 q) 0 0 (piBytes (received s t q) q.addr.toNat q.len.toNat)
  exact ⟨_, hg, linkAnswer_answered rfl 2 0 _, (congrArg State.mem hls :)⟩

theorem read_waits (h : Arrives s t 2 q) (hf : mgtBadFields 2 q = false) (hlen : q.len.toNat ≤ 4096)
    (hend : crossesEnd q.addr.toNat q.len.toNat = false) (hout : ¬ (0x0200000000 ≤ q.addr.toNat ∧ q.addr.toNat < 0x0200100000))
    (hn : q.len.toNat ≠ 0) (hgate : viaGate s .mgt q.addr.toNat 1 = true) :
    ∃ z, Gives s (.read t q) z ∧ (getLink z t.val).sent = (getLink s t.val).sent
      ∧ (getLink z t.val).gateRead = some (q.addr.toNat, q.len.toNat, mgtHeader 2 q, q.seq.toNat, q.crc) := by
  have hg := read_gives h hf hlen hend
  rw [if_pos ⟨hn, hout, hgate⟩] at hg
  exact ⟨_, hg, by rw [getLink_setLink, received, getLink_setLink], by rw [getLink_setLink]⟩

theorem write_answered (h : Arrives s t 3 q) (hf : mgtBadFields 3 q = false) (hlen : q.len.toNat ≤ 4096)
    (hend : crossesEnd q.addr.toNat q.len.toNat = false) (hmay : hostMayWrite q.addr.toNat q.len.toNat = true)
    (hr : HostReach s true q.addr.toNat q.len.toNat) :
    ∃ z, Gives s (.write t q) z ∧ Answered s t 3 q 0 [] z ∧ memBytes z q.addr.toNat q.len.toNat = q.payload := by
  have hpay : q.payload.length = q.len.toNat := by
    by_contra hne
    simp [mgtBadFields, hne] at hf
  rw [← hpay] at hlen hend hmay hr ⊢
  obtain ⟨c, hw⟩ := hostWrite_ok q.payload.length (received s t q) q.addr.toNat q.payload (le_refl _) ⟨hr.may, hr.clean⟩
  obtain ⟨m, hm⟩ := setBytes_only q.payload (withEcc (received s t q) c) q.addr.toNat
  obtain ⟨ls, hls⟩ := linkAnswer_only (setBytes (withEcc (received s t q) c) q.addr.toNat q.payload) (askedBy t 3 q) 0 0 []
  refine ⟨linkAnswer (setBytes (withEcc (received s t q) c) q.addr.toNat q.payload) (askedBy t 3 q) 0 0 [],
    congrArg (done s) ((linkRequest_good h hf _).trans ((if_neg (by simp [hend, hlen])).trans ((if_neg (by simp [hmay])).trans ?_))),
    linkAnswer_answered (by rw [hm]; rfl) 3 0 [], ?_⟩
  · rw [hw]
  · have hrange : 0x40000 ≤ q.addr.toNat ∧ q.addr.toNat + q.payload.length ≤ 0x0C00000000 := by
      simp only [hostMayWrite, Bool.or_eq_true, Bool.and_eq_true, decide_eq_true_eq] at hmay
      omega
    rw [hls]
    exact memBytes_setBytes q.payload (withEcc (received s t q) c) q.addr.toNat hrange.1 hrange.2

/-! ## RUN and its jobs (R112, R113, R115) -/

/-- The job that a RUN makes. -/
def newJob (s : State) (t : Fin 4) (q : MgtReq) : RunJob :=
  { link := t.val, entry := q.b13.toNat, arg := q.addr.toNat, timeout := q.b14.toNat, header := mgtHeader 4 q
    key := (q.seq.toNat, q.crc), since := s.clk.tick.toNat }

/-- The state in which that job waits alone. -/
def queued (s : State) (t : Fin 4) (q : MgtReq) : State :=
  { received s t q with mgt := { (received s t q).mgt with runQ := [newJob s t q] } }

/-- A RUN that finds no other waiting puts its job in the queue, where it begins at once when none runs. -/
theorem run_gives (h : Arrives s t 4 q) (hf : mgtBadFields 4 q = false)
    (he : (s.mgt.entries.any (fun x => x.1 == q.b13.toNat)) = true) (hlo : 0x0010180000 ≤ q.addr.toNat)
    (hhi : q.addr.toNat + 4 ≤ 0x0010200000) (hq : s.mgt.runQ = []) :
    Gives s (.run t q) (jobNext (queued s t q)) := by
  have hq' : (received s t q).mgt.runQ = [] := hq
  have he' : (received s t q).mgt.entries.any (fun x => x.1 == q.b13.toNat) = true := he
  refine congrArg (done s) ((linkRequest_good h hf _).trans ?_)
  refine (if_neg (by simp [he'])).trans ((if_neg (by omega)).trans ((if_neg (by simp [hq'])).trans ?_))
  rw [hq']
  rfl

theorem jobNext_starts (s : State) (j : RunJob) (l : List RunJob) (hr : s.mgt.running = none) (hq : s.mgt.runQ = j :: l) :
    (jobNext s).mgt.running = some j ∧ (jobNext s).mgt.runQ = l ∧ (getCtx (jobNext s) 1).live = true := by
  unfold jobNext
  rw [hr, hq]
  exact ⟨rfl, rfl, by rw [getCtx_setCtx]; rfl⟩

theorem jobNext_busy (s : State) (h : s.mgt.running.isSome = true) : jobNext s = s := by
  obtain ⟨j, hj⟩ := Option.isSome_iff_exists.1 h
  unfold jobNext
  rw [hj]

/-- After a job has ended the first that waits runs. -/
theorem jobNext_running (s : State) (h : s.mgt.running = none) : (jobNext s).mgt.running = s.mgt.runQ.head? := by
  cases hq : s.mgt.runQ with
  | nil =>
    unfold jobNext
    rw [h, hq]
    exact h
  | cons j l => exact (jobNext_starts s j l h hq).1

/-- The next job's beginning changes contexts and jobs only. -/
theorem jobNext_only (s : State) : ∃ c r l, jobNext s = { s with ctxs := c, mgt := { s.mgt with running := r, runQ := l } } := by
  unfold jobNext
  split
  · exact ⟨_, _, _, rfl⟩
  · exact ⟨_, _, _, rfl⟩

theorem run_queued (h : Arrives s t 4 q) (hf : mgtBadFields 4 q = false)
    (he : (s.mgt.entries.any (fun x => x.1 == q.b13.toNat)) = true) (hlo : 0x0010180000 ≤ q.addr.toNat)
    (hhi : q.addr.toNat + 4 ≤ 0x0010200000) (hq : s.mgt.runQ = []) :
    ∃ z x, Gives s (.run t q) z ∧ x.entry = q.b13.toNat ∧ x.arg = q.addr.toNat
      ∧ (s.mgt.running = none → z.mgt.running = some x ∧ z.mgt.runQ = [] ∧ (getCtx z 1).live = true)
      ∧ (s.mgt.running.isSome = true → z.mgt.running = s.mgt.running ∧ z.mgt.runQ = [x]) := by
  refine ⟨_, newJob s t q, run_gives h hf he hlo hhi hq, rfl, rfl, fun hr => jobNext_starts _ _ _ hr rfl, fun hr => ?_⟩
  rw [jobNext_busy (queued s t q) hr]
  exact ⟨rfl, rfl⟩

end

section
variable {s : State} {j : RunJob}

/-- The state in which the job in execution has ended. -/
def jobEnded (s : State) : State := setCtx { s with mgt := { s.mgt with running := none } } 1 {}

/-- A job that ends after its timeout leaves its result at the argument block (R113). -/
theorem runJobDone_late (hr : s.mgt.running = some j) (hw : s.pwr.asleep = false) (hl : j.timedOut = true)
    (hmay : accessCause s 0 true j.arg 4 = none) (hclean : Tbl.get 0 s.mem.ecc (storedAt s j.arg / 8) = 0) (result : Word) :
    ∃ z, Gives s (.runJobDone result) z ∧ memW z j.arg = result ∧ z.mgt.running = s.mgt.runQ.head? := by
  have hacc : access (jobEnded s) { unit := 0 } .write true j.arg 4 = (jobEnded s, none) :=
    access_ok (jobEnded s) { unit := 0 } .write true j.arg 4 hmay hclean (by decide)
  obtain ⟨m, hm⟩ : ∃ m, setW (jobEnded s) j.arg result = { jobEnded s with mem := m } := setN_frame 4 (jobEnded s) j.arg result.toNat
  obtain ⟨c, r, l, hnext⟩ := jobNext_only (setW (jobEnded s) j.arg result)
  have hrun : (setW (jobEnded s) j.arg result).mgt = (jobEnded s).mgt := (congrArg State.mgt hm :)
  refine ⟨jobNext (setW (jobEnded s) j.arg result), congrArg (done s) ?_, ?_, ?_⟩
  · rw [hr]
    refine (if_neg (by simp [hw])).trans (congrArg jobNext ((if_pos hl).trans ?_))
    unfold jobEnded at hacc ⊢
    rw [hacc]
  · rw [hnext]
    exact memW_setW (jobEnded s) j.arg result (fun x hx hlt => plainAddr_of_hostWrite hmay x hx hlt)
  · rw [jobNext_running _ (by rw [hrun]; rfl), hrun]
    rfl

/-- A job that ends in time is answered with its result. -/
theorem runJobDone_answered (hr : s.mgt.running = some j) (hw : s.pwr.asleep = false) (hl : j.timedOut = false) (result : Word) :
    ∃ z, Gives s (.runJobDone result) z ∧ (getLink z j.link).out = mgtResponse j.header 0 0 (leBytes 4 result.toNat)
      ∧ z.mgt.running = s.mgt.runQ.head? := by
  obtain ⟨ls, hls⟩ := linkAnswer_only (jobEnded s) (jobAsked j) 0 0 (leBytes 4 result.toNat)
  obtain ⟨hout, -⟩ := getLink_linkAnswer (jobEnded s) (jobAsked j) 0 0 (leBytes 4 result.toNat)
  obtain ⟨c, r, l, hnext⟩ := jobNext_only (linkAnswer (jobEnded s) (jobAsked j) 0 0 (leBytes 4 result.toNat))
  refine ⟨jobNext (linkAnswer (jobEnded s) (jobAsked j) 0 0 (leBytes 4 result.toNat)), congrArg (done s) ?_, ?_, ?_⟩
  · rw [hr]
    exact (if_neg (by simp [hw])).trans (congrArg jobNext (if_neg (by simp [hl])))
  · rw [hnext]
    exact hout
  · rw [jobNext_running _ (by rw [hls]; rfl), hls]
    rfl

theorem jobLate_iff : jobLate s j = true ↔ j.timedOut = false ∧ j.since + 100 * j.timeout ≤ s.clk.tick.toNat + 1 := by
  simp [jobLate]

/-- The job in execution that exceeds its timeout is answered so, and goes on. -/
theorem runJobTimeout_running (hr : s.mgt.running = some j) (hl : jobLate s j = true) :
    ∃ z, Gives s (.runJobTimeout 0) z ∧ (getLink z j.link).out = mgtResponse j.header 5 0 []
      ∧ z.mgt.running = some { j with timedOut := true } := by
  have hg : Gives s (.runJobTimeout 0)
      (linkAnswer { s with mgt := { s.mgt with running := some { j with timedOut := true } } } (jobAsked j) 5 0 []) := by
    refine congrArg (done s) ((if_pos rfl).trans ?_)
    rw [hr]
    exact if_pos hl
  obtain ⟨ls, hls⟩ := linkAnswer_only { s with mgt := { s.mgt with running := some { j with timedOut := true } } } (jobAsked j) 5 0 []
  exact ⟨_, hg, (getLink_linkAnswer _ (jobAsked j) 5 0 []).1, by rw [hls]⟩

/-- A waiting job that exceeds its timeout is answered so, and goes on waiting. -/
theorem runJobTimeout_waiting (i : Fin 4) (hq : s.mgt.runQ[i.val]? = some j) (hl : jobLate s j = true) :
    ∃ z, Gives s (.runJobTimeout i.succ) z ∧ (getLink z j.link).out = mgtResponse j.header 5 0 []
      ∧ z.mgt.runQ[i.val]? = some { j with timedOut := true } ∧ z.mgt.running = s.mgt.running := by
  have hg : Gives s (.runJobTimeout i.succ)
      (linkAnswer { s with mgt := { s.mgt with runQ := s.mgt.runQ.set i.val { j with timedOut := true } } } (jobAsked j) 5 0 []) := by
    refine congrArg (done s) ((if_neg (by simp)).trans ?_)
    rw [show s.mgt.runQ[i.succ.val - 1]? = some j from hq]
    exact if_pos hl
  obtain ⟨ls, hls⟩ := linkAnswer_only { s with mgt := { s.mgt with runQ := s.mgt.runQ.set i.val { j with timedOut := true } } }
    (jobAsked j) 5 0 []
  obtain ⟨hlt, -⟩ := List.getElem?_eq_some_iff.1 hq
  exact ⟨_, hg, (getLink_linkAnswer _ (jobAsked j) 5 0 []).1, by rw [hls]; exact List.getElem?_set_self hlt, by rw [hls]⟩

end

/-! ## UPDATE (R112, R113, R115, R547) -/

section
variable {s : State} {t : Fin 4} {q : MgtReq} {d : List Byte}

/-- An UPDATE whose envelope has been read from staging is judged by its verification. -/
theorem update_gives (h : Arrives s t 5 q) (hf : mgtBadFields 5 q = false) (hlo : 0x0B00000000 ≤ q.addr.toNat)
    (hend : q.addr.toNat + q.len.toNat ≤ 0x0B01000000) (hhi : q.addr.toNat < 0x0B01000000)
    (hd : hostRead .hostWrite q.len.toNat (received s t q) q.addr.toNat q.len.toNat [] = (received s t q, .ok d)) :
    Gives s (.update t q) (updateRun (received s t q) (askedBy t 5 q) q.addr.toNat d) := by
  have hboot : bootState (received s t q) ≠ 2 := fun e => absurd (e ▸ h.booted : 3 ≤ 2) (by decide)
  refine congrArg (done s) ((linkRequest_good h hf _).trans ((if_neg (by omega)).trans ((if_neg (by omega)).trans ?_)))
  rw [hd]
  exact if_neg (fun e => hboot e.1)

theorem updateRun_refused {x : Asked} {a : Nat} {s' : State} (hv : envVerify s false d = (s', none)) :
    updateRun s x a d = linkAnswer s' x 7 0 [] := by
  unfold updateRun
  rw [hv]

/-- A payload that the gate accepts is answered so; only an MGT image may be followed by more. -/
theorem updateRun_accepted {x : Asked} {a : Nat} {s2 s3 : State} {e : EnvInfo} {pl : List Byte}
    (hv : envVerify s false d = (s2, some (e, pl))) (hfree : (gateTargetOf e).any (fun y => (gateFind s2 y).isSome) = false)
    (hfit : imagesFit s2 e = true) (ha : updateAccept s2 e pl = (s3, true)) (hty : e.ty ≠ 8) :
    updateRun s x a d = linkAnswer s3 x 0 0 [] := by
  unfold updateRun
  rw [hv]
  refine (if_neg (by simp [hfree])).trans ((if_neg (by simp [hfit])).trans ?_)
  rw [ha]
  exact if_neg (fun h => hty h.1)

end

/-! ## The statement -/

/-- Settles O28: each clause is what one command of the link does; every answer is that of `linkAnswer` in a state with the request's
transports. -/
theorem managementLinkCommandsAreAnswered : Obligations.ManagementLinkCommandsAreAnswered := by
  unfold Obligations.ManagementLinkCommandsAreAnswered
  intro s t cmd q j d result a n key l s1 good answers reach image
  have arrives {c : Byte} (h : good c) : Arrives s t c q ∧ mgtBadFields c q = false :=
    let ⟨hw, hc, hn, hb, hf⟩ := h
    ⟨⟨hw, hc, hn, hb⟩, hf⟩
  refine ⟨fun h => ?ident, fun h hlen hend => ⟨fun hout hown hr => ?memory, fun him hr => ?image, fun hout hn hgate => ?waits⟩,
    fun h hlen hend hmay hr => ?write, fun h he hlo hhi hq => ?run, fun h hlo hend hhi hd => ?update,
    fun hw hc hn hb hcmd => ?unlisted, fun hr hw hl hmay hclean => ?late, fun i hq hl hdue => ?waiting,
    fun hr hw hl => ⟨?inTime, fun hdue => ?timeout⟩⟩
  case ident => exact ident_answered (arrives h).1 (arrives h).2
  case memory => exact read_answered (arrives h).1 (arrives h).2 hlen hend hout hown ⟨hr.1, hr.2⟩
  case image => exact read_image_answered (arrives h).1 (arrives h).2 hlen hend him ⟨hr.1, hr.2⟩
  case waits => exact read_waits (arrives h).1 (arrives h).2 hlen hend hout hn hgate
  case write => exact write_answered (arrives h).1 (arrives h).2 hlen hend hmay ⟨hr.1, hr.2⟩
  case run => exact run_queued (arrives h).1 (arrives h).2 he hlo hhi hq
  case update =>
    refine ⟨_, update_gives (arrives h).1 (arrives h).2 hlo hend hhi hd, fun s2 hv hls => ?refused,
      fun s2 s3 e pl hv hfree hfit ha hls hty => ?accepted⟩
    case refused =>
      rw [show updateRun (received s t q) _ _ _ = _ from updateRun_refused hv]
      exact linkAnswer_answered hls 5 7 []
    case accepted =>
      rw [show updateRun (received s t q) _ _ _ = _ from updateRun_accepted hv hfree hfit ha hty]
      obtain ⟨ls, hls3⟩ := linkAnswer_only s3 (askedBy t 5 q) 0 0 []
      exact ⟨linkAnswer_answered hls 5 0 [], by rw [hls3]⟩
  case unlisted => exact badCommand_answered ⟨hw, hc, hn, hb⟩ hcmd
  case late => exact runJobDone_late hr hw hl hmay hclean result
  case waiting => exact runJobTimeout_waiting i hq (jobLate_iff.2 ⟨hl, hdue⟩)
  case inTime => exact runJobDone_answered hr hw hl result
  case timeout => exact runJobTimeout_running hr (jobLate_iff.2 ⟨hl, hdue⟩)

end Sys2Proof.Machine
end

section
/-! SUPPORT. What the boundary of a loop slot and the end of its run may change (R396, R398, R399). -/
namespace Sys2Proof.Machine

theorem ite_reports {s t u : State} {c : Prop} [Decidable c] (ht : Reports s t) (hu : Reports s u) : Reports s (if c then t else u) := by
  split
  · exact ht
  · exact hu

theorem Reports.afe_eq {s t : State} (h : Reports s t) : t.afe = s.afe := by
  obtain ⟨m, c, e, a, l, rfl⟩ := h
  rfl

theorem Reports.hmi_eq {s t : State} (h : Reports s t) : t.hmi = s.hmi := by
  obtain ⟨m, c, e, a, l, rfl⟩ := h
  rfl

theorem Reports.getConv_eq {s t : State} (h : Reports s t) (n : Nat) : getConv t n = getConv s n := by rw [getConv, h.afe_eq]; rfl

theorem fSetBit_reports (s : State) (u f k : Nat) (b : Bool) : Reports s (fSetBit s u f k b) := fSet_reports s u f _

theorem cfg_reports (s : State) (c : Cfg) : Reports s { s with cfg := c } := ⟨_, _, _, _, _, rfl⟩

theorem setSlot_reports (s : State) (n : Nat) (x : Slot) : Reports s (setSlot s n x) := ⟨_, _, _, _, _, rfl⟩

theorem setLive_reports (s : State) (n w : Nat) (v : Word) : Reports s (setLive s n w v) := hwWrite_reports s _ _ _

theorem livePart_reports (s : State) (n w lo len v : Nat) : Reports s (livePart s n w lo len v) := setLive_reports s n w _

theorem slotFlag_reports (s : State) (n k : Nat) (b : Bool) : Reports s (slotFlag s n k b) := livePart_reports s n 1 k 1 _

theorem clearStates_reports (s : State) (n : Nat) : Reports s (clearStates s n) := hwWrite_reports s _ _ _

theorem pendTake_reports (s : State) (u f : Nat) : Reports s (pendTake s u f) := by
  unfold pendTake
  split
  · exact Reports.refl s
  · split
    · exact Reports.refl s
    · have htaken (v : Word) (p : Tbl Word) : Reports s (dropShadow (fSet s u f v) p) := (fSet_reports s u f v).trans (cfg_reports _ _)
      exact ite_reports ((htaken _ _).trans ((cfg_reports _ _).trans ((fSetBit_reports _ u 0x3FF 1 false).trans (fSet_reports _ u 0x3FF _))))
        ((htaken _ _).trans (cfg_reports _ _))

theorem slotEnable_reports (s : State) (n : Nat) : Reports s (slotEnable s n) :=
  (clearStates_reports s n).trans <| (setLive_reports _ n 2 0).trans <| (setLive_reports _ n 3 0).trans <|
    (setLive_reports _ n 4 0).trans <| (setLive_reports _ n 8 0).trans <| (setLive_reports _ n 9 0).trans <|
    (setLive_reports _ n 1 _).trans <| setSlot_reports _ n _

theorem slotEn_reports (s : State) (n : Nat) : Reports s (slotEn s n) := by
  unfold slotEn
  dsimp only
  split
  · exact Reports.refl s
  · next v _ =>
    have hset := fSetBit_reports s 0x10 (2 + n / 32) (n % 32) (v.tst (n % 32))
    have htake {c : Prop} [Decidable c] := ite_reports (c := c) (hset.trans (pendTake_reports _ 0x10 (2 + n / 32))) hset
    exact ite_reports (htake.trans (slotEnable_reports _ n))
      (ite_reports (htake.trans ((slotFlag_reports _ n 30 false).trans (setSlot_reports _ n _))) htake)

theorem injEnd_reports (s : State) (n : Nat) : Reports s (injEnd s n) :=
  ite_reports ((slotFlag_reports s n 26 false).trans (raise_reports _ 260)) (Reports.refl s)

theorem slotSwap_reports (s : State) (n : Nat) : Reports s (slotSwap s n) := by
  have hpart := livePart_reports s n 0 31 1 0
  have hflag (b : Bool) := hpart.trans ((injEnd_reports _ n).trans (slotFlag_reports _ n 31 b))
  unfold slotSwap
  exact ite_reports
    ((ite_reports (hflag _) ((hflag _).trans (clearStates_reports _ n))).trans ((slotFlag_reports _ n 22 false).trans (setSlot_reports _ n _)))
    (hpart.trans ((slotFlag_reports _ n 22 true).trans (raisePost_reports _ _ _ _ _)))

theorem slotBoundary_reports (s : State) (n : Nat) : Reports s (slotBoundary s n) := by
  have hen := slotEn_reports s n
  have hclear {c : Prop} [Decidable c] :=
    ite_reports (c := c) (hen.trans ((livePart_reports _ n 0 28 1 0).trans (clearStates_reports _ n))) hen
  have hzero {t : State} (ht : Reports s t) (a len : Nat) {c : Prop} [Decidable c] : Reports s
      (if c then zeroRange (livePart t n 0 29 1 0) a len else t) :=
    ite_reports (ht.trans ((livePart_reports t n 0 29 1 0).trans ⟨_, _, _, _, _, rfl⟩)) ht
  have hswap {t : State} (ht : Reports s t) {c : Prop} [Decidable c] := ite_reports (c := c) (ht.trans (slotSwap_reports t n)) ht
  unfold slotBoundary
  exact ite_reports ((hswap (hzero hclear _ _)).trans (setSlot_reports _ n _)) (hswap (hzero hclear _ _))

theorem actionDone_reports (s : State) (u f lo len : Nat) : Reports s (actionDone s u f lo len) := by
  unfold actionDone
  dsimp only
  split
  · exact ite_reports ⟨_, _, _, _, _, rfl⟩ ⟨_, _, _, _, _, rfl⟩
  · exact ⟨_, _, _, _, _, rfl⟩

theorem capSample_reports (s : State) (n c : Nat) (lost : Bool) : Reports s (capSample s n c lost) := by
  have hrecord (a : Nat) (ws : List Word) (f lo len v : Nat) : Reports s (fSetPart (hwWords s 0x10 a ws) 0x10 f lo len v) :=
    (hwWrite_reports s _ a _).trans (fSet_reports _ _ _ _)
  unfold capSample
  exact ite_reports ((hrecord _ _ _ _ _ _).trans ((fSet_reports _ _ _ _).trans ((actionDone_reports _ _ _ _ _).trans (raise_reports _ 259))))
    (hrecord _ _ _ _ _ _)

theorem captures_reports (s : State) (n : Nat) (lost : Bool) : Reports s (captures s n lost) :=
  Reports.fold _ (fun s c => capSample_reports s n c lost) _ s

/-- The end of a run takes no part in what the converters do: beside what a report may change it frees an engine's context. -/
theorem slotEnd_afe (s : State) (n : Nat) : (slotEnd s n).afe = s.afe := by
  have hrest (t : State) (x : Slot) : (slotBoundary (setSlot (captures (slotFlag t n 29 false) n false) n x) n).afe = t.afe :=
    ((slotFlag_reports t n 29 false).trans ((captures_reports _ n false).trans ((setSlot_reports _ n x).trans
      (slotBoundary_reports _ n)))).afe_eq
  unfold slotEnd
  dsimp only
  rw [hrest]
  split <;> rfl

end Sys2Proof.Machine
end

section
/-! SUPPORT. The sequencers and their triggers, and the conversions of a converter, planned and urgent (R119 to R138). -/
namespace Sys2Proof.Machine

/-! ## Fields and bits of words -/

/-- The bit of a field after one of its bits is set. -/
theorem fBit_fSetBit (s : State) (u f j k : Nat) (b : Bool) (hk : k < 32) :
    fBit (fSetBit s u f j b) u f k = if k = j then b else fBit s u f k := by
  have hput : fSetBit s u f j b = fSet s u f ((fGet s u f).put j b) := rfl
  rw [fBit, hput, fGet_fSet_self, tst_put _ _ _ _ hk]
  rfl

/-- The part just written. -/
theorem field_setField_self (w : Word) (lo len v : Nat) (h : lo + len ≤ 32) : (w.setField lo len v).field lo len = v % 2 ^ len := by
  refine Nat.eq_of_testBit_eq fun j => ?_
  rw [testBit_field, Nat.testBit_mod_two_pow]
  by_cases hj : j < len
  · rw [getLsbD_setField _ _ _ _ _ (by omega), if_pos ⟨Nat.le_add_right .., by omega⟩, Nat.add_sub_cancel_left]
  · simp [hj]

theorem satInc_lt (len n : Nat) : satInc len n < 2 ^ len := by
  have hpos := Nat.two_pow_pos len
  unfold satInc
  split <;> omega

theorem fPart_fInc_self (s : State) (u f lo len : Nat) (h : lo + len ≤ 32) :
    fPart (fInc s u f lo len) u f lo len = satInc len (fPart s u f lo len) := by
  rw [fInc, fPart, fSetPart, fGet_fSet_self, field_setField_self _ _ _ _ h, Nat.mod_eq_of_lt (satInc_lt _ _)]

theorem bit_le_one (b : Bool) : bit b ≤ 1 := by cases b <;> decide

theorem tst_eq_field (w : Word) (k : Nat) : w.tst k = decide (w.field k 1 = 1) := Nat.testBit_eq_decide_div_mod_eq

theorem tst_of_field {w : Word} {k : Nat} {b : Bool} (h : w.field k 1 = bit b) : w.tst k = b := by
  rw [tst_eq_field, h]
  cases b <;> rfl

/-- What a result word tells of its conversion (R127). -/
structure Tells (r : Word) (pull late : Bool) (aborts : Nat) (urg : Bool) (ch code : Nat) : Prop where
  valid : r.tst 31 = true
  pull : r.tst 30 = pull
  late : r.tst 27 = late
  aborts : r.field 24 3 = min 7 aborts
  urg : r.tst 23 = urg
  ch : r.field 16 7 = ch
  code : r.field 0 16 = code

theorem resultWord_tells (pull diag opn late : Bool) (aborts : Nat) (urg : Bool) (ch code : Nat) (hch : ch < 128) (hcode : code < 65536) :
    Tells (resultWord pull diag opn late aborts urg ch code) pull late aborts urg ch code := by
  have hpull := bit_le_one pull
  have hdiag := bit_le_one diag
  have hopn := bit_le_one opn
  have hlate := bit_le_one late
  have hurg := bit_le_one urg
  have hn := word_ofN_toNat (2 ^ 31 + bit pull * 2 ^ 30 + bit diag * 2 ^ 29 + bit opn * 2 ^ 28 + bit late * 2 ^ 27 + min 7 aborts * 2 ^ 24 +
    bit urg * 2 ^ 23 + ch * 2 ^ 16 + code) (by omega)
  have htrue : bit true = 1 := rfl
  have hfalse : bit false = 0 := rfl
  have hfield (lo len : Nat) : (resultWord pull diag opn late aborts urg ch code).field lo len = _ / 2 ^ lo % 2 ^ len :=
    congrArg (fun m => m / 2 ^ lo % 2 ^ len) hn
  exact ⟨tst_of_field ((hfield 31 1).trans (by omega)), tst_of_field ((hfield 30 1).trans (by omega)),
    tst_of_field ((hfield 27 1).trans (by omega)), (hfield 24 3).trans (by omega), tst_of_field ((hfield 23 1).trans (by omega)),
    (hfield 16 7).trans (by omega), (hfield 0 16).trans (by omega)⟩

/-- A code has sixteen bits (R119). -/
theorem adcCode_lt (nv : Int) : adcCode nv < 65536 := by
  unfold adcCode
  omega

/-! ## Converters -/

@[simp] theorem getConv_setConv (s : State) (n : Nat) (c : Conv) : getConv (setConv s n c) n = c := Tbl.get_put_self ..

theorem getCtx_setPred (s : State) (k : Nat) (p : PReg) (b : Bool) : getCtx (setPred s k p b) k = wrP (getCtx s k) p b := getCtx_setCtx s k _

@[simp] theorem getConv_past (s : State) (k len n : Nat) : getConv (past s k len) n = getConv s n := rfl

@[simp] theorem getConv_setPred (s : State) (k n : Nat) (p : PReg) (b : Bool) : getConv (setPred s k p b) n = getConv s n := rfl

/-- With nothing pending for AFE a sequence end applies no configuration (R138). -/
theorem afeConfig_none (s : State) (n : Nat) (hp : Tbl.find s.cfg.pend 0x11 = none) : afeConfig s n = s := by
  have hown (l : List Nat) : l.foldl (fun s f => if (pendFind s 0x11 f).isSome then pendTake s 0x11 f else s) s = s :=
    List.foldlRecOn (motive := fun t => t = s) l _ rfl (fun t ht f _ => by subst ht; simp [pendFind, hp])
  unfold afeConfig
  dsimp only
  rw [hown]
  simp [afePendGlobals, hp]

theorem afePlan_none (s : State) (n : Nat) (hg : gateFind s (0x11 * 64 + n) = none) : afePlan s n = (s, false) := by rw [afePlan, hg]

/-- A plan that is applied starts a running sequencer anew (R138, R546). -/
theorem afePlan_starts (s : State) (n : Nat) (g : GateItem) (ty : Nat) (data home : List Byte)
    (hg : gateFind s (0x11 * 64 + n) = some g) (hpay : g.change = .payload ty data) (himg : engineImage 0x000A 0x10000 data = some home)
    (hlive : (getCtx s (16 + n)).live = true) :
    ∃ t, afePlan s n = (t, true) ∧ getCtx t (16 + n) = { pc := 0x400, live := true } := by
  have hl : (Tbl.get {} s.ctxs (16 + n)).live = true := hlive
  unfold afePlan
  rw [hg]
  dsimp only
  rw [hpay]
  dsimp only
  rw [himg]
  dsimp only
  rw [if_pos hl]
  exact ⟨_, rfl, getCtx_setCtx _ (16 + n) _⟩

/-! ## `cnv` and `ow.set` (R121, R122, R124) -/

/-- The conversion that a `cnv` asks for, before it takes a place. -/
def askedCnv (s : State) (n : Nat) (rd : Reg) (ch : BitVec 7) (prof pri : BitVec 2) (ow : Bool) : Cnv :=
  { rd := rd.toNat, ch := ch.toNat, prof := prof.toNat, ow := ow, pri := pri.toNat, late := (getConv s n).first.getD false
    due := if (getConv s n).first.isSome then some (triggerDue s n (getConv s n)) else none }

/-- The instant from which a `cnv` that finds the converter free of plan conversions may run (R123, R128). -/
def cnvStart (s : State) (n : Nat) : Nat :=
  max (nowNs s) (if (getConv s n).first.isSome then (getConv s n).trigAt * 10000 + fPart s 0x11 (0x102 + 16 * n) 0 16 + 6 else 0)

section
variable (s : State) (h : Hdr) (k : Nat) (n : Fin 16) (heng : h.eng = .afe n)
include heng

theorem seqOf_afe : seqOf h.eng = n.val := by rw [heng]; rfl

variable (rd : Reg) (ch : BitVec 7) (prof pri : BitVec 2) (ow : Bool)

/-- The word of a `cnv` and when it is illegal (R121). -/
def cnvDec (n : Nat) (rd : Reg) (ch : BitVec 7) (prof pri : BitVec 2) (ow : Bool) : Dec :=
  { word := encF 0b111100 [(rd.toNat, 18), (ch.toNat, 11), (prof.toNat, 9), (bit ow, 8), (pri.toNat, 6)], grp := .cnv
    bad := oddReg rd || !reachable n ch.toNat }

theorem cnv_starts (hrun : (getConv s n).run = none) :
    Takes s h k (.cnv h rd ch prof ow pri) (cnvDec n rd ch prof pri ow) (setConv (past s k 4) n { getConv s n with
      run := some (startCnv s n (getConv s n) (askedCnv s n rd ch prof pri ow) (cnvStart s n) (getConv s n).urgRun), first := none }) := by
  rw [cnvDec, ← seqOf_afe h n heng]
  refine takes_ok h _ k _ _ s _ rfl ?_
  dsimp only
  rw [seqOf_afe h n heng, getConv_past, hrun]
  rfl

theorem cnv_queues (y : Cnv) (hrun : (getConv s n).run = some y) (hnext : (getConv s n).next = none) :
    Takes s h k (.cnv h rd ch prof ow pri) (cnvDec n rd ch prof pri ow) (setConv (past s k 4) n { getConv s n with
      next := some (askedCnv s n rd ch prof pri ow), first := none }) := by
  rw [cnvDec, ← seqOf_afe h n heng]
  refine takes_ok h _ k _ _ s _ rfl ?_
  dsimp only
  rw [seqOf_afe h n heng, getConv_past, hrun, hnext]
  rfl

/-- With both places taken the pc stays at the `cnv`. -/
theorem cnv_waits (y z : Cnv) (hrun : (getConv s n).run = some y) (hnext : (getConv s n).next = some z) :
    Takes s h k (.cnv h rd ch prof ow pri) (cnvDec n rd ch prof pri ow) (setPc (past s k 4) k ((getCtx s k).pc + 4 - 4)) := by
  rw [cnvDec, ← seqOf_afe h n heng]
  refine takes_ok h _ k _ _ s _ rfl ?_
  dsimp only
  rw [seqOf_afe h n heng, getConv_past, hrun, hnext, getCtx_past]
  rfl

/-- `ow.set` sets the pull of its channel and of no other. -/
theorem owSet_takes (pull : BitVec 3) : ∃ t, Takes s h k (.owSet h ch pull)
      { word := encF 0b111110 [(ch.toNat, 11), (pull.toNat, 8)], grp := .cnv
        bad := !reachable n ch.toNat || ch.toNat < 32 || 96 ≤ ch.toNat || pull == 4 } t
    ∧ (getConv t n).pulls = Tbl.put 0 (getConv s n).pulls ch.toNat pull.toNat := by
  rw [← seqOf_afe h n heng]
  exact ⟨_, takes_ok h _ k _ _ s _ rfl rfl, congrArg Conv.pulls (getConv_setConv ..)⟩

/-! ## `trg.wait` (R123, R126, R138) -/

variable (pd : PReg) (rt : Reg)

/-- The word of a `trg.wait` (R121). -/
def trgDec (pd : PReg) (rt : Reg) : Dec := { word := encF 0b111101 [(pd.toNat, 20), (rt.toNat, 13)], grp := .cnv }

/-- A plan update that waits is the sequence's end. -/
theorem trgWait_fresh (t : State) (hplan : afePlan (afeConfig (past s k 4) n) n = (t, true)) :
    Takes s h k (.trgWait h pd rt) (trgDec pd rt) t := by
  refine takes_ok h _ k _ _ s _ rfl ?_
  dsimp only
  rw [seqOf_afe h n heng, show (trgDec pd rt).len = 4 from rfl, hplan]
  rfl

/-- Without one, the trigger of the converter decides. -/
theorem trgWait_takes (hp : Tbl.find s.cfg.pend 0x11 = none) (hg : gateFind s (0x11 * 64 + n) = none) :
    Takes s h k (.trgWait h pd rt) (trgDec pd rt) (if (getConv s n).trig then
        setPred (setConv (past s k 4) n { getConv s n with trig := false, first := some true }) k pd true
      else if reg s k rt = 0 then setPred (past s k 4) k pd false
      else suspend (past s k 4) k (.trigger pd.toNat (deadlineOf s (reg s k rt)))) := by
  refine takes_ok h _ k _ _ s _ rfl ?_
  dsimp only
  rw [seqOf_afe h n heng, show (trgDec pd rt).len = 4 from rfl, afeConfig_none (past s k 4) n hp, afePlan_none (past s k 4) n hg, reg_past]
  change (if (getConv s n).trig = true then _ else _) = _
  split_ifs <;> rfl

end

/-! ## Triggers (R125, R126) -/

/-- The trigger of a sequencer occurs, and AFE takes it (R125, R581). -/
def Triggered (s : State) (n : Nat) : Prop :=
  (if (fGet s 0x11 (0x101 + 16 * n)).tst 16 then (getConv s n).due = true
    else s.clk.tick.toNat % (fGet s 0x11 (0x101 + 16 * n)).field 0 16 = 0 ∧ (getConv s n).last ≠ some s.clk.tick.toNat
      ∧ s.clk.refClk = true) ∧ domainOn s 5 = true ∧ s.pwr.asleep = false

/-- The state in which a sequencer's trigger is taken note of. -/
def trigNoted (s : State) (n : Nat) : State := setConv s n { getConv s n with due := false, last := some s.clk.tick.toNat }

/-- What a trigger that occurs does to its sequencer: it wakes it, is lost, or becomes pending. -/
def trigTaken (s : State) (n : Nat) : State :=
  match (getCtx s (16 + n)).wait with
  | .trigger pd _ =>
    setPred (suspend (setConv (trigNoted s n) n { getConv (trigNoted s n) n with first := some false, trigAt := s.clk.tick.toNat })
      (16 + n) .none) (16 + n) (BitVec.ofNat 3 pd) true
  | _ =>
    if (getConv s n).trig then raise (fInc (trigNoted s n) 0x11 (afeStatus n) 24 8) 276
    else setConv (trigNoted s n) n { getConv (trigNoted s n) n with trig := true, trigAt := s.clk.tick.toNat }

/-- The guard of the command in the terms of `Triggered`. -/
theorem triggered_iff (s : State) (n : Nat) :
    (!(if (fGet s 0x11 (0x101 + 16 * n)).tst 16 then (getConv s n).due
        else s.clk.tick.toNat % (fGet s 0x11 (0x101 + 16 * n)).field 0 16 == 0 && (getConv s n).last != some s.clk.tick.toNat && s.clk.refClk)
      || !domainOn s 5 || s.pwr.asleep) = true ↔ ¬ Triggered s n := by
  unfold Triggered
  cases domainOn s 5 <;> cases s.pwr.asleep <;> split <;> simp [imp_iff_not_or, or_assoc]

theorem sarTrigger_occurs (s : State) (n : Fin 16) (h : Triggered s n) : Gives s (.sarTrigger n) (trigTaken s n) :=
  congrArg (done s) (if_neg (fun hg => (triggered_iff s n).1 hg h))

theorem sarTrigger_idle (s : State) (n : Fin 16) (h : ¬ Triggered s n) : Gives s (.sarTrigger n) s :=
  congrArg (done s) (if_pos ((triggered_iff s n).2 h))

section
variable (s : State) (n : Nat)

theorem wrP_wait (c : Ctx) (p : PReg) (b : Bool) : (wrP c p b).wait = c.wait := by
  unfold wrP
  split <;> rfl

theorem trigTaken_wakes (pd : PReg) (d : Option Nat) (hw : (getCtx s (16 + n)).wait = .trigger pd.toNat d) :
    (getCtx (trigTaken s n) (16 + n)).wait = .none ∧ rdP (getCtx (trigTaken s n) (16 + n)) pd = true := by
  have hpd : BitVec.ofNat 3 pd.toNat = pd := by simp
  unfold trigTaken
  rw [hw]
  dsimp only
  rw [hpd]
  exact ⟨by rw [getCtx_setPred, wrP_wait, suspend, getCtx_setCtx], rdP_setPred_true ..⟩

theorem trigTaken_pends (hw : (getCtx s (16 + n)).wait = .none) (ht : (getConv s n).trig = false) :
    (getConv (trigTaken s n) n).trig = true ∧ (getConv (trigTaken s n) n).trigAt = s.clk.tick.toNat := by
  unfold trigTaken
  rw [hw, ht]
  simp

/-- A trigger that finds another one pending is lost and counted (R126). -/
theorem trigTaken_lost (hn : n < 16) (hw : (getCtx s (16 + n)).wait = .none) (ht : (getConv s n).trig = true) :
    evtPending (trigTaken s n) 0 276 = true
    ∧ fPart (trigTaken s n) 0x11 (0x106 + 16 * n) 24 8 = satInc 8 (fPart s 0x11 (0x106 + 16 * n) 24 8) := by
  unfold trigTaken
  rw [hw, ht]
  dsimp only
  rw [if_pos rfl]
  refine ⟨evtPending_raise_self _ 0 276 (by decide), ?_⟩
  rw [fPart, fGet_raise _ _ _ _ (by decide) (by omega)]
  exact fPart_fInc_self (trigNoted s n) 0x11 (afeStatus n) 24 8 (by decide)

end

/-- The timeout of a `trg.wait` ends it with its predicate false (R123). -/
theorem trgWaitTimeout_ends (s : State) (n : Fin 16) (pd : PReg) (e : Nat)
    (hw : (getCtx s (16 + n.val)).wait = .trigger pd.toNat (some e)) (he : e ≤ s.clk.tick.toNat) (ha : s.pwr.asleep = false) :
    Gives s (.trgWaitTimeout n) (setPred (suspend s (16 + n.val) .none) (16 + n.val) pd false) := by
  have hpd : BitVec.ofNat 3 pd.toNat = pd := by simp
  change execTrgWaitTimeout n s = _
  unfold execTrgWaitTimeout
  dsimp only
  rw [hw]
  dsimp only
  rw [if_pos (by simp [he, ha]), hpd]
  rfl

theorem trgWaitTimeout_early (s : State) (n : Fin 16) (pd : PReg) (e : Nat)
    (hw : (getCtx s (16 + n.val)).wait = .trigger pd.toNat (some e)) (he : s.clk.tick.toNat < e) : Gives s (.trgWaitTimeout n) s := by
  change execTrgWaitTimeout n s = _
  unfold execTrgWaitTimeout
  dsimp only
  rw [hw]
  dsimp only
  rw [if_neg (by simp [he])]
  rfl

/-! ## Diagnostics of a conversion (R133 to R136) -/

/-- What the diagnostics of a conversion on converter `n` leave alone: every context, and of the converter all but its diagnostics. -/
def Diagnosed (s t : State) (n : Nat) : Prop :=
  t.ctxs = s.ctxs ∧ ∃ f g, getConv t n = { getConv s n with failed := f, gap := g }

theorem Diagnosed.of_setConv {s t : State} {n g : Nat} {f : List Nat} (h : Reports (setConv s n { getConv s n with failed := f, gap := g }) t) :
    Diagnosed s t n := ⟨h.ctxs_eq, f, g, (h.getConv_eq n).trans (getConv_setConv ..)⟩

theorem Diagnosed.refl (s : State) (n : Nat) : Diagnosed s s n := ⟨rfl, _, _, rfl⟩

theorem diagCheck_diagnosed (s : State) (n ch code : Nat) : Diagnosed s (diagCheck s n ch code) n := by
  unfold diagCheck
  dsimp only
  split
  · exact .of_setConv ((fSetBit_reports _ _ _ _ _).trans (fSetBit_reports _ _ _ _ _))
  · exact .of_setConv ((fSetBit_reports _ _ _ _ _).trans (raisePost_reports _ _ _ _ _))

theorem diagGap_diagnosed (s : State) (n : Nat) : Diagnosed s (diagGap s n) n := by
  unfold diagGap
  dsimp only
  split
  · exact .of_setConv (ite_reports ((fSetBit_reports _ _ _ _ _).trans (raise_reports _ _)) (Reports.refl _))
  · exact .refl s n

theorem diagnose_diagnosed (s : State) (n ch code : Nat) : Diagnosed s (diagnose s n ch code) n := by
  unfold diagnose
  split_ifs
  · exact diagCheck_diagnosed s n ch code
  · exact diagGap_diagnosed s n
  · exact .refl s n

theorem openCheck_reports (s : State) (n ch code : Nat) : Reports s (openCheck s n ch code).1 := by
  unfold openCheck
  dsimp only
  split
  · exact Reports.refl s
  · exact ite_reports ((fSetBit_reports _ _ _ _ _).trans (raisePost_reports _ _ _ _ _)) (fSetBit_reports _ _ _ _ _)

/-! ## Plan conversions (R119, R122, R127) -/

/-- The checks that a completed plan conversion goes through, and whether its channel is open. -/
def checked (s : State) (n : Nat) (x : Cnv) (code : Nat) : State × Bool :=
  if x.ow then openCheck (diagnose s n x.ch code) n x.ch code else (diagnose s n x.ch code, false)

theorem checked_ctxs (s : State) (n : Nat) (x : Cnv) (code : Nat) : (checked s n x code).1.ctxs = s.ctxs := by
  have hd := (diagnose_diagnosed s n x.ch code).1
  unfold checked
  split
  · exact (openCheck_reports _ n x.ch code).ctxs_eq.trans hd
  · exact hd

/-- A result word and its hold instant go to the register pair, unless they are dropped or the sequencer has stopped (R127, R139). -/
def delivered (u : State) (k : Nat) (x : Cnv) (w ns : Word) : State :=
  if x.drop || !(getCtx u k).live then u
  else setReg (setReg u k (BitVec.ofNat 5 x.rd) w) k (BitVec.ofNat 5 (x.rd + 1)) ns

theorem delivered_regs (u : State) (k : Nat) (x : Cnv) (w ns : Word) (hd : x.drop = false) (hl : (getCtx u k).live = true)
    (h0 : 0 < x.rd) (h31 : x.rd < 31) :
    reg (delivered u k x w ns) k (BitVec.ofNat 5 x.rd) = w ∧ reg (delivered u k x w ns) k (BitVec.ofNat 5 (x.rd + 1)) = ns := by
  have hfirst : BitVec.ofNat 5 x.rd ≠ 0 := by simp [BitVec.toNat_eq]; omega
  have hsecond : BitVec.ofNat 5 (x.rd + 1) ≠ 0 := by simp [BitVec.toNat_eq]; omega
  have hapart : BitVec.ofNat 5 x.rd ≠ BitVec.ofNat 5 (x.rd + 1) := by simp [BitVec.toNat_eq]; omega
  unfold delivered
  rw [if_neg (by simp [hd, hl])]
  simp only [reg, setReg, getCtx_setCtx]
  exact ⟨(rdG_wrG_ne _ _ _ _ hapart).trans (rdG_wrG _ _ _ hfirst), rdG_wrG _ _ _ hsecond⟩

theorem delivered_not (u : State) (k : Nat) (x : Cnv) (w ns : Word) (h : x.drop = true ∨ (getCtx u k).live = false) :
    delivered u k x w ns = u := if_pos (by rcases h with h | h <;> simp [h])

/-- The converter whose state was `c` passes from conversion `x` to the queued one, behind the urgent ones that are due (R122, R130). -/
def handedOn (c : Conv) (n : Nat) (x : Cnv) (v : State) : State :=
  let held := !c.urgDue.isEmpty
  let t := max x.ready (nowNs v)
  setConv v n { getConv v n with
    run := c.next.map (fun y => startCnv v n c y t held), next := none, urgRun := held, urgReady := t + acqNs v n 0 + 375 }

theorem handedOn_places (c : Conv) (n : Nat) (x : Cnv) (v : State) :
    (getConv (handedOn c n x v) n).next = none ∧ (getConv (handedOn c n x v) n).run.isSome = c.next.isSome := by
  rw [handedOn, getConv_setConv]
  exact ⟨rfl, Option.isSome_map⟩

section
variable (s : State) (n : Fin 16) (nv : Int) (late : Bool) (ns : Word) (x : Cnv) (hrun : (getConv s n).run = some x)

theorem conversionDone_none (hnone : (getConv s n).run = none) : Gives s (.conversionDone n nv late ns) s := by
  change execConversionDone n nv late ns s = _
  unfold execConversionDone
  dsimp only
  rw [hnone]
  rfl

include hrun

/-- A plan conversion that completes delivers its result and hands its place to the next one. -/
theorem conversionDone_ends (hu : (getConv s n).urgRun = false) (hh : x.halo = false) (hr : reached s x.ready = true) :
    ∃ v diag opn, v.ctxs = s.ctxs ∧ Gives s (.conversionDone n nv late ns) (handedOn (getConv s n) n x
      (delivered v (16 + n) x (resultWord x.pulled diag opn (late || x.late) x.aborts false x.ch (adcCode nv)) ns)) := by
  refine ⟨(checked s n x (adcCode nv)).1, diagFlag (checked s n x (adcCode nv)).1 n, (checked s n x (adcCode nv)).2, checked_ctxs .., ?_⟩
  change execConversionDone n nv late ns s = _
  unfold execConversionDone
  dsimp only
  rw [hrun]
  dsimp only
  rw [if_neg (by simp [hu, hh, hr])]
  rfl

/-- A conversion that does not hold the converter, or is not ready, goes on. -/
theorem conversionDone_holds (h : (getConv s n).urgRun = true ∨ x.halo = true ∨ reached s x.ready = false) :
    Gives s (.conversionDone n nv late ns) s := by
  change execConversionDone n nv late ns s = _
  unfold execConversionDone
  dsimp only
  rw [hrun]
  dsimp only
  rw [if_pos (by rcases h with h | h | h <;> simp [h])]
  rfl

end

/-! ## Urgent requests that become due (R130, R131) -/

/-- A request as it becomes due: late when something holds the converter, pulled when its channel is (R127, R128). -/
def dueUrg (s : State) (n : Nat) (u : Urg) : Urg :=
  { u with late := u.late || (getConv s n).urgRun || haloHolds s n (getConv s n), pulled := Tbl.get 0 (getConv s n).pulls u.ch != 0 }

/-- The converter as a request of it becomes due, the rest waiting on; `l` are the requests that it holds due. -/
def urgTaken (s : State) (n : Nat) (u : Urg) (rest l : List Urg) : Conv :=
  { getConv s n with
    urg := rest, urgDue := l
    urgReady := if (getConv s n).urgRun then (getConv s n).urgReady else max (nowNs s) (urgDueNs s n u) + acqNs s n 0 + 375 }

/-- What a request that becomes due does: it waits for an urgent conversion or one of priority 0b11, and otherwise gets the converter, a
plan conversion that has started being aborted. -/
def urgArrives (s : State) (n : Nat) (started : Bool) (u : Urg) (rest : List Urg) : State :=
  let c := urgTaken s n u rest ((getConv s n).urgDue ++ [dueUrg s n u])
  match (getConv s n).run with
  | some x =>
    if (getConv s n).urgRun then setConv s n c
    else if !started || x.halo then setConv s n { c with urgRun := true, run := some { x with late := true } }
    else if x.pri = 3 then setConv s n { c with urgDue := (getConv s n).urgDue ++ [{ dueUrg s n u with late := true }] }
    else setConv s n { c with
      urgRun := true, run := some { x with aborts := min 7 (x.aborts + 1), ready := nowNs s + x.acq + 379 } }
  | none => setConv s n { c with urgRun := true }

section
variable (s : State) (n : Nat) (started : Bool) (u : Urg) (rest : List Urg)

theorem urgArrives_free (hrun : (getConv s n).run = none) : urgArrives s n started u rest =
    setConv s n { urgTaken s n u rest ((getConv s n).urgDue ++ [dueUrg s n u]) with urgRun := true } := by
  unfold urgArrives
  rw [hrun]

variable (x : Cnv) (hrun : (getConv s n).run = some x)
include hrun

theorem urgArrives_served (hu : (getConv s n).urgRun = true) : urgArrives s n started u rest =
    setConv s n (urgTaken s n u rest ((getConv s n).urgDue ++ [dueUrg s n u])) := by
  unfold urgArrives
  rw [hrun]
  exact if_pos hu

variable (hu : (getConv s n).urgRun = false)
include hu

theorem urgArrives_before (hs : started = false ∨ x.halo = true) : urgArrives s n started u rest =
    setConv s n { urgTaken s n u rest ((getConv s n).urgDue ++ [dueUrg s n u]) with
      urgRun := true, run := some { x with late := true } } := by
  unfold urgArrives
  rw [hrun]
  exact (if_neg (by simp [hu])).trans (if_pos (by rcases hs with hs | hs <;> simp [hs]))

variable (hs : started = true) (hh : x.halo = false)
include hs hh

theorem urgArrives_aborts (hp : x.pri ≠ 3) : urgArrives s n started u rest =
    setConv s n { urgTaken s n u rest ((getConv s n).urgDue ++ [dueUrg s n u]) with
      urgRun := true, run := some { x with aborts := min 7 (x.aborts + 1), ready := nowNs s + x.acq + 379 } } := by
  unfold urgArrives
  rw [hrun]
  exact (if_neg (by simp [hu])).trans ((if_neg (by simp [hs, hh])).trans (if_neg hp))

theorem urgArrives_behind (hp : x.pri = 3) : urgArrives s n started u rest =
    setConv s n (urgTaken s n u rest ((getConv s n).urgDue ++ [{ dueUrg s n u with late := true }])) := by
  unfold urgArrives
  rw [hrun]
  exact (if_neg (by simp [hu])).trans ((if_neg (by simp [hs, hh])).trans (if_pos hp))

end

section
variable (s : State) (n : Fin 16) (started : Bool) (u : Urg) (rest : List Urg)

theorem urgentDue_none (h : (getConv s n).urg = []) : Gives s (.urgentConversionDue n started) s := by
  change execUrgentConversionDue n started s = _
  unfold execUrgentConversionDue
  dsimp only
  rw [h]
  rfl

variable (hurg : (getConv s n).urg = u :: rest)
include hurg

theorem urgentDue_early (h : reached s (urgDueNs s n u) = false) : Gives s (.urgentConversionDue n started) s := by
  change execUrgentConversionDue n started s = _
  unfold execUrgentConversionDue
  dsimp only
  rw [hurg]
  dsimp only
  rw [if_pos (by simp [h])]
  rfl

theorem urgentDue_arrives (h : reached s (urgDueNs s n u) = true) :
    Gives s (.urgentConversionDue n started) (urgArrives s n started u rest) := by
  change execUrgentConversionDue n started s = _
  unfold execUrgentConversionDue
  dsimp only
  rw [hurg]
  dsimp only
  rw [if_neg (by simp [h])]
  rfl

end

/-! ## Urgent conversions that complete (R119, R127, R130) -/

theorem sourcePut_reports (s : State) (n k : Nat) (raw : Int) (f : Bool) : Reports s (sourcePut s n k raw f) := setSlot_reports s n _

theorem slotHold_afe (s : State) (n : Nat) : (slotHold s n).afe = s.afe := by
  unfold slotHold
  dsimp only
  rw [slotEnd_afe]
  exact ((slotFlag_reports s n 24 true).trans ((slotFlag_reports _ n 23 false).trans ((raise_reports _ 258).trans
    (setSlot_reports _ n _)))).afe_eq

theorem slotReady_reports (s : State) (n : Nat) : Reports s (slotReady s n) := (setSlot_reports s n _).trans (fSet_reports _ _ _ _)

/-- The converter is left to the next due request; a plan conversion waits for it. -/
def urgServed (s : State) (n : Nat) (rest : List Urg) : State :=
  let t := max (getConv s n).urgReady (nowNs s)
  setConv s n { getConv s n with
    urgDue := rest, urgRun := !rest.isEmpty, urgReady := t + acqNs s n 0 + 375
    run := (getConv s n).run.map (fun x => { x with ready := max x.ready (t + x.acq + 375 + (if x.aborts = 0 then 0 else 4)) }) }

/-- The result word of an urgent conversion reaches the slot that still waits for it (R383, R384). -/
def urgDelivered (s : State) (u : Urg) (w : Word) : State :=
  let x := getSlot s u.slot
  if x.run = .waiting && x.trigs == u.tag && x.urg.contains u.src then
    let s := sourcePut s u.slot u.src (Int.ofNat (w.field 0 16)) (w.tst 29 || w.tst 28)
    let s := setSlot s u.slot { getSlot s u.slot with urg := x.urg.erase u.src }
    if (w.tst 29 || w.tst 28) && (slotW s u.slot (4 + 3 * u.src)).tst 28 then slotHold s u.slot
    else if (x.urg.erase u.src).isEmpty then slotReady s u.slot
    else s
  else s

theorem urgDelivered_afe (s : State) (u : Urg) (w : Word) : (urgDelivered s u w).afe = s.afe := by
  have hput (f : Bool) (x : Slot) := (sourcePut_reports s u.slot u.src (Int.ofNat (w.field 0 16)) f).trans (setSlot_reports _ u.slot x)
  unfold urgDelivered
  dsimp only
  split_ifs
  · exact (slotHold_afe _ _).trans (hput _ _).afe_eq
  · exact ((hput _ _).trans (slotReady_reports _ _)).afe_eq
  · exact (hput _ _).afe_eq
  · rfl

section
variable (s : State) (n : Fin 16) (nv : Int) (late : Bool)

theorem urgentDone_idle (h : (getConv s n).urgRun = false ∨ reached s (getConv s n).urgReady = false ∨ (getConv s n).urgDue = []) :
    Gives s (.urgentConversionDone n nv late) s := by
  change execUrgentConversionDone n nv late s = _
  unfold execUrgentConversionDone
  dsimp only
  rcases h with h | h | h
  · rw [if_pos (by simp [h])]
    rfl
  · rw [if_pos (by simp [h])]
    rfl
  · rw [h]
    split_ifs <;> rfl

/-- A completed urgent conversion leaves the converter to the next due one, whatever its slot does with the result. -/
theorem urgentDone_ends (u : Urg) (rest : List Urg) (hrun : (getConv s n).urgRun = true) (hr : reached s (getConv s n).urgReady = true)
    (hdue : (getConv s n).urgDue = u :: rest) :
    ∃ t, Gives s (.urgentConversionDone n nv late) t ∧ (getConv t n).urgDue = rest ∧ (getConv t n).urgRun = !rest.isEmpty := by
  have hgives : Gives s (.urgentConversionDone n nv late) (urgDelivered (diagnose (urgServed s n rest) n u.ch (adcCode nv)) u
      (resultWord u.pulled (diagFlag (diagnose (urgServed s n rest) n u.ch (adcCode nv)) n) false (late || u.late) 0 true u.ch
        (adcCode nv))) := by
    change execUrgentConversionDone n nv late s = _
    unfold execUrgentConversionDone
    dsimp only
    rw [hdue]
    dsimp only
    rw [if_neg (by simp [hrun, hr])]
    rfl
  obtain ⟨-, f, g, hconv⟩ := diagnose_diagnosed (urgServed s n rest) n u.ch (adcCode nv)
  refine ⟨_, hgives, ?_⟩
  rw [getConv, urgDelivered_afe, ← getConv, hconv, urgServed, getConv_setConv]
  exact ⟨rfl, rfl⟩

end

/-! ## The statement -/

/-- Settles O29: the sequencer's instructions by the places of its converter, a trigger by what the sequencer does, and a conversion by who
holds the converter. -/
theorem conversionsAreQueuedAndDelivered : Obligations.ConversionsAreQueuedAndDelivered := by
  unfold Obligations.ConversionsAreQueuedAndDelivered
  refine ⟨fun s h k n rd rt pd pd' ch prof pri ow pull d => ?sequencer, fun s n nv late started ns x u rest => ?converter⟩
  case sequencer =>
    intro c x start halo first cnv cdec tdec odec w now ctx occurs
    refine ⟨fun heng => ⟨fun hrun => ?starts, fun y hrun hnext => ?queues, fun hrun hnext => ?waits, ?pull, fun hg hp => ?trgWait,
      fun g ty data home hg hpay himg hp hlive hk => ?plan⟩, fun ho => ?occurs, sarTrigger_idle s n, fun e hw => ?timeout⟩
    case starts =>
      exact ⟨_, cnv_starts s h k n heng rd ch prof pri ow hrun, by rw [getConv_setConv]; rfl,
        by rw [getConv_setConv], rfl⟩
    case queues =>
      exact ⟨_, cnv_queues s h k n heng rd ch prof pri ow y hrun hnext, by rw [getConv_setConv]; exact hrun,
        by rw [getConv_setConv]; rfl, rfl⟩
    case waits =>
      obtain ⟨y, hy⟩ := Option.isSome_iff_exists.1 hrun
      obtain ⟨z, hz⟩ := Option.isSome_iff_exists.1 hnext
      exact cnv_waits s h k n heng rd ch prof pri ow y z hy hz
    case pull =>
      obtain ⟨t, ht, hpulls⟩ := owSet_takes s h k n heng ch pull
      refine ⟨t, ht, ?_, fun j hj => ?_⟩
      · rw [hpulls, Tbl.get_put_self]
      · rw [hpulls, Tbl.get_put_ne _ _ _ _ _ _ hj]
    case trgWait =>
      have hends := trgWait_takes s h k n heng pd rt hp hg
      refine ⟨fun ht => ?_, fun ht h0 => ?_, fun ht h0 => ?_⟩
      · rw [if_pos ht] at hends
        exact ⟨_, hends, rdP_setPred_true .., by rw [getConv_setPred, getConv_setConv]⟩
      · rwa [if_neg (Bool.eq_false_iff.1 ht), if_pos h0] at hends
      · rw [if_neg (Bool.eq_false_iff.1 ht), if_neg h0] at hends
        exact ⟨_, _, hends, congrArg Ctx.wait (getCtx_setCtx ..)⟩
    case plan =>
      have hwas : (getCtx (past s k 4) (16 + n.val)).live = true := by rw [← hk, getCtx_past, hk]; exact hlive
      obtain ⟨t, hplan, hctx⟩ := afePlan_starts (past s k 4) n g ty data home hg hpay himg hwas
      have hfresh : afePlan (afeConfig (past s k 4) n) n = (t, true) := by rw [afeConfig_none (past s k 4) n hp, hplan]
      exact ⟨t, trgWait_fresh s h k n heng pd rt t hfresh, by rw [hk, hctx]⟩
    case occurs =>
      refine ⟨fun hw => ⟨_, sarTrigger_occurs s n ho, trigTaken_wakes s n pd' d hw⟩,
        fun hw ht => ⟨_, sarTrigger_occurs s n ho, trigTaken_pends s n hw ht⟩,
        fun hw ht => ⟨_, sarTrigger_occurs s n ho, trigTaken_lost s n n.isLt hw ht⟩⟩
    case timeout =>
      refine ⟨fun he ha => ⟨_, trgWaitTimeout_ends s n pd' e hw he ha, ?_, fun hpd => ?_⟩, trgWaitTimeout_early s n pd' e hw⟩
      · rw [getCtx_setPred, wrP_wait, suspend, getCtx_setCtx]
      · rw [getCtx_setPred, rdP_wrP _ _ _ hpd]
  case converter =>
    intro c k ctx full due u'
    refine ⟨fun hrun => ⟨fun hurg hhalo hready => ⟨fun hdrop hlive hch h0 h31 => ?delivers, fun hlost => ?discards⟩,
        conversionDone_holds s n nv late ns x hrun⟩,
      conversionDone_none s n nv late ns, fun hu hr => ?becomesDue, urgentDue_none s n started,
      fun hu hr => urgentDue_early s n started u rest hu hr, fun hrun hr hdue => urgentDone_ends s n nv late u rest hrun hr hdue,
      urgentDone_idle s n nv late⟩
    case delivers =>
      obtain ⟨v, diag, opn, hctxs, hgives⟩ := conversionDone_ends s n nv late ns x hrun hurg hhalo hready
      have hv : (getCtx v k).live = true := by rw [getCtx, hctxs]; exact hlive
      obtain ⟨hword, hinstant⟩ := delivered_regs v k x
        (resultWord x.pulled diag opn (late || x.late) x.aborts false x.ch (adcCode nv)) ns hdrop hv h0 h31
      obtain ⟨h1, h2, h3, h4, h5, h6, h7⟩ :=
        resultWord_tells x.pulled diag opn (late || x.late) x.aborts false x.ch (adcCode nv) hch (adcCode_lt nv)
      refine ⟨_, hgives, ?_, hinstant, handedOn_places ..⟩
      dsimp only
      rw [show reg (handedOn ..) k (BitVec.ofNat 5 x.rd) = _ from hword]
      exact ⟨h1, h2, h3, h4, h5, h6, h7⟩
    case discards =>
      obtain ⟨v, diag, opn, hctxs, hgives⟩ := conversionDone_ends s n nv late ns x hrun hurg hhalo hready
      have hv : x.drop = true ∨ (getCtx v k).live = false := hlost.imp id (fun hl => by rw [getCtx, hctxs]; exact hl)
      rw [delivered_not v k x _ ns hv] at hgives
      exact ⟨_, hgives, hctxs, handedOn_places ..⟩
    case becomesDue =>
      have harrives := urgentDue_arrives s n started u rest hu hr
      refine ⟨fun hrun => ?free, fun hrun => ⟨fun hurg => ?served, fun hurg hs => ?before, fun hurg hs hh hpri => ?aborts,
        fun hurg hs hh hpri => ?behind⟩⟩
      case free =>
        rw [urgArrives_free s n started u rest hrun] at harrives
        exact ⟨_, harrives, by rw [getConv_setConv]; rfl, by rw [getConv_setConv]; rfl, by rw [getConv_setConv]⟩
      case served =>
        rw [urgArrives_served s n started u rest x hrun hurg] at harrives
        exact ⟨_, harrives, by rw [getConv_setConv]; rfl, by rw [getConv_setConv]; rfl, by rw [getConv_setConv]; exact hrun⟩
      case before =>
        rw [urgArrives_before s n started u rest x hrun hurg hs] at harrives
        exact ⟨_, harrives, by rw [getConv_setConv], by rw [getConv_setConv], by rw [getConv_setConv]; rfl⟩
      case aborts =>
        rw [urgArrives_aborts s n started u rest x hrun hurg hs hh hpri] at harrives
        exact ⟨_, harrives, by rw [getConv_setConv], by rw [getConv_setConv], by rw [getConv_setConv]; rfl⟩
      case behind =>
        rw [urgArrives_behind s n started u rest x hrun hurg hs hh hpri] at harrives
        exact ⟨_, harrives, by rw [getConv_setConv]; exact hurg, by rw [getConv_setConv]; exact hrun, by rw [getConv_setConv]; rfl⟩

end Sys2Proof.Machine
end

section
/-! SUPPORT. The panel's frames and its charge pump, and the Halo loop (R119, R559 to R562, R572). -/
namespace Sys2Proof.Machine

/-! ## Fields of the panel -/

/-- Setting a bit of a field leaves every other field of its unit alone. -/
theorem fGet_fSetBit_ne (s : State) (u f f' k : Nat) (b : Bool) (h : f % 1024 ≠ f' % 1024) :
    fGet (fSetBit s u f' k b) u f = fGet s u f := fGet_fSet_ne s u f u f' _ (fid_ne_of_field_ne u f u f' h)

theorem fBit_fSetBit_ne (s : State) (u f f' j k : Nat) (b : Bool) (h : f % 1024 ≠ f' % 1024) :
    fBit (fSetBit s u f' j b) u f k = fBit s u f k := congrArg (Word.tst · k) (fGet_fSetBit_ne s u f f' j b h)

/-! ## Frames of the LCD (R560 to R562) -/

/-- Of the fields, the next frame takes CFG and FRAME_SEL only (R560, R561). -/
theorem nextFrame_fSetBit (s : State) (f k : Nat) (b : Bool) (old : Option LcdFrame) (h2 : f % 1024 ≠ 2) (h5 : f % 1024 ≠ 5) :
    nextFrame (fSetBit s 0x27 f k b) old = nextFrame s old := by
  have hcfg := fGet_fSetBit_ne s 0x27 2 f k b h2.symm
  have hsel := fGet_fSetBit_ne s 0x27 5 f k b h5.symm
  unfold nextFrame fPart
  rw [hcfg, hsel]
  rfl

theorem frameBoundary_draws (s : State) (old : LcdFrame) (hon : hmiOn s = true) (hl : s.hmi.lcd = some old)
    (hp : Tbl.find s.cfg.pend 0x27 = none) : Gives s .frameBoundary { s with hmi := { s.hmi with
      lcd := if fBit s 0x27 1 0 then some (nextFrame s (some old)) else none } } := by
  change execFrameBoundary s = _
  unfold execFrameBoundary
  rw [if_neg (by simp [hon, hl]), applyFields_none s 0x27 hp, ← hl]
  rfl

theorem frameBoundary_idle (s : State) (h : hmiOn s = false ∨ s.hmi.lcd = none) : Gives s .frameBoundary s :=
  congrArg (done s) (if_pos (by rcases h with h | h <;> simp [h]))

/-! ## The charge pump (R562) -/

theorem hmiStart_cfg (s : State) : (hmiStart s).cfg = s.cfg := by
  unfold hmiStart
  split_ifs <;> rfl

theorem fBit_hmiStart (s : State) (u f k : Nat) : fBit (hmiStart s) u f k = fBit s u f k := by
  rw [fBit, fGet, hmiStart_cfg]
  rfl

section
variable (s : State) (hmay : mayDrive s = true) (hl : s.hmi.lcd = none) (hb : s.hmi.bistable = false)
include hmay hl hb

theorem hmiStart_lcd (hk : fBit s 0x27 2 0 = false) : (hmiStart s).hmi.lcd = some (nextFrame s none) := by
  unfold hmiStart
  rw [if_neg (by simp [hmay, hl, hb]), if_pos (by simp [hk])]

theorem hmiStart_bistable (hk : fBit s 0x27 2 0 = true) :
    (hmiStart s).hmi.bistable = true ∧ (hmiStart s).hmi.rcv = if s.hmi.recovered then .none else .scan := by
  unfold hmiStart
  rw [if_neg (by simp [hmay, hl, hb]), if_neg (by simp [hk])]
  exact ⟨rfl, rfl⟩

end

/-- The state in which the pump has reached its level. -/
def pumped (s : State) : State := fSetBit s 0x27 0xE 5 true

theorem chargePumpReady_starts (s : State) (hon : hmiOn s = true) (hu : fBit s 0x27 2 8 = true) :
    Gives s .chargePumpReady (hmiStart (pumped s)) := congrArg (done s) (if_pos (by simp [hon, hu]))

theorem chargePumpReady_idle (s : State) (h : hmiOn s = false ∨ fBit s 0x27 2 8 = false) : Gives s .chargePumpReady s :=
  congrArg (done s) (if_neg (by rcases h with h | h <;> simp [h]))

theorem fBit_pumped (s : State) (f k : Nat) (h : f % 1024 ≠ 0xE) : fBit (pumped s) 0x27 f k = fBit s 0x27 f k :=
  fBit_fSetBit_ne s 0x27 f 0xE 5 k true h

theorem pumped_ready (s : State) : fBit (pumped s) 0x27 0xE 5 = true := fBit_fSetBit_true s 0x27 0xE 5 (by decide)

/-- With the pump at its level, RUN alone decides. -/
theorem mayDrive_pumped (s : State) : mayDrive (pumped s) = fBit s 0x27 1 0 := by
  rw [mayDrive, pumped_ready, fBit_pumped s 1 0 (by decide), Bool.or_true, Bool.and_true]

theorem nextFrame_pumped (s : State) (old : Option LcdFrame) : nextFrame (pumped s) old = nextFrame s old :=
  nextFrame_fSetBit s 0xE 5 true old (by decide) (by decide)

/-! ## Requests of the Halo loop (R572) -/

section
variable (s : State) (hon : hmiOn s = true) (hen : fBit s 0x27 0xB 31 = true)
include hon hen

theorem haloMeasure_requests (hd : domainOn s 5 = true) :
    Gives s .haloMeasure { s with hmi := { s.hmi with haloReq := true, haloRefused := 0 } } :=
  congrArg (done s) ((if_neg (by simp [hon, hen])).trans (if_pos hd))

/-- A request while AFE is off is refused, and the third refusal in a row is reported. -/
theorem haloMeasure_refused (hd : domainOn s 5 = false) : ∃ t, Gives s .haloMeasure t ∧ t.hmi.haloRefused = s.hmi.haloRefused + 1
    ∧ (s.hmi.haloRefused = 2 → fBit t 0x27 0xE 3 = true ∧ evtPending t 0 628 = true) := by
  refine ⟨_, congrArg (done s) ((if_neg (by simp [hon, hen])).trans (if_neg (Bool.eq_false_iff.1 hd))), ?_⟩
  dsimp only
  split
  · refine ⟨by rw [(raise_reports _ _).hmi_eq, fSetBit_hmi], fun _ => ⟨?_, evtPending_raise_self _ 0 628 (by decide)⟩⟩
    rw [fBit, fGet_raise _ _ _ _ (by decide) (by decide)]
    exact fBit_fSetBit_true _ 0x27 0xE 3 (by decide)
  · next hn => exact ⟨rfl, fun h2 => absurd (congrArg (· + 1) h2) hn⟩

end

theorem haloMeasure_idle (s : State) (h : hmiOn s = false ∨ fBit s 0x27 0xB 31 = false) : Gives s .haloMeasure s :=
  congrArg (done s) (if_pos (by rcases h with h | h <;> simp [h]))

/-! ## Readings of the Halo loop (R119, R572) -/

theorem haloFree_cfg (s : State) : (haloFree s).cfg = s.cfg := by
  unfold haloFree
  split <;> rfl

theorem haloFree_hmi (s : State) : (haloFree s).hmi = s.hmi := by
  unfold haloFree
  split <;> rfl

/-- The state in which the request is served and a code is shown. -/
def haloCoded (s : State) (code : Nat) : State :=
  fSet { haloFree s with hmi := { (haloFree s).hmi with haloReq := false } } 0x27 0xD (Word.ofN (2 ^ 31 + code))

/-- The same with no refusal standing. -/
def haloShown (s : State) (code : Nat) : State := fSetBit (haloCoded s code) 0x27 0xE 3 false

/-- The state in which the code is judged: an open reading counts, and the last one to a crack is reported. -/
def haloJudged (s : State) (code : Nat) : State :=
  if fPart s 0x27 0xB 0 16 ≤ code then
    let t := { s with hmi := { s.hmi with haloOpen := s.hmi.haloOpen + 1 } }
    if fPart t 0x27 0xB 16 8 ≤ s.hmi.haloOpen + 1 ∧ !fBit t 0x27 0xE 2 then raisePost (fSetBit t 0x27 0xE 2 true) 0x27 3 627 [] else t
  else { s with hmi := { s.hmi with haloOpen := 0 } }

/-- The result of a Halo conversion is taken: it was requested, AFE is on, and the converter is Halo's. -/
def HaloDue (s : State) : Prop := s.hmi.haloReq = true ∧ domainOn s 5 = true ∧ haloHas s = true

theorem haloResult_shows (s : State) (nv : Int) (hon : hmiOn s = true) (h : HaloDue s) :
    Gives s (.haloResult nv) (haloJudged (haloShown s (adcCode nv)) (adcCode nv)) := by
  obtain ⟨hreq, hdom, hhas⟩ := h
  exact congrArg (done s) (if_neg (by simp [hon, hreq, hdom, hhas]))

theorem haloResult_idle (s : State) (nv : Int) (h : hmiOn s = false ∨ ¬ HaloDue s) : Gives s (.haloResult nv) s := by
  refine congrArg (done s) (if_pos ?_)
  by_contra hg
  simp only [Bool.or_eq_true, Bool.not_eq_true', not_or, Bool.not_eq_false] at hg
  obtain ⟨⟨⟨hon, hreq⟩, hdom⟩, hhas⟩ := hg
  exact h.elim (fun h => by simp [hon] at h) (fun h => h ⟨hreq, hdom, hhas⟩)

section
variable (s : State) (code : Nat)

theorem haloShown_hmi : (haloShown s code).hmi = { s.hmi with haloReq := false } := by
  rw [haloShown, fSetBit_hmi, haloCoded, fSet_hmi, haloFree_hmi]

theorem fGet_haloShown_code : fGet (haloShown s code) 0x27 0xD = Word.ofN (2 ^ 31 + code) :=
  (fGet_fSetBit_ne _ 0x27 0xD 0xE 3 false (by decide)).trans (fGet_fSet_self ..)

theorem fGet_haloCoded (f : Nat) (hd : f % 1024 ≠ 0xD) : fGet (haloCoded s code) 0x27 f = fGet s 0x27 f := by
  rw [haloCoded, fGet_fSet_ne _ _ _ _ _ _ (fid_ne_of_field_ne _ _ _ _ hd), fGet, fGet]
  exact congrArg (fun c : Cfg => Tbl.get _ c.act _) (haloFree_cfg s)

theorem fGet_haloShown_config : fGet (haloShown s code) 0x27 0xB = fGet s 0x27 0xB :=
  (fGet_fSetBit_ne _ 0x27 0xB 0xE 3 false (by decide)).trans (fGet_haloCoded s code 0xB (by decide))

theorem fBit_haloShown (k : Nat) (hk : k < 32) : fBit (haloShown s code) 0x27 0xE k = if k = 3 then false else fBit s 0x27 0xE k := by
  rw [haloShown, fBit_fSetBit _ _ _ _ _ _ hk, fBit, fGet_haloCoded s code 0xE (by decide)]
  rfl

theorem haloJudged_hmi : (haloJudged s code).hmi = { s.hmi with
    haloOpen := if fPart s 0x27 0xB 0 16 ≤ code then s.hmi.haloOpen + 1 else 0 } := by
  unfold haloJudged
  dsimp only
  split_ifs
  · rw [(raisePost_reports _ _ _ _ _).hmi_eq, fSetBit_hmi]
  · rfl
  · rfl

/-- A judgement sets no field but the crack flag. -/
theorem fGet_haloJudged (f : Nat) (hf : f < 1024) (he : f ≠ 0xE) : fGet (haloJudged s code) 0x27 f = fGet s 0x27 f := by
  unfold haloJudged
  dsimp only
  split_ifs
  · rw [fGet_raisePost _ _ _ _ _ _ _ (by decide) (by decide) hf, fGet_fSetBit_ne _ 0x27 f 0xE 2 true (by omega)]
    rfl
  · rfl
  · rfl

theorem fBit_haloJudged (k : Nat) (hk : k < 32) (h2 : k ≠ 2) : fBit (haloJudged s code) 0x27 0xE k = fBit s 0x27 0xE k := by
  unfold haloJudged
  dsimp only
  split_ifs
  · rw [fBit, fGet_raisePost _ _ _ _ _ _ _ (by decide) (by decide) (by decide)]
    exact (fBit_fSetBit _ 0x27 0xE 2 k true hk).trans (if_neg h2)
  · rfl
  · rfl

theorem haloJudged_cracks (ho : fPart s 0x27 0xB 0 16 ≤ code) (hn : fPart s 0x27 0xB 16 8 ≤ s.hmi.haloOpen + 1)
    (hc : fBit s 0x27 0xE 2 = false) : fBit (haloJudged s code) 0x27 0xE 2 = true ∧ evtPending (haloJudged s code) 0 627 = true := by
  have hcrack : (!fBit s 0x27 0xE 2) = true := by simp [hc]
  unfold haloJudged
  rw [if_pos ho]
  dsimp only
  rw [if_pos ⟨hn, hcrack⟩]
  refine ⟨?_, evtPending_raisePost_self _ _ _ _ _ 0 (by decide)⟩
  rw [fBit, fGet_raisePost _ _ _ _ _ _ _ (by decide) (by decide) (by decide)]
  exact fBit_fSetBit_true _ 0x27 0xE 2 (by decide)

end

/-! ## The statement -/

/-- Settles O57: a frame and the pump by the fields that they read, and a Halo reading by its two parts: the code is shown, then judged. -/
theorem panelFramesAndHaloReadings : Obligations.PanelFramesAndHaloReadings := by
  unfold Obligations.PanelFramesAndHaloReadings
  intro s old nv code result due
  refine ⟨fun hon => ⟨fun hl hp => frameBoundary_draws s old hon hl hp, fun hu => ?pump,
      fun hen => ⟨haloMeasure_requests s hon hen, haloMeasure_refused s hon hen⟩, fun hdue => ?reading⟩,
    frameBoundary_idle s, chargePumpReady_idle s, haloMeasure_idle s, haloResult_idle s nv⟩
  case pump =>
    refine ⟨_, chargePumpReady_starts s hon hu, (fBit_hmiStart ..).trans (pumped_ready s), fun hrun hl hb => ?_⟩
    have hmay : mayDrive (pumped s) = true := (mayDrive_pumped s).trans hrun
    have hkind := fBit_pumped s 2 0 (by decide)
    exact ⟨fun hk => (hmiStart_lcd _ hmay hl hb (hkind.trans hk)).trans (congrArg some (nextFrame_pumped s none)),
      fun hk => hmiStart_bistable _ hmay hl hb (hkind.trans hk)⟩
  case reading =>
    have hlimit : fPart (haloShown s code) 0x27 0xB 0 16 = fPart s 0x27 0xB 0 16 := congrArg (Word.field · 0 16) (fGet_haloShown_config s code)
    have hcount : fPart (haloShown s code) 0x27 0xB 16 8 = fPart s 0x27 0xB 16 8 := congrArg (Word.field · 16 8) (fGet_haloShown_config s code)
    have hopen : (haloShown s code).hmi.haloOpen = s.hmi.haloOpen := by rw [haloShown_hmi]
    refine ⟨_, haloResult_shows s nv hon hdue, (fGet_haloJudged _ _ 0xD (by decide) (by decide)).trans (fGet_haloShown_code s code), ?_,
      (fBit_haloJudged _ _ 3 (by decide) (by decide)).trans (fBit_haloShown s code 3 (by decide)), ?_, fun ho hn hc => ?_⟩
    · rw [haloJudged_hmi, haloShown_hmi]
    · rw [haloJudged_hmi]
      dsimp only
      rw [hlimit, hopen]
    · exact haloJudged_cracks _ _ (by rw [hlimit]; exact ho) (by rw [hcount, hopen]; exact hn)
        ((fBit_haloShown s code 2 (by decide)).trans hc)

end Sys2Proof.Machine
end

section
/-! SUPPORT. A save whose record reaches the Almanac's read window, where a read gives records and not what was stored (R169, R170,
R506). -/
namespace Sys2Proof.Machine

/-! ## A save that passes its check -/

@[simp] theorem raise_alm (s : State) (n : Nat) : (raise s n).alm = s.alm := by
  unfold raise
  exact List.foldlRecOn (motive := fun t : State => t.alm = s.alm) _ _ rfl (fun _ ht _ _ => ht)

@[simp] theorem setBytes_alm (s : State) (a : Nat) (bs : List Byte) : (setBytes s a bs).alm = s.alm := by
  obtain ⟨m, hm⟩ := setBytes_only bs s a
  rw [hm]

/-- A write by hardware that meets no word in error is a store (R97). -/
theorem hwWrite_clean (s : State) (w : Who) (a : Nat) (bs : List Byte) (hc : CleanAt s a bs.length) :
    hwWrite s w a bs = setBytes (eccSpan s a bs.length) a bs := by
  rw [hwWrite, edgeRead_clean s w a _ (fun x h1 h2 => get_ecc_clean s a _ x hc h1 h2)]
  rfl

/-- The record of the save in progress has been written. -/
def saveWritten (s : State) (v : MtrSave) : State :=
  hwWrite { s with mtr := { s.mtr with saving := none } } { unit := 0x13 } (saveBase v.copyB) v.bytes

/-- The save has passed its check (R170). -/
def savePassed (s : State) (v : MtrSave) : State :=
  raise (fSet { saveWritten s v with mtr := { (saveWritten s v).mtr with noSave := false } } 0x13 5 v.seq) 305

theorem saveDone_passes (s : State) (v : MtrSave) (hv : s.mtr.saving = some v) (ha : s.pwr.asleep = false) :
    Gives s (.saveDone true) (savePassed s v) := by
  show execSaveDone true s = _
  unfold execSaveDone
  rw [hv]
  exact congrArg (done s) (if_neg (by rw [ha]; decide))

theorem savePassed_alm (s : State) (v : MtrSave) (hc : CleanAt s (saveBase v.copyB) v.bytes.length) :
    (savePassed s v).alm = s.alm := by
  have hw : (saveWritten s v).alm = s.alm := by
    rw [saveWritten, hwWrite_clean { s with mtr := { s.mtr with saving := none } } _ _ _ hc, setBytes_alm]
    rfl
  exact (raise_alm _ 305).trans hw

/-! ## The read window (R506) -/

/-- The window begins with a zero while it shows no record. -/
theorem memByte_emptyWindow (s : State) (ho : s.alm.order = []) (hf : s.alm.frozen = none) : memByte s 0x0E00000000 = 0 := by
  simp [memByte, winByte, shownSlot, ho, hf]

/-- Stored bytes that differ from memory in one place are not what memory reads back. -/
theorem memBytes_ne (s : State) (a i : Nat) (bs : List Byte) (b : Byte) (hb : bs[i]? = some b) (hm : memByte s (a + i) ≠ b) :
    memBytes s a bs.length ≠ bs := by
  intro hread
  have hi : i < bs.length := (List.getElem?_eq_some_iff.1 hb).1
  have hbyte : (memBytes s a bs.length)[i]? = some (memByte s (a + i)) := by
    rw [memBytes, List.getElem?_map, List.getElem?_range hi, Option.map_some]
  rw [hread, hb] at hbyte
  exact hm (Option.some.inj hbyte).symm

/-! ## The statement -/

/-- A save to copy A whose record is `n` bytes of 1. -/
def saveOf (n : Nat) : MtrSave := { bytes := List.replicate n 1 }

/-- The device after reset, but that a save is being written. -/
def saveInProgress (v : MtrSave) : State := { State.reset with mtr := { saving := some v } }

theorem saveInProgress_clean (v : MtrSave) (a len : Nat) : CleanAt (saveInProgress v) a len := fun _ he => nomatch he

/-- A record that reaches the window does not read back, though its save passes. -/
theorem saveOf_notReadBack (n : Nat) (hn : 0x0E00000000 < saveBase false + n) (t : State)
    (ht : Gives (saveInProgress (saveOf n)) (.saveDone true) t) : memBytes t (saveBase false) (saveOf n).bytes.length ≠ (saveOf n).bytes := by
  have hpass := saveDone_passes (saveInProgress (saveOf n)) (saveOf n) rfl rfl
  have halm : t.alm = State.reset.alm :=
    (congrArg State.alm (ht.unique hpass) :).trans (savePassed_alm _ _ (saveInProgress_clean _ _ _))
  have hzero : memByte t (saveBase false + 0x1FFD00000) = 0 := memByte_emptyWindow t (by rw [halm]; rfl) (by rw [halm]; rfl)
  refine memBytes_ne t (saveBase false) 0x1FFD00000 (saveOf n).bytes 1 (List.getElem?_replicate_of_lt ?_) ?_
  · have hbase : saveBase false = 0x0C00300000 := rfl
    omega
  · rw [hzero]
    decide

/-- Refutes O30 in its clause on the copy of a save that passes, which leaves the length of the record open: one that is long enough to
reach the Almanac's read window is stored, but a read there gives the records that the window shows. The record of R169 has 5,284 bytes
and does not reach so far. -/
theorem not_meteringCountsItsIntervals : ¬ Obligations.MeteringCountsItsIntervals := by
  unfold Obligations.MeteringCountsItsIntervals
  rintro ⟨-, hunits⟩
  obtain ⟨-, -, -, hsave, -⟩ :=
    hunits (saveInProgress (saveOf 0x1FFD00001)) 0 (saveOf 0x1FFD00001) 0 0 false 0 false 0
  obtain ⟨⟨t, ht, -, -, -, hread⟩, -⟩ := hsave rfl rfl
  exact saveOf_notReadBack 0x1FFD00001 (by decide) t ht (hread (saveInProgress_clean _ _ _))

end Sys2Proof.Machine
end

section
/-! SUPPORT. What hardware writes of whole words store and leave alone, what reading hardware and reports leave of ASM and TRN, and the
fields that a boundary applies (R96, R97, R105). -/
namespace Sys2Proof.Machine

/-! ## Lists of steps -/

/-- A fold ends with what one of its steps brings about and none of its steps undoes. -/
theorem foldl_establishes {α σ : Type} {f : σ → α → σ} {inv p : σ → Prop} {x : α} {l : List α} (hx : x ∈ l)
    (hinv : ∀ t, inv t → ∀ y ∈ l, inv (f t y)) (hgives : ∀ t, inv t → p (f t x)) (hkeeps : ∀ t, inv t → p t → ∀ y ∈ l, p (f t y)) :
    ∀ s, inv s → p (l.foldl f s) := by
  induction l with
  | nil => cases hx
  | cons y l ih =>
    intro s hs
    rcases List.mem_cons.1 hx with rfl | hx
    · exact (List.foldlRecOn (motive := fun t => inv t ∧ p t) l f ⟨hinv s hs _ List.mem_cons_self, hgives s hs⟩
        (fun t ht z hz => ⟨hinv t ht.1 z (List.mem_cons_of_mem _ hz), hkeeps t ht.1 ht.2 z (List.mem_cons_of_mem _ hz)⟩)).2
    · exact ih hx (fun t ht z hz => hinv t ht z (List.mem_cons_of_mem _ hz))
        (fun t ht hp z hz => hkeeps t ht hp z (List.mem_cons_of_mem _ hz)) _ (hinv s hs y List.mem_cons_self)

theorem mem_range_zip {α : Type} {l : List α} {i : Nat} {x : α} : (i, x) ∈ (List.range l.length).zip l ↔ l[i]? = some x := by
  rw [List.mem_iff_getElem?]
  constructor
  · rintro ⟨n, hn⟩
    obtain ⟨hi, hx⟩ := List.getElem?_zip_eq_some.1 hn
    obtain ⟨hlt, rfl⟩ := List.getElem?_eq_some_iff.1 hi
    rwa [List.getElem_range]
  · intro hx
    have hi := (List.getElem?_eq_some_iff.1 hx).1
    exact ⟨i, List.getElem?_zip_eq_some.2 ⟨List.getElem?_range hi, hx⟩⟩

/-! ## Memory below the Almanac's window -/

theorem memByte_of_lib {s t : State} {a : Nat} (ha : a < 0x0E00000000) (hm : t.mem = s.mem) (hl : t.asm.lib = s.asm.lib) :
    memByte t a = memByte s a := by
  have hlib : inLib t a = inLib s a := by unfold inLib; rw [hl]
  have hw : ¬ (0x0E00000000 ≤ a ∧ a < 0x0E00200000) := by omega
  unfold memByte
  rw [hm, hlib, if_neg hw, if_neg hw]

theorem memW_congr {s t : State} {a : Nat} (h : ∀ x, a ≤ x → x < a + 4 → memByte t x = memByte s x) : memW t a = memW s a := by
  rw [memW_eq, memW_eq, h (a + 3) (by omega) (by omega), h (a + 2) (by omega) (by omega), h (a + 1) (by omega) (by omega),
    h a le_rfl (by omega)]

theorem memW_of_lib {s t : State} {a : Nat} (ha : a + 4 ≤ 0x0E00000000) (hm : t.mem = s.mem) (hl : t.asm.lib = s.asm.lib) :
    memW t a = memW s a := memW_congr (fun _ _ _ => memByte_of_lib (by omega) hm hl)

/-! ## Writes by hardware of whole 64-bit words (R97) -/

section
variable (s : State) (u a n : Nat) (ws : List Word) (hn : ws.length = n) (ha : a % 8 = 0) (heven : n % 2 = 0)
  (hlow : a + 4 * n ≤ 0x0C00000000)
include hn ha heven

theorem hwWords_eq_setWords : hwWords s u a ws = setWords (eccSpan s a (4 * n)) a ws := by
  rw [hwWords_whole s u a ws ha (hn ▸ heven), setBytes_wordBytes, wordBytes_length, hn]

/-- Hardware that writes whole words changes no field. -/
theorem hwWords_cfg : (hwWords s u a ws).cfg = s.cfg := by
  rw [hwWords_eq_setWords s u a n ws hn ha heven]
  obtain ⟨m, hm⟩ := setWords_only ws (eccSpan s a (4 * n)) a
  rw [hm]
  rfl

theorem hwWords_clean (hecc : s.mem.ecc = []) : (hwWords s u a ws).mem.ecc = [] := by
  rw [hwWords_eq_setWords s u a n ws hn ha heven, setWords_ecc]
  simp [eccSpan, hecc]

include hlow

theorem memW_hwWords (i : Nat) (v : Word) (h1 : 0x40000 ≤ a) (hv : ws[i]? = some v) : memW (hwWords s u a ws) (a + 4 * i) = v := by
  rw [hwWords_eq_setWords s u a n ws hn ha heven]
  exact memW_setWords ws _ a i v h1 (hn ▸ hlow) hv

theorem memW_hwWords_out (x : Nat) (hx : x + 4 ≤ a ∨ a + 4 * n ≤ x) : memW (hwWords s u a ws) x = memW s x := by
  rw [hwWords_eq_setWords s u a n ws hn ha heven]
  exact memW_congr fun y _ _ => memByte_setWords_low ws (eccSpan s a (4 * n)) a y (hn ▸ hlow) (by omega)

end

/-! ## Memory without errors -/

theorem eccSpan_noErrors (s : State) (a len : Nat) (h : s.mem.ecc = []) : eccSpan s a len = s := by
  have hf : s.mem.ecc.filter (fun e => 8 * e.1 < a || a + len < 8 * e.1 + 8) = s.mem.ecc := by rw [h]; rfl
  unfold eccSpan
  rw [hf]

theorem hwWrite_noErrors (s : State) (w : Who) (a : Nat) (bs : List Byte) (h : s.mem.ecc = []) : hwWrite s w a bs = setBytes s a bs := by
  rw [hwWrite_clean s w a bs (by rw [CleanAt, h]; exact fun _ he => nomatch he), eccSpan_noErrors s a _ h]

theorem hwRead_noErrors (s : State) (w : Who) (k : Kind) (a len : Nat) (h : s.mem.ecc = []) : hwRead s w k a len = (s, true) := by
  unfold hwRead
  rw [h]
  rfl

theorem given_noErrors (s : State) (a : Nat) (h : s.mem.ecc = []) : given s a = memW s a := by
  have hr : readable s a 4 = true := by rw [readable, h]; rfl
  rw [given, if_pos hr]

/-! ## Memory and fields -/

theorem memW_cfg (s : State) (c : Cfg) (a : Nat) : memW { s with cfg := c } a = memW s a := memW_congr fun _ _ _ => rfl

theorem given_cfg (s : State) (c : Cfg) (a : Nat) : given { s with cfg := c } a = given s a := by
  unfold given
  rw [memW_cfg]
  rfl

/-! ## What reports leave of ASM and TRN -/

/-- What has been reported changed no field of ASM or TRN. -/
structure FrontKept (s t : State) : Prop where
  reports : Reports s t
  fields : ∀ u f, u = 0x14 ∨ u = 0x15 → f < 1024 → fGet t u f = fGet s u f

theorem FrontKept.refl (s : State) : FrontKept s s := ⟨Reports.refl s, fun _ _ _ _ => rfl⟩

theorem FrontKept.trans {s t u : State} (h : FrontKept s t) (h' : FrontKept t u) : FrontKept s u :=
  ⟨h.reports.trans h'.reports, fun x f hx hf => (h'.fields x f hx hf).trans (h.fields x f hx hf)⟩

theorem FrontKept.of_cfg {s t : State} (h : Reports s t) (hc : t.cfg = s.cfg) : FrontKept s t :=
  ⟨h, fun _ _ _ _ => by unfold fGet; rw [hc]⟩

theorem FrontKept.fold {α : Type} {f : State → α → State} (h : ∀ s a, FrontKept s (f s a)) (l : List α) (s : State) :
    FrontKept s (l.foldl f s) :=
  List.foldlRecOn (motive := fun t => FrontKept s t) l f (FrontKept.refl s) (fun t ht a _ => ht.trans (h t a))

theorem raise_frontKept (s : State) (n : Nat) : FrontKept s (raise s n) :=
  ⟨raise_reports s n, fun u f hu hf => fGet_raise s n u f (by omega) hf⟩

theorem post_frontKept (s : State) (src sev code : Nat) (ws : List Word) : FrontKept s (post s src sev code ws) :=
  ⟨post_reports s src sev code ws, fun u f hu hf => fGet_post s src sev code ws u f (by omega) (by omega) hf⟩

theorem raisePost_frontKept (s : State) (src sev n : Nat) (ws : List Word) : FrontKept s (raisePost s src sev n ws) :=
  (raise_frontKept s n).trans (post_frontKept _ src sev n ws)

/-- MEM's own fields are none of ASM or TRN. -/
theorem fSet_mem_frontKept (s : State) (f : Nat) (v : Word) (hf : f < 1024) : FrontKept s (fSet s 1 f v) :=
  ⟨fSet_reports s 1 f v, fun u f' hu hf' => fGet_fSet_ne s u f' 1 f v (by unfold fid; omega)⟩

theorem mem_frontKept (s : State) (m : Mem) : FrontKept s { s with mem := m } := .of_cfg ⟨_, _, _, _, _, rfl⟩ rfl

theorem errorResp_frontKept (s : State) (w : Who) (k : Kind) (c : Cause) (a f : Nat) : FrontKept s (errorResp s w k c a f) := by
  have hlog (i : Nat) (ws : List Word) (v : Word) : FrontKept s (raise (fSet (setWords (eccSpan s i 16) i ws) 1 7 v) 19) := by
    obtain ⟨m, hm⟩ := setWords_only ws (eccSpan s i 16) i
    rw [hm]
    exact (mem_frontKept s m).trans ((fSet_mem_frontKept _ 7 v (by decide)).trans (raise_frontKept _ 19))
  unfold errorResp
  dsimp only
  split
  · exact hlog _ _ _
  · exact (hlog _ _ _).trans (post_frontKept _ _ _ _ _)

theorem countCe_frontKept (s : State) (a : Nat) : FrontKept s (countCe s a) := by
  unfold countCe
  dsimp only
  split
  · exact (mem_frontKept s _).trans (raisePost_frontKept _ _ _ _ _)
  · exact mem_frontKept s _

theorem eccRead_frontKept (s : State) (a : Nat) : FrontKept s (eccRead s a).1 := by
  have hcount (m : Mem) (f : Nat) (hf : f < 1024) : FrontKept s (fInc { s with mem := m } 1 f 0 32) :=
    (mem_frontKept s m).trans (fSet_mem_frontKept _ f _ hf)
  have hkeep (t : State) : FrontKept t (keepUeAddr t (a / 8)) := (fSet_mem_frontKept t 9 _ (by decide)).trans
    (fSet_mem_frontKept _ 0xA _ (by decide))
  unfold eccRead
  dsimp only
  split_ifs
  · exact FrontKept.refl s
  · exact (hcount _ 3 (by decide)).trans (countCe_frontKept _ a)
  · exact (hcount _ 4 (by decide)).trans ((raisePost_frontKept _ _ _ _ _).trans (countCe_frontKept _ a))
  · exact (hcount _ 5 (by decide)).trans ((hkeep _).trans (raisePost_frontKept _ _ _ _ _))
  · exact hkeep s

theorem hwRead_frontKept (s : State) (w : Who) (k : Kind) (a len : Nat) : FrontKept s (hwRead s w k a len).1 := by
  unfold hwRead
  refine List.foldlRecOn (motive := fun r : State × Bool => FrontKept s r.1) _ _ (FrontKept.refl s) (fun r hr x _ => ?_)
  have hread := eccRead_frontKept r.1 (8 * x)
  split
  · exact hr
  · split
    · next he => rw [he] at hread; exact hr.trans hread
    · next t he =>
      rw [he] at hread
      exact hr.trans (FrontKept.trans (t := t) hread (errorResp_frontKept t w k .uncorr (8 * x) 0))

theorem hwWords_frontKept (s : State) (u a n : Nat) (ws : List Word) (hn : ws.length = n) (ha : a % 8 = 0) (heven : n % 2 = 0) :
    FrontKept s (hwWords s u a ws) := .of_cfg (hwWrite_reports s _ a _) (hwWords_cfg s u a n ws hn ha heven)

/-- The counts of the model stand in ASM's fields (R220). -/
theorem FrontKept.counts_eq {s t : State} (h : FrontKept s t) : counts t = counts s := by
  unfold counts
  rw [h.fields 0x14 3 (.inl rfl) (by decide), h.fields 0x14 4 (.inl rfl) (by decide), h.fields 0x14 5 (.inl rfl) (by decide),
    h.reports.asm_eq]

/-! ## Fields that a boundary applies (R105) -/

/-- Only fields and shadows differ. -/
def CfgOnly (s t : State) : Prop := ∃ c, t = { s with cfg := c }

theorem CfgOnly.trans {s t u : State} (h : CfgOnly s t) (h' : CfgOnly t u) : CfgOnly s u := by
  obtain ⟨c, rfl⟩ := h
  obtain ⟨c', rfl⟩ := h'
  exact ⟨c', rfl⟩

theorem fSet_cfgOnly (s : State) (u f : Nat) (v : Word) : CfgOnly s (fSet s u f v) := ⟨_, rfl⟩

theorem dropShadow_cfgOnly (s : State) (p : Tbl Word) : CfgOnly s (dropShadow s p) := ⟨_, rfl⟩

/-- A boundary changes fields, and may post that it refuses them. -/
theorem applyFields_cases (s : State) (u : Nat) : CfgOnly s (applyFields s u)
    ∨ ∃ t code ws, CfgOnly s t ∧ applyFields s u = post t u 2 code ws := by
  unfold applyFields
  split
  · exact .inl ⟨s.cfg, rfl⟩
  · next p _ =>
    have hdel : CfgOnly s { s with cfg := { s.cfg with pend := Tbl.del s.cfg.pend u } } := ⟨_, rfl⟩
    split
    · exact .inr ⟨_, _, _, hdel.trans (fSet_cfgOnly _ u 0x3FF _), rfl⟩
    · have htake := List.foldlRecOn (motive := fun t => CfgOnly s t) p (fun t (e : Nat × Word) => fSet t u (e.1 % 1024) e.2) hdel
        (fun t ht e _ => ht.trans (fSet_cfgOnly t u _ _))
      exact .inl (((htake.trans (dropShadow_cfgOnly _ p)).trans (fSet_cfgOnly _ u 0x3FF _)).trans (fSet_cfgOnly _ u 0x3FF _))

theorem applyFields_mem (s : State) (u : Nat) : (applyFields s u).mem = s.mem := by
  obtain ⟨c, h⟩ | ⟨t, code, ws, ⟨c, rfl⟩, h⟩ := applyFields_cases s u
  · rw [h]
  · rw [h, post_mem]

theorem evtPending_applyFields (s : State) (u e n : Nat) (he : e < 32) (h : evtPending s e n = true) :
    evtPending (applyFields s u) e n = true := by
  obtain ⟨c, hc⟩ | ⟨t, code, ws, ⟨c, rfl⟩, hc⟩ := applyFields_cases s u
  · rw [hc]
    exact h
  · rw [hc]
    exact evtPending_post _ _ _ _ _ e n he h

end Sys2Proof.Machine
end

section
/-! SUPPORT. Snapshots: when they are taken, what they hold, how they are copied and released (R196 to R199, R202). -/
namespace Sys2Proof.Machine

/-! ## Instructions of the front stage -/

/-- An assembly instruction whose body does not trap. -/
theorem frontOp_takes {i : Instr} {s t : State} {h : Hdr} {k func : Nat} {rd ra rb : Reg} {bad : Bool} {f : Nat → State → Res}
    (hi : exec i s = done s (frontOp h func rd ra rb bad f s)) (hb : f k (past s k 4) = .ok t) :
    Takes s h k i { word := encA 0b111100 rd ra rb func, grp := .front, bad := bad } t := takes_ok h _ k f i s t hi hb

/-- One whose body traps, on a state that an error response has changed. -/
theorem frontOp_traps {i : Instr} {s t : State} {h : Hdr} {k func : Nat} {rd ra rb : Reg} {bad : Bool} {f : Nat → State → Res} {e : Trap}
    (hi : exec i s = done s (frontOp h func rd ra rb bad f s)) (hb : f k (past s k 4) = .trap t e) :
    Takes s h k i { word := encA 0b111100 rd ra rb func, grp := .front, bad := bad } (takeTrap (setPc t k (getCtx s k).pc) h.eng k
      (getCtx s k).pc (fullWord h { word := encA 0b111100 rd ra rb func, grp := .front, bad := bad }) e) := by
  intro r
  unfold Gives
  rw [hi]
  exact congrArg (done s) (runInstr_trap h _ k f s t e r hb)

/-! ## Taking a snapshot (R196, R197) -/

/-- The area is locked on a snapshot of `s` at an instant: the sequence number has moved on, and the values are held as they stood. -/
def SnapHeld (s t : State) (sec ns : Nat) : Prop :=
  snapLocked t = true ∧ fGet t 0x14 7 = fGet s 0x14 7 + 1
  ∧ ∃ x, t.asm.copying = some x ∧ x.sec = sec ∧ x.ns = ns ∧ x.raw = (List.range (counts s).k).map (rawMeas s)

theorem rawMeas_cfg (s : State) (c : Cfg) (d : Nat) : rawMeas { s with cfg := c } d = rawMeas s d := by
  unfold rawMeas mdlW
  simp only [given_cfg]
  rfl

/-- The snapshot's number has moved on. -/
def snapNumbered (s : State) : State := fSet s 0x14 7 (fGet s 0x14 7 + 1)

theorem snapTake_held (s : State) (sec ns : Nat) : SnapHeld s (snapTake s sec ns) sec ns := by
  refine ⟨fBit_fSetBit_true (snapNumbered s) 0x14 8 0 (by decide), ?_, _, rfl, rfl, rfl, ?_⟩
  · exact (fGet_fSetBit_ne (snapNumbered s) 0x14 7 8 0 true (by decide)).trans (fGet_fSet_self s 0x14 7 _)
  · exact congrArg (fun f => (List.range (counts s).k).map f) (funext fun d => rawMeas_cfg s _ d)

theorem snapNow_takes (s : State) (h : Hdr) (k : Nat) (rd : Reg) (hl : snapLocked s = false) :
    Takes s h k (.snapNow h rd) { word := encA 0b111100 rd 0 0 0, grp := .front }
      (setReg (snapTake (past s k 4) s.time.sec s.time.ns) k rd (fGet (snapTake (past s k 4) s.time.sec s.time.ns) 0x14 7)) := by
  refine frontOp_takes (i := .snapNow h rd) rfl ?_
  have hl' : snapLocked (past s k 4) ≠ true := by rw [show snapLocked (past s k 4) = snapLocked s from rfl, hl]; decide
  exact if_neg hl'

theorem snapNow_locked (s : State) (h : Hdr) (k : Nat) (rd : Reg) (hl : snapLocked s = true) :
    Writes s h k (.snapNow h rd) { word := encA 0b111100 rd 0 0 0, grp := .front } rd 0 :=
  frontOp_takes (i := .snapNow h rd) rfl (if_pos hl)

/-- The instant that falls due is noted, taken or not. -/
def dueNoted (s : State) (at_ : Nat) : State := { s with asm := { s.asm with lastDue := some at_ } }

section
variable (s : State) (p i : Nat) (hp : fPart s 0x14 2 0 16 = p)
include hp

theorem snapshotDue_idle (h : unitOn s 0x14 = false ∨ s.pwr.asleep = true ∨ p = 0 ∨ instantIn s (p * 1000000) = none) :
    Gives s .snapshotDue s := by
  show execSnapshotDue s = _
  unfold execSnapshotDue
  simp only [hp]
  refine congrArg (done s) ?_
  split
  · rfl
  · next hrun =>
    simp only [Bool.or_eq_true, Bool.not_eq_true', beq_iff_eq, not_or] at hrun
    obtain ⟨⟨hon, hperiod⟩, hawake⟩ := hrun
    obtain h | h | h | h := h
    · exact absurd h hon
    · exact absurd h hawake
    · exact absurd h hperiod
    · rw [h]

/-- Instant `i` falls due: ASM runs, and the tick in progress holds the multiple `i` of the period. -/
structure SnapDue (s : State) (p i : Nat) : Prop where
  on : unitOn s 0x14 = true
  awake : s.pwr.asleep = false
  period : p ≠ 0
  instant : instantIn s (p * 1000000) = some i

theorem snapshotDue_gives (h : SnapDue s p i) : Gives s .snapshotDue (if s.asm.lastDue == some (i * p) then s
    else if snapLocked (dueNoted s (i * p)) then raise (fInc (dueNoted s (i * p)) 0x14 8 16 16) 321
    else snapTake (dueNoted s (i * p)) (i * p / 1000) (i * p % 1000 * 1000000)) := by
  have hrun : ¬ (!unitOn s 0x14 || p == 0 || s.pwr.asleep) = true := by simp [h.on, h.awake, h.period]
  show execSnapshotDue s = _
  unfold execSnapshotDue
  simp only [hp, if_neg hrun, h.instant]
  rfl

/-- An instant that was noted before is not due again. -/
theorem snapshotDue_again (hi : instantIn s (p * 1000000) = some i) (hd : s.asm.lastDue = some (i * p)) : Gives s .snapshotDue s := by
  by_cases h : unitOn s 0x14 = false ∨ s.pwr.asleep = true ∨ p = 0
  · exact snapshotDue_idle s p hp (by tauto)
  · simp only [not_or, Bool.not_eq_false, Bool.not_eq_true] at h
    have hg := snapshotDue_gives s p i hp ⟨h.1, h.2.1, h.2.2, hi⟩
    rwa [if_pos (beq_iff_eq.2 hd)] at hg

theorem snapshotDue_takes (h : SnapDue s p i) (hd : s.asm.lastDue ≠ some (i * p)) (hl : snapLocked s = false) :
    Gives s .snapshotDue (snapTake (dueNoted s (i * p)) (i * p / 1000) (i * p % 1000 * 1000000)) := by
  have hg := snapshotDue_gives s p i hp h
  have hl' : ¬ snapLocked (dueNoted s (i * p)) = true := by rw [show snapLocked (dueNoted s (i * p)) = snapLocked s from rfl, hl]; decide
  rwa [if_neg (by simpa using hd), if_neg hl'] at hg

theorem snapshotDue_missed (h : SnapDue s p i) (hd : s.asm.lastDue ≠ some (i * p)) (hl : snapLocked s = true) :
    Gives s .snapshotDue (raise (fInc (dueNoted s (i * p)) 0x14 8 16 16) 321) := by
  have hg := snapshotDue_gives s p i hp h
  have hl' : snapLocked (dueNoted s (i * p)) = true := hl
  rwa [if_neg (by simpa using hd), if_pos hl'] at hg

end

section
variable (s : State) (i : Nat)

/-- A snapshot that falls due on a locked area is counted. -/
theorem missed_counted : fPart (raise (fInc (dueNoted s i) 0x14 8 16 16) 321) 0x14 8 16 16 = satInc 16 (fPart s 0x14 8 16 16) :=
  (congrArg (Word.field · 16 16) ((raise_frontKept _ 321).fields 0x14 8 (.inl rfl) (by decide))).trans
    (fPart_fInc_self (dueNoted s i) 0x14 8 16 16 (by decide))

theorem missed_asm : (raise (fInc (dueNoted s i) 0x14 8 16 16) 321).asm = { s.asm with lastDue := some i } := (raise_reports _ 321).asm_eq

end

/-! ## Releasing it (R196, R202) -/

theorem snapUnlock_cases (s : State) : snapUnlock s = s
    ∨ snapUnlock s = { fSetBit s 0x14 8 0 false with asm := { s.asm with released := false } } := by
  unfold snapUnlock
  split
  · exact .inr rfl
  · exact .inl rfl

/-- The blocks that are open, which a release abandons. -/
def openBlocks (s : State) : Nat := bit s.asm.mat.isSome + bit s.asm.vec.isSome

/-- The blocks are abandoned, with a notice if there were any. -/
def blocksAbandoned (s : State) : State :=
  let t := stageFree { s with asm := { s.asm with mat := none, vec := none } }
  if openBlocks s = 0 then t else post t 0x14 1 0x060F []

/-- The program has released the area. -/
def areaReleased (s : State) : State :=
  if snapLocked s then snapUnlock { s with asm := { s.asm with released := true } } else s

theorem snapRel_takes (s : State) (h : Hdr) (k : Nat) (rd : Reg) (hc : s.asm.copying = none) :
    Takes s h k (.snapRel h rd) { word := encA 0b111100 rd 0 0 1, grp := .front }
      (setReg (areaReleased (blocksAbandoned (past s k 4))) k rd (Word.ofN (openBlocks s))) := by
  have hc' : ¬ (past s k 4).asm.copying.isSome = true := by rw [past_asm, hc]; decide
  exact frontOp_takes (i := .snapRel h rd) rfl (if_neg hc')

theorem snapRel_waits (s : State) (h : Hdr) (k : Nat) (rd : Reg) (hc : s.asm.copying ≠ none) :
    Takes s h k (.snapRel h rd) { word := encA 0b111100 rd 0 0 1, grp := .front }
      (setPc (past s k 4) k ((getCtx (past s k 4) k).pc - 4)) :=
  frontOp_takes (i := .snapRel h rd) rfl (if_pos (Option.isSome_iff_ne_none.2 hc))

theorem blocksAbandoned_frontKept (s : State) :
    FrontKept { s with asm := { s.asm with mat := none, vec := none, staged := 0 } } (blocksAbandoned s) := by
  unfold blocksAbandoned
  dsimp only
  split
  · exact FrontKept.refl _
  · exact post_frontKept _ _ _ _ _

theorem blocksAbandoned_asm (s : State) : (blocksAbandoned s).asm = { s.asm with mat := none, vec := none, staged := 0 } :=
  (blocksAbandoned_frontKept s).reports.asm_eq

theorem snapLocked_blocksAbandoned (s : State) : snapLocked (blocksAbandoned s) = snapLocked s :=
  congrArg (Word.tst · 0) ((blocksAbandoned_frontKept s).fields 0x14 8 (.inl rfl) (by decide))

theorem areaReleased_blocks (s : State) : (areaReleased s).asm.mat = s.asm.mat ∧ (areaReleased s).asm.vec = s.asm.vec := by
  unfold areaReleased
  split
  · rcases snapUnlock_cases { s with asm := { s.asm with released := true } } with h | h <;> rw [h] <;> exact ⟨rfl, rfl⟩
  · exact ⟨rfl, rfl⟩

/-- Without an advance on the snapshot a release unlocks the area. -/
theorem areaReleased_unlocks (s : State) (h : s.asm.adv = none) : snapLocked (areaReleased s) = false := by
  unfold areaReleased
  split
  · have hfree : (true && s.asm.adv.isNone) = true := by rw [h]; rfl
    rw [snapUnlock, if_pos hfree]
    exact (fBit_fSetBit _ 0x14 8 0 0 false (by decide)).trans (if_pos rfl)
  · next hl => exact Bool.not_eq_true _ ▸ hl

/-- An advance on the snapshot keeps it locked. -/
theorem areaReleased_held (s : State) (h : s.asm.adv ≠ none) : snapLocked (areaReleased s) = snapLocked s := by
  have hheld : ¬ (true && s.asm.adv.isNone) = true := by simpa [Option.isNone_iff_eq_none] using h
  unfold areaReleased
  split
  · rw [snapUnlock, if_neg hheld]
    rfl
  · rfl

/-! ## The copy (R194, R198, R199) -/

/-- The table words that an entry is made from lie below the snapshot area (R179). -/
def TablesKept (s t : State) : Prop := ∀ a, a + 4 ≤ 0x04001A0000 → memW t a = memW s a

/-- The copy so far: no word is in error, and the tables are as they were. -/
def CopyKept (s t : State) : Prop := t.mem.ecc = [] ∧ TablesKept s t

section
variable {s t : State} (hs : s.mem.ecc = []) (ht : CopyKept s t)
include hs ht

theorem CopyKept.mdlW_eq (n i w : Nat) (h : mdlAddr n i w + 4 ≤ 0x04001A0000) : mdlW t n i w = mdlW s n i w := by
  rw [mdlW, mdlW, given_noErrors t _ ht.1, given_noErrors s _ hs, ht.2 _ h]

theorem descriptorW_eq (d w : Nat) (hd : d < 40000) (hw : w < 4) : mdlW t 6 d w = mdlW s 6 d w := by
  refine ht.mdlW_eq hs 6 d w ?_
  have ha : mdlAddr 6 d w = 0x0400100000 + 4 * (4 * d + w) := rfl
  omega

theorem offsetW_eq (i : Nat) (hi : i < 4096) : mdlW t 7 i 0 = mdlW s 7 i 0 := by
  refine ht.mdlW_eq hs 7 i 0 ?_
  have ha : mdlAddr 7 i 0 = 0x04000A4000 + 4 * (1 * i + 0) := rfl
  omega

theorem corrected_eq (d : Nat) (raw : Word) (hd : d < 40000) : corrected t d raw = corrected s d raw := by
  have hi : (mdlW s 6 d 3).field 20 12 < 4096 := Nat.mod_lt _ (by decide)
  unfold corrected
  dsimp only
  rw [descriptorW_eq hs ht d 3 hd (by decide), offsetW_eq hs ht _ hi]

theorem entryStatus_eq (d : Nat) (v : Word) (stale : Bool) (hd : d < 40000) : entryStatus t d v stale = entryStatus s d v stale := by
  unfold entryStatus
  rw [descriptorW_eq hs ht d 1 hd (by decide), descriptorW_eq hs ht d 2 hd (by decide)]

end

theorem entryStatus_lt (s : State) (d : Nat) (v : Word) (stale : Bool) : entryStatus s d v stale < 4 := by
  unfold entryStatus
  split_ifs <;> decide

/-- The run of excluded snapshots that an entry counts. -/
def exclRun (s : State) (d : Nat) (st : Nat) : Nat := if st = 0 then 0 else satInc 16 ((given s (snapAddr d + 4)).field 0 16)

/-- The words of an entry. -/
def entryWords (s : State) (d : Nat) (raw : Word × Bool) : List Word :=
  let v := corrected s d raw.1
  let st := entryStatus s d v raw.2
  [v, Word.ofN (st * 2 ^ 28 + exclRun s d st)]

theorem exclRun_lt (s : State) (d st : Nat) : exclRun s d st < 2 ^ 16 := by
  unfold exclRun
  split
  · decide
  · exact satInc_lt 16 _

/-- The status field of an entry's second word. -/
theorem statusWord_field (st run : Nat) (hst : st < 4) (hrun : run < 2 ^ 16) : (Word.ofN (st * 2 ^ 28 + run)).field 28 4 = st := by
  rw [Word.field, word_ofN_toNat _ (by omega)]
  omega

theorem snapEntry_cases (s : State) (d : Nat) (raw : Word × Bool) :
    snapEntry s d raw = hwWords s 0x14 (snapAddr d) (entryWords s d raw)
    ∨ ∃ ws, snapEntry s d raw = raisePost (hwWords s 0x14 (snapAddr d) (entryWords s d raw)) 0x14 1 322 ws := by
  unfold snapEntry
  dsimp only
  split
  · exact .inr ⟨_, rfl⟩
  · exact .inl rfl

theorem raisePost_mem (s : State) (src sev n : Nat) (ws : List Word) : (raisePost s src sev n ws).mem = s.mem :=
  (post_mem _ _ _ _ _).trans (raise_mem s n)

theorem snapEntry_mem (s : State) (d : Nat) (raw : Word × Bool) :
    (snapEntry s d raw).mem = (hwWords s 0x14 (snapAddr d) (entryWords s d raw)).mem := by
  rcases snapEntry_cases s d raw with h | ⟨ws, h⟩
  · rw [h]
  · rw [h, raisePost_mem]

theorem snapAddr_whole (d : Nat) : snapAddr d % 8 = 0 := by
  unfold snapAddr
  omega

theorem snapEntry_frontKept (s : State) (d : Nat) (raw : Word × Bool) : FrontKept s (snapEntry s d raw) := by
  have hw := hwWords_frontKept s 0x14 (snapAddr d) 2 (entryWords s d raw) rfl (snapAddr_whole d) rfl
  rcases snapEntry_cases s d raw with h | ⟨ws, h⟩
  · rw [h]
    exact hw
  · rw [h]
    exact hw.trans (raisePost_frontKept _ _ _ _ _)

theorem memW_snapEntry (s : State) (d a : Nat) (raw : Word × Bool) (ha : a + 4 ≤ 0x0E00000000) :
    memW (snapEntry s d raw) a = memW (hwWords s 0x14 (snapAddr d) (entryWords s d raw)) a :=
  memW_of_lib ha (snapEntry_mem s d raw)
    (congrArg AsmU.lib ((snapEntry_frontKept s d raw).reports.asm_eq.trans (hwWrite_reports s _ _ _).asm_eq.symm))

/-- Entry `d` holds a value and a status. -/
def EntryIs (d : Nat) (v : Word) (st : Nat) (t : State) : Prop := memW t (snapAddr d) = v ∧ (memW t (snapAddr d + 4)).field 28 4 = st

section
variable {s t : State} (d : Nat) (raw : Word × Bool) (hd : d < 40000)
include hd

theorem memW_snapEntry_out (a : Nat) (ha : a + 4 ≤ 0x0E00000000) (ho : a + 4 ≤ snapAddr d ∨ snapAddr d + 8 ≤ a) :
    memW (snapEntry t d raw) a = memW t a := by
  rw [memW_snapEntry t d a raw ha]
  exact memW_hwWords_out t 0x14 (snapAddr d) 2 (entryWords t d raw) rfl (snapAddr_whole d) rfl (by unfold snapAddr; omega) a ho

theorem snapEntry_is : EntryIs d (corrected t d raw.1) (entryStatus t d (corrected t d raw.1) raw.2) (snapEntry t d raw) := by
  have hlow : snapAddr d + 4 * 2 ≤ 0x0C00000000 := by unfold snapAddr; omega
  have hhigh : 0x40000 ≤ snapAddr d := by unfold snapAddr; omega
  have word (i : Nat) (v : Word) (hv : (entryWords t d raw)[i]? = some v) (hi : i < 2) :
      memW (snapEntry t d raw) (snapAddr d + 4 * i) = v := by
    rw [memW_snapEntry t d _ raw (by omega)]
    exact memW_hwWords t 0x14 (snapAddr d) 2 (entryWords t d raw) rfl (snapAddr_whole d) rfl hlow i v hhigh hv
  refine ⟨word 0 _ rfl (by decide), ?_⟩
  rw [word 1 _ rfl (by decide)]
  exact statusWord_field _ _ (entryStatus_lt ..) (exclRun_lt ..)

theorem snapEntry_copyKept (ht : CopyKept s t) : CopyKept s (snapEntry t d raw) := by
  refine ⟨?_, fun a ha => ?_⟩
  · rw [snapEntry_mem]
    exact hwWords_clean t 0x14 (snapAddr d) 2 (entryWords t d raw) rfl (snapAddr_whole d) rfl ht.1
  · rw [memW_snapEntry_out d raw hd a (by omega) (.inl (by unfold snapAddr; omega)), ht.2 a ha]

end

/-- The entries of a copy are written. -/
def snapEntries (s : State) (c : Snap) : State := ((List.range c.raw.length).zip c.raw).foldl (fun s e => snapEntry s e.1 e.2) s

theorem snapEntries_frontKept (s : State) (c : Snap) : FrontKept s (snapEntries s c) :=
  FrontKept.fold (f := fun s (e : Nat × Word × Bool) => snapEntry s e.1 e.2) (fun s e => snapEntry_frontKept s e.1 e.2) _ s

/-- Each entry ends with the corrected value and the status of its descriptor, which later entries leave alone. -/
theorem snapEntries_are (s : State) (c : Snap) (hs : s.mem.ecc = []) (hk : c.raw.length ≤ 40000) (d : Nat) (raw : Word × Bool)
    (hraw : c.raw[d]? = some raw) :
    EntryIs d (corrected s d raw.1) (entryStatus s d (corrected s d raw.1) raw.2) (snapEntries s c) ∧ (snapEntries s c).mem.ecc = [] := by
  have hlt {i : Nat} {x : Word × Bool} (hx : (i, x) ∈ (List.range c.raw.length).zip c.raw) : i < 40000 :=
    Nat.lt_of_lt_of_le (List.getElem?_eq_some_iff.1 (mem_range_zip.1 hx)).1 hk
  have hd := mem_range_zip.2 hraw
  have hkept (t : State) (ht : CopyKept s t) (y) (hy : y ∈ (List.range c.raw.length).zip c.raw) :
      CopyKept s (snapEntry t y.1 y.2) := snapEntry_copyKept y.1 y.2 (hlt hy) ht
  have hgives (t : State) (ht : CopyKept s t) :
      EntryIs d (corrected s d raw.1) (entryStatus s d (corrected s d raw.1) raw.2) (snapEntry t d raw) := by
    have h := snapEntry_is (t := t) d raw (hlt hd)
    rwa [corrected_eq hs ht d raw.1 (hlt hd), entryStatus_eq hs ht d _ raw.2 (hlt hd)] at h
  have hzero : CopyKept s s := ⟨hs, fun _ _ => rfl⟩
  refine ⟨foldl_establishes hd hkept hgives (fun t ht hp y hy => ?_) s hzero, ?_⟩
  · obtain ⟨e, x⟩ := y
    by_cases he : e = d
    · subst he
      obtain rfl : x = raw := Option.some.inj ((mem_range_zip.1 hy).symm.trans hraw)
      exact hgives t ht
    · have hout (o : Nat) (ho : o = 0 ∨ o = 4) : memW (snapEntry t e x) (snapAddr d + o) = memW t (snapAddr d + o) := by
        have hd' := hlt hd
        exact memW_snapEntry_out e x (hlt hy) _ (by unfold snapAddr; omega) (by unfold snapAddr; omega)
      exact ⟨(hout 0 (.inl rfl)).trans hp.1, (congrArg (Word.field · 28 4) (hout 4 (.inr rfl))).trans hp.2⟩
  · exact (List.foldlRecOn (motive := fun t => CopyKept s t) _ _ hzero hkept).1

/-- Entries that are excluded. -/
def exclCount (s : State) (k : Nat) : Nat := ((List.range k).filter (fun d => snapStatus s d != 0)).length

/-- The words of the snapshot header (R199). -/
def snapHeader (s : State) (c : Snap) : List Word :=
  let k := c.raw.length
  let bad := exclCount s k
  [fGet s 0x14 7, Word.ofN c.sec, Word.ofN c.ns, Word.ofN c.opMs, Word.ofN k, Word.ofN (k - bad), Word.ofN bad,
    Word.ofN (fPart s 0x14 6 0 16)]

/-- The header is written behind the entries. -/
def snapHeaded (s : State) (c : Snap) : State := hwWords (snapEntries s c) 0x14 0x04001F0000 (snapHeader (snapEntries s c) c)

/-- EXCL_COUNT is set, and the copy is over. -/
def copyClosed (s : State) (bad : Nat) : State :=
  let t := fSet s 0x14 0x16 (Word.ofN bad)
  { t with asm := { t.asm with copying := none, snapOk := true } }

theorem copyClosed_mem (s : State) (bad : Nat) : (copyClosed s bad).mem = s.mem := rfl

theorem copyClosed_asm (s : State) (bad : Nat) : (copyClosed s bad).asm = { s.asm with copying := none, snapOk := true } := rfl

theorem snapEnd_eq (s : State) (c : Snap) :
    snapEnd s c = raise (copyClosed (snapHeaded s c) (exclCount (snapEntries s c) c.raw.length)) 320 := by
  simp only [snapEnd, copyClosed, snapHeaded, snapHeader, snapEntries, exclCount]

theorem snapEnd_mem (s : State) (c : Snap) : (snapEnd s c).mem = (snapHeaded s c).mem := by
  rw [snapEnd_eq, raise_mem, copyClosed_mem]

theorem snapEnd_asm (s : State) (c : Snap) : (snapEnd s c).asm = { (snapHeaded s c).asm with copying := none, snapOk := true } := by
  rw [snapEnd_eq, (raise_reports _ 320).asm_eq, copyClosed_asm]

theorem evtPending_snapEnd (s : State) (c : Snap) : evtPending (snapEnd s c) 0 320 = true := by
  rw [snapEnd_eq]
  exact evtPending_raise_self _ 0 320 (by decide)

theorem memW_snapEnd (s : State) (c : Snap) (a : Nat) (ha : a + 4 ≤ 0x0E00000000) : memW (snapEnd s c) a = memW (snapHeaded s c) a :=
  memW_of_lib ha (snapEnd_mem s c) (by rw [snapEnd_asm])

theorem memW_snapEnd_header (s : State) (c : Snap) (i : Nat) (v : Word) (hv : (snapHeader (snapEntries s c) c)[i]? = some v) :
    memW (snapEnd s c) (0x04001F0000 + 4 * i) = v := by
  have hi : i < 8 := (List.getElem?_eq_some_iff.1 hv).1
  rw [memW_snapEnd s c _ (by omega)]
  exact memW_hwWords (snapEntries s c) 0x14 0x04001F0000 8 _ rfl rfl rfl (by decide) i v (by decide) hv

theorem memW_snapEnd_below (s : State) (c : Snap) (a : Nat) (ha : a + 4 ≤ 0x04001F0000) :
    memW (snapEnd s c) a = memW (snapEntries s c) a := by
  rw [memW_snapEnd s c a (by omega)]
  exact memW_hwWords_out (snapEntries s c) 0x14 0x04001F0000 8 _ rfl rfl rfl (by decide) a (.inl ha)

/-- The copy's entries stand in the area at its end. -/
theorem snapEnd_entries (s : State) (c : Snap) (hs : s.mem.ecc = []) (hk : c.raw.length ≤ 40000) (d : Nat) (hd : d < c.raw.length) :
    memW (snapEnd s c) (snapAddr d) = corrected s d (c.raw.getD d (0, false)).1
    ∧ snapStatus (snapEnd s c) d = entryStatus s d (corrected s d (c.raw.getD d (0, false)).1) (c.raw.getD d (0, false)).2 := by
  have hraw : c.raw[d]? = some (c.raw.getD d (0, false)) := by
    rw [List.getD_eq_getElem?_getD, List.getElem?_eq_getElem hd, Option.getD_some]
  obtain ⟨⟨hv, hst⟩, hecc⟩ := snapEntries_are s c hs hk d _ hraw
  have hend : (snapEnd s c).mem.ecc = [] := by
    rw [snapEnd_mem]
    exact hwWords_clean _ 0x14 0x04001F0000 8 _ rfl rfl rfl hecc
  refine ⟨?_, ?_⟩
  · rw [memW_snapEnd_below s c _ (by unfold snapAddr; omega), hv]
  · rw [snapStatus, given_noErrors _ _ hend, memW_snapEnd_below s c _ (by unfold snapAddr; omega), hst]

theorem snapshotCopyEnd_gives (s : State) (c : Snap) (h : s.asm.copying = some c) : Gives s .snapshotCopyEnd (snapEnd s c) := by
  show execSnapshotCopyEnd s = _
  unfold execSnapshotCopyEnd
  rw [h]
  rfl

theorem snapshotCopyEnd_idle (s : State) (h : s.asm.copying = none) : Gives s .snapshotCopyEnd s := by
  show execSnapshotCopyEnd s = _
  unfold execSnapshotCopyEnd
  rw [h]
  rfl

end Sys2Proof.Machine
end

section
/-! SUPPORT. Transit: `trn.go` and its refusals, the end of an advance, and the reinitialisation after a model image (R186, R202, R216 to
R222). -/
namespace Sys2Proof.Machine

/-! ## `trn.go` (R202, R216) -/

section
variable (s : State) (h : Hdr) (k : Nat) (rd ra : Reg)

/-- `trn.go` as it is decoded. -/
def goDec (rd ra : Reg) : Dec := { word := encA 0b111100 rd ra 0 9, grp := .front, bad := oddReg ra }

theorem trnGo_starts (hr : trnRefusal s = 0) (hhi : (reg s k (ra + 1)).toNat < 256) :
    Takes s h k (.trnGo h rd ra) (goDec rd ra) (setReg
      (trnStart (past s k 4) ((reg s k (ra + 1)).toNat * 2 ^ 32 + (reg s k ra).toNat) none) k rd (s.asm.advSeq + 1)) := by
  refine frontOp_takes (i := .trnGo h rd ra) rfl ?_
  have hr' : trnRefusal (past s k 4) = 0 := hr
  simp only [hr', pairReg, reg_past, farAddr, if_pos hhi]
  rfl

theorem trnGo_traps (hr : trnRefusal s = 0) (hhi : 256 ≤ (reg s k (ra + 1)).toNat) : ∃ x, Takes s h k (.trnGo h rd ra) (goDec rd ra)
    (takeTrap x h.eng k (getCtx s k).pc (fullWord h (goDec rd ra))
      { cause := 3, resp := Cause.unmapped.code, addr := (reg s k (ra + 1)).toNat % 256 * 2 ^ 32 + (reg s k ra).toNat }) := by
  have hr' : trnRefusal (past s k 4) = 0 := hr
  have hhi' : ¬ (reg s k (ra + 1)).toNat < 256 := Nat.not_lt.2 hhi
  refine ⟨setPc (errorResp (past s k 4) (whoIs h.eng k) .read .unmapped
    ((reg s k (ra + 1)).toNat % 256 * 2 ^ 32 + (reg s k ra).toNat) 0) k (getCtx s k).pc, frontOp_traps (i := .trnGo h rd ra) rfl ?_⟩
  simp only [hr', pairReg, reg_past, farAddr, if_neg hhi']
  rfl

theorem trnGo_refused (hr : trnRefusal s ≠ 0) : Takes s h k (.trnGo h rd ra) (goDec rd ra)
    (setReg (fSetPart (past s k 4) 0x15 0x16 4 4 (trnRefusal s)) k rd 0) := by
  refine frontOp_takes (i := .trnGo h rd ra) rfl ?_
  have hr' : trnRefusal (past s k 4) = trnRefusal s := rfl
  obtain ⟨n, hn⟩ := Nat.exists_eq_succ_of_ne_zero hr
  simp only [hr', hn]

end

/-- Each refusal by its first condition that holds (R222). -/
theorem trnRefusal_locked (s : State) (hl : snapLocked s = true) : trnRefusal s =
    if fBit s 0x15 0x16 0 then 2 else if modelPending s then 3 else if fBit s 0x15 1 0 then 0 else 4 := by
  unfold trnRefusal
  rw [hl]
  cases fBit s 0x15 1 0 <;> rfl

theorem trnRefusal_lt (s : State) : trnRefusal s < 2 ^ 4 := by
  unfold trnRefusal
  split_ifs <;> decide

theorem trnRefusal_unlocked (s : State) (hl : snapLocked s = false) : trnRefusal s = 1 := by
  unfold trnRefusal
  rw [hl]
  rfl

theorem trnStart_running (s : State) (a : Nat) (v : Option (List Int)) : fBit (trnStart s a v) 0x15 0x16 0 = true := by
  have hbit (w : Word) (n : Nat) : (w.setField 16 16 n).tst 0 = w.tst 0 :=
    (getLsbD_setField w 16 16 n 0 (by decide)).trans (if_neg (by decide))
  have hput : fGet (trnStart s a v) 0x15 0x16 = (fGet (fSetBit s 0x15 0x16 0 true) 0x15 0x16).setField 16 16 (s.asm.advSeq + 1).toNat :=
    fGet_fSet_self _ _ _ _
  rw [fBit, hput, hbit]
  exact fBit_fSetBit_true s 0x15 0x16 0 (by decide)

/-- dt hangs on the ticks and on DT_MAX, not on what TRN's status says (R216). -/
theorem advanceDt_status (s : State) (q : Nat) : advanceDt (fSetPart (fSetBit s 0x15 0x16 0 true) 0x15 0x16 16 16 q) = advanceDt s := by
  have hmax : fGet (fSetPart (fSetBit s 0x15 0x16 0 true) 0x15 0x16 16 16 q) 0x15 3 = fGet s 0x15 3 :=
    (fGet_fSet_ne _ 0x15 3 0x15 0x16 _ (by decide)).trans (fGet_fSetBit_ne s 0x15 3 0x16 0 true (by decide))
  unfold advanceDt fPart
  rw [hmax]
  rfl

theorem trnStart_advance (s : State) (a : Nat) (v : Option (List Int)) :
    ∃ x, (trnStart s a v).asm.adv = some x ∧ x.addr = a ∧ x.vec = v ∧ x.dt = advanceDt s ∧ x.seq = s.asm.advSeq + 1 :=
  ⟨_, rfl, rfl, rfl, advanceDt_status s _, rfl⟩

theorem trnSt_writes (s : State) (h : Hdr) (k : Nat) (rd : Reg) :
    Writes s h k (.trnSt h rd) { word := encA 0b111100 rd 0 0 10, grp := .front } rd (cfgGet s 0x15 0x16) :=
  frontOp_takes (i := .trnSt h rd) rfl rfl

/-! ## The end of an advance (R217 to R219) -/

theorem trnReads_frontKept (s : State) : FrontKept s (trnReads s) :=
  FrontKept.fold (f := fun s (r : Nat × Nat) => (hwRead s { unit := 0x15 } .read r.1 r.2).1) (fun s _ => hwRead_frontKept s _ _ _ _) _ s

/-- What phase 2 gives for a node. -/
abbrev NodeRun := Int × Nat × Nat × Bool × Bool

/-- The words of a node result: temperature, flags and age, mass, and the advance's number (R219). -/
def nodeWords (s : State) (a : Advance) (n : Nat) (x : NodeRun) : List Word :=
  let flags := bit x.2.2.2.1 + 2 * bit (65000 ≤ x.2.1) + 4 * bit x.2.2.2.2 + 8 * bit (s.asm.initNd.contains n)
  [BitVec.ofInt 32 x.1, Word.ofN (flags * 2 ^ 16 + min x.2.1 65000), Word.ofN x.2.2.1, a.seq]

theorem writeNode_eq (s : State) (a : Advance) (n : Nat) (x : NodeRun) :
    writeNode s a n x = hwWords s 0x15 (nodeRes n) (nodeWords s a n x) := rfl

theorem nodeRes_whole (n : Nat) : nodeRes n % 8 = 0 := by
  unfold nodeRes
  omega

section
variable (s : State) (a : Advance) (m : Nat) (x : NodeRun) (hm : m < 65536)
include hm

theorem memW_writeNode_seq : memW (writeNode s a m x) (nodeRes m + 12) = a.seq := by
  rw [writeNode_eq]
  exact memW_hwWords s 0x15 (nodeRes m) 4 (nodeWords s a m x) rfl (nodeRes_whole m) rfl (by unfold nodeRes; omega) 3 a.seq
    (by unfold nodeRes; omega) rfl

theorem memW_writeNode_ne (n : Nat) (hn : n ≠ m) : memW (writeNode s a m x) (nodeRes n + 12) = memW s (nodeRes n + 12) := by
  rw [writeNode_eq]
  exact memW_hwWords_out s 0x15 (nodeRes m) 4 (nodeWords s a m x) rfl (nodeRes_whole m) rfl (by unfold nodeRes; omega) _
    (by unfold nodeRes; omega)

end

/-- The node results are written. -/
def nodesWritten (s : State) (a : Advance) (l : List NodeRun) : State :=
  ((List.range l.length).zip l).foldl (fun s e => writeNode s a e.1 e.2) s

theorem memW_nodesWritten (s : State) (a : Advance) (l : List NodeRun) (hl : l.length ≤ 65536) (n : Nat) (hn : n < l.length) :
    memW (nodesWritten s a l) (nodeRes n + 12) = a.seq := by
  have hlt {i : Nat} {x : NodeRun} (hx : (i, x) ∈ (List.range l.length).zip l) : i < 65536 :=
    Nat.lt_of_lt_of_le (List.getElem?_eq_some_iff.1 (mem_range_zip.1 hx)).1 hl
  have hseq (t : State) (m : Nat) (x : NodeRun) (hm : m < 65536) (he : n = m) : memW (writeNode t a m x) (nodeRes n + 12) = a.seq := by
    subst he
    exact memW_writeNode_seq t a n x hm
  have hkeeps (t : State) (ht : memW t (nodeRes n + 12) = a.seq) (y) (hy : y ∈ (List.range l.length).zip l) :
      memW (writeNode t a y.1 y.2) (nodeRes n + 12) = a.seq := by
    by_cases he : n = y.1
    · exact hseq t y.1 y.2 (hlt hy) he
    · exact (memW_writeNode_ne t a y.1 y.2 (hlt hy) n he).trans ht
  have hx := mem_range_zip.2 (List.getElem?_eq_getElem hn)
  exact foldl_establishes (f := fun t (e : Nat × NodeRun) => writeNode t a e.1 e.2) (inv := fun _ => True)
    (p := fun t => memW t (nodeRes n + 12) = a.seq) hx (fun _ _ _ _ => trivial) (fun t _ => hseq t n _ (hlt hx) rfl)
    (fun t _ ht y hy => hkeeps t ht y hy) s trivial

/-- An event that is raised or not changes no memory and nothing of ASM's. -/
theorem ite_raise_mem (s : State) (c : Prop) [Decidable c] (n : Nat) : (if c then raise s n else s).mem = s.mem := by
  by_cases h : c
  · rw [if_pos h, raise_mem]
  · rw [if_neg h]

theorem ite_raise_asm (s : State) (c : Prop) [Decidable c] (n : Nat) : (if c then raise s n else s).asm = s.asm := by
  by_cases h : c
  · rw [if_pos h, (raise_reports s n).asm_eq]
  · rw [if_neg h]

/-- An advance leaves its node results, for as many nodes as the model has. -/
theorem advanceRun_nodes (s : State) (a : Advance) : ∃ u l, l.length = (counts s).n
    ∧ (advanceRun s a).mem = (nodesWritten u a l).mem ∧ (advanceRun s a).asm.lib = (nodesWritten u a l).asm.lib := by
  have hn : (counts (trnReads s)).n = (counts s).n := congrArg Counts.n (trnReads_frontKept s).counts_eq
  unfold advanceRun
  extract_lets s1 c now k runs ins nodes node ends held sat s2 s3 flushes dry s4 s5 s6 carry asm s7 s8 s9
  have hl : nodes.length = c.n := by rw [List.length_map, List.length_range]
  have h3 : s3 = nodesWritten s2 a nodes := by
    unfold nodesWritten
    rw [hl]
  have h8 : s8 = if ¬ flushes = 0 then raise s7 337 else s7 := (ite_not ..).symm
  have h9 : s9 = if ¬ dry = 0 then raise s8 338 else s8 := (ite_not ..).symm
  refine ⟨s2, nodes, hl.trans hn, ?_, ?_⟩ <;> clear_value s3
  · rw [ite_raise_mem, h9, ite_raise_mem, h8, ite_raise_mem, ← h3]
    rfl
  · rw [ite_raise_asm, h9, ite_raise_asm, h8, ite_raise_asm, ← h3]
    rfl

theorem counts_n_lt (s : State) : (counts s).n < 65536 := Nat.mod_lt _ (by decide)

theorem memW_advanceRun (s : State) (a : Advance) (n : Nat) (hn : n < (counts s).n) : memW (advanceRun s a) (nodeRes n + 12) = a.seq := by
  have hmax := counts_n_lt s
  obtain ⟨u, l, hl, hmem, hlib⟩ := advanceRun_nodes s a
  rw [memW_of_lib (by unfold nodeRes; omega) hmem hlib]
  exact memW_nodesWritten u a l (by omega) n (by omega)

/-- The advance is over: TRN is not busy (R222). -/
def advanceClosed (s : State) : State := fSetBit { s with asm := { s.asm with adv := none } } 0x15 0x16 0 false

theorem trnAdvanceEnd_gives (s : State) (a : Advance) (ha : s.asm.adv = some a) (hon : unitOn s 0x15 = true)
    (hc : s.asm.copying = none) (hr : s.asm.reinit = none) :
    Gives s .trnAdvanceEnd (applyFields (snapUnlock (raise (advanceClosed (advanceRun s a)) 336)) 0x15) := by
  have hrun : (unitOn s 0x15 && s.asm.copying.isNone && s.asm.reinit.isNone) = true := by rw [hon, hc, hr]; rfl
  show execTrnAdvanceEnd s = _
  unfold execTrnAdvanceEnd advanceEnd
  rw [if_pos hrun, ha]
  rfl

theorem trnAdvanceEnd_idle (s : State) (h : s.asm.adv = none ∨ unitOn s 0x15 = false ∨ s.asm.copying ≠ none ∨ s.asm.reinit ≠ none) :
    Gives s .trnAdvanceEnd s := by
  refine congrArg (done s) ?_
  split
  · next hrun =>
    simp only [Bool.and_eq_true, Option.isNone_iff_eq_none] at hrun
    obtain ⟨⟨hon, hc⟩, hr⟩ := hrun
    obtain h | h | h | h := h
    · rw [advanceEnd, h]
    · exact absurd (hon.symm.trans h) (by decide)
    · exact absurd hc h
    · exact absurd hr h
  · rfl

/-- Unlocking changes one field and a flag of ASM's. -/
theorem snapUnlock_keeps (s : State) : (snapUnlock s).mem = s.mem ∧ (snapUnlock s).evts = s.evts
    ∧ (snapUnlock s).asm.lib = s.asm.lib ∧ (snapUnlock s).asm.adv = s.asm.adv := by
  rcases snapUnlock_cases s with h | h <;> rw [h] <;> exact ⟨rfl, rfl, rfl, rfl⟩

section
variable (s : State)

/-- What follows the three phases of an advance. -/
def advanceShut : State := applyFields (snapUnlock (raise (advanceClosed s) 336)) 0x15

theorem advanceShut_asm : (advanceShut s).asm = (snapUnlock (raise (advanceClosed s) 336)).asm := (applyFields_reports _ 0x15).asm_eq

theorem advanceShut_adv : (advanceShut s).asm.adv = none := by
  obtain ⟨-, -, -, hadv⟩ := snapUnlock_keeps (raise (advanceClosed s) 336)
  rw [advanceShut_asm, hadv, (raise_reports _ 336).asm_eq]
  rfl

theorem memW_advanceShut (a : Nat) (ha : a + 4 ≤ 0x0E00000000) : memW (advanceShut s) a = memW s a := by
  obtain ⟨hmem, -, hlib, -⟩ := snapUnlock_keeps (raise (advanceClosed s) 336)
  refine memW_of_lib ha ?_ ?_
  · rw [advanceShut, applyFields_mem, hmem, raise_mem]
    rfl
  · rw [advanceShut_asm, hlib, (raise_reports _ 336).asm_eq]
    rfl

theorem evtPending_advanceShut : evtPending (advanceShut s) 0 336 = true := by
  obtain ⟨-, hevts, -, -⟩ := snapUnlock_keeps (raise (advanceClosed s) 336)
  refine evtPending_applyFields _ 0x15 0 336 (by decide) ?_
  rw [evtPending, hevts]
  exact evtPending_raise_self _ 0 336 (by decide)

end

/-! ## The reinitialisation (R186) -/

/-- A reinitialisation ends with its fields set, its event raised, and the new nodes noted. -/
theorem reinitRun_ends (s : State) (r : Reinit) : (reinitRun s r).asm.reinit = none ∧ evtPending (reinitRun s r) 0 340 = true
    ∧ fBit (reinitRun s r) 0x15 0x16 1 = false ∧ (reinitRun s r).asm.initNd = (List.range (counts s).n).filter (fun n => r.oldN ≤ n) := by
  unfold reinitRun
  extract_lets c fresh new fills s1 s2 s3 s4 s5 asm
  clear_value s4
  rw [(raise_reports _ 340).asm_eq]
  refine ⟨rfl, evtPending_raise_self _ 0 340 (by decide), ?_, rfl⟩
  rw [fBit, (raise_frontKept _ 340).fields 0x15 0x16 (.inr rfl) (by decide)]
  exact (fBit_fSetBit s4 0x15 0x16 1 1 false (by decide)).trans (if_pos rfl)

theorem trnReinit_gives (s : State) (r : Reinit) (hr : s.asm.reinit = some r) (hon : unitOn s 0x15 = true) :
    Gives s .trnReinit (reinitRun s r) := by
  show execTrnReinit s = _
  unfold execTrnReinit
  rw [hr]
  exact congrArg (done s) (if_pos hon)

theorem trnReinit_idle (s : State) (h : s.asm.reinit = none ∨ unitOn s 0x15 = false) : Gives s .trnReinit s := by
  refine congrArg (done s) ?_
  rcases h with h | h
  · rw [h]
  · split
    · exact if_neg (by rw [h]; decide)
    · rfl

end Sys2Proof.Machine
end

section
/-! SUPPORT. Snapshots and advances together: the statement (R186, R196 to R199, R202, R216 to R222). -/
namespace Sys2Proof.Machine

/-- What `snap.rel` leaves: no block is open, the area is unlocked but for an advance, and rd holds the blocks abandoned. -/
theorem snapRel_ends (s : State) (h : Hdr) (k : Nat) (rd : Reg) (hc : s.asm.copying = none) :
    ∃ t, Takes s h k (.snapRel h rd) { word := encA 0b111100 rd 0 0 1, grp := .front } t ∧ t.asm.mat = none ∧ t.asm.vec = none
      ∧ (s.asm.adv = none → snapLocked t = false) ∧ (s.asm.adv ≠ none → snapLocked t = snapLocked s)
      ∧ (rd ≠ 0 → reg t k rd = Word.ofN (openBlocks s)) := by
  obtain ⟨hmat, hvec⟩ := areaReleased_blocks (blocksAbandoned (past s k 4))
  have hblocks := blocksAbandoned_asm (past s k 4)
  have hadv : (blocksAbandoned (past s k 4)).asm.adv = s.asm.adv := by rw [hblocks]; rfl
  refine ⟨_, snapRel_takes s h k rd hc, ?_, ?_, fun ha => ?_, fun ha => ?_, fun hrd => reg_setReg _ k rd _ hrd⟩
  · exact hmat.trans (by rw [hblocks])
  · exact hvec.trans (by rw [hblocks])
  · exact areaReleased_unlocks _ (hadv.trans ha)
  · exact (areaReleased_held _ (by rw [hadv]; exact ha)).trans (snapLocked_blocksAbandoned (past s k 4))

/-- An instant that falls due on a locked area raises event 321 and is counted. -/
theorem snapshotDue_locked (s : State) (p i : Nat) (hp : fPart s 0x14 2 0 16 = p) (h : SnapDue s p i)
    (hd : s.asm.lastDue ≠ some (i * p)) (hl : snapLocked s = true) :
    ∃ t, Gives s .snapshotDue t ∧ evtPending t 0 321 = true ∧ t.asm.copying = s.asm.copying
      ∧ fPart t 0x14 8 16 16 = satInc 16 (fPart s 0x14 8 16 16) :=
  ⟨_, snapshotDue_missed s p i hp h hd hl, evtPending_raise_self _ 0 321 (by decide),
    by rw [missed_asm], missed_counted s (i * p)⟩

theorem trnGo_begins (s : State) (h : Hdr) (k : Nat) (rd ra : Reg) (hr : trnRefusal s = 0) (hhi : (reg s k (ra + 1)).toNat < 256) :
    ∃ t, Takes s h k (.trnGo h rd ra) (goDec rd ra) t
      ∧ (∃ x, t.asm.adv = some x ∧ x.addr = (reg s k (ra + 1)).toNat * 2 ^ 32 + (reg s k ra).toNat ∧ x.vec = none
        ∧ x.dt = advanceDt s ∧ x.seq = s.asm.advSeq + 1)
      ∧ t.asm.prevTick = some s.asm.tick ∧ (rd ≠ 0 → reg t k rd = s.asm.advSeq + 1) ∧ fBit t 0x15 0x16 0 = true :=
  ⟨_, trnGo_starts s h k rd ra hr hhi, trnStart_advance (past s k 4) _ none, rfl, reg_setReg _ k rd _,
    trnStart_running (past s k 4) ((reg s k (ra + 1)).toNat * 2 ^ 32 + (reg s k ra).toNat) none⟩

theorem trnGo_denied (s : State) (h : Hdr) (k : Nat) (rd ra : Reg) (hr : trnRefusal s ≠ 0) :
    ∃ t, Takes s h k (.trnGo h rd ra) (goDec rd ra) t ∧ reg t k rd = 0 ∧ fPart t 0x15 0x16 4 4 = trnRefusal s
      ∧ t.asm.adv = s.asm.adv := by
  refine ⟨_, trnGo_refused s h k rd ra hr, reg_setReg_zero _ k rd, ?_, rfl⟩
  have hput : fGet (setReg (fSetPart (past s k 4) 0x15 0x16 4 4 (trnRefusal s)) k rd 0) 0x15 0x16 =
      (fGet s 0x15 0x16).setField 4 4 (trnRefusal s) := fGet_fSet_self _ _ _ _
  rw [fPart, hput, field_setField_self _ 4 4 _ (by decide), Nat.mod_eq_of_lt (trnRefusal_lt s)]

/-- Settles O31: what each command of the snapshot and of Transit leaves, by the state it gives. -/
theorem snapshotsAndAdvancesLockTheModel : Obligations.SnapshotsAndAdvancesLockTheModel := by
  unfold Obligations.SnapshotsAndAdvancesLockTheModel
  refine ⟨fun s h k rd i c => ?_, fun s h k rd ra a r => ?_⟩
  · intro dec period raw holds due
    have hdue (hd : due) : SnapDue s period i := ⟨hd.1, hd.2.1, hd.2.2.1, hd.2.2.2.1⟩
    have hnew (hd : due) : s.asm.lastDue ≠ some (i * period) := hd.2.2.2.2
    refine ⟨fun hl => ?_, snapNow_locked s h k rd, snapRel_ends s h k rd, snapRel_waits s h k rd,
      fun hd hl => ?_, fun hd hl => snapshotDue_locked s period i rfl (hdue hd) (hnew hd) hl,
      snapshotDue_idle s period rfl, snapshotDue_again s period i rfl, fun hc => ?_, snapshotCopyEnd_idle s⟩
    · have hheld := snapTake_held (past s k 4) s.time.sec s.time.ns
      exact ⟨_, snapNow_takes s h k rd hl, hheld, fun hrd => (reg_setReg _ k rd _ hrd).trans hheld.2.1⟩
    · exact ⟨_, snapshotDue_takes s period i rfl (hdue hd) (hnew hd) hl, snapTake_held (dueNoted s (i * period)) _ _⟩
    · have hcopy := snapEnd_asm s c
      have hnum : fGet (snapEntries s c) 0x14 7 = fGet s 0x14 7 := (snapEntries_frontKept s c).fields 0x14 7 (.inl rfl) (by decide)
      exact ⟨_, snapshotCopyEnd_gives s c hc, by rw [hcopy], evtPending_snapEnd s c, (memW_snapEnd_header s c 0 _ rfl).trans hnum,
        memW_snapEnd_header s c 1 _ rfl, memW_snapEnd_header s c 2 _ rfl, memW_snapEnd_header s c 4 _ rfl, snapEnd_entries s c⟩
  · intro dec go lo hi
    refine ⟨trnGo_begins s h k rd ra, trnGo_traps s h k rd ra, trnGo_denied s h k rd ra, trnRefusal_unlocked s, fun hl => ?_,
      trnSt_writes s h k rd, fun ha hon hc hr => ?_, trnAdvanceEnd_idle s, fun hr hon => ?_, trnReinit_idle s⟩
    · have href := trnRefusal_locked s hl
      refine ⟨fun hb => href.trans (if_pos hb), fun hb => ?_⟩
      replace href := href.trans (if_neg (by rw [hb]; decide))
      exact ⟨fun hm => href.trans (if_pos hm), fun hm => href.trans (if_neg (by rw [hm]; decide))⟩
    · refine ⟨_, trnAdvanceEnd_gives s a ha hon hc hr, advanceShut_adv (advanceRun s a), evtPending_advanceShut (advanceRun s a),
        fun n hn => ?_⟩
      have hmax := counts_n_lt s
      exact (memW_advanceShut (advanceRun s a) _ (by unfold nodeRes; omega)).trans (memW_advanceRun s a n hn)
    · exact ⟨_, trnReinit_gives s r hr hon, reinitRun_ends s r⟩

end Sys2Proof.Machine
end

section
/-! SUPPORT. What the assembly reads of the model, the snapshot and the staging area does not hang on the registers (R203). -/
namespace Sys2Proof.Machine

section
variable (s : State) (k len : Nat)

theorem fGet_past : fGet (past s k len) = fGet s := rfl
theorem fPart_past : fPart (past s k len) = fPart s := rfl
theorem counts_past : counts (past s k len) = counts s := rfl

theorem memN_past : memN (past s k len) = memN s := by
  funext a n
  induction n generalizing a with
  | zero => rfl
  | succ n ih => rw [memN, memN, ih, memByte_past]

theorem given_past : given (past s k len) = given s := by
  funext a
  unfold given
  rw [memW_past]
  rfl

theorem mdlW_past : mdlW (past s k len) = mdlW s := by
  funext t i w
  rw [mdlW, mdlW, given_past]

theorem activeMdl_past : activeMdl (past s k len) = activeMdl s := by
  rw [activeMdl, activeMdl, counts_past, mdlW_past]

theorem snapVal_past : snapVal (past s k len) = snapVal s := by
  funext d
  unfold snapVal snapStatus
  rw [given_past]

/-! ## Ranges and linearisation values -/

theorem branchMax_past : branchMax (past s k len) = branchMax s := by
  funext b
  rw [branchMax, branchMax, mdlW_past]

theorem colRange_past : colRange (past s k len) = colRange s := by
  funext c
  unfold colRange
  rw [counts_past, fGet_past, branchMax_past]

theorem tRange_past : tRange (past s k len) = tRange s := rfl
theorem linAddr_past : linAddr (past s k len) = linAddr s := rfl
theorem stageAddr_past : stageAddr (past s k len) = stageAddr s := rfl

theorem stageRec_past : stageRec (past s k len) = stageRec s := by
  funext i
  unfold stageRec
  rw [memN_past, stageAddr_past]

theorem branchT_past : branchT (past s k len) = branchT s := by
  funext b
  rw [branchT, branchT, given_past]

/-! ## Hydraulic entries (R206) -/

theorem rhoQ_past : rhoQ (past s k len) = rhoQ s := rfl
theorem valveMin_past : valveMin (past s k len) = valveMin s := rfl

theorem pumpOf_past : pumpOf (past s k len) = pumpOf s := by
  funext b
  rw [pumpOf, pumpOf, counts_past, mdlW_past]

theorem pipeDiv_past : pipeDiv (past s k len) = pipeDiv s := by
  funext b
  unfold pipeDiv
  rw [mdlW_past, rhoQ_past]

theorem pipeK_past : pipeK (past s k len) = pipeK s := by
  funext b n lam
  rw [pipeK, pipeK, mdlW_past, pipeDiv_past]

theorem valveK_past : valveK (past s k len) = valveK s := by
  funext b n o
  unfold valveK
  rw [mdlW_past, rhoQ_past]

theorem hydEntries_past : hydEntries (past s k len) = hydEntries s := by
  funext n b rough pa pb q
  unfold hydEntries
  rw [counts_past, mdlW_past, pumpOf_past, snapVal_past, valveMin_past, valveK_past, pipeK_past, branchMax_past, rhoQ_past, fPart_past,
    fGet_past]

/-! ## Thermal entries and injections (R207, R208) -/

theorem thermalEntries_past : thermalEntries (past s k len) = thermalEntries s := by
  funext n col mag sign f fm dT dTi bad
  unfold thermalEntries
  rw [counts_past]

theorem branchEnds_past : branchEnds (past s k len) = branchEnds s := by
  funext b q
  unfold branchEnds
  rw [mdlW_past]

theorem branchEntries_past : branchEntries (past s k len) = branchEntries s := by
  funext b q tout td
  unfold branchEntries
  rw [counts_past, branchEnds_past, branchMax_past, tRange_past, thermalEntries_past]

theorem injection_past : injection (past s k len) = injection s := by
  funext kind i
  unfold injection
  rw [counts_past, mdlW_past]

theorem injRange_past : injRange (past s k len) = injRange s := by
  funext d
  rw [injRange, injRange, tRange_past, mdlW_past]

theorem injEntries_past : injEntries (past s k len) = injEntries s := by
  funext j q tn
  unfold injEntries
  rw [counts_past, fGet_past, snapVal_past, injRange_past, tRange_past, thermalEntries_past]

/-! ## Measurement rows (R209) -/

theorem stateCol_past : stateCol (past s k len) = stateCol s := by
  funext d
  unfold stateCol
  rw [counts_past, activeMdl_past, mdlW_past]

theorem weight_past : weight (past s k len) = weight s := by
  funext d
  unfold weight
  rw [mdlW_past]
  rfl

theorem measEntries_past : measEntries (past s k len) = measEntries s := by
  funext d c x
  unfold measEntries
  rw [counts_past, weight_past, colRange_past, mdlW_past, snapVal_past]

end

end Sys2Proof.Machine
end

section
/-! SUPPORT. Blocks of the assembly: opened by a header, closed whole (R202, R204, R205, R213). -/
namespace Sys2Proof.Machine

/-! ## Where ASM writes, and accesses without errors (R93, R95, R97) -/

/-- ASM writes the live area of the slots, its home region below the tables, and solver memory (R93). -/
theorem asm_mayWrite {s : State} {r a : Nat} (h : mayWrite s 0x14 r a = true) : r = 8 ∨ r = 9 ∨ r = 15 := by
  unfold mayWrite at h
  split at h <;> simp_all

/-- What ASM may write lies in ordinary memory, at or below the end of solver memory. -/
theorem asmWrite_bounds {s : State} {a n : Nat} (h : accessCause s 0x14 true a n = none) :
    0x40000 ≤ a ∧ a + n ≤ 0x0803000000 := by
  obtain ⟨r, hfirst, hlast, hmay⟩ := region_of_accessCause h
  obtain ⟨e, he, hlo, -⟩ := regionOf_bounds hfirst
  obtain ⟨e', he', -, hhi⟩ := regionOf_bounds hlast
  obtain rfl : e = e' := Option.some.inj (he.symm.trans he')
  have hend : 0x40000 ≤ e.1 ∧ e.1 + e.2 ≤ 0x0803000000 := by
    rcases asm_mayWrite (hmay rfl) with rfl | rfl | rfl <;> cases he <;> decide
  omega

theorem withAccess_noErrors {s : State} {w : Who} {kd : Kind} {wr : Bool} {a n : Nat} {f : State → Res} (hecc : s.mem.ecc = [])
    (hmay : accessCause s w.unit wr a n = none) : withAccess s w kd wr a n f = f s := by
  have hget (x : Nat) : Tbl.get 0 s.mem.ecc x = 0 := by rw [hecc]; rfl
  have hput (x : Nat) : Tbl.put 0 s.mem.ecc x 0 = s.mem.ecc := by rw [hecc]; rfl
  have hfresh : eccFresh s a = s := by unfold eccFresh; rw [hput]
  have hok : access s w kd wr a n = (s, none) := by
    unfold access
    rw [hmay]
    dsimp only
    split
    · rw [hfresh]
    · rw [eccRead_clean s _ (hget _)]
  rw [withAccess, hok]

theorem hwWords_noErrors (s : State) (u a : Nat) (ws : List Word) (h : s.mem.ecc = []) : hwWords s u a ws = setBytes s a (wordBytes ws) :=
  hwWrite_noErrors s _ a _ h

theorem memWords_of_lib {s t : State} {a n : Nat} (ha : a + 4 * n ≤ 0x0E00000000) (hm : t.mem = s.mem) (hl : t.asm.lib = s.asm.lib) :
    memWords t a n = memWords s a n :=
  List.map_congr_left fun i hi => memW_of_lib (by have := List.mem_range.1 hi; omega) hm hl

/-! ## Words of the home region (R63, R67) -/

/-- Words that near loads get, one after another. -/
theorem homeWords_near (e : Eng) (k : Nat) (n : Nat) : ∀ (s : State) (ea : Nat) (f : List Word → State → Res),
    (∀ j < n, Near s e false (ea + 4 * j) 4) →
    homeWords e k n ea f s = f ((List.range n).map (fun j => memW s ((homeOf s e).1 + ea + 4 * j))) s := by
  induction n with
  | zero => exact fun _ _ _ _ => rfl
  | succ n ih =>
    intro s ea f hn
    have hrest (j : Nat) (hj : j < n) : Near s e false (ea + 4 + 4 * j) 4 := by
      have h := hn (j + 1) (by omega)
      rwa [show ea + 4 * (j + 1) = ea + 4 + 4 * j by omega] at h
    rw [homeWords, nearAccess_ok s e k _ _ ea 4 _ (hn 0 (by omega)) (by simp), ih s (ea + 4) _ hrest, List.range_succ_eq_map,
      List.map_cons, List.map_map]
    refine congrArg (fun ws => f (memW s ((homeOf s e).1 + ea) :: ws) s) (List.map_congr_left fun j _ => congrArg (memW s) ?_)
    simp only [Nat.succ_eq_add_one]
    omega

/-- The words of a record at a home offset. -/
def homeRecord (s : State) (e : Eng) (ea n : Nat) : List Word := (List.range n).map (fun j => memW s ((homeOf s e).1 + ea + 4 * j))

theorem homeWords_past {s : State} {e : Eng} {k n ea : Nat} {f : List Word → State → Res} (hn : ∀ j < n, Near s e false (ea + 4 * j) 4) :
    homeWords e k n ea f (past s k 4) = f (homeRecord s e ea n) (past s k 4) := by
  rw [homeWords_near e k n (past s k 4) ea f (fun j hj => near_past s k e false _ 4 (hn j hj)), homeOf_past]
  rfl

/-! ## Opening a block (R202, R204) -/

/-- The slot of the blocks of a kind. -/
def blockSlot (s : State) (vec : Bool) : Option Block := if vec then s.asm.vec else s.asm.mat

/-- Another block, or none, stands in a slot. -/
def setBlock (s : State) (vec : Bool) (b : Option Block) : State :=
  { s with asm := if vec then { s.asm with vec := b } else { s.asm with mat := b } }

@[simp] theorem blockSlot_setBlock (s : State) (vec : Bool) (b : Option Block) : blockSlot (setBlock s vec b) vec = b := by
  cases vec <;> rfl

@[simp] theorem blockSlot_setBlock_not (s : State) (vec : Bool) (b : Option Block) :
    blockSlot (setBlock s vec b) (!vec) = blockSlot s (!vec) := by cases vec <;> rfl

section
variable (s : State) (h : Hdr) (k : Nat) (rd ra : Reg)

/-- The header's words. -/
def headWord (s : State) (e : Eng) (ea i : Nat) : Word := (homeRecord s e ea 8).getD i 0

/-- `blk.open` and `blk.close` as they are decoded. -/
def blkDec (rd ra : Reg) (func : Nat) : Dec := { word := encA 0b111100 rd ra 0 func, grp := .front }

variable (hn : ∀ j < 8, Near s h.eng false ((reg s k ra).toNat + 4 * j) 4)
include hn

theorem blkOpen_takes (t : State) (ht : blkOpen k rd (homeRecord s h.eng (reg s k ra).toNat 8) (past s k 4) = .ok t) :
    Takes s h k (.blkOpen h rd ra) (blkDec rd ra 2) t := by
  refine frontOp_takes (i := .blkOpen h rd ra) rfl ?_
  simp only [reg_past]
  rw [homeWords_past hn, ht]

variable (vec : Bool) (b : Block)

theorem blkOpen_opens (hb : blockOf (headWord s h.eng (reg s k ra).toNat) = some (vec, b)) (hfree : blockSlot s vec = none) :
    Takes s h k (.blkOpen h rd ra) (blkDec rd ra 2) (setReg (setBlock (past s k 4) vec (some b)) k rd 0) := by
  refine blkOpen_takes s h k rd ra hn _ ?_
  have hb' : blockOf (fun i => (homeRecord s h.eng (reg s k ra).toNat 8).getD i 0) = some (vec, b) := hb
  have hnone : (if vec then (past s k 4).asm.vec else (past s k 4).asm.mat).isSome = false := by
    rw [show (if vec then (past s k 4).asm.vec else (past s k 4).asm.mat) = none from hfree]
    rfl
  rw [blkOpen, hb']
  simp only [hnone, Bool.false_eq_true, if_false]
  rfl

theorem blkOpen_taken (hb : blockOf (headWord s h.eng (reg s k ra).toNat) = some (vec, b)) (hfull : blockSlot s vec ≠ none) :
    Writes s h k (.blkOpen h rd ra) (blkDec rd ra 2) rd 6 := by
  refine blkOpen_takes s h k rd ra hn _ ?_
  have hb' : blockOf (fun i => (homeRecord s h.eng (reg s k ra).toNat 8).getD i 0) = some (vec, b) := hb
  have hsome : (if vec then (past s k 4).asm.vec else (past s k 4).asm.mat).isSome = true := Option.isSome_iff_ne_none.2 hfull
  rw [blkOpen, hb']
  simp only [hsome, if_true]
  rfl

theorem blkOpen_invalid (hb : blockOf (headWord s h.eng (reg s k ra).toNat) = none) :
    Writes s h k (.blkOpen h rd ra) (blkDec rd ra 2) rd 8 := by
  refine blkOpen_takes s h k rd ra hn _ ?_
  have hb' : blockOf (fun i => (homeRecord s h.eng (reg s k ra).toNat 8).getD i 0) = none := hb
  rw [blkOpen, hb']
  rfl

end

/-! ## Closing it (R213) -/

/-- A block's entries: those of its records that share their place are summed. -/
def blockEntries (s : State) (b : Block) : List Ent := (b.recs.map (stageRec s)).foldl sumInto []

/-- The words that a block is written out as. -/
def blockLen (b : Block) (vec : Bool) (es : List Ent) : Nat := 8 + (if vec then b.rows else b.cols + 1 + 2 * es.length)

/-- An entry's interval is wider than a block can scale. -/
def tooWide (es : List Ent) : Bool := es.any (fun e => decide (2 ^ 63 ≤ entBound e))

/-- A block that fits and can be scaled is written out, and its slot is free. -/
def blockWritten (s : State) (vec : Bool) (b : Block) (es : List Ent) : State :=
  setBlock (hwWords s 0x14 b.dest (blockWords s b vec es)) vec none

/-- The block's closing makes the staging area free when it was the last, and raises event 323. -/
def blockClosed (s : State) (vec : Bool) (b : Block) (es : List Ent) : State := raise (stageFree (blockWritten s vec b es)) 323

/-- The closing of a block with its entries: whether it fits, whether it can be scaled, and its accesses to memory. -/
def closeRun (k : Nat) (rd : Reg) (vec : Bool) (b : Block) (es : List Ent) (s : State) : Res :=
  if 0x0803000000 < b.dest + 4 * blockLen b vec es then .ok (setReg s k rd 5)
  else if tooWide es then .ok (setReg s k rd 7)
  else withAccess s { unit := 0x14 } .write true b.dest 4 (fun s =>
    withAccess s { unit := 0x14 } .write true (b.dest + 4 * blockLen b vec es - 4) 4 (fun s =>
      .ok (setReg (blockClosed s vec b es) k rd 0)))

theorem blkClose_eq (k : Nat) (rd : Reg) (s : State) (vec : Bool) (b : Block) (hb : blockSlot s vec = some b) :
    blkClose k rd (bit vec) s = closeRun k rd vec b (blockEntries s b) s := by
  cases vec
  · have hm : s.asm.mat = some b := hb
    show blkClose k rd 0 s = _
    unfold blkClose
    rw [if_pos rfl, hm]
    rfl
  · have hv : s.asm.vec = some b := hb
    show blkClose k rd 1 s = _
    unfold blkClose
    rw [if_neg (by decide), if_pos rfl, hv]
    rfl

theorem blockWords_length (s : State) (b : Block) (vec : Bool) (es : List Ent) : (blockWords s b vec es).length = blockLen b vec es := by
  unfold blockWords blockArrays blockLen
  cases vec
  · simp only [Bool.false_eq_true, if_false, List.length_append, List.length_cons, List.length_map, List.length_range, List.length_nil]
    omega
  · simp only [if_true, List.length_append, List.length_cons, List.length_map, List.length_range, List.length_nil]
    omega

theorem stageFree_keeps (s : State) (vec : Bool) : (stageFree s).mem = s.mem ∧ (stageFree s).asm.lib = s.asm.lib
    ∧ blockSlot (stageFree s) vec = blockSlot s vec := by
  unfold stageFree
  split <;> exact ⟨rfl, rfl, rfl⟩

section
variable (s : State) (vec : Bool) (b : Block) (es : List Ent)

theorem blockSlot_blockClosed (v : Bool) : blockSlot (blockClosed s vec b es) v = blockSlot (blockWritten s vec b es) v := by
  obtain ⟨-, -, hslot⟩ := stageFree_keeps (blockWritten s vec b es) v
  rw [← hslot, blockClosed, blockSlot, (raise_reports _ 323).asm_eq]
  rfl

theorem blockSlot_hwWords (u a : Nat) (ws : List Word) (v : Bool) : blockSlot (hwWords s u a ws) v = blockSlot s v := by
  have hasm : (hwWords s u a ws).asm = s.asm := (hwWrite_reports s _ a _).asm_eq
  rw [blockSlot, hasm]
  rfl

/-- The closed block stands in memory as its words. -/
theorem memWords_blockClosed (hecc : s.mem.ecc = []) (h1 : 0x40000 ≤ b.dest) (h2 : b.dest + 4 * blockLen b vec es ≤ 0x0803000000) :
    memWords (blockClosed s vec b es) b.dest (blockLen b vec es) = blockWords s b vec es := by
  obtain ⟨hmem, hlib, -⟩ := stageFree_keeps (blockWritten s vec b es) vec
  have hm : (blockClosed s vec b es).mem = (hwWords s 0x14 b.dest (blockWords s b vec es)).mem := (raise_mem _ 323).trans hmem
  have hw : (blockWritten s vec b es).asm.lib = (hwWords s 0x14 b.dest (blockWords s b vec es)).asm.lib := by cases vec <;> rfl
  have hl : (blockClosed s vec b es).asm.lib = (hwWords s 0x14 b.dest (blockWords s b vec es)).asm.lib :=
    (congrArg AsmU.lib (raise_reports _ 323).asm_eq).trans (hlib.trans hw)
  rw [memWords_of_lib (by omega) hm hl, hwWords_noErrors _ _ _ _ hecc]
  exact memWords_setBytes _ s b.dest _ (blockWords_length s b vec es) h1 (by omega)

end

section
variable (s : State) (h : Hdr) (k : Nat) (rd ra : Reg)

theorem blkClose_takes (n : Nat) (hn : (reg s k ra).toNat = n) (t : State) (ht : blkClose k rd n (past s k 4) = .ok t) :
    Takes s h k (.blkClose h rd ra) (blkDec rd ra 3) t := by
  refine frontOp_takes (i := .blkClose h rd ra) rfl ?_
  simp only [reg_past, hn]
  exact ht

theorem blkClose_none (h0 : reg s k ra = 0 → s.asm.mat = none) (h1 : reg s k ra = 1 → s.asm.vec = none) :
    Writes s h k (.blkClose h rd ra) (blkDec rd ra 3) rd 1 := by
  refine blkClose_takes s h k rd ra _ rfl _ ?_
  have hnone : (if (reg s k ra).toNat = 0 then (past s k 4).asm.mat else if (reg s k ra).toNat = 1 then (past s k 4).asm.vec else none)
      = none := by
    split
    · next hz => exact h0 (BitVec.eq_of_toNat_eq hz)
    · split
      · next ho => exact h1 (BitVec.eq_of_toNat_eq ho)
      · rfl
  rw [blkClose, hnone]
  rfl

variable (vec : Bool) (b : Block) (hn : reg s k ra = if vec then 1 else 0) (hb : blockSlot s vec = some b)
include hn hb

theorem slot_number : (reg s k ra).toNat = bit vec := by
  rw [hn]
  cases vec <;> rfl

theorem blkClose_runs (t : State) (ht : closeRun k rd vec b (blockEntries s b) (past s k 4) = .ok t) :
    Takes s h k (.blkClose h rd ra) (blkDec rd ra 3) t := by
  refine blkClose_takes s h k rd ra (bit vec) (slot_number s k ra vec b hn hb) t ?_
  have hentries : blockEntries (past s k 4) b = blockEntries s b := by rw [blockEntries, blockEntries, stageRec_past]
  rw [blkClose_eq k rd (past s k 4) vec b hb, hentries, ht]

theorem blkClose_tooLong (hlong : 0x0803000000 < b.dest + 4 * blockLen b vec (blockEntries s b)) :
    Writes s h k (.blkClose h rd ra) (blkDec rd ra 3) rd 5 :=
  blkClose_runs s h k rd ra vec b hn hb _ (if_pos hlong)

variable (hfits : b.dest + 4 * blockLen b vec (blockEntries s b) ≤ 0x0803000000)
include hfits

theorem blkClose_tooWide (hwide : tooWide (blockEntries s b) = true) : Writes s h k (.blkClose h rd ra) (blkDec rd ra 3) rd 7 :=
  blkClose_runs s h k rd ra vec b hn hb _ ((if_neg (Nat.not_lt.2 hfits)).trans (if_pos hwide))

theorem blkClose_writes (hwide : tooWide (blockEntries s b) = false) (hecc : s.mem.ecc = [])
    (hfirst : accessCause s 0x14 true b.dest 4 = none)
    (hlast : accessCause s 0x14 true (b.dest + 4 * blockLen b vec (blockEntries s b) - 4) 4 = none) :
    ∃ t, Takes s h k (.blkClose h rd ra) (blkDec rd ra 3) t ∧ blockSlot t vec = none ∧ blockSlot t (!vec) = blockSlot s (!vec)
      ∧ reg t k rd = 0 ∧ evtPending t 0 323 = true
      ∧ memWords t b.dest (blockLen b vec (blockEntries s b)) = blockWords s b vec (blockEntries s b) := by
  have hecc' : (past s k 4).mem.ecc = [] := hecc
  have hfirst' : accessCause (past s k 4) 0x14 true b.dest 4 = none := hfirst
  have hlast' : accessCause (past s k 4) 0x14 true (b.dest + 4 * blockLen b vec (blockEntries s b) - 4) 4 = none := hlast
  refine ⟨setReg (blockClosed (past s k 4) vec b (blockEntries s b)) k rd 0, blkClose_runs s h k rd ra vec b hn hb _ ?_,
    ?_, ?_, reg_setReg_zero _ k rd, evtPending_raise_self _ 0 323 (by decide), ?_⟩
  · rw [closeRun, if_neg (Nat.not_lt.2 hfits), if_neg (by rw [hwide]; decide), withAccess_noErrors (w := { unit := 0x14 }) hecc' hfirst',
      withAccess_noErrors (w := { unit := 0x14 }) hecc' hlast']
  · exact (blockSlot_blockClosed (past s k 4) vec b _ vec).trans (blockSlot_setBlock _ vec none)
  · exact (blockSlot_blockClosed (past s k 4) vec b _ (!vec)).trans ((blockSlot_setBlock_not _ vec none).trans
      (blockSlot_hwWords (past s k 4) 0x14 _ _ (!vec)))
  · exact (memWords_congr (fun _ => rfl) _ _).trans
      (memWords_blockClosed (past s k 4) vec b _ hecc (asmWrite_bounds hfirst).1 hfits)

end

end Sys2Proof.Machine
end

section
/-! SUPPORT. The staging area: the records that the assembly instructions append, and their answers (R203, R205, R206, R212). -/
namespace Sys2Proof.Machine

/-! ## Blocks that take records -/

theorem take_recs_length (b : Block) (recs : List Nat) (excl : Bool) (clamps : Nat) :
    (b.take recs excl clamps).recs.length = b.recs.length + recs.length := by
  unfold Block.take
  split
  · next h => rw [List.isEmpty_iff.1 h]; rfl
  · exact List.length_append

/-- The numbers that the entries of a kind get in the staging area. -/
def stageNums (base : Nat) (l : List Ent) (mat : Bool) : List Nat :=
  (((List.range l.length).zip l).filter (fun e => e.2.mat == mat)).map (fun e => base + e.1)

theorem stageNums_length (base : Nat) (l : List Ent) (mat : Bool) :
    (stageNums base l mat).length = (l.filter (fun e => e.mat == mat)).length := by
  have hsnd : ((List.range l.length).zip l).map Prod.snd = l := List.map_snd_zip (by rw [List.length_range])
  have hfilter : l.filter (fun e => e.mat == mat) = (((List.range l.length).zip l).filter (fun e => e.2.mat == mat)).map Prod.snd := by
    conv_lhs => rw [← hsnd]
    exact List.filter_map
  rw [stageNums, hfilter, List.length_map, List.length_map]

/-! ## Records in memory -/

theorem recBytes_length (e : Ent) : (recBytes e).length = 32 := by
  simp only [recBytes, List.length_append, leBytes_length]

theorem stageAddr_add (s : State) (i : Nat) : stageAddr s i = stageAddr s 0 + 32 * i := by
  rw [stageAddr, stageAddr, Nat.mul_zero, Nat.add_zero]

/-- Only memory differs, and no word is in error. -/
def CleanOnly (s t : State) : Prop := (∃ m, t = { s with mem := m }) ∧ t.mem.ecc = []

/-- The records of entries are written from a place of the staging area on. -/
def recordsWritten (s : State) (base : Nat) (l : List Ent) : State :=
  ((List.range l.length).zip l).foldl (fun s e => hwWrite s { unit := 0x14 } (stageAddr s (base + e.1)) (recBytes e.2)) s

section
variable {s : State} (base : Nat) (l : List Ent)

theorem record_written {t : State} (ht : CleanOnly s t) (e : Nat × Ent) :
    hwWrite t { unit := 0x14 } (stageAddr t (base + e.1)) (recBytes e.2) = setBytes t (stageAddr s (base + e.1)) (recBytes e.2) := by
  obtain ⟨⟨m, rfl⟩, hecc⟩ := ht
  rw [hwWrite_noErrors _ _ _ _ hecc]
  rfl

theorem setBytes_cleanOnly {t : State} (ht : CleanOnly s t) (a : Nat) (bs : List Byte) : CleanOnly s (setBytes t a bs) := by
  obtain ⟨⟨m, rfl⟩, hecc⟩ := ht
  refine ⟨?_, (setBytes_ecc bs _ a).trans hecc⟩
  obtain ⟨m', hm⟩ := setBytes_only bs { s with mem := m } a
  exact ⟨m', hm⟩

theorem recordsWritten_cleanOnly (hecc : s.mem.ecc = []) : CleanOnly s (recordsWritten s base l) := by
  refine List.foldlRecOn (motive := fun t => CleanOnly s t) _ _ ⟨⟨s.mem, rfl⟩, hecc⟩ (fun t ht e _ => ?_)
  rw [record_written base ht e]
  exact setBytes_cleanOnly ht _ _

theorem memBytes_setBytes_out (t : State) (a b n : Nat) (bs : List Byte) (hlow : a + bs.length ≤ 0x0C00000000)
    (ho : b + n ≤ a ∨ a + bs.length ≤ b) : memBytes (setBytes t a bs) b n = memBytes t b n :=
  List.map_congr_left fun i hi => by
    have hi := List.mem_range.1 hi
    exact memByte_setBytes_low bs t a (b + i) hlow (by omega)

/-- Each record stands at its place, which the others leave alone. -/
theorem memBytes_recordsWritten (hecc : s.mem.ecc = []) (h1 : 0x40000 ≤ stageAddr s base)
    (h2 : stageAddr s (base + l.length) ≤ 0x0C00000000) (n : Nat) (hn : n < l.length) :
    memBytes (recordsWritten s base l) (stageAddr s (base + n)) 32 = recBytes (l.getD n {}) := by
  rw [stageAddr_add] at h1 h2
  have hget : l[n]? = some (l.getD n {}) := by
    rw [List.getD_eq_getElem?_getD, List.getElem?_eq_getElem hn, Option.getD_some]
  have hlt {i : Nat} {x : Ent} (hx : (i, x) ∈ (List.range l.length).zip l) : i < l.length :=
    (List.getElem?_eq_some_iff.1 (mem_range_zip.1 hx)).1
  have hlow (i : Nat) (x : Ent) (hi : i < l.length) : stageAddr s (base + i) + (recBytes x).length ≤ 0x0C00000000 := by
    rw [recBytes_length, stageAddr_add]
    omega
  have hself (t : State) (x : Ent) : memBytes (setBytes t (stageAddr s (base + n)) (recBytes x)) (stageAddr s (base + n)) 32 =
      recBytes x := by
    have h := memBytes_setBytes (recBytes x) t (stageAddr s (base + n)) (by rw [stageAddr_add]; omega) (hlow n x hn)
    rwa [recBytes_length] at h
  have hstep (t : State) (ht : CleanOnly s t) (e : Nat × Ent) (he : e ∈ (List.range l.length).zip l)
      (hp : e.1 = n ∨ memBytes t (stageAddr s (base + n)) 32 = recBytes (l.getD n {})) :
      memBytes (hwWrite t { unit := 0x14 } (stageAddr t (base + e.1)) (recBytes e.2)) (stageAddr s (base + n)) 32 =
        recBytes (l.getD n {}) := by
    obtain ⟨i, x⟩ := e
    rw [record_written base ht]
    by_cases hi : i = n
    · subst hi
      obtain rfl : x = l.getD i {} := Option.some.inj ((mem_range_zip.1 he).symm.trans hget)
      exact hself t _
    · rw [memBytes_setBytes_out t _ _ 32 (recBytes x) (hlow i x (hlt he))
        (by rw [recBytes_length, stageAddr_add s (base + i), stageAddr_add s (base + n)]; omega)]
      exact hp.resolve_left hi
  have hkept (t : State) (ht : CleanOnly s t) (e : Nat × Ent) (_ : e ∈ (List.range l.length).zip l) :
      CleanOnly s (hwWrite t { unit := 0x14 } (stageAddr t (base + e.1)) (recBytes e.2)) := by
    rw [record_written base ht e]
    exact setBytes_cleanOnly ht _ _
  have hx := mem_range_zip.2 hget
  exact foldl_establishes (f := fun t (e : Nat × Ent) => hwWrite t { unit := 0x14 } (stageAddr t (base + e.1)) (recBytes e.2))
    (inv := fun t => CleanOnly s t) (p := fun t => memBytes t (stageAddr s (base + n)) 32 = recBytes (l.getD n {}))
    hx hkept (fun t ht => hstep t ht _ hx (.inl rfl)) (fun t ht hp e he => hstep t ht e he (.inr hp)) s ⟨⟨s.mem, rfl⟩, hecc⟩

end

/-! ## Appending entries (R203, R205) -/

/-- No block is open. -/
def NoBlock (s : State) : Prop := s.asm.mat = none ∧ s.asm.vec = none

theorem noBlock_iff (s : State) : (s.asm.mat.isNone && s.asm.vec.isNone) = true ↔ NoBlock s := by
  simp only [Bool.and_eq_true, Option.isNone_iff_eq_none, NoBlock]

/-- The entries have been appended: their records are written and the blocks that they fall in take them. -/
def appended (s : State) (l : List Ent) (clamps : Nat) : State :=
  let t := recordsWritten s s.asm.staged l
  let excl (mat : Bool) : Bool := l.any (fun e => e.mat == mat && e.bad)
  { t with asm := { t.asm with
    staged := s.asm.staged + l.length
    mat := t.asm.mat.map (·.take (stageNums s.asm.staged l true) (excl true) clamps)
    vec := t.asm.vec.map (·.take (stageNums s.asm.staged l false) (excl false) clamps) } }

/-- The first and the last record of a list can be written. -/
def StageOpen (s : State) (l : List Ent) : Prop :=
  l ≠ [] → ∀ a ∈ [stageAddr s s.asm.staged, stageAddr s (s.asm.staged + l.length - 1) + 24], accessCause s 0x14 true a 8 = none

section
variable (k : Nat) (rd : Reg) (es : List Ent) (clamps : Nat) (s : State)

theorem append_closed (h : NoBlock s) : append k rd es clamps s = .ok (setReg s k rd 1) := if_pos ((noBlock_iff s).2 h)

theorem append_full (h : ¬ NoBlock s) (hf : (fGet s 0x14 0xD).toNat < s.asm.staged + (es.filter (inBlock s)).length) :
    append k rd es clamps s = .ok (setReg s k rd 3) :=
  (if_neg (mt (noBlock_iff s).1 h)).trans (if_pos hf)

theorem append_appends (h : ¬ NoBlock s) (hf : s.asm.staged + (es.filter (inBlock s)).length ≤ (fGet s 0x14 0xD).toNat)
    (hecc : s.mem.ecc = []) (hopen : StageOpen s (es.filter (inBlock s))) :
    append k rd es clamps s = .ok (setReg (countClamps (appended s (es.filter (inBlock s)) clamps) clamps) k rd 0) := by
  unfold append
  extract_lets l base nums excl put
  rw [if_neg (mt (noBlock_iff s).1 h), if_neg (Nat.not_lt.2 hf)]
  have hput : put s = .ok (setReg (countClamps (appended s l clamps) clamps) k rd 0) := rfl
  split
  · exact hput
  · next hne =>
    have hmay := hopen (fun he => hne (List.isEmpty_iff.2 he))
    rw [withAccess_noErrors hecc (hmay _ (by simp [base])), withAccess_noErrors hecc (hmay _ (by simp [l, base])), hput]

end

end Sys2Proof.Machine
end

section
/-! SUPPORT. What an assembly instruction answers and what it stages (R202, R203, R205, R211, R212). -/
namespace Sys2Proof.Machine

/-! ## What stands after an append -/

theorem countClamps_mem (s : State) (n : Nat) : (countClamps s n).mem = s.mem := by
  unfold countClamps
  split
  · rfl
  · exact raise_mem _ 324

theorem countClamps_asm (s : State) (n : Nat) : (countClamps s n).asm = s.asm := by
  unfold countClamps
  split
  · rfl
  · exact (raise_reports _ 324).asm_eq

theorem evtPending_countClamps (s : State) (n : Nat) (hn : n ≠ 0) : evtPending (countClamps s n) 0 324 = true := by
  rw [countClamps, if_neg hn]
  exact evtPending_raise_self _ 0 324 (by decide)

theorem memBytes_of_lib {s t : State} {a n : Nat} (ha : a + n ≤ 0x0E00000000) (hm : t.mem = s.mem) (hl : t.asm.lib = s.asm.lib) :
    memBytes t a n = memBytes s a n :=
  List.map_congr_left fun i hi => memByte_of_lib (by have := List.mem_range.1 hi; omega) hm hl

section
variable (s : State) (l : List Ent) (clamps : Nat) (hecc : s.mem.ecc = [])
include hecc

theorem recordsWritten_asm (base : Nat) : (recordsWritten s base l).asm = s.asm := by
  obtain ⟨⟨m, hm⟩, -⟩ := recordsWritten_cleanOnly base l hecc
  rw [hm]

/-- Each kind's block has as many records more as entries of its kind fall in it. -/
theorem appended_blocks :
    (appended s l clamps).asm.mat.map (·.recs.length) = s.asm.mat.map (fun b => b.recs.length + (l.filter (·.mat)).length)
    ∧ (appended s l clamps).asm.vec.map (·.recs.length) = s.asm.vec.map (fun b => b.recs.length + (l.filter (fun e => !e.mat)).length) := by
  have hasm := recordsWritten_asm s l hecc s.asm.staged
  have hmat : l.filter (fun e => e.mat == true) = l.filter (·.mat) := List.filter_congr fun e _ => by cases e.mat <;> rfl
  have hvec : l.filter (fun e => e.mat == false) = l.filter (fun e => !e.mat) := List.filter_congr fun e _ => by cases e.mat <;> rfl
  refine ⟨?_, ?_⟩
  · rw [← hmat, ← stageNums_length s.asm.staged, appended]
    dsimp only
    rw [hasm, Option.map_map]
    exact congrArg (Option.map · s.asm.mat) (funext fun b => take_recs_length b _ _ _)
  · rw [← hvec, ← stageNums_length s.asm.staged, appended]
    dsimp only
    rw [hasm, Option.map_map]
    exact congrArg (Option.map · s.asm.vec) (funext fun b => take_recs_length b _ _ _)

/-- Each record stands at its place in the staging area. -/
theorem memBytes_appended (hopen : StageOpen s l) (n : Nat) (hn : n < l.length) :
    memBytes (countClamps (appended s l clamps) clamps) (stageAddr s (s.asm.staged + n)) 32 = recBytes (l.getD n {}) := by
  have hne : l ≠ [] := List.ne_nil_of_length_pos (by omega)
  have hfirst := (asmWrite_bounds (hopen hne _ List.mem_cons_self)).1
  have hlast := (asmWrite_bounds (hopen hne _ (List.mem_cons_of_mem _ List.mem_cons_self))).2
  have hbase := stageAddr_add s
  have hbefore := hbase (s.asm.staged + n)
  have hend : stageAddr s (s.asm.staged + l.length) ≤ 0x0C00000000 := by
    rw [hbase] at hlast ⊢
    omega
  have hlow : stageAddr s (s.asm.staged + n) + 32 ≤ 0x0E00000000 := by
    rw [hbase] at hend ⊢
    omega
  have hmem : (countClamps (appended s l clamps) clamps).mem = (recordsWritten s s.asm.staged l).mem := countClamps_mem _ _
  have hlib : (countClamps (appended s l clamps) clamps).asm.lib = (recordsWritten s s.asm.staged l).asm.lib :=
    (congrArg AsmU.lib (countClamps_asm (appended s l clamps) clamps) :)
  rw [memBytes_of_lib hlow hmem hlib]
  exact memBytes_recordsWritten s.asm.staged l hecc hfirst hend n hn

end

/-! ## Answers -/

section
variable (s : State) (h : Hdr) (k : Nat) (rd : Reg)

/-- The instruction answers with a status and changes nothing of the assembly or of memory. -/
def Answers (i : Instr) (d : Dec) (v : Word) : Prop :=
  ∃ t, Takes s h k i d t ∧ (rd ≠ 0 → reg t k rd = v) ∧ t.asm = s.asm ∧ t.mem = s.mem

/-- The instruction stages those entries that fall in an open block, or answers why it does not (R203, R205, R212). -/
def Stages (i : Instr) (d : Dec) (es : List Ent) (clamps : Nat) : Prop :=
  let l := es.filter (inBlock s)
  (NoBlock s → Answers s h k rd i d 1)
  ∧ (¬ NoBlock s → (fGet s 0x14 0xD).toNat < s.asm.staged + l.length → Answers s h k rd i d 3)
  ∧ (¬ NoBlock s → s.asm.staged + l.length ≤ (fGet s 0x14 0xD).toNat → StageOpen s l →
      ∃ t, Takes s h k i d t ∧ reg t k rd = 0 ∧ t.asm.staged = s.asm.staged + l.length
        ∧ (∀ n < l.length, memBytes t (stageAddr s (s.asm.staged + n)) 32 = recBytes (l.getD n {}))
        ∧ t.asm.mat.map (·.recs.length) = s.asm.mat.map (fun b => b.recs.length + (l.filter (·.mat)).length)
        ∧ t.asm.vec.map (·.recs.length) = s.asm.vec.map (fun b => b.recs.length + (l.filter (fun e => !e.mat)).length)
        ∧ (clamps ≠ 0 → evtPending t 0 324 = true))

/-- The state that a front stage instruction acts in, with free values drawn. -/
def drawn (s : State) (k n : Nat) : State := { past s k 4 with free := n }

variable {i : Instr} {func : Nat} {ra rb : Reg} {f : Nat → State → Res} (hi : exec i s = done s (frontOp h func rd ra rb false f s))
include hi

theorem answers_of_setReg (n : Nat) (v : Word) (hb : f k (past s k 4) = .ok (setReg (drawn s k n) k rd v)) :
    Answers s h k rd i { word := encA 0b111100 rd ra rb func, grp := .front } v :=
  ⟨_, frontOp_takes hi hb, reg_setReg _ k rd v, rfl, rfl⟩

/-- An instruction that comes to append entries stages them. -/
theorem stages_of_append (hecc : s.mem.ecc = []) (n : Nat) (es : List Ent) (clamps : Nat)
    (hb : f k (past s k 4) = append k rd es clamps (drawn s k n)) :
    Stages s h k rd i { word := encA 0b111100 rd ra rb func, grp := .front } es clamps := by
  unfold Stages
  intro l
  refine ⟨fun hc => ?_, fun hc hfull => ?_, fun hc hroom hopen => ?_⟩
  · exact answers_of_setReg s h k rd hi n 1 (hb.trans (append_closed k rd es clamps (drawn s k n) hc))
  · exact answers_of_setReg s h k rd hi n 3 (hb.trans (append_full k rd es clamps (drawn s k n) hc hfull))
  · obtain ⟨hmat, hvec⟩ := appended_blocks (drawn s k n) l clamps hecc
    have hasm := countClamps_asm (appended (drawn s k n) l clamps) clamps
    refine ⟨_, frontOp_takes hi (hb.trans (append_appends k rd es clamps (drawn s k n) hc hroom hecc hopen)), reg_setReg_zero _ k rd, ?_,
      memBytes_appended (drawn s k n) l clamps hecc hopen, ?_, ?_, evtPending_countClamps _ clamps⟩
    · exact congrArg AsmU.staged hasm
    · exact (congrArg (fun x : AsmU => x.mat.map (·.recs.length)) hasm).trans hmat
    · exact (congrArg (fun x : AsmU => x.vec.map (·.recs.length)) hasm).trans hvec

end

/-! ## Elements of the model (R202, R203) -/

section
variable (k : Nat) (rd : Reg) (i n : Nat) (f : State → Res) (s : State)

theorem element_runs (hl : snapLocked s = true) (hc : s.asm.copying = none) (hi : i < n) : element k rd i n f s = f s := by
  rw [element, if_neg (by rw [hl]; decide), if_neg (by rw [hc]; decide), if_neg (Nat.not_le.2 hi)]

theorem element_beyond (hl : snapLocked s = true) (hc : s.asm.copying = none) (hi : n ≤ i) :
    element k rd i n f s = .ok (setReg s k rd 2) := by
  rw [element, if_neg (by rw [hl]; decide), if_neg (by rw [hc]; decide), if_pos hi]

theorem element_unlocked (hl : snapLocked s = false) : element k rd i n f s = .ok (setReg s k rd 4) := by
  rw [element, if_pos (by rw [hl]; decide)]

theorem element_copying (hl : snapLocked s = true) (hc : s.asm.copying ≠ none) :
    element k rd i n f s = .ok (setPc s k ((getCtx s k).pc - 4)) := by
  rw [element, if_neg (by rw [hl]; decide), if_pos (Option.isSome_iff_ne_none.2 hc)]

end

/-! ## What the instructions read (R96, R206 to R209) -/

section
variable (s : State) (hecc : s.mem.ecc = [])
include hecc

theorem entryRead_noErrors (t i : Nat) : entryRead s t i = s := by rw [entryRead, hwRead_noErrors s _ _ _ _ hecc]

theorem measRead_noErrors (d : Nat) : measRead s d = s := by
  rw [measRead, hwRead_noErrors s _ _ _ _ hecc, ite_self]

theorem hydReads_noErrors (b : Nat) : hydReads s b = s := by
  have hpumps : (List.range (counts s).pu).foldl (fun s i => entryRead s 5 i) s = s :=
    List.foldlRecOn (motive := fun t => t = s) _ _ rfl (fun t ht i _ => by rw [ht, entryRead_noErrors s hecc])
  unfold hydReads
  simp only [entryRead_noErrors s hecc, hpumps, measRead_noErrors s hecc, ite_self]
  split <;> rfl

end

/-- The value that a column's linearisation is taken as, and whether it was clamped (R211, R212). -/
def linOf (s : State) (c : Nat) : Int × Nat := clampTo (colRange s c) (memW s (linAddr s c)).toInt

/-- Memory has no word in error, and the linearisation values of columns can be read. -/
def CleanCols (s : State) (cs : List Nat) : Prop := s.mem.ecc = [] ∧ ∀ c ∈ cs, accessCause s 0x14 false (linAddr s c) 4 = none

theorem readLin_clean (k : Nat) (s : State) (cs : List Nat) : ∀ (f : List Int → Nat → State → Res), CleanCols s cs →
    readLin k cs f s = f (cs.map (fun c => (linOf s c).1)) (cs.map (fun c => (linOf s c).2)).sum s := by
  induction cs with
  | nil => exact fun _ _ => rfl
  | cons c cs ih =>
    intro f hc
    rw [readLin, withAccess_noErrors hc.1 (hc.2 c List.mem_cons_self)]
    exact ih (fun vs m s' => f ((linOf s c).1 :: vs) ((linOf s c).2 + m) s') ⟨hc.1, fun x hx => hc.2 x (List.mem_cons_of_mem _ hx)⟩

theorem linOf_past (s : State) (k len : Nat) : linOf (past s k len) = linOf s := by
  funext c
  rw [linOf, linOf, colRange_past, linAddr_past, memW_past]

end Sys2Proof.Machine
end

section
/-! SUPPORT. The assembly instructions: what each stages for its element, and its answers (R202, R203, R206 to R209). -/
namespace Sys2Proof.Machine

section
variable (s : State) (h : Hdr) (k : Nat) (rd ra rb : Reg)

/-- An assembly instruction of two registers as it is decoded. -/
def frontDec (rd ra rb : Reg) (func : Nat) : Dec := { word := encA 0b111100 rd ra rb func, grp := .front }

/-- The state of an instruction that waits: it is executed again. -/
def waiting (s : State) (k : Nat) : State := setPc (past s k 4) k ((getCtx (past s k 4) k).pc - 4)

/-! ## The bodies in the state behind the instruction -/

theorem hydBr_takes (t : State) (ht : hydBr k rd (reg s k ra).toNat (past s k 4) = .ok t) :
    Takes s h k (.hydBr h rd ra) (frontDec rd ra 0 4) t :=
  frontOp_takes (i := .hydBr h rd ra) rfl (by simp only [reg_past]; exact ht)

theorem thBr_takes (t : State) (ht : thBr k rd (reg s k ra).toNat (past s k 4) = .ok t) :
    Takes s h k (.thBr h rd ra) (frontDec rd ra 0 5) t :=
  frontOp_takes (i := .thBr h rd ra) rfl (by simp only [reg_past]; exact ht)

theorem injRow_takes (t : State) (ht : injRow k rd (reg s k rb).toNat (reg s k ra).toNat (past s k 4) = .ok t) :
    Takes s h k (.injRow h rd ra rb) (frontDec rd ra rb 6) t :=
  frontOp_takes (i := .injRow h rd ra rb) rfl (by simp only [reg_past]; exact ht)

theorem measRow_takes (t : State) (ht : measRow k rd (reg s k ra).toNat (past s k 4) = .ok t) :
    Takes s h k (.measRow h rd ra) (frontDec rd ra 0 7) t :=
  frontOp_takes (i := .measRow h rd ra) rfl (by simp only [reg_past]; exact ht)

/-! ## Without a snapshot, and while the copy runs -/

section
variable (hl : snapLocked s = false)
include hl

theorem hydBr_noSnap : Writes s h k (.hydBr h rd ra) (frontDec rd ra 0 4) rd 4 := by
  refine hydBr_takes s h k rd ra _ ?_
  unfold hydBr
  exact element_unlocked k rd _ _ _ (past s k 4) hl

theorem thBr_noSnap : Writes s h k (.thBr h rd ra) (frontDec rd ra 0 5) rd 4 := by
  refine thBr_takes s h k rd ra _ ?_
  have hl' : snapLocked (past s k 4) = false := hl
  rw [thBr, if_neg (by simp [hl'])]
  exact element_unlocked k rd _ _ _ _ hl'

theorem injRow_noSnap : Writes s h k (.injRow h rd ra rb) (frontDec rd ra rb 6) rd 4 := by
  refine injRow_takes s h k rd ra rb _ ?_
  unfold injRow
  split <;> exact element_unlocked k rd _ _ _ (past s k 4) hl

theorem measRow_noSnap : Writes s h k (.measRow h rd ra) (frontDec rd ra 0 7) rd 4 :=
  measRow_takes s h k rd ra _ (element_unlocked k rd _ _ _ (past s k 4) hl)

end

section
variable (hl : snapLocked s = true) (hc : s.asm.copying ≠ none)
include hl hc

theorem hydBr_waits : Takes s h k (.hydBr h rd ra) (frontDec rd ra 0 4) (waiting s k) := by
  refine hydBr_takes s h k rd ra _ ?_
  unfold hydBr
  exact element_copying k rd _ _ _ (past s k 4) hl hc

theorem thBr_waits : Takes s h k (.thBr h rd ra) (frontDec rd ra 0 5) (waiting s k) := by
  refine thBr_takes s h k rd ra _ ?_
  unfold thBr
  dsimp only
  split
  · rfl
  · exact element_copying k rd _ _ _ (past s k 4) hl hc

theorem injRow_waits : Takes s h k (.injRow h rd ra rb) (frontDec rd ra rb 6) (waiting s k) := by
  refine injRow_takes s h k rd ra rb _ ?_
  unfold injRow
  split <;> exact element_copying k rd _ _ _ (past s k 4) hl hc

theorem measRow_waits : Takes s h k (.measRow h rd ra) (frontDec rd ra 0 7) (waiting s k) :=
  measRow_takes s h k rd ra _ (element_copying k rd _ _ _ (past s k 4) hl hc)

end

/-- `th.br` waits for a running advance (R207). -/
theorem thBr_waits_advance (hl : snapLocked s = true) (hb : fBit s 0x15 0x16 0 = true) (hi : (reg s k ra).toNat < (counts s).m) :
    Takes s h k (.thBr h rd ra) (frontDec rd ra 0 5) (waiting s k) := by
  refine thBr_takes s h k rd ra _ ?_
  have hrun : (fBit (past s k 4) 0x15 0x16 0 && snapLocked (past s k 4) &&
      decide ((reg s k ra).toNat < (counts (past s k 4)).m)) = true := by
    rw [counts_past, decide_eq_true hi]
    exact (Bool.and_true _).trans (Bool.and_eq_true_iff.2 ⟨hb, hl⟩)
  exact if_pos hrun

/-! ## On a snapshot that has been copied -/

variable (hl : snapLocked s = true) (hc : s.asm.copying = none)
include hl hc

theorem hydBr_beyond (hi : (counts s).m ≤ (reg s k ra).toNat) : Writes s h k (.hydBr h rd ra) (frontDec rd ra 0 4) rd 2 := by
  refine hydBr_takes s h k rd ra _ ?_
  unfold hydBr
  exact element_beyond k rd _ _ _ (past s k 4) hl hc hi

theorem thBr_beyond (hi : (counts s).m ≤ (reg s k ra).toNat) : Writes s h k (.thBr h rd ra) (frontDec rd ra 0 5) rd 2 := by
  refine thBr_takes s h k rd ra _ ?_
  have hi' : ¬ (reg s k ra).toNat < (counts (past s k 4)).m := Nat.not_lt.2 hi
  rw [thBr, if_neg (by simp [hi'])]
  exact element_beyond k rd _ _ _ (past s k 4) hl hc hi

theorem injRow_beyond (hi : injection s (reg s k rb).toNat (reg s k ra).toNat = none) :
    Writes s h k (.injRow h rd ra rb) (frontDec rd ra rb 6) rd 2 := by
  refine injRow_takes s h k rd ra rb _ ?_
  rw [injRow, injection_past, hi]
  exact element_beyond k rd 0 0 _ (past s k 4) hl hc le_rfl

theorem measRow_beyond (hi : (counts s).k ≤ (reg s k ra).toNat) : Writes s h k (.measRow h rd ra) (frontDec rd ra 0 7) rd 2 :=
  measRow_takes s h k rd ra _ (element_beyond k rd _ _ _ (past s k 4) hl hc hi)

/-- A descriptor that no state variable is bound to has no row (R195, R209). -/
theorem measRow_unbound (hi : (reg s k ra).toNat < (counts s).k) (hcol : stateCol s (reg s k ra).toNat = none) (hecc : s.mem.ecc = []) :
    Writes s h k (.measRow h rd ra) (frontDec rd ra 0 7) rd 9 := by
  refine measRow_takes s h k rd ra _ ?_
  have hecc' : (past s k 4).mem.ecc = [] := hecc
  rw [measRow, counts_past, element_runs k rd _ _ _ (past s k 4) hl hc hi]
  dsimp only
  rw [entryRead_noErrors _ hecc', measRead_noErrors _ hecc', stateCol_past, hcol]
  rfl

end

/-! ## What an element's instruction comes to append -/

section
variable (k : Nat) (rd : Reg) (i : Nat) (t : State) (hl : snapLocked t = true) (hc : t.asm.copying = none)
include hl hc

theorem hydBr_appends (hi : i < (counts t).m)
    (hcols : CleanCols t [(mdlW t 0 i 0).field 14 14, (mdlW t 0 i 0).field 0 14, (counts t).n + i]) :
    hydBr k rd i t =
      append k rd (hydEntries t t.free i (Q.ofInt ((mdlW t 0 i 2).field 0 16)) (linOf t ((mdlW t 0 i 0).field 14 14)).1
          (linOf t ((mdlW t 0 i 0).field 0 14)).1 (linOf t ((counts t).n + i)).1)
        ((linOf t ((mdlW t 0 i 0).field 14 14)).2 + ((linOf t ((mdlW t 0 i 0).field 0 14)).2 + (linOf t ((counts t).n + i)).2))
        { t with free := t.free + 8 } := by
  unfold hydBr
  rw [element_runs k rd _ _ _ t hl hc hi, hydReads_noErrors _ hcols.1, readLin_clean k _ _ _ hcols]
  simp only [List.map_cons, List.map_nil, List.sum_cons, List.sum_nil, Nat.add_zero, List.getD_cons_zero, List.getD_cons_succ]

/-- The temperature at a branch's outlet, and whether it was clamped (R211, R212). -/
def outletT (t : State) (i : Nat) : Int × Nat := clampTo ((fGet t 0x14 0x12).toInt, (fGet t 0x14 0x13).toInt) (branchT t i).toInt

/-- The column of the temperature at a branch's downstream end. -/
def downCol (t : State) (i : Nat) : Nat := (counts t).n + (counts t).m + (branchEnds t i (linOf t ((counts t).n + i)).1).1

theorem thBr_appends (hi : i < (counts t).m) (hidle : fBit t 0x15 0x16 0 = false)
    (hcols : CleanCols t [(counts t).n + i, downCol t i]) :
    thBr k rd i t =
      append k rd (branchEntries t i (linOf t ((counts t).n + i)).1 (q16 (outletT t i).1) (linOf t (downCol t i)).1)
        ((linOf t ((counts t).n + i)).2 + (linOf t (downCol t i)).2 + (outletT t i).2) t := by
  have hflow : CleanCols t [(counts t).n + i] := ⟨hcols.1, fun c hm => hcols.2 c (by simp_all)⟩
  have hdown : CleanCols t [downCol t i] := ⟨hcols.1, fun c hm => hcols.2 c (by simp_all)⟩
  unfold downCol at hdown ⊢
  unfold thBr outletT
  simp only [hidle, Bool.false_and, Bool.false_eq_true, if_false, element_runs k rd _ _ _ t hl hc hi, entryRead_noErrors _ hcols.1,
    hwRead_noErrors _ _ _ _ _ hcols.1, readLin_clean k _ _ _ hflow, List.map_cons, List.map_nil, List.sum_cons, List.sum_nil,
    Nat.add_zero, List.getD_cons_zero, readLin_clean k _ _ _ hdown]

theorem injRow_appends (kind : Nat) (j : Inj) (hj : injection t kind i = some j)
    (hcols : CleanCols t [j.col, (counts t).n + (counts t).m + j.recv (linOf t j.col).1]) :
    injRow k rd kind i t =
      append k rd (injEntries t j (linOf t j.col).1 (linOf t ((counts t).n + (counts t).m + j.recv (linOf t j.col).1)).1)
        ((linOf t j.col).2 + (linOf t ((counts t).n + (counts t).m + j.recv (linOf t j.col).1)).2) t := by
  have hflow : CleanCols t [j.col] := ⟨hcols.1, fun c hm => hcols.2 c (by simp_all)⟩
  have htemp : CleanCols t [(counts t).n + (counts t).m + j.recv (linOf t j.col).1] := ⟨hcols.1, fun c hm => hcols.2 c (by simp_all)⟩
  unfold injRow
  rw [hj]
  simp only [element_runs k rd 0 1 _ t hl hc Nat.one_pos, entryRead_noErrors _ hcols.1, measRead_noErrors _ hcols.1,
    readLin_clean k _ _ _ hflow, List.map_cons, List.map_nil, List.sum_cons, List.sum_nil, Nat.add_zero, List.getD_cons_zero,
    readLin_clean k _ _ _ htemp]

theorem measRow_appends (c : Nat) (hi : i < (counts t).k) (hcol : stateCol t i = some c) (hcols : CleanCols t [c]) :
    measRow k rd i t = append k rd (measEntries t i c (linOf t c).1) (linOf t c).2 { t with free := t.free + 1 } := by
  unfold measRow
  simp only [element_runs k rd _ _ _ t hl hc hi, entryRead_noErrors _ hcols.1, measRead_noErrors _ hcols.1, hcol,
    readLin_clean k _ _ _ hcols, List.map_cons, List.map_nil, List.sum_cons, List.sum_nil, Nat.add_zero, List.getD_cons_zero]

end

theorem accessCause_past (s : State) (k len u : Nat) : accessCause (past s k len) u = accessCause s u := rfl

theorem cleanCols_past {s : State} {cs : List Nat} (hcols : CleanCols s cs) (k len : Nat) : CleanCols (past s k len) cs := by
  unfold CleanCols
  rw [linAddr_past, accessCause_past]
  exact hcols

theorem outletT_past (s : State) (k len : Nat) : outletT (past s k len) = outletT s := by
  funext i
  rw [outletT, outletT, fGet_past, branchT_past]

theorem downCol_past (s : State) (k len : Nat) : downCol (past s k len) = downCol s := by
  funext i
  rw [downCol, downCol, counts_past, branchEnds_past, linOf_past]

/-! ## What it stages -/

section
variable (s : State) (h : Hdr) (k : Nat) (rd ra rb : Reg) (hl : snapLocked s = true) (hc : s.asm.copying = none)
include hl hc

theorem hydBr_stages (hi : (reg s k ra).toNat < (counts s).m)
    (hcols : CleanCols s [(mdlW s 0 (reg s k ra).toNat 0).field 14 14, (mdlW s 0 (reg s k ra).toNat 0).field 0 14,
      (counts s).n + (reg s k ra).toNat]) :
    Stages s h k rd (.hydBr h rd ra) (frontDec rd ra 0 4)
      (hydEntries s s.free (reg s k ra).toNat (Q.ofInt ((mdlW s 0 (reg s k ra).toNat 2).field 0 16))
        (linOf s ((mdlW s 0 (reg s k ra).toNat 0).field 14 14)).1 (linOf s ((mdlW s 0 (reg s k ra).toNat 0).field 0 14)).1
        (linOf s ((counts s).n + (reg s k ra).toNat)).1)
      ((linOf s ((mdlW s 0 (reg s k ra).toNat 0).field 14 14)).2 + (linOf s ((mdlW s 0 (reg s k ra).toNat 0).field 0 14)).2
        + (linOf s ((counts s).n + (reg s k ra).toNat)).2) := by
  rw [Nat.add_assoc]
  refine stages_of_append s h k rd (i := .hydBr h rd ra) (f := fun k t => hydBr k rd (reg t k ra).toNat t) rfl hcols.1 (s.free + 8) _ _ ?_
  have hrun := hydBr_appends k rd (reg s k ra).toNat (past s k 4) hl hc (by rw [counts_past]; exact hi)
    (by rw [mdlW_past, counts_past]; exact cleanCols_past hcols k 4)
  rw [hydEntries_past, mdlW_past, counts_past, linOf_past] at hrun
  rw [reg_past]
  exact hrun

theorem thBr_stages (hi : (reg s k ra).toNat < (counts s).m) (hidle : fBit s 0x15 0x16 0 = false)
    (hcols : CleanCols s [(counts s).n + (reg s k ra).toNat, downCol s (reg s k ra).toNat]) :
    Stages s h k rd (.thBr h rd ra) (frontDec rd ra 0 5)
      (branchEntries s (reg s k ra).toNat (linOf s ((counts s).n + (reg s k ra).toNat)).1 (q16 (outletT s (reg s k ra).toNat).1)
        (linOf s (downCol s (reg s k ra).toNat)).1)
      ((linOf s ((counts s).n + (reg s k ra).toNat)).2 + (linOf s (downCol s (reg s k ra).toNat)).2
        + (outletT s (reg s k ra).toNat).2) := by
  refine stages_of_append s h k rd (i := .thBr h rd ra) (f := fun k t => thBr k rd (reg t k ra).toNat t) rfl hcols.1 s.free _ _ ?_
  have hrun := thBr_appends k rd (reg s k ra).toNat (past s k 4) hl hc (by rw [counts_past]; exact hi) hidle
    (by rw [downCol_past, counts_past]; exact cleanCols_past hcols k 4)
  rw [branchEntries_past, outletT_past, downCol_past, counts_past, linOf_past] at hrun
  rw [reg_past]
  exact hrun

theorem injRow_stages (j : Inj) (hj : injection s (reg s k rb).toNat (reg s k ra).toNat = some j)
    (hcols : CleanCols s [j.col, (counts s).n + (counts s).m + j.recv (linOf s j.col).1]) :
    Stages s h k rd (.injRow h rd ra rb) (frontDec rd ra rb 6)
      (injEntries s j (linOf s j.col).1 (linOf s ((counts s).n + (counts s).m + j.recv (linOf s j.col).1)).1)
      ((linOf s j.col).2 + (linOf s ((counts s).n + (counts s).m + j.recv (linOf s j.col).1)).2) := by
  refine stages_of_append s h k rd (i := .injRow h rd ra rb)
    (f := fun k t => injRow k rd (reg t k rb).toNat (reg t k ra).toNat t) rfl hcols.1 s.free _ _ ?_
  have hrun := injRow_appends k rd (reg s k ra).toNat (past s k 4) hl hc (reg s k rb).toNat j (by rw [injection_past]; exact hj)
    (by rw [counts_past, linOf_past]; exact cleanCols_past hcols k 4)
  rw [injEntries_past, counts_past, linOf_past] at hrun
  rw [reg_past, reg_past]
  exact hrun

theorem measRow_stages (c : Nat) (hi : (reg s k ra).toNat < (counts s).k) (hcol : stateCol s (reg s k ra).toNat = some c)
    (hcols : CleanCols s [c]) :
    Stages s h k rd (.measRow h rd ra) (frontDec rd ra 0 7) (measEntries s (reg s k ra).toNat c (linOf s c).1) (linOf s c).2 := by
  refine stages_of_append s h k rd (i := .measRow h rd ra) (f := fun k t => measRow k rd (reg t k ra).toNat t) rfl hcols.1 (s.free + 1)
    _ _ ?_
  have hrun := measRow_appends k rd (reg s k ra).toNat (past s k 4) hl hc c (by rw [counts_past]; exact hi)
    (by rw [stateCol_past]; exact hcol) (cleanCols_past hcols k 4)
  rw [measEntries_past, linOf_past] at hrun
  rw [reg_past]
  exact hrun

end

end Sys2Proof.Machine
end

section
/-! SUPPORT. `ent.w`: the block that a record of the program goes to, and its answers (R210). -/
namespace Sys2Proof.Machine

/-- The entry that eight words of the program give. -/
def entOfWords (w : Nat → Word) : Ent :=
  let q (i : Nat) : Int := (BitVec.ofNat 64 ((w (i + 1)).toNat * 2 ^ 32 + (w i).toNat)).toInt
  { row := (w 0).toNat, col := (w 1).toNat, v := q 2, lo := q 4, hi := q 6 }

theorem entOfWords_congr {w w' : Nat → Word} (hw : ∀ o < 8, w o = w' o) : entOfWords w = entOfWords w' := by
  unfold entOfWords
  simp only [hw 0 (by decide), hw 1 (by decide), hw 2 (by decide), hw 3 (by decide), hw 4 (by decide), hw 5 (by decide),
    hw 6 (by decide), hw 7 (by decide)]

/-- The program's entry at a home offset. -/
def progEntry (s : State) (e : Eng) (ea : Nat) : Ent := entOfWords (fun o => memW s ((homeOf s e).1 + ea + 4 * o))

theorem entOfWords_homeRecord (s : State) (e : Eng) (ea : Nat) :
    entOfWords (fun o => (homeRecord s e ea 8).getD o 0) = progEntry s e ea :=
  entOfWords_congr fun o ho => by
    rw [homeRecord, List.getD_eq_getElem?_getD, List.getElem?_map, List.getElem?_range ho]
    rfl

/-! ## The block it goes to -/

/-- The entry lies within the open vector. -/
def inVector (s : State) (e : Ent) : Bool := e.col == 0 && inBlock s { e with mat := false }

/-- The choice of the block: the device's when the entry lies within both. -/
def pickBlock (s : State) (e : Ent) : State × Bool :=
  if inBlock s e && inVector s e then freeB s else (s, inBlock s e || e.col != 0)

/-- The choice draws at most a free value. -/
theorem pickBlock_draws (s : State) (e : Ent) : ∃ n m, pickBlock s e = ({ s with free := n }, m) := by
  unfold pickBlock
  split
  · exact ⟨_, _, rfl⟩
  · exact ⟨s.free, _, rfl⟩

theorem pickBlock_past (s : State) (k len : Nat) (e : Ent) : (pickBlock (past s k len) e).2 = (pickBlock s e).2 := by
  have hmat : inBlock (past s k len) = inBlock s := rfl
  have hvec : inVector (past s k len) e = inVector s e := rfl
  rw [pickBlock, pickBlock, hmat, hvec]
  split <;> rfl

section
variable {s : State} {e : Ent}

/-- An entry that lies within an open block goes to one that it lies within. -/
theorem pickBlock_within (hin : (inBlock s e || inVector s e) = true) :
    ((pickBlock s e).2 = true → inBlock s e = true) ∧ ((pickBlock s e).2 = false → inVector s e = true) := by
  unfold pickBlock
  cases hm : inBlock s e
  · have hv : inVector s e = true := by rwa [hm, Bool.false_or] at hin
    have hcol : e.col = 0 := eq_of_beq (Bool.and_eq_true_iff.1 hv).1
    simp [hv, hcol]
  · cases hv : inVector s e
    · simp
    · simp

/-- One that lies within none goes to none. -/
theorem pickBlock_outside (he : e.mat = true) (hout : (inBlock s e || inVector s e) = false) :
    inBlock s { e with mat := (pickBlock s e).2 } = false := by
  obtain ⟨hm, hv⟩ := Bool.or_eq_false_iff.1 hout
  have hpick : (pickBlock s e).2 = (e.col != 0) := by rw [pickBlock, hm, Bool.false_and, if_neg Bool.false_ne_true, Bool.false_or]
  rw [hpick]
  by_cases hcol : e.col = 0
  · rw [inVector, hcol] at hv
    rw [hcol]
    exact hv
  · rw [bne_iff_ne.2 hcol, ← he]
    exact hm

theorem inBlock_pickBlock (he : e.mat = true) (hin : (inBlock s e || inVector s e) = true) :
    inBlock s { e with mat := (pickBlock s e).2 } = true := by
  obtain ⟨hm, hv⟩ := pickBlock_within hin
  cases hp : (pickBlock s e).2
  · exact (Bool.and_eq_true_iff.1 (hv hp)).2
  · have hsame : { e with mat := true } = e := by rw [← he]
    rw [hsame]
    exact hm hp

end

/-! ## Its answers -/

section
variable (k : Nat) (rd : Reg) (e : Ent) (s : State)

theorem entPut_closed (hc : NoBlock s) : entPut k rd e s = .ok (setReg s k rd 1) := if_pos ((noBlock_iff s).2 hc)

theorem entPut_outside (hc : ¬ NoBlock s) (hv : ¬ (e.lo ≤ e.v ∧ e.v ≤ e.hi)) : entPut k rd e s = .ok (setReg s k rd 7) := by
  rw [entPut, if_neg (mt (noBlock_iff s).1 hc), if_pos (by omega)]

theorem entPut_elsewhere (hc : ¬ NoBlock s) (h1 : e.lo ≤ e.v) (h2 : e.v ≤ e.hi) (hin : inBlock s e = false) :
    entPut k rd e s = .ok (setReg s k rd 5) := by
  rw [entPut, if_neg (mt (noBlock_iff s).1 hc), if_neg (by omega), if_pos (by rw [hin]; rfl)]

theorem entPut_appends (h1 : e.lo ≤ e.v) (h2 : e.v ≤ e.hi) (hin : inBlock s e = true) : entPut k rd e s = append k rd [e] 0 s := by
  by_cases hc : NoBlock s
  · rw [entPut_closed k rd e s hc, append_closed k rd [e] 0 s hc]
  · rw [entPut, if_neg (mt (noBlock_iff s).1 hc), if_neg (by omega), if_neg (by rw [hin]; decide)]

end

/-- What `ent.w` does. -/
def entRun (h : Hdr) (rd ra : Reg) (k : Nat) (t : State) : Res :=
  homeWords h.eng k 8 (reg t k ra).toNat (fun ws t =>
    let e := entOfWords (fun o => ws.getD o 0)
    entPut k rd { e with mat := (pickBlock t e).2 } (pickBlock t e).1) t

section
variable (s : State) (h : Hdr) (k : Nat) (rd ra : Reg)

theorem exec_entW : exec (.entW h rd ra) s = done s (frontOp h 8 rd ra 0 false (entRun h rd ra) s) := rfl

variable (hn : ∀ j < 8, Near s h.eng false ((reg s k ra).toNat + 4 * j) 4)
include hn

theorem entRun_past : ∃ n, entRun h rd ra k (past s k 4) =
    entPut k rd { progEntry s h.eng (reg s k ra).toNat with mat := (pickBlock s (progEntry s h.eng (reg s k ra).toNat)).2 }
      (drawn s k n) := by
  obtain ⟨n, m, hp⟩ := pickBlock_draws (past s k 4) (progEntry s h.eng (reg s k ra).toNat)
  have hm : (pickBlock s (progEntry s h.eng (reg s k ra).toNat)).2 = m := by rw [← pickBlock_past s k 4, hp]
  refine ⟨n, ?_⟩
  rw [entRun, reg_past, homeWords_past hn, entOfWords_homeRecord, hm]
  dsimp only
  rw [hp, drawn]

theorem entW_closed (hc : NoBlock s) : Answers s h k rd (.entW h rd ra) (frontDec rd ra 0 8) 1 := by
  obtain ⟨n, hrun⟩ := entRun_past s h k rd ra hn
  exact answers_of_setReg s h k rd (exec_entW s h rd ra) n 1 (hrun.trans (entPut_closed k rd _ (drawn s k n) hc))

theorem entW_outside (hc : ¬ NoBlock s) (e : Ent) (he : progEntry s h.eng (reg s k ra).toNat = e) (hv : ¬ (e.lo ≤ e.v ∧ e.v ≤ e.hi)) :
    Answers s h k rd (.entW h rd ra) (frontDec rd ra 0 8) 7 := by
  obtain ⟨n, hrun⟩ := entRun_past s h k rd ra hn
  rw [he] at hrun
  exact answers_of_setReg s h k rd (exec_entW s h rd ra) n 7 (hrun.trans (entPut_outside k rd _ (drawn s k n) hc hv))

theorem entW_elsewhere (hc : ¬ NoBlock s) (e : Ent) (he : progEntry s h.eng (reg s k ra).toNat = e) (h1 : e.lo ≤ e.v) (h2 : e.v ≤ e.hi)
    (hout : (inBlock s e || inVector s e) = false) : Answers s h k rd (.entW h rd ra) (frontDec rd ra 0 8) 5 := by
  obtain ⟨n, hrun⟩ := entRun_past s h k rd ra hn
  have hmat : e.mat = true := by rw [← he]; rfl
  rw [he] at hrun
  exact answers_of_setReg s h k rd (exec_entW s h rd ra) n 5
    (hrun.trans (entPut_elsewhere k rd _ (drawn s k n) hc h1 h2 (pickBlock_outside hmat hout)))

theorem entW_stages (hecc : s.mem.ecc = []) (e : Ent) (he : progEntry s h.eng (reg s k ra).toNat = e) (h1 : e.lo ≤ e.v) (h2 : e.v ≤ e.hi)
    (hin : (inBlock s e || inVector s e) = true) :
    Stages s h k rd (.entW h rd ra) (frontDec rd ra 0 8) [{ e with mat := (pickBlock s e).2 }] 0 := by
  obtain ⟨n, hrun⟩ := entRun_past s h k rd ra hn
  have hmat : e.mat = true := by rw [← he]; rfl
  rw [he] at hrun
  exact stages_of_append s h k rd (exec_entW s h rd ra) hecc n _ 0
    (hrun.trans (entPut_appends k rd _ (drawn s k n) h1 h2 (inBlock_pickBlock hmat hin)))

end

end Sys2Proof.Machine
end

section
/-! The assembly's obligation (R202 to R213). -/
namespace Sys2Proof.Machine

/-- Settles O32: a header opens its block and the block closes whole; each assembly instruction comes down to appending its element's
entries, or answers why it does not. -/
theorem assemblyWritesItsBlocks : Obligations.AssemblyWritesItsBlocks := by
  unfold Obligations.AssemblyWritesItsBlocks
  refine ⟨fun s h k rd ra vec b => ?_, fun s h k rd ra rb j col => ?_⟩
  · intro ea n dec slot head es words wide
    refine ⟨fun hn => ⟨fun hb hfree => ?_, fun hb hfull => ?_, fun hb => ?_⟩,
      fun hn hb => ⟨fun hfits hwide hecc hfirst hlast => ?_, fun hlong => ?_, fun hfits hwide => ?_⟩, fun h0 h1 => ?_⟩
    · exact ⟨_, blkOpen_opens s h k rd ra hn vec b hb hfree, blockSlot_setBlock _ vec _, blockSlot_setBlock_not _ vec _,
        reg_setReg_zero _ k rd⟩
    · exact blkOpen_taken s h k rd ra hn vec b hb hfull
    · exact blkOpen_invalid s h k rd ra hn hb
    · exact blkClose_writes s h k rd ra vec b hn hb hfits hwide hecc hfirst hlast
    · exact blkClose_tooLong s h k rd ra vec b hn hb hlong
    · exact blkClose_tooWide s h k rd ra vec b hn hb hfits hwide
    · exact blkClose_none s h k rd ra h0 h1
  · intro i c w0 dec lin clean cap closed answers stages again ends tout busy w q e inMat inVec
    refine ⟨fun hl hc => ⟨fun hi hcols => ?_, fun hi hidle hcols => ?_, fun hj hcols => ?_, fun hi hcol hcols => ?_,
        fun hi hcol hcols => ?_, fun hi => ⟨?_, ?_⟩, fun hi => ?_, fun hi => ?_⟩,
      fun hl => ⟨fun hc => ⟨?_, ?_, ?_, ?_⟩, fun hb hi => ?_⟩, fun hl => ⟨?_, ?_, ?_, ?_⟩,
      fun hn hecc => ⟨fun hc => ?_, fun hc hv => ?_, fun hc h1 h2 hout => ?_, fun h1 h2 hin => ?_⟩⟩
    · exact hydBr_stages s h k rd ra hl hc hi hcols
    · exact thBr_stages s h k rd ra hl hc hi hidle hcols
    · exact injRow_stages s h k rd ra rb hl hc j hj hcols
    · exact measRow_stages s h k rd ra hl hc col hi hcol hcols
    · exact measRow_unbound s h k rd ra hl hc hi hcol hcols.1
    · exact hydBr_beyond s h k rd ra hl hc hi
    · exact thBr_beyond s h k rd ra hl hc hi
    · exact injRow_beyond s h k rd ra rb hl hc hi
    · exact measRow_beyond s h k rd ra hl hc hi
    · exact hydBr_waits s h k rd ra hl hc
    · exact injRow_waits s h k rd ra rb hl hc
    · exact measRow_waits s h k rd ra hl hc
    · exact thBr_waits s h k rd ra hl hc
    · exact thBr_waits_advance s h k rd ra hl hb hi
    · exact hydBr_noSnap s h k rd ra hl
    · exact injRow_noSnap s h k rd ra rb hl
    · exact measRow_noSnap s h k rd ra hl
    · exact thBr_noSnap s h k rd ra hl
    · exact entW_closed s h k rd ra hn hc
    · exact entW_outside s h k rd ra hn hc e rfl hv
    · exact entW_elsewhere s h k rd ra hn hc e rfl h1 h2 hout
    · obtain ⟨hm, hv⟩ := pickBlock_within hin
      exact ⟨(pickBlock s e).2, hm, hv, entW_stages s h k rd ra hn hecc e rfl h1 h2 hin⟩

end Sys2Proof.Machine
end

section
/-! SUPPORT. What the objects of solver memory read as does not depend on the running job's registers (R232 to R234, R249, R256). -/
namespace Sys2Proof.Machine

section
variable (s : State) (r : JobRun)

@[simp] theorem memByte_setRun : memByte (setRun s r) = memByte s := rfl

@[simp] theorem memW_setRun : memW (setRun s r) = memW s := rfl

@[simp] theorem memBytes_setRun : memBytes (setRun s r) = memBytes s := by
  funext a b
  simp only [memBytes, memByte_setRun]

@[simp] theorem oHdr_setRun : oHdr (setRun s r) = oHdr s := by
  funext a b
  simp only [oHdr, memW_setRun]

@[simp] theorem oKind_setRun : oKind (setRun s r) = oKind s := by
  funext a
  simp only [oKind, oHdr_setRun]

@[simp] theorem oExp_setRun : oExp (setRun s r) = oExp s := by
  funext a
  simp only [oExp, oHdr_setRun]

@[simp] theorem oRows_setRun : oRows (setRun s r) = oRows s := by
  funext a
  simp only [oRows, oHdr_setRun]

@[simp] theorem oCols_setRun : oCols (setRun s r) = oCols s := by
  funext a
  simp only [oCols, oHdr_setRun]

@[simp] theorem oBody_setRun : oBody (setRun s r) = oBody s := by
  funext a
  simp only [oBody, oHdr_setRun, oKind_setRun, oRows_setRun, oCols_setRun]

@[simp] theorem shapeOk_setRun : shapeOk (setRun s r) = shapeOk s := by
  funext a
  simp only [shapeOk, oKind_setRun, oRows_setRun, oCols_setRun]

@[simp] theorem oCrc_setRun : oCrc (setRun s r) = oCrc s := by
  funext a
  simp only [oCrc, memBytes_setRun, oBody_setRun]

@[simp] theorem oWord_setRun : oWord (setRun s r) = oWord s := by
  funext a b
  simp only [oWord, memW_setRun]

@[simp] theorem vecOf_setRun : vecOf (setRun s r) = vecOf s := by
  funext a
  simp only [vecOf, oRows_setRun, oWord_setRun, oExp_setRun]

@[simp] theorem idMapOk_setRun : idMapOk (setRun s r) = idMapOk s := by
  funext a
  simp only [idMapOk, oRows_setRun, oCols_setRun, oHdr_setRun, memW_setRun]

@[simp] theorem agValid_setRun : agValid (setRun s r) = agValid s := by
  funext a
  simp only [agValid, memW_setRun]

@[simp] theorem agClass_setRun : agClass (setRun s r) = agClass s := by
  funext a
  simp only [agClass, memW_setRun]

@[simp] theorem pubOk_setRun : pubOk (setRun s r) = pubOk s := by
  funext a
  simp only [pubOk, oBody_setRun, oKind_setRun, oRows_setRun, oCols_setRun]

end

end Sys2Proof.Machine
end

section
/-! SUPPORT. What the end of a job changes, and the sequencer's step (R231, R237, R243, R247, R248, R253, R254). -/
namespace Sys2Proof.Machine

/-! ## The running job through other parts of the state -/

theorem Reports.solv_eq {s t : State} (h : Reports s t) : t.solv = s.solv := by
  obtain ⟨m, c, e, a, l, rfl⟩ := h
  rfl

theorem Reports.jobRun_eq {s t : State} (h : Reports s t) : jobRun t = jobRun s := congrArg (fun x : Solv => x.run.getD {}) h.solv_eq

theorem Reports.getJob_eq {s t : State} (h : Reports s t) (n : Nat) : getJob t n = getJob s n :=
  congrArg (fun x : Solv => Tbl.find x.jobs n) h.solv_eq

/-- The running job is the same one, and the jobs' entries stand. -/
structure JobKept (s t : State) : Prop where
  jobs : t.solv.jobs = s.solv.jobs
  handle : (jobRun t).handle = (jobRun s).handle

theorem JobKept.refl (s : State) : JobKept s s := ⟨rfl, rfl⟩

theorem JobKept.trans {s t u : State} (h : JobKept s t) (h' : JobKept t u) : JobKept s u :=
  ⟨h'.jobs.trans h.jobs, h'.handle.trans h.handle⟩

theorem JobKept.getJob {s t : State} (h : JobKept s t) (n : Nat) : getJob t n = getJob s n := congrArg (Tbl.find · n) h.jobs

theorem Reports.jobKept {s t : State} (h : Reports s t) : JobKept s t :=
  ⟨congrArg Solv.jobs h.solv_eq, congrArg JobRun.handle h.jobRun_eq⟩

/-- A running job replaced under its own handle. -/
theorem setRun_jobKept (s : State) (r : JobRun) (h : r.handle = (jobRun s).handle) : JobKept s (setRun s r) := ⟨rfl, h⟩

/-! ## The result record (R253) -/

/-- The descriptor of the running job as the result record finds it. -/
def recordDesc (s : State) (r : JobRun) : List Byte := ((getJob s r.handle).map (·.desc)).getD []

/-- The record's words but for their CRC. -/
def resultWords (s : State) (r : JobRun) (state code failOp : Nat) : List Word :=
  let lim (n : Nat) : Nat := min 65535 n
  [Word.ofN (natAt (recordDesc s r) 12 2 * 2 ^ 16 + r.handle), Word.ofN (state * 2 ^ 24 + code * 2 ^ 16), Word.ofN r.steps,
    Word.ofN (r.ag * 2 ^ 24 + fPart s 0x16 7 16 8 * 2 ^ 16 + groupsActive s * 2 ^ 8), Word.ofN (lim r.zero * 2 ^ 16 + lim r.tiny),
    Word.ofN ((r.firstRow.getD 0xFFFFF) % 2 ^ 20), Word.ofN (failOp * 2 ^ 16 + (if r.firstRow.isSome then r.firstOp % 65536 else 0xFFFF)),
    Word.ofN ((r.rangeRow.getD 0xFFFFF) % 2 ^ 20), Word.ofN r.matched, Word.ofN r.cold, Word.ofN r.sat, r.tk,
    s.clk.tick.setWidth 32, Word.ofN r.agSeq, 0]

/-- The whole record. -/
def resultRecord (s : State) (r : JobRun) (state code failOp : Nat) : List Word :=
  resultWords s r state code failOp ++ [crc32c (wordBytes (resultWords s r state code failOp))]

theorem objAddr_aligned (a : Nat) : objAddr a % 8 = 0 := by unfold objAddr; omega

/-- A job whose descriptor names no place of the work area, or one without power, leaves no record. -/
theorem writeResult_eq (s : State) (r : JobRun) (state code failOp a : Nat) (ha : natAt (recordDesc s r) 4 4 = a) :
    writeResult s r state code failOp =
      if a = 0 ∨ 2 ^ 24 ≤ a ∨ !inWork (objAddr a) 64 ∨ !domainOn s 1 then s
      else solvWrite s (objAddr a) (resultRecord s r state code failOp) := by subst ha; rfl

theorem solvWrite_record (s t : State) (r : JobRun) (state code failOp a : Nat) :
    solvWrite t (objAddr a) (resultRecord s r state code failOp) =
      setWords (eccSpan t (objAddr a) 64) (objAddr a) (resultRecord s r state code failOp) :=
  hwWords_eq_setWords t 0x16 (objAddr a) 16 _ rfl (objAddr_aligned a) rfl

/-- The result record changes memory only. -/
theorem writeResult_only (s : State) (r : JobRun) (state code failOp : Nat) :
    ∃ m, writeResult s r state code failOp = { s with mem := m } := by
  rw [writeResult_eq s r state code failOp _ rfl]
  split
  · exact ⟨s.mem, rfl⟩
  · rw [solvWrite_record]
    obtain ⟨m, hm⟩ := setWords_only (resultRecord s r state code failOp) (eccSpan s (objAddr (natAt (recordDesc s r) 4 4)) 64)
      (objAddr (natAt (recordDesc s r) 4 4))
    exact ⟨m, hm⟩

theorem inWork_bounds {a len : Nat} (h : inWork a len = true) : 0x0800000020 ≤ a ∧ a + len ≤ 0x0802800000 := by
  simpa [inWork] using h

/-- A word of the record that is written. -/
theorem memW_writeResult (s : State) (r : JobRun) (state code failOp a : Nat) (ha : natAt (recordDesc s r) 4 4 = a) (h0 : a ≠ 0)
    (h1 : a < 2 ^ 24) (hw : inWork (objAddr a) 64 = true) (hp : domainOn s 1 = true) (i : Nat) (v : Word)
    (hv : (resultRecord s r state code failOp)[i]? = some v) :
    memW (writeResult s r state code failOp) (objAddr a + 4 * i) = v := by
  have hb := inWork_bounds hw
  rw [writeResult_eq s r state code failOp a ha, if_neg (by rw [hw, hp]; simp only [Bool.not_true, Bool.false_eq_true, or_false]; omega),
    solvWrite_record]
  exact memW_setWords _ _ _ i v (by omega) (by rw [show (resultRecord s r state code failOp).length = 16 from rfl]; omega) hv

/-! ## The end of a job (R243, R247, R253) -/

/-- The job that ran in `s` has ended in `t`: SOLV is free, the job shows its state and code, no event is lost, and of SOLV's fields
only the count of ended jobs may differ. -/
structure JobEnded (s t : State) (state code : Nat) : Prop where
  idle : t.solv.run = none
  job : ∀ j, getJob s (jobRun s).handle = some j → getJob t (jobRun s).handle = some { j with state := state, code := code }
  events : ∀ e n, e < 32 → evtPending s e n = true → evtPending t e n = true
  fields : ∀ f, f < 1024 → f ≠ 0xD → fGet t 0x16 f = fGet s 0x16 f

/-- What reports a state before its job ends: the job stands, and no event or field of SOLV is lost. -/
structure JobNoted (s t : State) : Prop where
  kept : JobKept s t
  events : ∀ e n, e < 32 → evtPending s e n = true → evtPending t e n = true
  fields : ∀ f, f < 1024 → fGet t 0x16 f = fGet s 0x16 f

theorem JobEnded.after {s u t : State} {state code : Nat} (h : JobNoted s u) (he : JobEnded u t state code) : JobEnded s t state code where
  idle := he.idle
  job j hj := by
    rw [← h.kept.handle]
    exact he.job j (by rw [h.kept.handle, h.kept.getJob]; exact hj)
  events e n hlt hp := he.events e n hlt (h.events e n hlt hp)
  fields f hf hne := (he.fields f hf hne).trans (h.fields f hf)

theorem JobEnded.raise {s t : State} {state code : Nat} (he : JobEnded s t state code) (n : Nat) : JobEnded s (raise t n) state code where
  idle := (congrArg Solv.run (raise_reports t n).solv_eq).trans he.idle
  job j hj := ((raise_reports t n).getJob_eq _).trans (he.job j hj)
  events e m hlt hp := evtPending_raise t n e m hlt (he.events e m hlt hp)
  fields f hf hne := (fGet_raise t n 0x16 f (by decide) hf).trans (he.fields f hf hne)

theorem JobEnded.post {s t : State} {state code : Nat} (he : JobEnded s t state code) (src sev c : Nat) (ws : List Word) :
    JobEnded s (post t src sev c ws) state code where
  idle := (congrArg Solv.run (post_reports t src sev c ws).solv_eq).trans he.idle
  job j hj := ((post_reports t src sev c ws).getJob_eq _).trans (he.job j hj)
  events e n hlt hp := evtPending_post t src sev c ws e n hlt (he.events e n hlt hp)
  fields f hf hne := (fGet_post t src sev c ws 0x16 f (by decide) (by decide) hf).trans (he.fields f hf hne)

theorem JobNoted.refl (s : State) : JobNoted s s := ⟨JobKept.refl s, fun _ _ _ h => h, fun _ _ => rfl⟩

theorem JobNoted.trans {s t u : State} (h : JobNoted s t) (h' : JobNoted t u) : JobNoted s u :=
  ⟨h.kept.trans h'.kept, fun e n hlt hp => h'.events e n hlt (h.events e n hlt hp), fun f hf => (h'.fields f hf).trans (h.fields f hf)⟩

theorem post_jobNoted (s : State) (src sev code : Nat) (ws : List Word) : JobNoted s (post s src sev code ws) :=
  ⟨(post_reports s src sev code ws).jobKept, fun e n hlt hp => evtPending_post s src sev code ws e n hlt hp,
    fun f hf => fGet_post s src sev code ws 0x16 f (by decide) (by decide) hf⟩

theorem raisePost_jobNoted (s : State) (src sev n : Nat) (ws : List Word) : JobNoted s (raisePost s src sev n ws) :=
  JobNoted.trans ⟨(raise_reports s n).jobKept, fun e m hlt hp => evtPending_raise s n e m hlt hp,
    fun f hf => fGet_raise s n 0x16 f (by decide) hf⟩ (post_jobNoted _ _ _ _ _)

/-- The record of the flagged pivots, posted when there were any (R243). -/
def pivotsTold (s : State) (r : JobRun) : State :=
  if r.zero + r.tiny = 0 then s else post s 0x16 1 0x060F [Word.ofN r.zero, Word.ofN r.tiny, Word.ofN (r.firstRow.getD 0xFFFFF)]

theorem pivotsTold_jobNoted (s : State) (r : JobRun) : JobNoted s (pivotsTold s r) := by
  unfold pivotsTold
  split
  · exact JobNoted.refl s
  · exact post_jobNoted _ _ _ _ _

theorem pivotsTold_reports (s : State) (r : JobRun) : Reports s (pivotsTold s r) := by
  unfold pivotsTold
  split
  · exact Reports.refl s
  · exact post_reports _ _ _ _ _

theorem pivotsTold_mem (s : State) (r : JobRun) : (pivotsTold s r).mem = s.mem := by
  unfold pivotsTold
  split
  · rfl
  · exact post_mem _ _ _ _ _

/-- The entry of a job that has ended shows its state and code. -/
def jobShown (s : State) (h state code : Nat) : State :=
  match getJob s h with | some j => setJob s h { j with state := state, code := code } | none => s

theorem endJob_eq (s : State) (state code failOp : Nat) : endJob s state code failOp =
    freeEntry (fInc
      { jobShown (pivotsTold (writeResult s (jobRun s) state code failOp) (jobRun s)) (jobRun s).handle state code with
        solv := { (jobShown (pivotsTold (writeResult s (jobRun s) state code failOp) (jobRun s)) (jobRun s).handle state code).solv with
          run := none } } 0x16 0xD 0 32) (jobRun s).handle := rfl

theorem freeEntry_only (s : State) (h : Nat) : ∃ l, freeEntry s h = { s with solv := { s.solv with free := l } } := by
  unfold freeEntry
  dsimp only
  split
  · exact ⟨s.solv.free, rfl⟩
  · exact ⟨_, rfl⟩

theorem jobShown_only (s : State) (h state code : Nat) : ∃ l, jobShown s h state code = { s with solv := { s.solv with jobs := l } }
    ∧ ∀ j, getJob s h = some j → Tbl.find l h = some { j with state := state, code := code } := by
  unfold jobShown
  cases hj : getJob s h with
  | none => exact ⟨s.solv.jobs, rfl, fun _ h => nomatch h⟩
  | some j =>
    refine ⟨_, rfl, fun j' h => ?_⟩
    cases h
    exact Tbl.find_ins_self _ _ _

/-- The end of a job: its parts beside its own entry, which shows its state and code. -/
theorem endJob_only (s : State) (state code failOp : Nat) : ∃ c l q,
    endJob s state code failOp = { pivotsTold (writeResult s (jobRun s) state code failOp) (jobRun s) with
      cfg := c, solv := { s.solv with run := none, jobs := l, free := q } }
    ∧ c = (fInc (pivotsTold (writeResult s (jobRun s) state code failOp) (jobRun s)) 0x16 0xD 0 32).cfg
    ∧ ∀ j, getJob s (jobRun s).handle = some j → Tbl.find l (jobRun s).handle = some { j with state := state, code := code } := by
  have htold : (pivotsTold (writeResult s (jobRun s) state code failOp) (jobRun s)).solv = s.solv := by
    obtain ⟨m, hm⟩ := writeResult_only s (jobRun s) state code failOp
    rw [(pivotsTold_reports _ _).solv_eq, hm]
  have hjob : getJob (pivotsTold (writeResult s (jobRun s) state code failOp) (jobRun s)) (jobRun s).handle = getJob s (jobRun s).handle :=
    congrArg (fun x : Solv => Tbl.find x.jobs (jobRun s).handle) htold
  rw [endJob_eq]
  generalize pivotsTold (writeResult s (jobRun s) state code failOp) (jobRun s) = u at htold hjob ⊢
  obtain ⟨l, hl, hshown⟩ := jobShown_only u (jobRun s).handle state code
  rw [hl]
  obtain ⟨q, hq⟩ := freeEntry_only (fInc { u with solv := { u.solv with jobs := l, run := none } } 0x16 0xD 0 32) (jobRun s).handle
  refine ⟨_, l, q, hq.trans ?_, rfl, fun j hj => hshown j (hjob.trans hj)⟩
  rw [← htold]
  rfl

theorem endJob_mem (s : State) (state code failOp : Nat) :
    (endJob s state code failOp).mem = (writeResult s (jobRun s) state code failOp).mem := by
  obtain ⟨c, l, q, h, -⟩ := endJob_only s state code failOp
  rw [h]
  exact pivotsTold_mem _ _

theorem endJob_asm (s : State) (state code failOp : Nat) : (endJob s state code failOp).asm = s.asm := by
  obtain ⟨c, l, q, h, -⟩ := endJob_only s state code failOp
  obtain ⟨m, hm⟩ := writeResult_only s (jobRun s) state code failOp
  rw [h]
  refine (pivotsTold_reports _ _).asm_eq.trans ?_
  rw [hm]

theorem endJob_ended (s : State) (state code failOp : Nat) : JobEnded s (endJob s state code failOp) state code := by
  obtain ⟨c, l, q, h, hc, hl⟩ := endJob_only s state code failOp
  obtain ⟨m, hm⟩ := writeResult_only s (jobRun s) state code failOp
  have hnoted := pivotsTold_jobNoted (writeResult s (jobRun s) state code failOp) (jobRun s)
  have hevents (e n : Nat) : evtPending (writeResult s (jobRun s) state code failOp) e n = evtPending s e n := by rw [hm]; rfl
  have hfield (f : Nat) : fGet (writeResult s (jobRun s) state code failOp) 0x16 f = fGet s 0x16 f := by rw [hm]; rfl
  rw [h]
  refine ⟨rfl, hl, fun e n hlt hp => hnoted.events e n hlt ((hevents e n).trans hp), fun f hf hne => ?_⟩
  have hother : fGet (fInc (pivotsTold (writeResult s (jobRun s) state code failOp) (jobRun s)) 0x16 0xD 0 32) 0x16 f
      = fGet (pivotsTold (writeResult s (jobRun s) state code failOp) (jobRun s)) 0x16 f :=
    fGet_fInc_ne _ 0x16 f 0x16 0xD 0 32 (by unfold fid; omega)
  rw [hc]
  exact hother.trans ((hnoted.fields f hf).trans (hfield f))

/-! ## A job that fails (R231, R254) -/

/-- A RANGE event is noted and reported before its job ends. -/
def rangeNoted (s : State) (w : Why) (failOp : Nat) : State :=
  match w with
  | .range row => raisePost (setRun s { jobRun s with rangeRow := some row }) 0x16 2 358 [Word.ofN failOp, Word.ofN row]
  | _ => s

theorem failJob_eq (s : State) (w : Why) (failOp : Nat) : ∃ ws,
    failJob s w failOp = raisePost (endJob (rangeNoted s w failOp) 5 w.code failOp) 0x16 2 353 ws := by
  cases w <;> exact ⟨_, rfl⟩

theorem setRun_jobNoted (s : State) (r : JobRun) (h : r.handle = (jobRun s).handle) : JobNoted s (setRun s r) :=
  ⟨setRun_jobKept s r h, fun _ _ _ h => h, fun _ _ => rfl⟩

theorem rangeNoted_jobNoted (s : State) (w : Why) (failOp : Nat) : JobNoted s (rangeNoted s w failOp) := by
  unfold rangeNoted
  split
  · next row => exact (setRun_jobNoted s { jobRun s with rangeRow := some row } rfl).trans (raisePost_jobNoted _ _ _ _ _)
  · exact JobNoted.refl s

theorem failJob_ended (s : State) (w : Why) (failOp : Nat) : JobEnded s (failJob s w failOp) 5 w.code := by
  obtain ⟨ws, h⟩ := failJob_eq s w failOp
  rw [h]
  exact (((endJob_ended _ 5 w.code failOp).raise 353).post _ _ _ _).after (rangeNoted_jobNoted s w failOp)

theorem failJob_event (s : State) (w : Why) (failOp : Nat) : evtPending (failJob s w failOp) 0 353 = true := by
  obtain ⟨ws, h⟩ := failJob_eq s w failOp
  rw [h]
  exact evtPending_raisePost_self _ _ _ 353 _ 0 (by decide)

/-- Command `i` ends the running job `r` FAILED with a code. -/
def EndsFailed (s : State) (r : JobRun) (i : Instr) (code : Nat) : Prop :=
  ∃ t, Gives s i t ∧ t.solv.run = none ∧ evtPending t 0 353 = true
    ∧ ∀ j, getJob s r.handle = some j → getJob t r.handle = some { j with state := 5, code := code }

theorem endsFailed_of {s t : State} {r : JobRun} {i : Instr} {w : Why} {failOp : Nat} (hrun : s.solv.run = some r) (hk : JobKept s t)
    (hi : Gives s i (failJob t w failOp)) : EndsFailed s r i w.code := by
  have hr : jobRun s = r := by rw [jobRun, hrun]; rfl
  have he := failJob_ended t w failOp
  refine ⟨_, hi, he.idle, failJob_event t w failOp, fun j hj => ?_⟩
  have hj' : getJob t (jobRun t).handle = some j := by rw [hk.getJob, hk.handle, hr]; exact hj
  have hend := he.job j hj'
  rwa [hk.handle, hr] at hend

/-! ## The sequencer's step (R237, R248) -/

theorem hwRead_cleanAt (s : State) (w : Who) (k : Kind) (a len : Nat) (h : CleanAt s a len) : hwRead s w k a len = (s, true) := by
  have hnone : s.mem.ecc.filter (fun e => decide (0 < len) && a / 8 ≤ e.1 && e.1 * 8 < a + len) = [] := by
    refine List.filter_eq_nil_iff.2 fun e he => ?_
    have := h e he
    simp only [Bool.and_eq_true, decide_eq_true_eq]
    omega
  unfold hwRead
  rw [hnone]
  rfl

theorem solvRead_cleanAt (s : State) (a len : Nat) (hp : domainOn s 1 = true) (h : CleanAt s a len) : solvRead s a len = .ok s () := by
  unfold solvRead
  rw [hp, hwRead_cleanAt s _ _ a len h]
  rfl

/-- How a macro-op's command ends: the job fails, or its index moves on where the macro-op does not set it. -/
def stepEnd (r : JobRun) (adv : Bool) (m : MRes Unit) : State :=
  match m with
  | .fail t w => failJob t w (r.pc % 65536)
  | .ok t _ => if adv ∧ t.solv.run.isSome then setRun t { jobRun t with pc := r.pc + 1 } else t

/-- A macro-op that sets the index, or ends the job, is left as it is. -/
theorem stepEnd_stays (r : JobRun) (t : State) : stepEnd r false (.ok t ()) = t := by
  simp only [stepEnd, Bool.false_eq_true, false_and, if_false]

section
variable {s : State} {r : JobRun} {o : MacroOp} {n : Nat} (hs : Sequences s r o n)
include hs

theorem Sequences.jobRun_eq : jobRun s = r := by rw [jobRun, hs.run]; rfl

/-- Behind the checks of its words the macro-op is fetched. -/
theorem solvStep_fetched (op : Nat) (adv : Bool) (body : MacroOp → State → MRes Unit) :
    solvStep s op adv body = if n ≠ op then s else stepEnd r adv (body o (stepped s r)) := by
  obtain ⟨hcode, h1, h16⟩ := hs.code
  have hop : ¬ (o.op = 0 ∨ 0x10 < o.op ∨ opReserved o = true) := by rw [hs.plain, hcode]; simp only [Bool.false_eq_true, or_false]; omega
  unfold solvStep
  rw [hs.run]
  dsimp only
  rw [if_neg (by rw [hs.on, hs.awake]; simp), if_neg (Nat.not_le.2 hs.steps), if_neg (by rw [hs.inside]; simp),
    solvRead_cleanAt s _ _ hs.power hs.clean]
  dsimp only
  rw [← hs.op, if_neg hop, hcode]
  by_cases hne : n ≠ op
  · rw [if_pos hne, if_pos hne]
  · rw [if_neg hne, if_neg hne]
    rfl

/-- A command for the macro-op that stands there runs it. -/
theorem solvStep_runs (adv : Bool) (body : MacroOp → State → MRes Unit) : solvStep s n adv body = stepEnd r adv (body o (stepped s r)) := by
  rw [solvStep_fetched hs]
  exact if_neg (fun h => h rfl)

/-- A command for another macro-op does nothing. -/
theorem solvStep_other (op : Nat) (hne : op ≠ n) (adv : Bool) (body : MacroOp → State → MRes Unit) : solvStep s op adv body = s := by
  rw [solvStep_fetched hs]
  exact if_pos hne.symm

theorem stepped_jobKept : JobKept s (stepped s r) := ⟨rfl, (congrArg JobRun.handle hs.jobRun_eq).symm⟩

section
variable {i : Instr} {adv : Bool} {body : MacroOp → State → MRes Unit} {t : State} (hi : exec i s = done s (solvStep s n adv body))
include hi

/-- A macro-op that fails ends its job FAILED with its reason. -/
theorem macroOp_fails (w : Why) (hb : body o (stepped s r) = .fail t w) (hk : JobKept (stepped s r) t) : EndsFailed s r i w.code := by
  refine endsFailed_of hs.run ((stepped_jobKept hs).trans hk) (failOp := r.pc % 65536) ?_
  unfold Gives
  rw [hi, solvStep_runs hs, hb]
  rfl

theorem macroOp_gives (hb : body o (stepped s r) = .ok t ()) : Gives s i (stepEnd r adv (.ok t ())) := by
  unfold Gives
  rw [hi, solvStep_runs hs, hb]
  rfl

end

theorem jobDesc_stepped : jobDesc (stepped s r) = jobDesc s := by
  unfold jobDesc
  rw [hs.jobRun_eq]
  rfl

end

end Sys2Proof.Machine
end

section
/-! SUPPORT. SOLV takes its next job, and `seq.end` publishes and ends one (R246, R247, R251 to R253). -/
namespace Sys2Proof.Machine

/-! ## The next job (R246, R247) -/

/-- SOLV can take a job. -/
def SolvReady (s : State) : Prop := unitOn s 0x16 = true ∧ s.pwr.asleep = false ∧ fBit s 0x16 1 0 = true ∧ s.solv.run = none

/-- The job of a handle runs from its first macro-op. -/
def jobStarted (s : State) (h : Nat) (j : Job) : State :=
  setRun (setJob s h { j with state := 3 })
    { handle := h, tau := (fGet s 0x16 2).toNat, delta := (fGet s 0x16 3).toNat, tk := s.clk.tick.setWidth 32 }

theorem startJob_idle (s : State) (h : ¬ SolvReady s) : startJob s = s := by
  refine if_pos (Classical.byContradiction fun hn => h ?_)
  simp only [Bool.or_eq_true, Bool.not_eq_true', not_or, Bool.not_eq_true, Bool.not_eq_false] at hn
  obtain ⟨⟨⟨hon, hawake⟩, hrun⟩, hfree⟩ := hn
  exact ⟨hon, hawake, hrun, Option.isSome_eq_false_iff.1 hfree |> Option.isNone_iff_eq_none.1⟩

section
variable {s : State} (hr : SolvReady s)
include hr

theorem startJob_next : startJob s = match nextJob s with
    | none => s
    | some (h, j) =>
      if groupsActive s = 0 then failJob (jobStarted s h j) .noLanes 0xFFFF
      else if !descOk j.desc then failJob (jobStarted s h j) .descriptor 0xFFFF
      else jobStarted s h j := by
  obtain ⟨hon, hawake, hrun, hfree⟩ := hr
  unfold startJob
  rw [if_neg (by rw [hon, hawake, hrun, hfree]; decide)]
  rfl

theorem jobStart_none (hn : nextJob s = none) : Gives s .jobStart s := by
  have h : startJob s = s := by rw [startJob_next hr, hn]
  exact congrArg (done s) h

variable {hd : Nat} {j : Job} (hn : nextJob s = some (hd, j))
include hn

theorem jobStart_starts (hg : groupsActive s ≠ 0) (hd' : descOk j.desc = true) : Gives s .jobStart (jobStarted s hd j) := by
  have h : startJob s = jobStarted s hd j := by
    rw [startJob_next hr, hn]
    dsimp only
    rw [if_neg hg, hd']
    rfl
  exact congrArg (done s) h

/-- A job that cannot start fails at once, for want of lanes before its descriptor is checked (R227, R246). -/
theorem jobStart_fails (hbad : groupsActive s = 0 ∨ descOk j.desc = false) : ∃ t, Gives s .jobStart t ∧ t.solv.run = none
    ∧ evtPending t 0 353 = true ∧ getJob t hd = some { j with state := 5, code := if groupsActive s = 0 then 8 else 10 } := by
  have hfail (w : Why) (hw : startJob s = failJob (jobStarted s hd j) w 0xFFFF) : ∃ t, Gives s .jobStart t ∧ t.solv.run = none
      ∧ evtPending t 0 353 = true ∧ getJob t hd = some { j with state := 5, code := w.code } :=
    ⟨_, congrArg (done s) hw, (failJob_ended _ w _).idle, failJob_event _ w _,
      (failJob_ended (jobStarted s hd j) w 0xFFFF).job { j with state := 3 }
      (getJob_setJob s hd { j with state := 3 })⟩
  by_cases hg : groupsActive s = 0
  · rw [if_pos hg]
    exact hfail .noLanes (by rw [startJob_next hr, hn]; exact if_pos hg)
  · rw [if_neg hg]
    refine hfail .descriptor ?_
    rw [startJob_next hr, hn]
    dsimp only
    rw [if_neg hg, hbad.resolve_left hg]
    rfl

end

/-! ## What Afterglow and the publishing leave of a job that ends (R251, R252, R256) -/

/-- Objects and Afterglow records have been written: the jobs stand, memory has no error, and SMEM's power is as it was. -/
structure Stored (s t : State) : Prop where
  only : ∃ q, Reports { s with solv := { s.solv with agSeq := q } } t
  clean : t.mem.ecc = []
  power : fGet t 2 2 = fGet s 2 2

theorem Stored.refl {s : State} (hecc : s.mem.ecc = []) : Stored s s := ⟨⟨s.solv.agSeq, Reports.refl s⟩, hecc, rfl⟩

theorem Stored.trans {s t u : State} (h : Stored s t) (h' : Stored t u) : Stored s u := by
  obtain ⟨⟨q, m, c, e, a, l, rfl⟩, -, hp⟩ := h
  obtain ⟨⟨q', m', c', e', a', l', rfl⟩, hc', hp'⟩ := h'
  exact ⟨⟨q', m', c', e', a', l', rfl⟩, hc', hp'.trans hp⟩

/-- A report that meets no error and leaves PWR's status alone. -/
theorem Stored.report {s t u : State} (h : Stored s t) (hr : Reports t u) (hc : u.mem.ecc = []) (hp : fGet u 2 2 = fGet t 2 2) :
    Stored s u :=
  h.trans ⟨⟨t.solv.agSeq, hr⟩, hc, hp⟩

theorem hwWrite_stored {s t : State} (h : Stored s t) (w : Who) (a : Nat) (bs : List Byte) : Stored s (hwWrite t w a bs) := by
  rw [hwWrite_noErrors t w a bs h.clean]
  obtain ⟨m, hm⟩ := setBytes_only bs t a
  refine h.report (setBytes_reports t a bs) ((setBytes_ecc bs t a).trans h.clean) ?_
  rw [hm]
  rfl

theorem agShow_stored {s t : State} (h : Stored s t) : Stored s (agShow t) := by
  unfold agShow
  exact h.report (fSet_reports t 0x16 0xE _) ((congrArg Mem.ecc (fSet_mem t 0x16 0xE _)).trans h.clean)
    (fGet_fSet_ne t 2 2 0x16 0xE _ (by decide))

theorem zeroRange_stored {s t : State} (h : Stored s t) (a len : Nat) : Stored s (zeroRange t a len) := by
  refine h.report ⟨_, _, _, _, _, rfl⟩ ?_ rfl
  show Tbl.clear t.mem.ecc (a / 8) (len / 8) = []
  rw [h.clean]
  rfl

theorem raise_stored {s t : State} (h : Stored s t) (n : Nat) : Stored s (raise t n) :=
  h.report (raise_reports t n) (by rw [raise_mem]; exact h.clean) (fGet_raise t n 2 2 (by decide) (by decide))

theorem agDelete_stored {s t : State} (h : Stored s t) (i : Nat) : Stored s (agDelete t i) := agShow_stored (zeroRange_stored h _ _)

theorem fold_stored {α : Type} {f : State → α → State} {s : State} (hf : ∀ t x, Stored s t → Stored s (f t x)) (l : List α) {t : State}
    (h : Stored s t) : Stored s (l.foldl f t) := List.foldlRecOn (motive := Stored s) l f h (fun u hu x _ => hf u x hu)

theorem agEvict_stored {s : State} (need n : Nat) : ∀ {t : State}, Stored s t → Stored s (agEvict t need n) := by
  induction n with
  | zero => exact fun h => h
  | succ n ih =>
    intro t h
    unfold agEvict
    dsimp only
    split
    · exact h
    · split
      · exact h
      · exact ih (raise_stored (agDelete_stored h _) 359)

theorem agWrite_stored {s t : State} (h : Stored s t) (pages : List Nat) (b : List Byte) : Stored s (agWrite t pages b) :=
  fold_stored (fun _ _ hu => hwWrite_stored hu _ _ _) _ h

/-- Records of the same class and fingerprint give way to a new one (R251). -/
def agReplaced (s : State) (r : AgRec) : State :=
  (List.range 16).foldl (fun s i => if agValid s i ∧ agClass s i = r.cls ∧ agFp s i = r.fp then agDelete s i else s) s

theorem agReplaced_stored {s t : State} (h : Stored s t) (r : AgRec) : Stored s (agReplaced t r) :=
  fold_stored (fun u i hu => by
    split
    · exact agDelete_stored hu i
    · exact hu) _ h

/-- The next record takes the next sequence. -/
def agNumbered (s : State) : State := { s with solv := { s.solv with agSeq := s.solv.agSeq + 1 } }

theorem agNumbered_stored {s t : State} (h : Stored s t) : Stored s (agNumbered t) :=
  h.trans ⟨⟨t.solv.agSeq + 1, Reports.refl _⟩, h.clean, rfl⟩

/-- A record is written into the free pages and named by entry i. -/
def agPlaced (s : State) (r : AgRec) (need i : Nat) : State :=
  let u := agNumbered s
  let pages := (agFree u).take need
  let b := leBytes 4 r.cls ++ leBytes 8 r.fp ++ leBytes 4 (s.solv.agSeq + 1) ++ r.head ++ leBytes 4 u.clk.opMs.toNat ++ r.body
  let map (k : Nat) : Word := Word.ofN ((pages.filter (fun p => p / 32 == k)).foldl (fun n p => n + 2 ^ (p % 32)) 0)
  agShow (solvWrite (agWrite u pages (b ++ leBytes 4 (crc32c b).toNat)) (agDir i)
    [Word.ofN (2 ^ 31 + r.cls), Word.ofN (r.fp / 2 ^ 32), Word.ofN r.fp, Word.ofN (s.solv.agSeq + 1), map 0, map 1, map 2, map 3])

theorem agPlaced_stored {s t : State} (h : Stored s t) (r : AgRec) (need i : Nat) : Stored s (agPlaced t r need i) :=
  agShow_stored (hwWrite_stored (agWrite_stored (agNumbered_stored h) _ _) _ _ _)

theorem agStore_stored {s t : State} (h : Stored s t) (r : AgRec) : Stored s (agStore t r) := by
  unfold agStore
  extract_lets u len need v
  have hu : Stored s u := agReplaced_stored h r
  have hv : Stored s v := agEvict_stored need 17 hu
  clear_value v u
  split
  · exact hv
  · exact agPlaced_stored hv r need _

theorem Stored.jobRun {s t : State} (h : Stored s t) : jobRun t = jobRun s := by
  obtain ⟨⟨q, m, c, e, a, l, rfl⟩, -, -⟩ := h
  rfl

theorem Stored.getJob {s t : State} (h : Stored s t) (n : Nat) : getJob t n = getJob s n := by
  obtain ⟨⟨q, m, c, e, a, l, rfl⟩, -, -⟩ := h
  rfl

theorem Stored.asm {s t : State} (h : Stored s t) : t.asm = s.asm := by
  obtain ⟨⟨q, m, c, e, a, l, rfl⟩, -, -⟩ := h
  rfl

theorem Stored.domainOn {s t : State} (h : Stored s t) : domainOn t 1 = domainOn s 1 := by
  unfold Machine.domainOn fBit
  rw [h.power]

theorem publish_stored {s t : State} (h : Stored s t) (p : Nat × Nat) : Stored s (publish t p) := by
  unfold publish
  split
  · exact h
  · exact hwWrite_stored h _ _ _

/-! ## `seq.end` (R239, R251 to R253) -/

/-- Both pairs are copied and Afterglow's records are stored. -/
def jobPublished (s : State) : State := (jobRun s).stores.foldl agStore (publish (publish s (pubPair s 0)) (pubPair s 1))

theorem solvRead_noErrors (s : State) (a len : Nat) (hp : domainOn s 1 = true) (hecc : s.mem.ecc = []) : solvRead s a len = .ok s () :=
  solvRead_cleanAt s a len hp (fun e he => by rw [hecc] at he; nomatch he)

theorem opSeqEnd_noErrors (o : MacroOp) (s : State) (hp : domainOn s 1 = true) (hecc : s.mem.ecc = []) : opSeqEnd o s =
    if !pubOk s (pubPair s 0) || !pubOk s (pubPair s 1) then .fail s .shape
    else .ok (raise (endJob (jobPublished s) 4 (o.w1.field 0 8) 0xFFFF) 352) () := by
  have look (x : Nat × Nat) : (if x.1 = 0 then MRes.ok s () else
      (solvRead s (objAddr x.1) (32 + oBody s x.1)).bind fun s _ => solvRead s (objAddr x.2) 32) = .ok s () := by
    split
    · rfl
    · rw [solvRead_noErrors s _ _ hp hecc]
      exact solvRead_noErrors s _ _ hp hecc
  unfold opSeqEnd
  dsimp only
  rw [look, MRes.bind, look, MRes.bind]
  have hstored := publish_stored (publish_stored (Stored.refl hecc) (pubPair s 0)) (pubPair s 1)
  rw [show jobPublished s = (jobRun (publish (publish s (pubPair s 0)) (pubPair s 1))).stores.foldl agStore _ by
    rw [hstored.jobRun]; rfl]

/-- What `seq.end` leaves in memory is the result record. -/
theorem memW_jobEnd (s : State) (code : Nat) (a : Nat) (ha : a + 4 ≤ 0x0E00000000) :
    memW (raise (endJob s 4 code 0xFFFF) 352) a = memW (writeResult s (jobRun s) 4 code 0xFFFF) a := by
  obtain ⟨m, hm⟩ := writeResult_only s (jobRun s) 4 code 0xFFFF
  refine memW_of_lib ha ((raise_mem _ 352).trans (endJob_mem s 4 code _)) ?_
  rw [(raise_reports _ 352).asm_eq, endJob_asm, hm]

section
variable {s : State} {r : JobRun} {o : MacroOp}

theorem pubPair_stepped (hs : Sequences s r o 14) (i : Nat) : pubPair (stepped s r) i = pubPair s i := by
  unfold pubPair
  rw [jobDesc_stepped hs]

variable (hecc : s.mem.ecc = [])
include hecc

theorem jobPublished_stored : Stored (stepped s r) (jobPublished (stepped s r)) := by
  unfold jobPublished
  exact fold_stored (f := agStore) (fun _ _ hu => agStore_stored hu _) _
    (publish_stored (publish_stored (Stored.refl (s := stepped s r) hecc) _) _)

theorem jobRun_jobPublished : jobRun (jobPublished (stepped s r)) = { r with steps := r.steps + 1 } := (jobPublished_stored hecc).jobRun

theorem seqEnd_gives (hs : Sequences s r o 14) (hp : pubOk s (pubPair s 0) = true) (hq : pubOk s (pubPair s 1) = true) :
    Gives s .seqEnd (raise (endJob (jobPublished (stepped s r)) 4 (o.w1.field 0 8) 0xFFFF) 352) := by
  have hbody : opSeqEnd o (stepped s r) = .ok (raise (endJob (jobPublished (stepped s r)) 4 (o.w1.field 0 8) 0xFFFF) 352) () := by
    rw [opSeqEnd_noErrors o (stepped s r) hs.power hecc, pubPair_stepped hs, pubPair_stepped hs]
    refine if_neg ?_
    rw [show pubOk (stepped s r) = pubOk s from pubOk_setRun s _, hp, hq]
    decide
  have hg := macroOp_gives hs (i := .seqEnd) (adv := false) rfl hbody
  rwa [stepEnd_stays] at hg

theorem seqEnd_refused (hs : Sequences s r o 14) (hbad : (pubOk s (pubPair s 0) && pubOk s (pubPair s 1)) = false) :
    EndsFailed s r .seqEnd 2 := by
  have hbody : opSeqEnd o (stepped s r) = .fail (stepped s r) .shape := by
    rw [opSeqEnd_noErrors o (stepped s r) hs.power hecc, pubPair_stepped hs, pubPair_stepped hs]
    refine if_pos ?_
    rw [show pubOk (stepped s r) = pubOk s from pubOk_setRun s _, ← Bool.not_and, hbad]
    rfl
  exact macroOp_fails hs (i := .seqEnd) (adv := false) rfl .shape hbody (JobKept.refl _)

variable {j : Job} (hj : getJob s r.handle = some j)
include hj

theorem recordDesc_jobPublished : recordDesc (jobPublished (stepped s r)) (jobRun (jobPublished (stepped s r))) = j.desc := by
  unfold recordDesc
  rw [jobRun_jobPublished hecc, (jobPublished_stored hecc).getJob]
  exact congrArg (fun x : Option Job => (x.map (·.desc)).getD []) hj

theorem seqEnd_job (t : State) (ht : t = raise (endJob (jobPublished (stepped s r)) 4 (o.w1.field 0 8) 0xFFFF) 352) :
    t.solv.run = none ∧ evtPending t 0 352 = true ∧ getJob t r.handle = some { j with state := 4, code := o.w1.field 0 8 } := by
  have he := (endJob_ended (jobPublished (stepped s r)) 4 (o.w1.field 0 8) 0xFFFF).raise 352
  have hjob := he.job j
  rw [jobRun_jobPublished hecc] at hjob
  subst ht
  exact ⟨he.idle, evtPending_raise_self _ 0 352 (by decide), hjob (((jobPublished_stored hecc).getJob _).trans hj)⟩

/-- The words of the result record (R253). -/
theorem seqEnd_record (hs : Sequences s r o 14) (t : State)
    (ht : t = raise (endJob (jobPublished (stepped s r)) 4 (o.w1.field 0 8) 0xFFFF) 352)
    (h0 : natAt j.desc 4 4 ≠ 0) (h1 : natAt j.desc 4 4 < 2 ^ 24) (hw : inWork (objAddr (natAt j.desc 4 4)) 64 = true) :
    memW t (objAddr (natAt j.desc 4 4)) = Word.ofN (natAt j.desc 12 2 * 2 ^ 16 + r.handle)
      ∧ memW t (objAddr (natAt j.desc 4 4) + 4) = Word.ofN (4 * 2 ^ 24 + o.w1.field 0 8 * 2 ^ 16)
      ∧ memW t (objAddr (natAt j.desc 4 4) + 8) = Word.ofN (r.steps + 1) := by
  have hb := inWork_bounds hw
  have hdesc := recordDesc_jobPublished hecc hj
  have hrun := jobRun_jobPublished (r := r) hecc
  have hpower : domainOn (jobPublished (stepped s r)) 1 = true := (jobPublished_stored hecc).domainOn.trans hs.power
  have hword (i : Nat) (v : Word) (hi : i < 3)
      (hv : (resultRecord (jobPublished (stepped s r)) (jobRun (jobPublished (stepped s r))) 4 (o.w1.field 0 8) 0xFFFF)[i]? = some v) :
      memW t (objAddr (natAt j.desc 4 4) + 4 * i) = v :=
    (congrArg (memW · _) ht).trans <| (memW_jobEnd _ _ _ (by omega)).trans
      (memW_writeResult _ _ 4 _ _ _ (congrArg (natAt · 4 4) hdesc) h0 h1 hw hpower i v hv)
  refine ⟨hword 0 _ (by decide) ?_, hword 1 _ (by decide) rfl, hword 2 _ (by decide) ?_⟩
  · show some (Word.ofN (natAt (recordDesc _ _) 12 2 * 2 ^ 16 + _)) = _
    rw [hdesc, hrun]
  · show some (Word.ofN (jobRun _).steps) = _
    rw [hrun]

/-- Without a result record and with one pair the source stands at its destination (R252). -/
theorem seqEnd_copied (hs : Sequences s r o 14) (t : State)
    (ht : t = raise (endJob (jobPublished (stepped s r)) 4 (o.w1.field 0 8) 0xFFFF) 352)
    (hp : pubOk s (pubPair s 0) = true) (h0 : natAt j.desc 4 4 = 0) (hq : (pubPair s 1).1 = 0) (hne : (pubPair s 0).1 ≠ 0)
    (hst : r.stores = []) : memBytes t (objAddr (pubPair s 0).2) (32 + oBody s (pubPair s 0).1) =
      memBytes s (objAddr (pubPair s 0).1) (32 + oBody s (pubPair s 0).1) := by
  have hfits : inWork (objAddr (pubPair s 0).2) (32 + oBody s (pubPair s 0).1) = true := by
    simp only [pubOk, Bool.or_eq_true, Bool.and_eq_true, beq_iff_eq] at hp
    obtain hz | ⟨⟨⟨⟨-, hd⟩, -⟩, -⟩, -⟩ := hp
    · exact absurd hz hne
    · exact hd
  have hb := inWork_bounds hfits
  have hpub : jobPublished (stepped s r) = setBytes (stepped s r) (objAddr (pubPair s 0).2)
      (memBytes s (objAddr (pubPair s 0).1) (32 + oBody s (pubPair s 0).1)) := by
    unfold jobPublished
    rw [show (jobRun (stepped s r)).stores = [] from hst, pubPair_stepped hs, pubPair_stepped hs, List.foldl_nil]
    unfold publish
    rw [if_pos hq, if_neg hne]
    exact hwWrite_noErrors (stepped s r) _ _ _ hecc
  have hnone : writeResult (jobPublished (stepped s r)) (jobRun (jobPublished (stepped s r))) 4 (o.w1.field 0 8) 0xFFFF
      = jobPublished (stepped s r) := by
    rw [writeResult_eq _ _ _ _ _ _ (congrArg (natAt · 4 4) (recordDesc_jobPublished hecc hj))]
    exact if_pos (Or.inl h0)
  have hlen : (memBytes s (objAddr (pubPair s 0).1) (32 + oBody s (pubPair s 0).1)).length = 32 + oBody s (pubPair s 0).1 := by
    rw [memBytes, List.length_map, List.length_range]
  have hback := memBytes_setBytes (memBytes s (objAddr (pubPair s 0).1) (32 + oBody s (pubPair s 0).1)) (stepped s r)
    (objAddr (pubPair s 0).2) (by omega) (by rw [hlen]; omega)
  rw [hlen, ← hpub] at hback
  subst ht
  refine Eq.trans (memBytes_of_lib (by omega) ((raise_mem _ 352).trans ((endJob_mem _ 4 _ _).trans (congrArg State.mem hnone))) ?_) hback
  rw [(raise_reports _ 352).asm_eq, endJob_asm]

end

end Sys2Proof.Machine
end

section
/-! The lanes of the array, their tests, and the obligation about SOLV's jobs and lanes (R225 to R227, R246, R247, R252, R253). -/
namespace Sys2Proof.Machine

/-! ## Fields of SOLV -/

theorem fPart_fSetPart_self (s : State) (u f lo len v : Nat) (h : lo + len ≤ 32) :
    fPart (fSetPart s u f lo len v) u f lo len = v % 2 ^ len := by
  unfold fPart fSetPart
  rw [fGet_fSet_self, field_setField_self _ lo len v h]

theorem fGet_fSetPart_ne (s : State) (u f f' lo len v : Nat) (h : f % 1024 ≠ f' % 1024) :
    fGet (fSetPart s u f' lo len v) u f = fGet s u f := fGet_fSet_ne s u f u f' _ (fid_ne_of_field_ne u f u f' h)

theorem fBit_congr {s t : State} {u f : Nat} (h : fGet t u f = fGet s u f) (k : Nat) : fBit t u f k = fBit s u f k := by
  unfold fBit
  rw [h]

theorem fPart_congr {s t : State} {u f : Nat} (h : fGet t u f = fGet s u f) (lo len : Nat) : fPart t u f lo len = fPart s u f lo len := by
  unfold fPart
  rw [h]

theorem spareUsed_congr {s t : State} {g : Nat} (h : fGet t 0x16 (8 + g / 32) = fGet s 0x16 (8 + g / 32)) : spareUsed t g = spareUsed s g :=
  fBit_congr h (g % 32)

theorem groupLost_congr {s t : State} {g : Nat} (h : fGet t 0x16 (0xA + g / 32) = fGet s 0x16 (0xA + g / 32)) :
    groupLost t g = groupLost s g := fBit_congr h (g % 32)

theorem groupsActive_congr {s t : State} (h : fGet t 0x16 7 = fGet s 0x16 7) : groupsActive t = groupsActive s := fPart_congr h 8 8

/-- A part of a field that is counted down stays within the part. -/
theorem field_sub_one (w : Word) (lo len : Nat) : (w.field lo len - 1) % 2 ^ len = w.field lo len - 1 :=
  Nat.mod_eq_of_lt (Nat.lt_of_le_of_lt (Nat.sub_le _ 1) (Nat.mod_lt _ (Nat.two_pow_pos len)))

/-! ## A lane that fails (R226, R227) -/

/-- A failed lane is counted, and the test of its group ends. -/
def laneCounted (s : State) (g : Nat) : State :=
  { fInc s 0x16 0xC 0 32 with solv := { s.solv with test := Tbl.del s.solv.test g } }

/-- The spare of a group is used. -/
def laneSpared (s : State) (g : Nat) : State :=
  fSetPart (fSetBit (laneCounted s g) 0x16 (8 + g / 32) (g % 32) true) 0x16 7 16 8
    (fPart (fSetBit (laneCounted s g) 0x16 (8 + g / 32) (g % 32) true) 0x16 7 16 8 - 1)

/-- Lane l of the group is mapped out. -/
def laneMapped (s : State) (g l : Nat) : State :=
  { laneSpared s g with solv := { (laneSpared s g).solv with lane := Tbl.ins (laneSpared s g).solv.lane g l } }

/-- A group without a spare is taken out of service. -/
def groupTaken (s : State) (g : Nat) : State :=
  fSetPart (fSetBit (laneCounted s g) 0x16 (0xA + g / 32) (g % 32) true) 0x16 7 8 8
    (groupsActive (fSetBit (laneCounted s g) 0x16 (0xA + g / 32) (g % 32) true) - 1)

/-- The loss of a group is reported. -/
def groupReported (s : State) (g : Nat) : State := raisePost (groupTaken s g) 0x16 2 356 []

/-- What the last group's loss does beside. -/
def lastGroup (s : State) : State :=
  if groupsActive s ≠ 0 then s
  else if (post s 0x16 3 0x060F []).solv.run.isSome then
    failJob (post s 0x16 3 0x060F []) .noLanes ((jobRun (post s 0x16 3 0x060F [])).pc % 65536)
  else post s 0x16 3 0x060F []

theorem fGet_withSolv (s : State) (v : Solv) (u f : Nat) : fGet { s with solv := v } u f = fGet s u f := rfl

theorem fGet_laneMapped (s : State) (g l u f : Nat) : fGet (laneMapped s g l) u f = fGet (laneSpared s g) u f :=
  fGet_withSolv _ _ u f

theorem groupTaken_run (s : State) (g : Nat) : (groupTaken s g).solv.run = s.solv.run := by
  simp only [groupTaken, fSetPart_solv, fSetBit_solv, laneCounted]

/-- The lane is marked already: it has been spared, or its group is out of service. -/
def LaneKnown (s : State) (g l : Nat) : Prop := groupLost s g = true ∨ Tbl.find s.solv.lane g = some l

theorem laneFail_known (s : State) (g l : Nat) (h : LaneKnown s g l) : laneFail s g l = s := if_pos h

theorem fGet_laneCounted (s : State) (g f : Nat) (hf : f < 12) : fGet (laneCounted s g) 0x16 f = fGet s 0x16 f :=
  fGet_fInc_ne s 0x16 f 0x16 0xC 0 32 (by unfold fid; omega)

theorem spareUsed_laneCounted (s : State) (g : Nat) (hg : g < 64) : spareUsed (laneCounted s g) g = spareUsed s g :=
  spareUsed_congr (fGet_laneCounted s g (8 + g / 32) (by omega))

/-- The loss of the last group keeps fields and events, and ends the running job. -/
theorem lastGroup_keeps (u : State) : (∀ f, f < 1024 → f ≠ 0xD → fGet (lastGroup u) 0x16 f = fGet u 0x16 f)
    ∧ (∀ n, evtPending u 0 n = true → evtPending (lastGroup u) 0 n = true)
    ∧ (groupsActive u = 0 → u.solv.run ≠ none → (lastGroup u).solv.run = none ∧ evtPending (lastGroup u) 0 353 = true) := by
  have hpost := post_jobNoted u 0x16 3 0x060F []
  have hrun : (post u 0x16 3 0x060F []).solv.run = u.solv.run := congrArg Solv.run (post_reports u 0x16 3 0x060F []).solv_eq
  unfold lastGroup
  split
  · next h => exact ⟨fun _ _ _ => rfl, fun _ h => h, fun h0 => absurd h0 h⟩
  · split
    · have hend := (failJob_ended (post u 0x16 3 0x060F []) .noLanes ((jobRun (post u 0x16 3 0x060F [])).pc % 65536)).after hpost
      exact ⟨hend.fields, fun n hp => hend.events 0 n (by decide) hp, fun _ _ => ⟨hend.idle, failJob_event _ _ _⟩⟩
    · next h =>
      rw [hrun] at h
      refine ⟨fun f hf _ => hpost.fields f hf, fun n hp => hpost.events 0 n (by decide) hp, fun _ hne => absurd ?_ hne⟩
      exact Option.not_isSome_iff_eq_none.1 h

section
variable (s : State) (g l : Nat) (hg : g < 64) (hn : ¬ LaneKnown s g l)
include hg

include hn in
theorem laneFail_eq : laneFail s g l =
    if !spareUsed s g then raisePost (laneMapped s g l) 0x16 2 355 [Word.ofN g, Word.ofN l]
    else lastGroup (groupReported s g) := by
  rw [← spareUsed_laneCounted s g hg]
  exact if_neg hn

omit hg in
theorem fGet_lane7 (f : Nat) (h8 : 8 ≤ f) (hf : f < 12) : fGet (fSetBit (laneCounted s g) 0x16 f (g % 32) true) 0x16 7 = fGet s 0x16 7 :=
  (fGet_fSetBit_ne _ 0x16 7 f _ true (by omega)).trans (fGet_laneCounted s g 7 (by decide))

theorem spareUsed_laneSpared : spareUsed (laneSpared s g) g = true := by
  unfold laneSpared
  rw [spareUsed_congr (fGet_fSetPart_ne _ 0x16 _ 7 16 8 _ (by omega))]
  exact fBit_fSetBit_true (laneCounted s g) 0x16 (8 + g / 32) (g % 32) (by omega)

theorem fPart_laneSpared : fPart (laneSpared s g) 0x16 7 16 8 = fPart s 0x16 7 16 8 - 1 := by
  unfold laneSpared
  rw [fPart_fSetPart_self _ 0x16 7 16 8 _ (by decide)]
  unfold fPart
  rw [fGet_lane7 s g (8 + g / 32) (by omega) (by omega), field_sub_one]

theorem groupLost_groupTaken : groupLost (groupTaken s g) g = true := by
  unfold groupTaken
  rw [groupLost_congr (fGet_fSetPart_ne _ 0x16 _ 7 8 8 _ (by omega))]
  exact fBit_fSetBit_true (laneCounted s g) 0x16 (0xA + g / 32) (g % 32) (by omega)

theorem groupsActive_groupTaken : groupsActive (groupTaken s g) = groupsActive s - 1 := by
  unfold groupTaken groupsActive
  rw [fPart_fSetPart_self _ 0x16 7 8 8 _ (by decide)]
  unfold fPart
  rw [fGet_lane7 s g (0xA + g / 32) (by omega) (by omega), field_sub_one]

/-- The group's spare is used for lane l. -/
structure Spared (s t : State) (g l : Nat) : Prop where
  used : spareUsed t g = true
  event : evtPending t 0 355 = true
  lane : Tbl.find t.solv.lane g = some l
  left : fPart t 0x16 7 16 8 = fPart s 0x16 7 16 8 - 1

include hn in
theorem laneFail_spares (hspare : spareUsed s g = false) : Spared s (laneFail s g l) g l := by
  have heq : laneFail s g l = raisePost (laneMapped s g l) 0x16 2 355 [Word.ofN g, Word.ofN l] := by
    rw [laneFail_eq s g l hg hn, hspare]
    exact if_pos rfl
  have hfield (f : Nat) (hf : f < 1024) : fGet (laneFail s g l) 0x16 f = fGet (laneSpared s g) 0x16 f := by
    rw [heq]
    exact (fGet_raisePost (laneMapped s g l) 0x16 2 355 _ 0x16 f (by decide) (by decide) hf).trans (fGet_laneMapped s g l 0x16 f)
  refine ⟨?_, ?_, ?_, ?_⟩
  · rw [spareUsed_congr (hfield _ (by omega)), spareUsed_laneSpared s g hg]
  · rw [heq]
    exact evtPending_raisePost_self _ _ _ 355 _ 0 (by decide)
  · rw [heq, (raisePost_reports _ 0x16 2 355 _).solv_eq]
    exact Tbl.find_ins_self _ _ _
  · rw [fPart_congr (hfield 7 (by decide)), fPart_laneSpared s g hg]

/-- The group is out of service; with the last one the running job has failed. -/
structure GroupOut (s t : State) (g : Nat) : Prop where
  lost : groupLost t g = true
  event : evtPending t 0 356 = true
  active : groupsActive t = groupsActive s - 1
  last : groupsActive s ≤ 1 → s.solv.run ≠ none → t.solv.run = none ∧ evtPending t 0 353 = true

include hn in
theorem laneFail_takesGroup (hspare : spareUsed s g = true) : GroupOut s (laneFail s g l) g := by
  have heq : laneFail s g l = lastGroup (groupReported s g) := by
    rw [laneFail_eq s g l hg hn, hspare]
    exact if_neg Bool.false_ne_true
  obtain ⟨hfields, hevents, hends⟩ := lastGroup_keeps (groupReported s g)
  rw [← heq] at hfields hevents hends
  have hreported (f : Nat) (hf : f < 1024) : fGet (groupReported s g) 0x16 f = fGet (groupTaken s g) 0x16 f :=
    fGet_raisePost _ 0x16 2 356 _ 0x16 f (by decide) (by decide) hf
  have hactive : groupsActive (groupReported s g) = groupsActive s - 1 := by
    rw [groupsActive_congr (hreported 7 (by decide)), groupsActive_groupTaken s g hg]
  refine ⟨?_, hevents 356 (evtPending_raisePost_self _ _ _ 356 _ 0 (by decide)), ?_, fun h1 hne => hends (by omega) ?_⟩
  · rw [groupLost_congr (hfields _ (by omega) (by omega)), groupLost_congr (hreported _ (by omega)), groupLost_groupTaken s g hg]
  · rw [groupsActive_congr (hfields 7 (by decide) (by decide)), hactive]
  · rwa [groupReported, (raisePost_reports _ 0x16 2 356 _).solv_eq, groupTaken_run]

end

/-! ## Lane failures and pattern tests as commands (R225) -/

section
variable (s : State) (g : Fin 64) (l : Fin 17)

theorem laneFail_gives (hon : unitOn s 0x16 = true) : Gives s (.laneFail g l) (laneFail s g.val l.val) :=
  congrArg (done s) (if_pos hon)

theorem laneFail_off (hoff : unitOn s 0x16 = false) : Gives s (.laneFail g l) s := congrArg (done s) (if_neg (by rw [hoff]; decide))

theorem patternDone_none (pass : Bool) (hn : Tbl.find s.solv.test g.val = none) : Gives s (.bistPatternDone g pass) s := by
  refine congrArg (done s) ?_
  dsimp only
  rw [hn]

theorem patternDone_off (pass : Bool) (hoff : unitOn s 0x16 = false) : Gives s (.bistPatternDone g pass) s := by
  refine congrArg (done s) ?_
  dsimp only
  rw [hoff]
  split <;> rfl

theorem patternDone_passes (x : Nat) (hx : Tbl.find s.solv.test g.val = some x) (hon : unitOn s 0x16 = true) :
    Gives s (.bistPatternDone g true) { s with solv := { s.solv with test := Tbl.del s.solv.test g.val } } := by
  refine congrArg (done s) ?_
  dsimp only
  rw [hx, hon]
  rfl

theorem patternDone_fails (x : Nat) (hx : Tbl.find s.solv.test g.val = some x) (hon : unitOn s 0x16 = true) :
    Gives s (.bistPatternDone g false) (laneFail s g.val (x - 1)) := by
  refine congrArg (done s) ?_
  dsimp only
  rw [hx, hon]
  rfl

/-- The next lane's test is due. -/
def StepDue (s : State) (g : Nat) : Prop := unitOn s 0x16 = true ∧ fPart s 0x16 5 0 16 ≠ 0 ∧ groupLost s g = false ∧ spareUsed s g = false
  ∧ Tbl.find s.solv.test g = none ∧ Tbl.get s.solv.bistBase s.solv.bistAt g + 100 * fPart s 0x16 5 0 16 ≤ s.clk.tick.toNat

/-- The next lane hands its work over. -/
def laneTested (s : State) (g : Nat) : State :=
  { s with solv := { s.solv with
    test := Tbl.ins s.solv.test g (Tbl.get 0 s.solv.rot g + 1), rot := Tbl.put 0 s.solv.rot g ((Tbl.get 0 s.solv.rot g + 1) % 16)
    bistAt := Tbl.ins s.solv.bistAt g s.clk.tick.toNat } }

theorem bistStep_tests (h : StepDue s g.val) : Gives s (.bistStep g) (laneTested s g.val) := by
  obtain ⟨hon, hstep, hlost, hspare, htest, hdue⟩ := h
  refine congrArg (done s) (if_neg ?_)
  rw [hon, hlost, hspare, htest]
  simp only [Bool.not_true, Bool.false_or, Bool.or_false, Option.isSome_none, Bool.or_eq_true, decide_eq_true_eq, not_or]
  omega

theorem bistStep_idle (h : ¬ StepDue s g.val) : Gives s (.bistStep g) s := by
  refine congrArg (done s) (if_pos (Classical.byContradiction fun hn => h ?_))
  simp only [Bool.or_eq_true, Bool.not_eq_true', decide_eq_true_eq, not_or, Bool.not_eq_true, Bool.not_eq_false, Nat.not_lt,
    Option.isSome_eq_false_iff, Option.isNone_iff_eq_none] at hn
  obtain ⟨⟨⟨⟨⟨hon, hstep⟩, hlost⟩, hspare⟩, htest⟩, hdue⟩ := hn
  exact ⟨hon, hstep, hlost, hspare, htest, hdue⟩

end

/-! ## The statement -/

/-- Settles O33: SOLV's start and `seq.end` each come to one end of the job, whose frame says what it leaves; a failed lane is spared,
or its group is taken out, with the running job when it was the last. -/
theorem solverRunsItsJobsAndLanes : Obligations.SolverRunsItsJobsAndLanes := by
  unfold Obligations.SolverRunsItsJobsAndLanes
  refine ⟨fun s hd j r o => ?_, fun s g l x pass => ?_⟩
  · intro ready code rec_ p q
    refine ⟨fun hr hn => ⟨fun hg hdesc => ?_, fun hbad => jobStart_fails hr hn hbad⟩, fun hr hn => jobStart_none hr hn,
      fun hr => congrArg (done s) (startJob_idle s hr), fun hs hj hecc => ⟨fun hp hq => ?_, fun hbad => ?_⟩⟩
    · exact ⟨jobStarted s hd j, jobStart_starts hr hn hg hdesc, getJob_setJob s hd _, rfl, rfl, rfl, rfl, rfl⟩
    · obtain ⟨hidle, hevent, hjob⟩ := seqEnd_job (o := o) hecc hj _ rfl
      exact ⟨_, seqEnd_gives hecc hs hp hq, hidle, hevent, hjob, seqEnd_record hecc hj hs _ rfl,
        fun h0 hq0 hp0 hst => seqEnd_copied hecc hj hs _ rfl hp h0 hq0 hp0 hst⟩
    · obtain ⟨t, ht, hidle, hevent, hjob⟩ := seqEnd_refused hecc hs hbad
      exact ⟨t, ht, hidle, hevent, hjob j hj⟩
  · intro step due known fails
    have hfails (c : Instr) (l : Nat) (hc : Gives s c (laneFail s g.val l)) (hn : ¬ known l) : fails c l := by
      refine ⟨fun hspare => ?_, fun hspare => ?_⟩
      · have h := laneFail_spares s g.val l g.isLt hn hspare
        exact ⟨_, hc, h.used, h.event, h.lane, h.left⟩
      · have h := laneFail_takesGroup s g.val l g.isLt hn hspare
        exact ⟨_, hc, h.lost, h.event, h.active, h.last⟩
    have hknown (c : Instr) (l : Nat) (hc : Gives s c (laneFail s g.val l)) (hk : known l) : Gives s c s := by
      rwa [laneFail_known s g.val l hk] at hc
    refine ⟨fun hon => ⟨hfails _ _ (laneFail_gives s g l hon), hknown _ _ (laneFail_gives s g l hon),
        fun hstep hlost hspare htest hdue => ?_, fun hx => ⟨?_, ?_, ?_⟩⟩,
      fun hoff => ⟨laneFail_off s g l hoff, patternDone_off s g pass hoff⟩, fun hidle => bistStep_idle s g fun hdue => ?_,
      patternDone_none s g pass⟩
    · exact ⟨_, bistStep_tests s g ⟨hon, hstep, hlost, hspare, htest, hdue⟩, Tbl.find_ins_self _ _ _, Tbl.get_put_self _ _ _ _,
        Tbl.find_ins_self _ _ _⟩
    · exact ⟨_, patternDone_passes s g x hx hon, Tbl.find_del_self _ _, rfl, rfl⟩
    · exact hfails _ _ (patternDone_fails s g x hx hon)
    · exact hknown _ _ (patternDone_fails s g x hx hon)
    · obtain ⟨hon, hstep, hlost, hspare, htest, htick⟩ := hdue
      obtain hoff | h0 | hgone | hused | hunder | hearly := hidle
      · exact absurd hon (by rw [hoff]; decide)
      · exact hstep h0
      · exact absurd hlost (by rw [hgone]; decide)
      · exact absurd hspare (by rw [hused]; decide)
      · exact hunder htest
      · exact absurd htick (Nat.not_le.2 hearly)

end Sys2Proof.Machine
end

section
/-! SUPPORT. The operands of a macro-op in memory free of errors: an object that reads once reads again, with the job's other objects
already verified (R233, R235). -/
namespace Sys2Proof.Machine

@[simp] theorem MRes.ok_bind {α β : Type} (s : State) (a : α) (f : State → α → MRes β) : (MRes.ok s a).bind f = f s a := rfl

/-- The running job with these objects verified (R235). -/
def reSeen (l : List Nat) (s : State) : State := setRun s { jobRun s with seen := l }

@[simp] theorem setRun_mem (s : State) (r : JobRun) : (setRun s r).mem = s.mem := rfl

@[simp] theorem jobClass_reSeen (l : List Nat) (s : State) : jobClass (reSeen l s) = jobClass s := rfl

theorem reSeen_jobKept (l : List Nat) (s : State) : JobKept s (reSeen l s) := setRun_jobKept s _ rfl

theorem reSeen_stepped (s : State) (r : JobRun) : reSeen r.seen (stepped s r) = stepped s r := rfl

/-- An object that a macro-op may read, of these kinds, when the objects of `l` are verified. -/
structure Readable (s : State) (l : List Nat) (kind : Nat → Bool) (x : Nat) : Prop where
  named : x ≠ 0
  header : inWork (objAddr x) 32 = true
  inside : inWork (objAddr x) (32 + oBody s x) = true
  crc : x ∈ l ∨ oHdr s x 7 = oCrc s x
  kind : kind (oKind s x) = true
  shape : shapeOk s x = true

theorem Readable.mono {s : State} {l l' : List Nat} {kind : Nat → Bool} {x : Nat} (h : Readable s l kind x) (hl : l ⊆ l') :
    Readable s l' kind x :=
  { h with crc := h.crc.imp_left (fun hx => hl hx) }

section
variable {s : State} (hp : domainOn s 1 = true) (hecc : s.mem.ecc = [])
include hp hecc

theorem input_noErrors (l : List Nat) (x : Nat) (kind : Nat → Bool) : input (reSeen l s) x kind =
    if x = 0 ∨ !inWork (objAddr x) 32 then .fail (reSeen l s) .shape
    else if !inWork (objAddr x) (32 + oBody s x) then .fail (reSeen l s) .shape
    else if !l.contains x ∧ oHdr s x 7 ≠ oCrc s x then .fail (reSeen l s) .crc
    else if !kind (oKind s x) ∨ !shapeOk s x then .fail (reSeen l s) .shape
    else if l.contains x then .ok (reSeen l s) ()
    else .ok (reSeen (x :: l) s) () := by
  have hread (a n : Nat) : solvRead (reSeen l s) a n = .ok (reSeen l s) () := solvRead_noErrors _ a n hp hecc
  unfold input
  simp only [hread, MRes.ok_bind]
  simp only [reSeen, oBody_setRun, oHdr_setRun, oCrc_setRun, oKind_setRun, shapeOk_setRun]
  rfl

/-- A readable object is read, and counts as verified from then on. -/
theorem Readable.input {l : List Nat} {kind : Nat → Bool} {x : Nat} (h : Readable s l kind x) :
    ∃ l', input (reSeen l s) x kind = .ok (reSeen l' s) () ∧ l ⊆ l' := by
  rw [input_noErrors hp hecc, if_neg (by rw [h.header]; simpa using h.named), if_neg (by rw [h.inside]; decide),
    if_neg (by simpa using fun hx => h.crc.resolve_left hx), if_neg (by rw [h.kind, h.shape]; decide)]
  split
  · exact ⟨l, rfl, List.Subset.refl l⟩
  · exact ⟨x :: l, rfl, List.subset_cons_self x l⟩

/-- An object that was read is readable. -/
theorem readable_of_input {l : List Nat} {kind : Nat → Bool} {x : Nat} {y : State} (h : Machine.input (reSeen l s) x kind = .ok y ()) :
    Readable s l kind x := by
  rw [input_noErrors hp hecc] at h
  split_ifs at h with hname hin hcrc hkind hseen <;>
    simp only [not_or, not_and, Bool.not_eq_true', Bool.not_eq_false, ne_eq, not_not] at hname hin hcrc hkind
  all_goals
    refine ⟨hname.1, hname.2, hin, ?_, hkind.1, hkind.2⟩
  · exact .inl (by simpa using hseen)
  · exact .inr (hcrc (by simpa using hseen))

end

/-! ## The end of a macro-op that succeeds -/

theorem stepEnd_moves (r : JobRun) (t : State) (h : t.solv.run.isSome = true) :
    stepEnd r true (.ok t ()) = setRun t { jobRun t with pc := r.pc + 1 } :=
  if_pos ⟨rfl, h⟩

section
variable {s : State} {r : JobRun} {o : MacroOp} {n : Nat} (hs : Sequences s r o n)
include hs

theorem getS_stepped (i : Nat) : getS (stepped s r) i = getS s i := by
  rw [getS, getS, hs.jobRun_eq]
  rfl

theorem jobClass_stepped : jobClass (stepped s r) = jobClass s := by
  rw [jobClass, jobClass, jobDesc_stepped hs]

/-- An input that a macro-op reads first is readable. -/
theorem readable_of_stepped (hecc : s.mem.ecc = []) {kind : Nat → Bool} {x : Nat}
    (h : ∃ y, input (stepped s r) x kind = .ok y ()) : Readable (stepped s r) r.seen kind x := by
  obtain ⟨y, hy⟩ := h
  exact readable_of_input (s := stepped s r) hs.power hecc hy

/-- A macro-op's next operand is read after others. -/
theorem input_stepped (hecc : s.mem.ecc = []) {kind : Nat → Bool} {x : Nat} (h : ∃ y, input (stepped s r) x kind = .ok y ())
    {l : List Nat} (hl : r.seen ⊆ l) : ∃ l', input (reSeen l (stepped s r)) x kind = .ok (reSeen l' (stepped s r)) () ∧ r.seen ⊆ l' := by
  obtain ⟨l', hin, hsub⟩ := Readable.input (s := stepped s r) hs.power hecc ((readable_of_stepped hs hecc h).mono hl)
  exact ⟨l', hin, List.Subset.trans hl hsub⟩

/-- An operand that may be left out. -/
theorem input_stepped_unless (hecc : s.mem.ecc = []) {kind : Nat → Bool} {x : Nat} {c : Prop} [Decidable c]
    (h : c ∨ ∃ y, input (stepped s r) x kind = .ok y ()) {l : List Nat} (hl : r.seen ⊆ l) :
    ∃ l', (if c then MRes.ok (reSeen l (stepped s r)) () else input (reSeen l (stepped s r)) x kind) = .ok (reSeen l' (stepped s r)) ()
      ∧ r.seen ⊆ l' := by
  by_cases hc : c
  · exact ⟨l, if_pos hc, hl⟩
  · obtain ⟨l', hin, hsub⟩ := input_stepped hs hecc (h.resolve_left hc) hl
    exact ⟨l', (if_neg hc).trans hin, hsub⟩

end

end Sys2Proof.Machine
end

section
/-! SUPPORT. The scalar and control macro-ops, and the step limit (R237 to R241, R248, R254). -/
namespace Sys2Proof.Machine

/-- Command `i` of the job `r` puts a scalar into sd and goes on to the next macro-op; memory stays. -/
def PutsScalar (s : State) (r : JobRun) (o : MacroOp) (i : Instr) (x : Scalar) : Prop :=
  ∃ t, Gives s i t ∧ getS t o.sd = x ∧ (jobRun t).pc = r.pc + 1 ∧ t.mem = s.mem

theorem getS_setS_self (s : State) (i : Nat) (x : Scalar) : getS (setS s i x) i = x := Tbl.get_put_self _ _ _ _

section
variable {s : State} {r : JobRun} {o : MacroOp} {n : Nat} (hs : Sequences s r o n) {i : Instr} {body : MacroOp → State → MRes Unit}
  (hi : exec i s = done s (solvStep s n true body))
include hs hi

/-- A macro-op whose body replaces the running job goes on to the next one with that job. -/
theorem macroOp_moves {u : State} {q : JobRun} (hb : body o (stepped s r) = .ok (setRun u q) ()) :
    Gives s i (setRun u { q with pc := r.pc + 1 }) := by
  have hg := macroOp_gives hs hi hb
  rwa [stepEnd_moves r (setRun u q) rfl] at hg

theorem putsScalar_of {l : List Nat} {x : Scalar} (hb : body o (stepped s r) = .ok (setS (reSeen l (stepped s r)) o.sd x) ()) :
    PutsScalar s r o i x :=
  ⟨_, macroOp_moves hs hi hb, getS_setS_self (reSeen l (stepped s r)) o.sd x, rfl, rfl⟩

theorem endsFailed_reSeen {l : List Nat} (w : Why) (hb : body o (stepped s r) = .fail (reSeen l (stepped s r)) w) :
    EndsFailed s r i w.code :=
  macroOp_fails hs hi w hb (reSeen_jobKept l _)

end

/-! ## `sc` (R240) -/

/-- What a division by zero puts: 0 for 0, else the largest number of the dividend's sign. -/
def overZero (a : Scalar) : Scalar := if a.m = 0 then {} else { m := if a.m < 0 then -(2 ^ 31 - 1) else 2 ^ 31 - 1, x := 127 }

/-- The result of `sc`'s functions, none for an undefined one. -/
def scResult (o : MacroOp) (a b : Scalar) (f : Nat) : Option Scalar :=
  match f with
  | 0 => some (a.val.add b.val).scalar
  | 1 => some (a.val.sub b.val).scalar
  | 2 => some (a.val.mul b.val).scalar
  | 3 => some (if b.m = 0 then overZero a else (a.val.div b.val).scalar)
  | 4 => some a.val.sqrtScalar
  | 5 => some (if a.val.le b.val then a else b).val.scalar
  | 6 => some (if a.val.le b.val then b else a).val.scalar
  | 7 => some (Q.scale o.w1.toInt (BitVec.ofNat 8 (o.w2.field 0 8)).toInt).scalar
  | 8 => some a.val.scalar
  | _ => none

theorem opSc_eq (o : MacroOp) (s : State) : opSc o s =
    match scResult o (getS s o.sa) (getS s o.sb) o.mod_ with
    | some v => .ok (setS s o.sd v) ()
    | none => .fail s .illegalOp := rfl

theorem scResult_undefined (o : MacroOp) (a b : Scalar) {f : Nat} (h : 8 < f) : scResult o a b f = none := by
  obtain ⟨m, rfl⟩ : ∃ m, f = m + 9 := ⟨f - 9, by omega⟩
  rfl

section
variable {s : State} {r : JobRun} {o : MacroOp} (hs : Sequences s r o 12)
include hs

theorem sc_puts {f : Nat} {x : Scalar} (hf : o.mod_ = f) (hx : scResult o (getS s o.sa) (getS s o.sb) f = some x) :
    PutsScalar s r o .sc x := by
  refine putsScalar_of hs rfl (l := r.seen) ?_
  rw [opSc_eq, getS_stepped hs, getS_stepped hs, hf, hx]
  rfl

theorem sc_undefined (h : 8 < o.mod_) : EndsFailed s r .sc 1 := by
  refine endsFailed_reSeen hs rfl .illegalOp (l := r.seen) ?_
  rw [opSc_eq, scResult_undefined o _ _ h]
  rfl

end

/-! ## `piv.pol` (R241) -/

section
variable {s : State} {r : JobRun} {o : MacroOp} (hs : Sequences s r o 11)
include hs

theorem pivPol_sets (h0 : 0 < o.w2.toInt) (h1 : o.w2.toInt ≤ o.w1.toInt) : ∃ t, Gives s .pivPol t
    ∧ (jobRun t).tau = o.w1.toInt.toNat ∧ (jobRun t).delta = o.w2.toInt.toNat ∧ (jobRun t).pc = r.pc + 1 :=
  ⟨_, macroOp_moves hs rfl (if_pos ⟨h0, h1⟩), rfl, rfl, rfl⟩

theorem pivPol_undefined (h : ¬ (0 < o.w2.toInt ∧ o.w2.toInt ≤ o.w1.toInt)) : EndsFailed s r .pivPol 1 :=
  endsFailed_reSeen hs rfl .illegalOp (l := r.seen) (if_neg h)

end

/-! ## `seq.br` (R239) -/

/-- Whether `seq.br` branches on a condition, none for an undefined one. -/
def brTaken (a b : Q) (c : Nat) : Option Bool :=
  match c with
  | 0 => some (a.lt b) | 1 => some (b.le a) | 2 => some (a.eq b) | 3 => some (!a.eq b) | 4 => some true | _ => none

theorem opSeqBr_eq (o : MacroOp) (s : State) : opSeqBr o s =
    match brTaken (getS s o.sa).val (getS s o.sb).val o.mod_ with
    | none => .fail s .illegalOp
    | some false => .ok (setRun s { jobRun s with pc := (jobRun s).pc + 1 }) ()
    | some true => .ok (setRun s { jobRun s with pc := o.w1.field 0 16 }) () := rfl

theorem brTaken_undefined (a b : Q) {c : Nat} (h : 4 < c) : brTaken a b c = none := by
  obtain ⟨m, rfl⟩ : ∃ m, c = m + 5 := ⟨c - 5, by omega⟩
  rfl

section
variable {s : State} {r : JobRun} {o : MacroOp} (hs : Sequences s r o 13)
include hs

theorem seqBr_goes {c : Nat} {x : Bool} (hc : o.mod_ = c) (hx : brTaken (getS s o.sa).val (getS s o.sb).val c = some x) :
    ∃ t, Gives s .seqBr t ∧ (jobRun t).pc = (if x then o.w1.field 0 16 else r.pc + 1) ∧ t.mem = s.mem := by
  have hg {t : State} (hb : opSeqBr o (stepped s r) = .ok t ()) : Gives s .seqBr t := by
    have h := macroOp_gives hs (i := .seqBr) rfl hb
    rwa [stepEnd_stays] at h
  have hbody := opSeqBr_eq o (stepped s r)
  rw [getS_stepped hs, getS_stepped hs, hc, hx] at hbody
  cases x
  · exact ⟨_, hg hbody, rfl, rfl⟩
  · exact ⟨_, hg hbody, rfl, rfl⟩

theorem seqBr_undefined (h : 4 < o.mod_) : EndsFailed s r .seqBr 1 := by
  refine macroOp_fails hs (i := .seqBr) rfl .illegalOp ?_ (JobKept.refl _)
  rw [opSeqBr_eq, brTaken_undefined _ _ h]

end

/-! ## `norm` (R231, R239) -/

/-- The products that `norm` sums, and their exponent. -/
def normSums (o : MacroOp) (a b : List Q) (ea eb : Int) : List Q × Int :=
  let sq (l : List Q) : List Q := l.map (fun q => q.mul q)
  if o.mod_ = 0 then (sq a, 2 * ea)
  else if o.mod_ = 1 then ([], 0)
  else if o.mod_ = 2 then ((a.zip b).map (fun e => e.1.mul e.2), ea + eb)
  else (sq ((a.zip b).map (fun e => e.1.sub e.2)), 2 * min ea eb)

/-- What `norm` puts into sd. -/
def normResult (o : MacroOp) (a : List Q) (sums : List Q) : Scalar :=
  if o.mod_ = 1 then ((a.map Q.abs).foldl Q.max {}).scalar
  else if o.mod_ = 2 then (Q.sum sums).scalar else (Q.sum sums).sqrtScalar

section
variable {o : MacroOp} (a b l : List Q) (ea eb : Int)

theorem normSums_norm (h : o.mod_ = 0) : normSums o a b ea eb = (a.map (fun q => q.mul q), 2 * ea) := if_pos h

theorem normSums_max (h : o.mod_ = 1) : normSums o a b ea eb = ([], 0) := by
  rw [normSums, if_neg (by omega), if_pos h]

theorem normSums_dot (h : o.mod_ = 2) : normSums o a b ea eb = ((a.zip b).map (fun e => e.1.mul e.2), ea + eb) := by
  rw [normSums, if_neg (by omega), if_neg (by omega), if_pos h]

theorem normSums_dist (h : o.mod_ = 3) :
    normSums o a b ea eb = (((a.zip b).map (fun e => e.1.sub e.2)).map (fun q => q.mul q), 2 * min ea eb) := by
  rw [normSums, if_neg (by omega), if_neg (by omega), if_neg (by omega)]

theorem normResult_max (h : o.mod_ = 1) : normResult o a l = ((a.map Q.abs).foldl Q.max {}).scalar := if_pos h

theorem normResult_dot (h : o.mod_ = 2) : normResult o a l = (Q.sum l).scalar := by
  rw [normResult, if_neg (by omega), if_pos h]

theorem normResult_root (h1 : o.mod_ ≠ 1) (h2 : o.mod_ ≠ 2) : normResult o a l = (Q.sum l).sqrtScalar := by
  rw [normResult, if_neg h1, if_neg h2]

end

/-- `norm` once its operands are read. -/
def normRead (o : MacroOp) (s : State) : MRes Unit :=
  let sums := normSums o (vecOf s o.a) (vecOf s o.b) (oExp s o.a) (oExp s o.b)
  if 3 < o.mod_ then .fail s .illegalOp
  else if 2 ≤ o.mod_ ∧ oRows s o.a ≠ oRows s o.b then .fail s .shape
  else if !accFits (sums.1.map (fun q => q.word sums.2)) then .fail s (.range 0xFFFFF)
  else .ok (setS s o.sd (normResult o (vecOf s o.a) sums.1)) ()

theorem opNorm_eq (o : MacroOp) (s : State) : opNorm o s =
    (input s o.a isVecKind).bind fun s _ =>
    (if o.mod_ < 2 ∧ o.b = 0 then .ok s () else input s o.b isVecKind).bind fun s _ => normRead o s := rfl

section
variable {s : State} {r : JobRun} {o : MacroOp} (hs : Sequences s r o 10) (hecc : s.mem.ecc = [])
  (ha : ∃ y, input (stepped s r) o.a isVecKind = .ok y ())
  (hb : (o.mod_ < 2 ∧ o.b = 0) ∨ ∃ y, input (stepped s r) o.b isVecKind = .ok y ())
include hs hecc ha hb

theorem opNorm_read : ∃ l, opNorm o (stepped s r) = normRead o (reSeen l (stepped s r)) := by
  obtain ⟨l, h1, hl⟩ := input_stepped hs hecc ha (List.Subset.refl _)
  obtain ⟨l', h2, -⟩ := input_stepped_unless hs hecc hb hl
  rw [reSeen_stepped] at h1
  exact ⟨l', by rw [opNorm_eq, h1, MRes.ok_bind, h2, MRes.ok_bind]⟩

theorem norm_puts {l : List Q} {e : Int} (hl : normSums o (vecOf s o.a) (vecOf s o.b) (oExp s o.a) (oExp s o.b) = (l, e)) (h3 : o.mod_ ≤ 3)
    (hrows : 2 ≤ o.mod_ → oRows s o.a = oRows s o.b) (hfits : accFits (l.map (fun q => q.word e)) = true) :
    PutsScalar s r o .norm (normResult o (vecOf s o.a) l) := by
  obtain ⟨m, hm⟩ := opNorm_read hs hecc ha hb
  refine putsScalar_of hs rfl (l := m) (hm.trans ?_)
  unfold normRead
  simp only [reSeen, stepped, vecOf_setRun, oExp_setRun, oRows_setRun, hl]
  rw [if_neg (Nat.not_lt.2 h3), if_neg (fun h => h.2 (hrows h.1)), if_neg (by rw [hfits]; decide)]

theorem norm_saturates {l : List Q} {e : Int} (hl : normSums o (vecOf s o.a) (vecOf s o.b) (oExp s o.a) (oExp s o.b) = (l, e))
    (h3 : o.mod_ ≤ 3) (hrows : 2 ≤ o.mod_ → oRows s o.a = oRows s o.b) (hfits : ¬ accFits (l.map (fun q => q.word e)) = true) :
    EndsFailed s r .norm 5 := by
  obtain ⟨m, hm⟩ := opNorm_read hs hecc ha hb
  refine endsFailed_reSeen hs rfl (.range 0xFFFFF) (l := m) (hm.trans ?_)
  unfold normRead
  simp only [reSeen, stepped, vecOf_setRun, oExp_setRun, oRows_setRun, hl]
  rw [if_neg (Nat.not_lt.2 h3), if_neg (fun h => h.2 (hrows h.1)), if_pos (by simpa using hfits)]

theorem norm_misfits (h2 : 2 ≤ o.mod_) (h3 : o.mod_ ≤ 3) (hrows : oRows s o.a ≠ oRows s o.b) : EndsFailed s r .norm 2 := by
  obtain ⟨m, hm⟩ := opNorm_read hs hecc ha hb
  refine endsFailed_reSeen hs rfl .shape (l := m) (hm.trans ?_)
  unfold normRead
  simp only [reSeen, stepped, vecOf_setRun, oExp_setRun, oRows_setRun]
  rw [if_neg (Nat.not_lt.2 h3), if_pos ⟨h2, hrows⟩]

theorem norm_undefined (h3 : 3 < o.mod_) : EndsFailed s r .norm 1 := by
  obtain ⟨m, hm⟩ := opNorm_read hs hecc ha hb
  exact endsFailed_reSeen hs rfl .illegalOp (l := m) (hm.trans (if_pos h3))

end

/-! ## When the sequencer does not stand at a macro-op (R237, R248) -/

/-- The macro-ops' commands and opcodes (R239). -/
def macroOps : List (Nat × Instr) := [(1, .factLdl), (2, .factChol), (3, .factQr), (4, .solveTri), (5, .schur), (6, .gemm), (7, .spmv),
  (8, .axpy), (9, .clip), (10, .norm), (11, .pivPol), (12, .sc), (13, .seqBr), (14, .seqEnd), (15, .agLd), (16, .agSt)]

/-- Every macro-op's command is a step of the sequencer for its opcode. -/
theorem macroOps_step {x : Nat × Instr} (hx : x ∈ macroOps) : ∃ adv body, ∀ s, exec x.2 s = done s (solvStep s x.1 adv body) := by
  simp only [macroOps, List.mem_cons, List.not_mem_nil, or_false] at hx
  obtain rfl | rfl | rfl | rfl | rfl | rfl | rfl | rfl | rfl | rfl | rfl | rfl | rfl | rfl | rfl | rfl := hx
  all_goals exact ⟨_, _, fun _ => rfl⟩

theorem solvStep_idle (s : State) (op : Nat) (adv : Bool) (body : MacroOp → State → MRes Unit)
    (h : s.solv.run = none ∨ unitOn s 0x16 = false ∨ s.pwr.asleep = true) : solvStep s op adv body = s := by
  unfold solvStep
  split
  · rfl
  · next r hr =>
    refine if_pos ?_
    obtain h | h | h := h
    · rw [hr] at h
      nomatch h
    · exact .inl (by rw [h]; rfl)
    · exact .inr h

theorem solvStep_limit {s : State} {r : JobRun} (op : Nat) (adv : Bool) (body : MacroOp → State → MRes Unit) (hr : s.solv.run = some r)
    (hon : unitOn s 0x16 = true) (hawake : s.pwr.asleep = false)
    (hlim : (if natAt (jobDesc s) 8 4 = 0 then (fGet s 0x16 4).toNat else natAt (jobDesc s) 8 4) ≤ r.steps) :
    solvStep s op adv body = failJob s .stepLimit 0xFFFF := by
  unfold solvStep
  rw [hr]
  dsimp only
  rw [if_neg (by rw [hon, hawake]; decide), if_pos hlim]

section
variable {s : State} {r : JobRun} {x : Nat × Instr} (hx : x ∈ macroOps)
include hx

theorem macroOps_idle (h : s.solv.run = none ∨ unitOn s 0x16 = false ∨ s.pwr.asleep = true) : Gives s x.2 s := by
  obtain ⟨adv, body, hi⟩ := macroOps_step hx
  exact (hi s).trans (congrArg (done s) (solvStep_idle s _ _ _ h))

theorem macroOps_other {o : MacroOp} {n : Nat} (hs : Sequences s r o n) (hne : x.1 ≠ n) : Gives s x.2 s := by
  obtain ⟨adv, body, hi⟩ := macroOps_step hx
  exact (hi s).trans (congrArg (done s) (solvStep_other hs _ hne _ _))

theorem macroOps_limit (hr : s.solv.run = some r) (hon : unitOn s 0x16 = true) (hawake : s.pwr.asleep = false)
    (hlim : (if natAt (jobDesc s) 8 4 = 0 then (fGet s 0x16 4).toNat else natAt (jobDesc s) 8 4) ≤ r.steps) :
    EndsFailed s r x.2 7 := by
  obtain ⟨adv, body, hi⟩ := macroOps_step hx
  exact endsFailed_of (w := .stepLimit) hr (JobKept.refl s) ((hi s).trans (congrArg (done s) (solvStep_limit _ _ _ hr hon hawake hlim)))

end

end Sys2Proof.Machine
end

section
/-! SUPPORT. The Afterglow macro-ops, and the scalar macro-ops' obligation (R249 to R251, R494). -/
namespace Sys2Proof.Machine

/-- The operands of `ag.ld` and `ag.st` are valid, and memory has no error (R249, R250). -/
structure AgReady (s : State) (r : JobRun) (o : MacroOp) : Prop where
  clean : s.mem.ecc = []
  a : ∃ y, input (stepped s r) o.a isVecKind = .ok y ()
  b : o.b = 0 ∨ ∃ y, input (stepped s r) o.b isVecKind = .ok y ()
  d : ∃ y, input (stepped s r) o.d (· == 0x45) = .ok y ()
  structure_ : ∃ y, input (stepped s r) ((oHdr s o.d 3).field 0 24) isSparseKind = .ok y ()
  ids : idMapOk s o = true

theorem AgReady.operands {s : State} {r : JobRun} {o : MacroOp} {n : Nat} (hs : Sequences s r o n) (hv : AgReady s r o) :
    ∃ l, ∀ f, agOperands o (stepped s r) f = f (reSeen l (stepped s r)) := by
  obtain ⟨l1, h1, hl1⟩ := input_stepped hs hv.clean hv.a (List.Subset.refl _)
  obtain ⟨l2, h2, hl2⟩ := input_stepped_unless hs hv.clean hv.b hl1
  obtain ⟨l3, h3, hl3⟩ := input_stepped hs hv.clean hv.d hl2
  obtain ⟨l4, h4, -⟩ := input_stepped hs hv.clean hv.structure_ hl3
  have hhdr : oHdr (reSeen l3 (stepped s r)) = oHdr s := by simp only [reSeen, stepped, oHdr_setRun]
  have hmap : idMapOk (reSeen l4 (stepped s r)) o = true := by simpa only [reSeen, stepped, idMapOk_setRun] using hv.ids
  rw [reSeen_stepped] at h1
  refine ⟨l4, fun f => ?_⟩
  rw [agOperands, h1, MRes.ok_bind, h2, MRes.ok_bind, h3, MRes.ok_bind, hhdr, h4, MRes.ok_bind, hmap, if_pos rfl]

/-- The entries of an ID map. -/
def mapIds (s : State) (o : MacroOp) : Nat := oRows s o.d + oCols s o.d

@[simp] theorem mapIds_reSeen (l : List Nat) (s : State) (o : MacroOp) : mapIds (reSeen l s) o = mapIds s o := by
  simp only [mapIds, reSeen, oRows_setRun, oCols_setRun]

theorem mapIds_stepped (s : State) (r : JobRun) (o : MacroOp) : mapIds (stepped s r) o = mapIds s o := by
  simp only [mapIds, stepped, oRows_setRun, oCols_setRun]

theorem follower_reSeen_stepped (l : List Nat) (s : State) (r : JobRun) : follower (reSeen l (stepped s r)) = follower s := rfl

/-! ## `ag.ld` (R250) -/

/-- `ag.ld` ends with an outcome in sd and in the result record. -/
def agNoted (s : State) (o : MacroOp) (out m c x q : Nat) : State :=
  setS (setRun s { jobRun s with ag := out, matched := m, cold := c, sat := x, agSeq := q }) o.sd (intScalar out)

/-- No record of the job's class is kept. -/
def NoRecord (s : State) : Prop := ∀ i < 16, agValid s i = false ∨ agClass s i ≠ jobClass s

theorem agSelect_none (s : State) (fp shift n : Nat) (h : NoRecord s) : agSelect s (jobClass s) fp shift n = (s, none) := by
  cases n with
  | zero => rfl
  | succ n =>
    have hcand : (List.range 16).filter (fun i => agValid s i && agClass s i == jobClass s) = [] := by
      refine List.filter_eq_nil_iff.2 fun i hi => ?_
      obtain hv | hc := h i (List.mem_range.1 hi)
      · rw [hv, Bool.false_and]
        exact Bool.false_ne_true
      · simpa using fun _ => hc
    unfold agSelect
    dsimp only
    rw [hcand]
    simp only [List.filter_nil, ite_self, List.isEmpty_nil]
    rfl

/-- What `ag.ld` comes to in a state whose operands are read. -/
def AgLoaded (s : State) (o : MacroOp) (x : MRes Unit) : Prop :=
  ∃ u n m sat q, x = .ok (agNoted u o n m (mapIds s o - m) sat q) () ∧ 1 ≤ n ∧ n ≤ 3 ∧ m ≤ mapIds s o
    ∧ (NoRecord s → n = 3 ∧ m = 0 ∧ u.mem = s.mem)

theorem opAgLd_loaded {o : MacroOp} {s t : State} (hmod : o.mod_ ≤ 191) (hop : ∀ f, agOperands o s f = f t) :
    AgLoaded t o (opAgLd o s) := by
  unfold opAgLd
  rw [if_neg (Nat.not_lt.2 hmod), hop]
  extract_lets fp np nd note
  have hnone := agSelect_none t fp o.mod_ 17
  generalize agSelect t (jobClass t) fp o.mod_ 17 = sel at hnone ⊢
  obtain ⟨u, _ | ⟨i, same⟩⟩ := sel
  · exact ⟨u, 3, 0, 0, 0, rfl, by omega, by omega, Nat.zero_le _, fun h => ⟨rfl, rfl, congrArg (fun x => x.1.mem) (hnone h)⟩⟩
  · have hsome : ¬ NoRecord t := fun h => nomatch congrArg Prod.snd (hnone h)
    dsimp -zeta only
    extract_lets rp rd pe de val stored find vals m seq regs
    have hm : m ≤ mapIds t o := by
      refine (List.length_filter_le _ _).trans ?_
      rw [List.length_map, List.length_range]
      rfl
    clear_value m
    split
    · exact ⟨u, 3, 0, 0, 0, rfl, by omega, by omega, Nat.zero_le _, fun h => absurd h hsome⟩
    · generalize agFill u o.a (vals.take np) = v
      generalize (if o.b = 0 then (v.1, 0) else agFill v.1 o.b (vals.drop np)) = w
      refine ⟨_, if m = np + nd then 1 else 2, m, v.2 + w.2, seq, rfl, ?_, ?_, hm, fun h => absurd h hsome⟩
      · split <;> omega
      · split <;> omega

section
variable {s : State} {r : JobRun} {o : MacroOp} (hs : Sequences s r o 15)
include hs

theorem agLd_loads (hv : AgReady s r o) (hmod : o.mod_ ≤ 191) : ∃ z n, Gives s .agLd z ∧ (jobRun z).pc = r.pc + 1 ∧ 1 ≤ n ∧ n ≤ 3
    ∧ getS z o.sd = intScalar n ∧ (jobRun z).ag = n ∧ (jobRun z).matched + (jobRun z).cold = mapIds s o
    ∧ (NoRecord s → n = 3 ∧ (jobRun z).matched = 0 ∧ z.mem = s.mem) := by
  obtain ⟨l, hop⟩ := hv.operands hs
  obtain ⟨u, n, m, sat, q, hbody, h1, h3, hm, hrec⟩ := opAgLd_loaded hmod hop
  have hnone : NoRecord s → NoRecord (reSeen l (stepped s r)) := fun h i hi => by
    rw [jobClass_reSeen, jobClass_stepped hs]
    simp only [reSeen, stepped, agValid_setRun, agClass_setRun]
    exact h i hi
  rw [mapIds_reSeen, mapIds_stepped] at hbody hm
  refine ⟨_, n, macroOp_moves hs rfl hbody, rfl, h1, h3, getS_setS_self _ o.sd _, rfl, Nat.add_sub_cancel' hm, fun h => ?_⟩
  obtain ⟨hn, hm0, hmem⟩ := hrec (hnone h)
  exact ⟨hn, hm0, hmem⟩

theorem agLd_undefined (hmod : 191 < o.mod_) : EndsFailed s r .agLd 1 :=
  endsFailed_reSeen hs rfl .illegalOp (l := r.seen) (if_pos hmod)

end

/-! ## `ag.st` (R251, R494) -/

/-- The record that `ag.st` prepares (R251). -/
def agRecord (s : State) (o : MacroOp) : AgRec :=
  let regs := (List.range 4).flatMap (fun j =>
    leBytes 4 (BitVec.ofInt 32 (getS s (12 + j)).m).toNat ++ leBytes 1 (BitVec.ofInt 8 (getS s (12 + j)).x).toNat ++ [0, 0, 0])
  { cls := jobClass s, fp := fingerprint s ((oHdr s o.d 3).field 0 24)
    head := leBytes 4 (oRows s o.d) ++ leBytes 4 (oCols s o.d) ++ leBytes 1 (BitVec.ofInt 8 (oExp s o.a)).toNat ++
      leBytes 1 (if o.b = 0 then 0 else (BitVec.ofInt 8 (oExp s o.b)).toNat) ++ leBytes 2 (oHdr s o.d 4).toNat
    body := regs ++ memBytes s (objAddr o.d + 32) (4 * mapIds s o) ++ memBytes s (objAddr o.a + 32) (4 * oRows s o.d) ++
      (if o.b = 0 then [] else memBytes s (objAddr o.b + 32) (4 * oCols s o.d)) }

/-- A record waits for the job's end. -/
def agPrepared (s : State) (x : AgRec) : State := setRun s { jobRun s with stores := (jobRun s).stores ++ [x] }

theorem agPrepared_mem (s : State) (x : AgRec) : (agPrepared s x).mem = s.mem := rfl

theorem opAgSt_read {o : MacroOp} {s t : State} (hop : ∀ f, agOperands o s f = f t) : opAgSt o s =
    if follower t ∨ 127 * 65536 < 68 + 8 * mapIds t o then .ok (setS t o.sd (intScalar 0)) ()
    else .ok (setS (agPrepared t (agRecord t o)) o.sd (intScalar 1)) () := by
  unfold opAgSt
  rw [hop]
  rfl

section
variable {s : State} {r : JobRun} {o : MacroOp} (hs : Sequences s r o 16) (hv : AgReady s r o)
include hs hv

theorem agSt_skips (h : (follower s || decide (127 * 65536 < 68 + 8 * mapIds s o)) = true) : ∃ z, Gives s .agSt z
    ∧ (jobRun z).pc = r.pc + 1 ∧ getS z o.sd = intScalar 0 ∧ (jobRun z).stores = r.stores ∧ z.mem = s.mem := by
  obtain ⟨l, hop⟩ := hv.operands hs
  have hbody : opAgSt o (stepped s r) = .ok (setS (reSeen l (stepped s r)) o.sd (intScalar 0)) () := by
    rw [Bool.or_eq_true, decide_eq_true_eq] at h
    rw [opAgSt_read hop, follower_reSeen_stepped, mapIds_reSeen, mapIds_stepped, if_pos h]
  exact ⟨_, macroOp_moves hs rfl hbody, rfl, getS_setS_self (reSeen l (stepped s r)) o.sd (intScalar 0), rfl, rfl⟩

theorem agSt_prepares (hf : follower s = false) (hlarge : decide (127 * 65536 < 68 + 8 * mapIds s o) = false) : ∃ z, Gives s .agSt z
    ∧ (jobRun z).pc = r.pc + 1 ∧ getS z o.sd = intScalar 1 ∧ (jobRun z).stores.length = r.stores.length + 1 ∧ z.mem = s.mem := by
  obtain ⟨l, hop⟩ := hv.operands hs
  obtain ⟨x, hbody⟩ : ∃ x, opAgSt o (stepped s r) = .ok (setS (agPrepared (reSeen l (stepped s r)) x) o.sd (intScalar 1)) () := by
    refine ⟨agRecord (reSeen l (stepped s r)) o, ?_⟩
    rw [decide_eq_false_iff_not] at hlarge
    rw [opAgSt_read hop, follower_reSeen_stepped, mapIds_reSeen, mapIds_stepped, if_neg (by rw [hf]; simpa using hlarge)]
  exact ⟨_, macroOp_moves hs rfl hbody, rfl, getS_setS_self (agPrepared (reSeen l (stepped s r)) x) o.sd (intScalar 1),
    List.length_append, (setRun_mem _ _).trans (agPrepared_mem _ x)⟩

end

/-! ## The obligation -/

theorem scalarOps_sc {s : State} {r : JobRun} {o : MacroOp} (hs : Sequences s r o 12) :
    let a := getS s o.sa
    let b := getS s o.sb
    (o.mod_ = 0 → PutsScalar s r o .sc (a.val.add b.val).scalar) ∧ (o.mod_ = 1 → PutsScalar s r o .sc (a.val.sub b.val).scalar)
    ∧ (o.mod_ = 2 → PutsScalar s r o .sc (a.val.mul b.val).scalar)
    ∧ (o.mod_ = 3 → b.m ≠ 0 → PutsScalar s r o .sc (a.val.div b.val).scalar)
    ∧ (o.mod_ = 3 → b.m = 0 → a.m = 0 → PutsScalar s r o .sc {})
    ∧ (o.mod_ = 3 → b.m = 0 → 0 < a.m → PutsScalar s r o .sc { m := 2 ^ 31 - 1, x := 127 })
    ∧ (o.mod_ = 3 → b.m = 0 → a.m < 0 → PutsScalar s r o .sc { m := -(2 ^ 31 - 1), x := 127 })
    ∧ (o.mod_ = 4 → PutsScalar s r o .sc a.val.sqrtScalar)
    ∧ (o.mod_ = 5 → PutsScalar s r o .sc (if a.val.le b.val then a else b).val.scalar)
    ∧ (o.mod_ = 6 → PutsScalar s r o .sc (if a.val.le b.val then b else a).val.scalar)
    ∧ (o.mod_ = 8 → PutsScalar s r o .sc a.val.scalar)
    ∧ (o.mod_ = 7 → PutsScalar s r o .sc (Q.scale o.w1.toInt (BitVec.ofNat 8 (o.w2.field 0 8)).toInt).scalar)
    ∧ (8 < o.mod_ → EndsFailed s r .sc 1) := by
  intro a b
  have hdiv (h : o.mod_ = 3) (hb : b.m = 0) : PutsScalar s r o .sc (overZero a) :=
    sc_puts hs h (congrArg some (if_pos hb))
  refine ⟨fun h => sc_puts hs h rfl, fun h => sc_puts hs h rfl,
    fun h => sc_puts hs h rfl, fun h hb => sc_puts hs h (congrArg some (if_neg hb)),
    fun h hb ha => ?_, fun h hb ha => ?_, fun h hb ha => ?_, fun h => sc_puts hs h rfl,
    fun h => sc_puts hs h rfl, fun h => sc_puts hs h rfl, fun h => sc_puts hs h rfl,
    fun h => sc_puts hs h rfl, sc_undefined hs⟩
  · have := hdiv h hb
    rwa [overZero, if_pos ha] at this
  · have := hdiv h hb
    rwa [overZero, if_neg (by omega), if_neg (by omega)] at this
  · have := hdiv h hb
    rwa [overZero, if_neg (by omega), if_pos ha] at this

/-- Settles O34: each scalar macro-op is the function of its operands that its equation names, put into sd by one lemma on what a
macro-op that succeeds leaves; the Afterglow macro-ops read valid operands one after the other and note their outcome. -/
theorem scalarMacroOpsComputeTheirResult : Obligations.ScalarMacroOpsComputeTheirResult := by
  refine ⟨fun s r o n => ⟨fun hs => scalarOps_sc hs, fun hs => ⟨pivPol_sets hs, pivPol_undefined hs⟩, fun hs => ?_, fun hs hecc ha => ?_,
    fun x hx => ⟨macroOps_idle hx, macroOps_other hx, macroOps_limit hx⟩⟩, fun s r o => ?_⟩
  · exact ⟨fun h => seqBr_goes hs h rfl, fun h => seqBr_goes hs h rfl,
      fun h => seqBr_goes hs h rfl, fun h => seqBr_goes hs h rfl,
      fun h => seqBr_goes hs h rfl, seqBr_undefined hs⟩
  · have hab : (o.b = 0 ∨ ∃ y, input (stepped s r) o.b isVecKind = .ok y ()) → o.mod_ < 2 →
        (o.mod_ < 2 ∧ o.b = 0) ∨ ∃ y, input (stepped s r) o.b isVecKind = .ok y () := fun hb h2 => hb.imp_left (⟨h2, ·⟩)
    refine ⟨fun hb h hf => ?_, fun hb h => ?_, fun hb h hf => ?_, fun hb hrows => ⟨fun h hf => ?_, fun h hf => ?_, fun h hf => ?_,
      fun h hf => ?_⟩, fun hb h hne => ?_, fun hb h3 => norm_undefined hs hecc ha (.inr hb) h3⟩
    · rw [← normResult_root (o := o) (vecOf s o.a) _ (by omega) (by omega)]
      exact norm_puts hs hecc ha (hab hb (by omega)) (normSums_norm _ _ _ _ h) (by omega) (by omega) hf
    · rw [← normResult_max (o := o) (vecOf s o.a) [] h]
      exact norm_puts hs hecc ha (hab hb (by omega)) (normSums_max _ _ _ _ h) (by omega) (by omega) (by decide)
    · exact norm_saturates hs hecc ha (hab hb (by omega)) (normSums_norm _ _ _ _ h) (by omega) (by omega) hf
    · rw [← normResult_dot (o := o) (vecOf s o.a) _ h]
      exact norm_puts hs hecc ha (.inr hb) (normSums_dot _ _ _ _ h) (by omega) (fun _ => hrows) hf
    · rw [← normResult_root (o := o) (vecOf s o.a) _ (by omega) (by omega)]
      exact norm_puts hs hecc ha (.inr hb) (normSums_dist _ _ _ _ h) (by omega) (fun _ => hrows) hf
    · exact norm_saturates hs hecc ha (.inr hb) (normSums_dot _ _ _ _ h) (by omega) (fun _ => hrows) hf
    · exact norm_saturates hs hecc ha (.inr hb) (normSums_dist _ _ _ _ h) (by omega) (fun _ => hrows) hf
    · exact norm_misfits hs hecc ha (.inr hb) (by omega) (by omega) hne
  · refine ⟨fun hs hv hmod => ?_, fun hs hmod => ?_, fun hs hv hf hl => ?_, fun hs hv h => ?_⟩
    · obtain ⟨hecc, ha, hb, hd, hst, hmap⟩ := hv
      exact agLd_loads hs ⟨hecc, ha, hb, hd, hst, hmap⟩ hmod
    · obtain ⟨z, hg, hrun, hevt, -⟩ := agLd_undefined hs hmod
      exact ⟨z, hg, hrun, hevt⟩
    · obtain ⟨hecc, ha, hb, hd, hst, hmap⟩ := hv
      exact agSt_prepares hs ⟨hecc, ha, hb, hd, hst, hmap⟩ hf hl
    · obtain ⟨hecc, ha, hb, hd, hst, hmap⟩ := hv
      exact agSt_skips hs ⟨hecc, ha, hb, hd, hst, hmap⟩ h

end Sys2Proof.Machine
end

section
/-! SUPPORT. A pivot log that lies before a matrix: `fact.qr` counts the rows of its factor by a header that a flagged pivot has
overwritten (R239, R245). -/
namespace Sys2Proof.Machine

/-- A command's answer fixes what memory reads as. -/
theorem Gives.memW_unique {s t u : State} {i : Instr} (ht : Gives s i t) (hu : Gives s i u) {a : Nat} (ha : a + 4 ≤ 0x0E00000000) :
    memW t a = memW u a :=
  memW_of_lib ha (congrArg State.mem (ht.unique hu) :) (congrArg (fun v : State => v.asm.lib) (ht.unique hu) :)

/-- The objects of the counterexample: the program, the pivot log, the matrix behind its header, and the factor. -/
def qrProgram : Nat := 0x1000
def qrLog : Nat := 0x2000
def qrMatrix : Nat := 0x2001
def qrFactor : Nat := 0x3000

/-- A job at its first macro-op, `fact.qr`, which has read its matrix before. -/
def qrJob : JobRun := { handle := 63, tau := 1, delta := 1, seen := [qrMatrix] }

/-- The job's descriptor names the program and the pivot log. -/
def qrDesc : List Byte :=
  leBytes 3 qrProgram ++ [0x10] ++ List.replicate 28 0 ++ leBytes 4 qrLog ++ List.replicate 12 0

/-- The bytes that are not zero: `fact.qr` of the matrix into the factor, the header of a pivot log with room for one entry, directly
behind it the header of a 1 by 1 matrix that holds 0, and the header of the factor. -/
def qrCells : Tbl Byte :=
  let byte (x k : Nat) (b : Byte) : Nat × Byte := (objAddr x + k, b)
  [byte qrProgram 3 3, byte qrProgram 4 1, byte qrProgram 5 0x20, byte qrProgram 13 0x30, byte qrLog 1 0x46, byte qrLog 4 1,
    byte qrMatrix 1 0x40, byte qrMatrix 4 1, byte qrMatrix 8 1, byte qrFactor 1 0x44, byte qrFactor 4 1, byte qrFactor 8 1]

/-- SOLV runs the job on these objects. -/
def qrOverlap : State :=
  { fSet (fSet State.reset 2 2 0x3FF) 0x16 1 1 with
    mem := { State.reset.mem with cells := qrCells }
    solv := { run := some qrJob, jobs := [(63, { state := 3, desc := qrDesc })] } }

/-- The macro-op at the job's index. -/
def qrOp : MacroOp := { op := 3, mod_ := 0, sa := 0, sb := 0, sd := 0, zero := 0, w1 := Word.ofN qrMatrix, w2 := 0, w3 := Word.ofN qrFactor }

theorem qrOverlap_sequences : Sequences qrOverlap qrJob qrOp 3 where
  run := rfl
  on := by decide
  awake := rfl
  steps := by decide
  inside := by decide
  power := by decide
  clean := fun e he => nomatch he
  op := by decide
  code := by decide
  plain := by decide

theorem qrOverlap_input : input (stepped qrOverlap qrJob) qrMatrix (· == 0x40) = .ok (stepped qrOverlap qrJob) () := rfl

theorem qrOverlap_output : output (stepped qrOverlap qrJob) qrFactor (· == 0x44) = .ok (stepped qrOverlap qrJob) () := rfl

/-- The factor's column: the floor of a zero pivot in place of R's entry, and 0 as the reflector's factor. -/
theorem qrOverlap_cols : (qrCols (stepped qrOverlap qrJob) qrMatrix 1 1).2 = [{ f := -31, w := [2 ^ 30, 0] }] := by decide

/-- After `fact.qr` the column's exponent, -31 as a byte, stands in the place of its second word: the flagged pivot's entry covers the
matrix's header, whose ROWS become the macro-op's index 0, so that only one word of the column is written before the exponents. -/
theorem qrOverlap_word : memW (solvStep qrOverlap 3 true opFactQr) (objAddr qrFactor + 36) = 225 := by decide +kernel

/-- Refutes O35 in its clause on `fact.qr`, which asks for every column of the factor: in `qrOverlap` the pivot log's only entry covers the
header of the matrix, `fact.qr` counts the words of a column by the ROWS that it reads there after the columns are computed, and the
second word of the column is never written. -/
theorem not_arrayMacroOpsWriteTheirDestination : ¬ Obligations.ArrayMacroOpsWriteTheirDestination := by
  unfold Obligations.ArrayMacroOpsWriteTheirDestination
  intro h
  obtain ⟨hops, -⟩ := h qrOverlap qrOverlap qrJob qrOp .shape
  obtain ⟨-, -, -, -, -, -, -, hqr, -⟩ := hops rfl
  obtain ⟨z, ⟨hg, -⟩, hword, -⟩ :=
    hqr qrOverlap_sequences ⟨_, qrOverlap_input⟩ qrOverlap_output (by decide) (by decide) (by decide)
  have hstep : Gives qrOverlap .factQr (solvStep qrOverlap 3 true opFactQr) := rfl
  have hrows : oRows qrOverlap qrOp.a = 1 := by decide
  have hcols : oCols qrOverlap qrOp.a = 1 := by decide
  rw [hrows, hcols, show qrOp.a = qrMatrix by decide, qrOverlap_cols] at hword
  have hzero : memW z (objAddr qrFactor + 36) = 0 := hword 0 (by decide) 1 (by decide)
  rw [hg.memW_unique hstep (by decide), qrOverlap_word] at hzero
  exact absurd hzero (by decide)

end Sys2Proof.Machine
end

section
/-! SUPPORT. A call of a library entry: when it goes through, what ASM may write of solver memory, and what leaves the state's choices where
they are (R93, R262 to R264). -/
namespace Sys2Proof.Machine

/-! ## What an answer fixes -/

theorem Reports.free_eq {s t : State} (h : Reports s t) : t.free = s.free := by
  obtain ⟨m, c, e, a, l, rfl⟩ := h
  rfl

/-- A command's answer fixes the words of a library block. -/
theorem Gives.blkW_unique {s t u : State} {i : Instr} (ht : Gives s i t) (hu : Gives s i u) (blk n : Nat) : blkW t blk n = blkW u blk n :=
  (congrArg (fun v : State => blkW v blk n) (ht.unique hu) :)

/-! ## Solver memory as ASM writes it (R93, R232) -/

/-- The regions follow one another. -/
theorem regions_apart : ∀ i < regions.length, ∀ j < i,
    (regions.getD j (0, 0)).1 + (regions.getD j (0, 0)).2 ≤ (regions.getD i (0, 0)).1 := by decide

theorem regionOf_eq {a r : Nat} {e : Nat × Nat} (he : regions[r]? = some e) (hlo : e.1 ≤ a) (hhi : a < e.1 + e.2) :
    regionOf a = some r := by
  obtain ⟨hr, rfl⟩ := List.getElem?_eq_some_iff.1 he
  refine List.findIdx?_eq_some_iff_getElem.2 ⟨hr, by simp [hlo, hhi], fun j hj => ?_⟩
  have h := regions_apart r hr j hj
  rw [List.getD_eq_getElem _ _ hr, List.getD_eq_getElem _ _ (hj.trans hr)] at h
  have hlow : ¬ a < regions[j].1 + regions[j].2 := by omega
  simp [hlow]

/-- ASM may write any word of solver memory between the reserved first object and the end of its part. -/
theorem solverWord_writable {s : State} {a : Nat} (hon : domainOn s 1 = true) (hlo : 0x0800000020 ≤ a) (hhi : a + 4 ≤ 0x0802800000) :
    accessCause s 0x14 true a 4 = none := by
  have hregion (x : Nat) (h : a ≤ x) (h' : x < a + 4) : regionOf x = some 15 :=
    regionOf_eq (e := (0x0800000000, 0x3000000)) rfl (by dsimp only; omega) (by dsimp only; omega)
  have hmay : mayWrite s 0x14 15 a = true := by
    have : a < 0x0802800000 := by omega
    simp [mayWrite, hlo, this]
  have hplane : regionPlane 15 = planeOf 0x14 := by decide
  unfold accessCause
  rw [hregion a le_rfl (by omega), hregion (a + 4 - 1) (by omega) (by omega)]
  simp [regionDomain, hon, hplane, hmay]

/-! ## A call of an entry (R262) -/

/-- ASM stands at an entry with a block that its loads can read, and no snapshot is being copied. -/
structure CallReady (s : State) (entry blk : Nat) : Prop where
  ready : engReady s .asm = some 3
  entry : (getCtx s 3).pc = Word.ofN entry
  block : (rdG (getCtx s 3) 1).toNat = blk
  words : ∀ j < 32, Near s .asm false (blk + 4 * j) 4
  copied : s.asm.copying = none

theorem CallReady.call {s t : State} {entry blk : Nat} (hc : CallReady s entry blk) (hentry : entry < 2 ^ 32)
    {f : Nat → State → Res} (hf : f blk s = .ok t) : libCall s entry f = t := by
  have hpc : (getCtx s 3).pc.toNat = entry := by rw [hc.entry, word_ofN_toNat _ hentry]
  unfold libCall
  rw [hc.ready]
  dsimp only
  rw [if_neg (not_not_intro hpc), hc.block, homeWords_near .asm 3 32 s blk _ hc.words, hf]

/-- A library in place, a block within its rules, no job that runs, a snapshot held and a region large enough: nothing refuses the
call (R263, R264). -/
theorem libRefusal_none {s : State} {blk handle : Nat} {needSnap : Bool} (hlib : libOk s 0x30000 0x10000 = true)
    (hblock : libBad s blk = none) (hidle : handleBusy s handle = false) (hsnap : snapLocked s = true)
    (hroom : 65535 + (netSizes s blk).sum ≤ (blkW s blk 2).toNat) : libRefusal s blk handle needSnap = none := by
  have hneed : ¬ (blkW s blk 2).toNat < workNeed (netSizes s blk) := by
    have := (Config.workMore (netSizes s blk).sum).isLt
    unfold workNeed
    omega
  unfold libRefusal
  rw [hblock]
  simp [hlib, hidle, hsnap, hneed]

theorem setBlkPart_reports (s : State) (blk n lo len v : Nat) : Reports s (setBlkPart s blk n lo len v) := hwWrite_reports _ _ _ _

theorem libEvent_reports (s : State) (n : Nat) : Reports s (libEvent s n) := ite_reports (Reports.refl s) (raise_reports s n)

theorem libPut_stores {s : State} {a : Nat} {ws : List Word} (hfirst : accessCause s 0x14 true a 4 = none)
    (hlast : accessCause s 0x14 true (a + 4 * ws.length - 4) 4 = none) : libPut a ws s = .ok (hwWords s 0x14 a ws) () := by
  unfold libPut libSpan
  dsimp only
  rw [hfirst, hlast]
  rfl

/-- Units of the work region that a part of the network library starts at, but for those that the library keeps for itself. -/
def partOffset (s : State) (blk : Nat) (p : NetPart) : Nat := (blkW s blk 1).field 0 24 + ((netSizes s blk).take p.ctorIdx).sum

theorem netPart_eq (s : State) (blk : Nat) (p : NetPart) :
    netPart s blk p = partOffset s blk p + (Config.workMore (netSizes s blk).sum).toNat := by
  unfold netPart partAt partOffset
  omega

end Sys2Proof.Machine
end

section
/-! SUPPORT. What `cal.keep` leaves when it keeps the snapshot (R278, R279). -/
namespace Sys2Proof.Machine

/-- The ring holds snapshots of another model. -/
def ringStale (s : State) (blk : Nat) : Bool :=
  decide (keptCount s blk ≠ 0) && decide ((getWork s blk).keptModel ≠ (blkW s blk 26).field 16 16)

/-- Snapshots that the ring goes on with, and the slot that the next one takes. -/
def keptOn (s : State) (blk : Nat) : Nat := if ringStale s blk then 0 else keptCount s blk
def nextSlot (s : State) (blk : Nat) : Nat := if ringStale s blk then 0 else (blkW s blk 27).field 0 8 % max 1 (ringSlots s blk)

/-- The record stands in its slot, and the work region's notes name its model. -/
def snapStored (s : State) (blk : Nat) : State :=
  setWork (hwWords s 0x14 (keptAddr s blk (nextSlot s blk)) (keptNow s blk)) blk
    { getWork s blk with keptModel := (blkW s blk 26).field 16 16 }

/-- Word 27 counts it, and the next slot is the one behind it. -/
def snapCounted (s : State) (blk : Nat) : State :=
  setBlkPart (setBlkPart (snapStored s blk) blk 27 8 8 (min (ringSlots s blk) (keptOn s blk + 1))) blk 27 0 8
    ((nextSlot s blk + 1) % max 1 (ringSlots s blk))

/-- The call has returned. -/
def snapKept (s : State) (blk : Nat) : State :=
  libReturn (libEvent (snapCounted s blk) (estEvent (snapCounted s blk) blk)) 0 (Word.ofN (bit (ringStale s blk)))

/-- `cal.keep` is not refused, no calibration runs, the estimate is of the locked snapshot, and the slot can be written. -/
structure KeepReady (s : State) (blk : Nat) : Prop where
  accepted : libRefusal s blk 0 true = none
  resting : (blkW s blk 29).field 24 8 = 0
  estimated : blkW s blk 25 ≠ 0
  current : (getWork s blk).accSnap = fGet s 0x14 7
  trusted : (getWork s blk).accStatus < 2
  first : accessCause s 0x14 true (keptAddr s blk (nextSlot s blk)) 4 = none
  last : accessCause s 0x14 true (keptAddr s blk (nextSlot s blk) + 4 * (keptNow s blk).length - 4) 4 = none

theorem ringStale_eq (s : State) (blk : Nat) :
    (keptCount s blk != 0 && (getWork s blk).keptModel != (blkW s blk 26).field 16 16) = ringStale s blk := by
  have hbne (x y : Nat) : (x != y) = decide (x ≠ y) := Bool.eq_iff_iff.2 (by simp)
  simp only [ringStale, hbne]

theorem calKeep_keeps {s : State} {blk : Nat} (hk : KeepReady s blk) : calKeep s blk = .ok (snapKept s blk) := by
  have hused : (!(blkW s blk 25 != 0 && (getWork s blk).accSnap == fGet s 0x14 7 && (getWork s blk).accStatus < 2)) = false := by
    rw [bne_iff_ne.2 hk.estimated, beq_iff_eq.2 hk.current, decide_eq_true hk.trusted]
    rfl
  unfold calKeep
  dsimp only
  rw [if_neg (not_not_intro hk.resting), if_neg (by rw [hused]; decide), ringStale_eq]
  have hput := libPut_stores hk.first hk.last
  unfold nextSlot at hput
  rw [hput]
  rfl

theorem calKeep_gives {s : State} {blk : Nat} (hc : CallReady s 0x30008 blk) (hk : KeepReady s blk) :
    Gives s .calKeep (snapKept s blk) := by
  refine congrArg (done s) (hc.call (by decide) ?_)
  rw [hc.copied, hk.accepted]
  exact calKeep_keeps hk

theorem libReturn_free (s : State) (status : Nat) (d : Word) : (libReturn s status d).free = s.free + 40 := by
  unfold libReturn
  rfl

theorem setWork_free (s : State) (blk : Nat) (x : LibWork) : (setWork s blk x).free = s.free := by
  unfold setWork
  rfl

theorem snapStored_free (s : State) (blk : Nat) : (snapStored s blk).free = s.free := by
  unfold snapStored hwWords
  rw [setWork_free, (hwWrite_reports _ _ _ _).free_eq]

theorem snapKept_free (s : State) (blk : Nat) : (snapKept s blk).free = s.free + 40 := by
  unfold snapKept snapCounted
  rw [libReturn_free, (libEvent_reports _ _).free_eq, (setBlkPart_reports _ _ _ _ _ _).free_eq,
    (setBlkPart_reports _ _ _ _ _ _).free_eq, snapStored_free]

/-- What the statement asks of the count of kept snapshots. -/
theorem keptCount_of_statement (h : Obligations.LibraryCallsReturnTheirStatus) {s : State} {blk : Nat} (hc : CallReady s 0x30008 blk)
    (hk : KeepReady s blk) : (blkW (snapKept s blk) blk 27).field 8 8 = min (ringSlots s blk) (keptOn s blk + 1) := by
  obtain ⟨hcalls, -⟩ := h s s 0 0
  rw [hc.block] at hcalls
  obtain ⟨-, hkeep, -⟩ := hcalls hc.ready hc.words
  obtain ⟨-, hopen⟩ := hkeep hc.entry hc.copied
  obtain ⟨-, -, hstores⟩ := hopen hk.accepted
  obtain ⟨t, ht, -, -, -, -, hcount, -⟩ :=
    hstores (not_not_intro hk.resting) hk.estimated hk.current hk.trusted hk.first hk.last
  rw [← ht.blkW_unique (calKeep_gives hc hk) blk 27]
  exact hcount

end Sys2Proof.Machine
end

section
/-! SUPPORT. A call of `cal.keep` whose count of kept snapshots is not delivered (R97, R278). The state's table of codes names the 64-bit
word of block words 27 and 28 twice: a load meets the first entry, which is clean, while the library's own reads ask that no entry is
uncorrectable. What they are given is then a choice that moves on with each return. -/
namespace Sys2Proof.Machine

/-- Home offset of the block, and what the host stored there: a ring of 64 slots, block event none, an accepted estimate. -/
def keepBlk : Nat := 0x1004
def keepWords : List Word :=
  [0x10000000, 1, 0x13FFFF, 0x53C40, 0x10001, 1, 1, 1, 1, 1, 1, 0, 65536, 1, 1, 1, 0, 0, 0, 0x01400000, 0x77F40, 1, 0, 0, 0, 1]

/-- The 64-bit word that holds block words 27 and 28, and its two codes. -/
def hiddenWord : Nat := 0x0400001070 / 8
def hiddenCodes : Tbl Nat := [(hiddenWord, 0), (hiddenWord, 4)]

/-- ASM stands at `cal.keep` after `f` choices, with a ring that was last written for model `m`. -/
def keepState (f m : Nat) : State :=
  setWords { fSet State.reset 0x14 8 1 with
    free := f
    mem := { State.reset.mem with ecc := hiddenCodes }
    ctxs := [(3, { live := true, pc := 0x30008, g := [(1, 0x1004), (31, 0x400)] })]
    asm := { lib := true, work := [(1, { keptModel := m })] } } (mdlBase + keepBlk) keepWords

/-- The calls that are compared. The block's model is 0. -/
def keepRuns : List (Nat × Nat) := [(0, 1), (40, 0), (40, 1)]

theorem keepRuns_free : ∀ x ∈ keepRuns, (keepState x.1 x.2).free = x.1 := by decide +kernel

theorem keepRuns_codes : ∀ x ∈ keepRuns, (keepState x.1 x.2).mem.ecc = hiddenCodes := by decide +kernel

theorem keepRuns_call : ∀ x ∈ keepRuns, engReady (keepState x.1 x.2) .asm = some 3
    ∧ (getCtx (keepState x.1 x.2) 3).pc = Word.ofN 0x30008 ∧ (rdG (getCtx (keepState x.1 x.2) 3) 1).toNat = keepBlk
    ∧ (keepState x.1 x.2).asm.copying = none := by decide +kernel

theorem keepRuns_readable : ∀ x ∈ keepRuns, ∀ j < 32, (keepBlk + 4 * j) % 4 = 0
    ∧ keepBlk + 4 * j + 4 ≤ (homeOf (keepState x.1 x.2) .asm).2
    ∧ accessCause (keepState x.1 x.2) (unitOf .asm) false ((homeOf (keepState x.1 x.2) .asm).1 + (keepBlk + 4 * j)) 4 = none
    ∧ Tbl.get 0 (keepState x.1 x.2).mem.ecc
        (storedAt (keepState x.1 x.2) ((homeOf (keepState x.1 x.2) .asm).1 + (keepBlk + 4 * j)) / 8) = 0 := by decide +kernel

theorem keepRuns_accepted : ∀ x ∈ keepRuns, libOk (keepState x.1 x.2) 0x30000 0x10000 = true
    ∧ libBad (keepState x.1 x.2) keepBlk = none ∧ handleBusy (keepState x.1 x.2) 0 = false ∧ snapLocked (keepState x.1 x.2) = true
    ∧ 65535 + (netSizes (keepState x.1 x.2) keepBlk).sum ≤ (blkW (keepState x.1 x.2) keepBlk 2).toNat := by decide +kernel

theorem keepRuns_estimated : ∀ x ∈ keepRuns, (blkW (keepState x.1 x.2) keepBlk 29).field 24 8 = 0
    ∧ blkW (keepState x.1 x.2) keepBlk 25 ≠ 0
    ∧ (getWork (keepState x.1 x.2) keepBlk).accSnap = fGet (keepState x.1 x.2) 0x14 7
    ∧ (getWork (keepState x.1 x.2) keepBlk).accStatus < 2 := by decide +kernel

theorem keepRuns_ring : ∀ x ∈ keepRuns, domainOn (keepState x.1 x.2) 1 = true ∧ ringSlots (keepState x.1 x.2) keepBlk = 64
    ∧ keptUnits (keepState x.1 x.2) = 2 ∧ (keptNow (keepState x.1 x.2) keepBlk).length = 16
    ∧ partOffset (keepState x.1 x.2) keepBlk .ring ≤ 0x100000 ∧ 1 ≤ partOffset (keepState x.1 x.2) keepBlk .ring := by
  decide +kernel

theorem keepRuns_model : ∀ x ∈ keepRuns, (getWork (keepState x.1 x.2) keepBlk).keptModel = x.2
    ∧ (blkW (keepState x.1 x.2) keepBlk 26).field 16 16 = 0 := by decide +kernel

theorem keepState_callReady {x : Nat × Nat} (hx : x ∈ keepRuns) : CallReady (keepState x.1 x.2) 0x30008 keepBlk := by
  obtain ⟨hready, hentry, hblock, hcopied⟩ := keepRuns_call x hx
  refine ⟨hready, hentry, hblock, fun j hj => ?_, hcopied⟩
  obtain ⟨haligned, hinside, hmay, hclean⟩ := keepRuns_readable x hx j hj
  exact ⟨haligned, hinside, hmay, hclean⟩

/-- Every slot of the ring lies where ASM may write, whatever the library keeps for itself. -/
theorem keepState_slot {x : Nat × Nat} (hx : x ∈ keepRuns) {slot : Nat} (hslot : slot < 64) :
    0x0800000020 ≤ keptAddr (keepState x.1 x.2) keepBlk slot ∧ keptAddr (keepState x.1 x.2) keepBlk slot + 64 ≤ 0x0802800000
    ∧ keptAddr (keepState x.1 x.2) keepBlk slot % 8 = 0 := by
  obtain ⟨-, -, hunits, -, hhi, hlo⟩ := keepRuns_ring x hx
  have hmore := (Config.workMore (netSizes (keepState x.1 x.2) keepBlk).sum).isLt
  unfold keptAddr objAddr
  rw [netPart_eq, hunits]
  omega

theorem nextSlot_lt {x : Nat × Nat} (hx : x ∈ keepRuns) : nextSlot (keepState x.1 x.2) keepBlk < 64 := by
  obtain ⟨-, hring, -⟩ := keepRuns_ring x hx
  unfold nextSlot
  rw [hring]
  split
  · decide
  · exact Nat.mod_lt _ (by decide)

theorem keepState_keepReady {x : Nat × Nat} (hx : x ∈ keepRuns) : KeepReady (keepState x.1 x.2) keepBlk := by
  obtain ⟨hlib, hblock, hidle, hsnap, hroom⟩ := keepRuns_accepted x hx
  obtain ⟨hresting, hestimated, hcurrent, htrusted⟩ := keepRuns_estimated x hx
  obtain ⟨hon, -, -, hlength, -⟩ := keepRuns_ring x hx
  obtain ⟨hlo, hhi, -⟩ := keepState_slot hx (nextSlot_lt hx)
  refine ⟨libRefusal_none hlib hblock hidle hsnap hroom, hresting, hestimated, hcurrent, htrusted, ?_, ?_⟩
  · exact solverWord_writable hon hlo (by omega)
  · rw [hlength]
    exact solverWord_writable hon (by omega) (by omega)

/-! ## The hidden code stays -/

theorem hiddenCodes_get (n : Nat) : Tbl.get 0 hiddenCodes n = 0 := by
  by_cases h : hiddenWord = n
  · simp [hiddenCodes, Tbl.get, Tbl.find, h]
  · simp [hiddenCodes, Tbl.get, Tbl.find, h]

/-- A write of words that does not cover the hidden word whole leaves its codes. -/
theorem hwWords_hidden {s : State} (h : s.mem.ecc = hiddenCodes) (u a : Nat) (ws : List Word)
    (hpart : 8 * hiddenWord < a ∨ a + 4 * ws.length < 8 * hiddenWord + 8) : (hwWords s u a ws).mem.ecc = hiddenCodes := by
  have hclean : edgeRead s { unit := u } a (wordBytes ws).length = (s, []) :=
    edgeRead_clean s _ a _ (fun x _ _ => by rw [h]; exact hiddenCodes_get _)
  have hkept : hiddenCodes.filter (fun e => 8 * e.1 < a || a + 4 * ws.length < 8 * e.1 + 8) = hiddenCodes := by
    refine List.filter_eq_self.2 (fun e he => ?_)
    have : e.1 = hiddenWord := by
      rcases List.mem_pair.1 he with rfl | rfl <;> rfl
    rw [this]
    simpa using hpart
  unfold hwWords hwWrite
  rw [hclean]
  simp only [List.isEmpty_nil, if_true, setBytes_ecc, eccSpan, wordBytes_length, h, hkept]

theorem setBlkPart_hidden {s : State} (h : s.mem.ecc = hiddenCodes) (lo len v : Nat) :
    (setBlkPart s keepBlk 27 lo len v).mem.ecc = hiddenCodes :=
  hwWords_hidden h 0x14 _ _ (Or.inr (by rw [List.length_singleton]; decide))

theorem setWork_mem (s : State) (blk : Nat) (x : LibWork) : (setWork s blk x).mem = s.mem := by
  unfold setWork
  rfl

theorem libReturn_mem (s : State) (status : Nat) (d : Word) : (libReturn s status d).mem = s.mem := by
  unfold libReturn
  rfl

theorem libEvent_mem (s : State) (n : Nat) : (libEvent s n).mem = s.mem := by
  unfold libEvent
  split
  · rfl
  · exact raise_mem s n

theorem snapKept_hidden {x : Nat × Nat} (hx : x ∈ keepRuns) : (snapKept (keepState x.1 x.2) keepBlk).mem.ecc = hiddenCodes := by
  obtain ⟨hlo, -⟩ := keepState_slot hx (nextSlot_lt hx)
  have hstored : (snapStored (keepState x.1 x.2) keepBlk).mem.ecc = hiddenCodes := by
    unfold snapStored
    rw [setWork_mem]
    exact hwWords_hidden (keepRuns_codes x hx) 0x14 _ _ (Or.inl (by unfold hiddenWord; omega))
  have hcounted : (snapCounted (keepState x.1 x.2) keepBlk).mem.ecc = hiddenCodes :=
    setBlkPart_hidden (setBlkPart_hidden hstored _ _ _) _ _ _
  unfold snapKept
  rw [libReturn_mem, libEvent_mem, hcounted]

/-! ## What the library reads of the count -/

/-- Snapshots kept, as the library reads them after `f` choices. -/
def hiddenCount (f : Nat) : Nat := (Config.noData f (8 * hiddenWord)).field 8 8

theorem count_hidden {s : State} (h : s.mem.ecc = hiddenCodes) : (blkW s keepBlk 27).field 8 8 = hiddenCount s.free := by
  have hbad : readable s (8 * hiddenWord) 4 = false := by
    unfold readable
    rw [h]
    decide
  have haddr : mdlBase + keepBlk + 4 * 27 = 8 * hiddenWord := by decide
  unfold blkW given
  rw [haddr, hbad]
  rfl

/-- The statement makes a choice follow from the choice 40 before it, in a way that depends on the model that the ring was written for. -/
theorem hiddenCount_of_statement (h : Obligations.LibraryCallsReturnTheirStatus) {x : Nat × Nat} (hx : x ∈ keepRuns) :
    hiddenCount (x.1 + 40) = min 64 ((if x.2 = 0 then min (hiddenCount x.1) 64 else 0) + 1) := by
  obtain ⟨-, hring, -⟩ := keepRuns_ring x hx
  obtain ⟨hnotes, hmodel⟩ := keepRuns_model x hx
  have hcount := keptCount_of_statement h (keepState_callReady hx) (keepState_keepReady hx)
  have hbefore : keptCount (keepState x.1 x.2) keepBlk = min (hiddenCount x.1) 64 := by
    rw [keptCount, hring, count_hidden (keepRuns_codes x hx), keepRuns_free x hx]
  rw [count_hidden (snapKept_hidden hx), snapKept_free, keepRuns_free x hx, hring] at hcount
  rw [hcount]
  unfold keptOn ringStale
  rw [hbefore, hnotes, hmodel]
  by_cases hm : x.2 = 0
  · simp [hm]
  · by_cases hz : min (hiddenCount x.1) 64 = 0
    · simp [hm, hz]
    · simp [hm, hz]

/-- Refutes O36: the statement's block counts as clean by its first code, yet the library is refused the word that counts the kept
snapshots, so that what it reads there is no function of what `cal.keep` wrote. -/
theorem not_libraryCallsReturnTheirStatus : ¬ Obligations.LibraryCallsReturnTheirStatus := by
  intro h
  have hfirst : hiddenCount 40 = 1 := hiddenCount_of_statement h (x := (0, 1)) (by decide)
  have hgrown : hiddenCount 80 = min 64 (min (hiddenCount 40) 64 + 1) := hiddenCount_of_statement h (x := (40, 0)) (by decide)
  have hcleared : hiddenCount 80 = 1 := hiddenCount_of_statement h (x := (40, 1)) (by decide)
  omega

end Sys2Proof.Machine
end

section
/-! SUPPORT. The end of an `est.run` whose iteration limit is 0, and a word of memory that it does not write (R269, R271, R275). -/
namespace Sys2Proof.Machine

/-! ## A word that writes elsewhere leave -/

/-- Memory is free of errors still, and the word at an address is as it was. -/
structure WordKept (a : Nat) (s t : State) : Prop where
  clean : t.mem.ecc = []
  word : memW t a = memW s a

theorem WordKept.trans {a : Nat} {s t u : State} (h : WordKept a s t) (k : WordKept a t u) : WordKept a s u :=
  ⟨k.clean, k.word.trans h.word⟩

theorem WordKept.of_mem {a : Nat} {s t : State} (ha : a + 4 ≤ 0x0E00000000) (hecc : s.mem.ecc = []) (hm : t.mem = s.mem)
    (hl : t.asm.lib = s.asm.lib) : WordKept a s t :=
  ⟨hm ▸ hecc, memW_of_lib ha hm hl⟩

theorem WordKept.blkW_eq {s t : State} {blk n : Nat} (h : WordKept (mdlBase + blk + 4 * n) s t) (hs : s.mem.ecc = []) :
    blkW t blk n = blkW s blk n := by
  unfold blkW
  rw [given_noErrors t _ h.clean, given_noErrors s _ hs, h.word]

theorem WordKept.hwWords {a : Nat} {s : State} (hecc : s.mem.ecc = []) (u b : Nat) (ws : List Word)
    (hlow : b + 4 * ws.length ≤ 0x0C00000000) (hout : a + 4 ≤ b ∨ b + 4 * ws.length ≤ a) : WordKept a s (hwWords s u b ws) := by
  rw [hwWords_noErrors s u b ws hecc]
  refine ⟨by rw [setBytes_ecc, hecc], memW_congr fun x _ _ => ?_⟩
  exact memByte_setBytes_low _ s b x (by rw [wordBytes_length]; exact hlow) (by rw [wordBytes_length]; omega)

/-- Part of another word of a block is written. -/
theorem WordKept.setBlkPart {s : State} (hecc : s.mem.ecc = []) {blk n m : Nat} (hb : blk + 4 * m + 4 ≤ 0x0400000000) (hn : n < m)
    (lo len v : Nat) : WordKept (mdlBase + blk + 4 * n) s (setBlkPart s blk m lo len v) := by
  refine WordKept.hwWords hecc 0x14 _ _ ?_ (Or.inl (by omega))
  rw [List.length_singleton, mdlBase]
  omega

theorem stageFree_mem (s : State) : (stageFree s).mem = s.mem := by
  unfold stageFree
  split <;> rfl

theorem stageFree_lib (s : State) : (stageFree s).asm.lib = s.asm.lib := by
  unfold stageFree
  split <;> rfl

theorem libDrop_mem (mat vec : Bool) (s : State) : (libDrop mat vec s).mem = s.mem := stageFree_mem _

theorem libDrop_lib (mat vec : Bool) (s : State) : (libDrop mat vec s).asm.lib = s.asm.lib := stageFree_lib _

theorem deliverSet_mem {s : State} (hecc : s.mem.ecc = []) (i : Nat) (ws : List Word) : (deliverSet s i ws).mem = s.mem := by
  unfold deliverSet
  rw [eccSpan_noErrors s _ _ hecc]

theorem deliverSet_lib (s : State) (i : Nat) (ws : List Word) : (deliverSet s i ws).asm.lib = s.asm.lib := by
  unfold deliverSet eccSpan
  rfl

theorem libReturn_lib (s : State) (status : Nat) (d : Word) : (libReturn s status d).asm.lib = s.asm.lib := by
  unfold libReturn
  rfl

/-- A call that ends with a status returns, and writes no memory. -/
theorem WordKept.libFinish {a : Nat} {s t : State} (h : WordKept a s t) (ha : a + 4 ≤ 0x0E00000000) (event status : Nat) :
    ∃ u, libFinish t event (.status status none) = .ok u ∧ WordKept a s u := by
  refine ⟨_, rfl, h.trans (.of_mem ha h.clean ?_ ?_)⟩
  · rw [libReturn_mem, libEvent_mem]
  · rw [libReturn_lib, (libEvent_reports _ _).asm_eq]

/-- A run that is not accepted returns, and writes no memory but the process image. -/
theorem WordKept.estFail {a : Nat} {s t : State} (h : WordKept a s t) (ha : a + 4 ≤ 0x0E00000000) (blk : Nat) (r : EstRun)
    (fl status : Nat) : ∃ u, estFail t blk r fl (.status status none) = .ok u ∧ WordKept a s u := by
  have hfree : (freeW t).1.mem.ecc = [] := h.clean
  have hset (i : Nat) (ws : List Word) : WordKept a s (deliverSet (freeW t).1 i ws) :=
    h.trans (.of_mem ha h.clean (deliverSet_mem hfree i ws) (deliverSet_lib _ i ws))
  exact (hset _ _).libFinish ha _ status

/-! ## `est.run` up to its first solve -/

/-- The run has its sequence number. -/
def estBegun (s : State) (blk : Nat) : State := setBlkW (countComps s blk) blk 24 (blkW s blk 24 + 1)

/-- The start vector of a run that has begun. -/
def estStart (s : State) (blk : Nat) : List Int :=
  if (blkW s blk 0).tst 0 || blkW s blk 25 == 0 || (blkW s blk 26).field 16 16 != fPart s 0x14 6 0 16 then flatStart s blk
  else objVec s (netPart s blk .xAcc) (columns s)

/-- The Transit advance of the run has ended. -/
def estAdvanced (s : State) (blk : Nat) : State := (estTransit (estBegun s blk) (estStart (estBegun s blk) blk)).1

/-- A run that has stored its start vector and may not iterate ends with status 0x10. -/
theorem estRun_noIterations {s t : State} {blk : Nat} {x : List Int} (hstart : estStart (estBegun s blk) blk = x)
    (hput : putWork (estAdvanced s blk) blk x = .ok t ()) (hlimit : blkW t blk 4 = 0) :
    ∃ mat vec h r fl, estRun s blk = estFail (setBlkPart (libDrop mat vec t) blk 26 0 16 h) blk r fl (.status 0x10 none) := by
  subst hstart
  have hsolve (r : EstRun) : solve t blk r = (t, r, some (.status 0x10 none)) := by
    unfold solve
    rw [hlimit]
    rfl
  unfold estAdvanced estStart estBegun at hput
  unfold estRun
  dsimp only
  rw [hput]
  dsimp only
  rw [hsolve]
  exact ⟨_, _, _, _, _, rfl⟩

theorem vecWords_nil_length : (vecWords 0 []).length = 8 := rfl

/-- Without columns, the start vector is a header, which lies in solver memory behind X_ACC. -/
theorem putWork_empty {s : State} {blk : Nat} (hecc : s.mem.ecc = []) (hon : domainOn s 1 = true)
    (hoffset : partOffset s blk .xWork = 1) :
    ∃ t, putWork s blk [] = .ok t () ∧ ∀ a, a + 4 ≤ 0x0800000000 → WordKept a s t := by
  have hmore := (Config.workMore (netSizes s blk).sum).isLt
  have hplace : objAddr (netPart s blk .xWork) = 0x0800000020 + 32 * (Config.workMore (netSizes s blk).sum).toNat := by
    unfold objAddr
    rw [netPart_eq, hoffset]
    omega
  have hlast : accessCause s 0x14 true (objAddr (netPart s blk .xWork) + 4 * (vecWords 0 []).length - 4) 4 = none := by
    rw [vecWords_nil_length]
    exact solverWord_writable hon (by omega) (by omega)
  refine ⟨_, libPut_stores (solverWord_writable hon (by omega) (by omega)) hlast, fun a ha => ?_⟩
  exact .hwWords hecc 0x14 _ _ (by rw [vecWords_nil_length]; omega) (Or.inl (by omega))

/-- A run on no columns whose iteration limit is 0 after the advance returns, and its sequence number is what the advance leaves. -/
theorem estRun_afterAdvance {s z : State} {blk : Nat} (hz : estAdvanced s blk = z) (hblk : blk + 128 ≤ 0x0400000000)
    (hstart : estStart (estBegun s blk) blk = []) (hecc : z.mem.ecc = []) (hon : domainOn z 1 = true)
    (hoffset : partOffset z blk .xWork = 1) (hlimit : blkW z blk 4 = 0) :
    ∃ t, estRun s blk = .ok t ∧ blkW t blk 24 = blkW z blk 24 := by
  obtain ⟨p, hput, hout⟩ := putWork_empty hecc hon hoffset
  have hplace (n : Nat) (hn : n < 32) : mdlBase + blk + 4 * n + 4 ≤ 0x0800000000 := by
    unfold mdlBase
    omega
  have hstored (n : Nat) (hn : n < 32) : WordKept (mdlBase + blk + 4 * n) z p := hout _ (hplace n hn)
  have hstop : blkW p blk 4 = 0 := ((hstored 4 (by decide)).blkW_eq hecc).trans hlimit
  obtain ⟨mat, vec, h, r, fl, hrun⟩ := estRun_noIterations hstart (hz ▸ hput) hstop
  have ha : mdlBase + blk + 4 * 24 + 4 ≤ 0x0E00000000 := (hplace 24 (by decide)).trans (by decide)
  have hp := hstored 24 (by decide)
  have hdropped : WordKept (mdlBase + blk + 4 * 24) z (libDrop mat vec p) :=
    hp.trans (.of_mem ha hp.clean (libDrop_mem _ _ _) (libDrop_lib _ _ _))
  have hhandle := hdropped.trans (WordKept.setBlkPart (m := 26) hdropped.clean (by omega) (by decide) 0 16 h)
  obtain ⟨t, ht, hkept⟩ := hhandle.estFail ha blk r fl 0x10
  exact ⟨t, hrun.trans ht, hkept.blkW_eq hecc⟩

theorem estRun_gives {s t : State} {blk : Nat} (hc : CallReady s 0x30000 blk)
    (haccepted : libRefusal s blk ((blkW s blk 26).field 0 16) true = none) (ht : estRun s blk = .ok t) : Gives s .estRun t := by
  refine congrArg (done s) (hc.call (by decide) ?_)
  rw [hc.copied, haccepted]
  exact ht

end Sys2Proof.Machine
end

section
/-! SUPPORT. An `est.run` whose block lies in the plug store, which the Transit advance of the run reinitialises (R186, R269). -/
namespace Sys2Proof.Machine

/-- Home offset of the block, in the plug store's last records, and what the host stored there. -/
def plugBlk : Nat := 0x3FFF80
def plugBlkWords : List Word :=
  [0x10000000, 1, 0x13FFFF, 0x53C40, 0x10001, 1, 1, 1, 1, 1, 1, 0, 65536, 1, 1, 1, 0, 0, 0, 0x01020000, 0x77F40, 1]

/-- ASM stands at `est.run` with a snapshot locked, and a reinitialisation of the plug store waits. -/
def plugState : State :=
  setWords { fSet (fSet State.reset 0x14 8 1) 0x14 0xB 0x100000 with
    ctxs := [(3, { live := true, pc := 0x30000, g := [(1, 0x3FFF80), (31, 0x400)] })]
    asm := { lib := true, reinit := some {} } } (mdlBase + plugBlk) plugBlkWords

theorem plugState_call : engReady plugState .asm = some 3 ∧ (getCtx plugState 3).pc = Word.ofN 0x30000
    ∧ (rdG (getCtx plugState 3) 1).toNat = plugBlk ∧ plugState.asm.copying = none := by decide +kernel

theorem plugState_readable : ∀ j < 32, (plugBlk + 4 * j) % 4 = 0 ∧ plugBlk + 4 * j + 4 ≤ (homeOf plugState .asm).2
    ∧ accessCause plugState (unitOf .asm) false ((homeOf plugState .asm).1 + (plugBlk + 4 * j)) 4 = none
    ∧ Tbl.get 0 plugState.mem.ecc (storedAt plugState ((homeOf plugState .asm).1 + (plugBlk + 4 * j)) / 8) = 0 := by decide +kernel

theorem plugState_accepted : libOk plugState 0x30000 0x10000 = true ∧ libBad plugState plugBlk = none
    ∧ handleBusy plugState ((blkW plugState plugBlk 26).field 0 16) = false ∧ snapLocked plugState = true
    ∧ 65535 + (netSizes plugState plugBlk).sum ≤ (blkW plugState plugBlk 2).toNat := by decide +kernel

theorem plugState_fits : plugState.mem.ecc = [] ∧ domainOn plugState 1 = true ∧ 1 ≤ (blkW plugState plugBlk 1).field 0 24
    ∧ (blkW plugState plugBlk 1).field 0 24 + (blkW plugState plugBlk 2).toNat ≤ 0x140000
    ∧ 0x0800000020 ≤ stageAddr plugState 0 ∧ stageAddr plugState (fGet plugState 0x14 0xD).toNat ≤ 0x0802800000 := by decide +kernel

theorem plugState_ready : CallReady plugState 0x30000 plugBlk := by
  obtain ⟨hready, hentry, hblock, hcopied⟩ := plugState_call
  refine ⟨hready, hentry, hblock, fun j hj => ?_, hcopied⟩
  obtain ⟨haligned, hinside, hmay, hclean⟩ := plugState_readable j hj
  exact ⟨haligned, hinside, hmay, hclean⟩

theorem plugState_notRefused : libRefusal plugState plugBlk ((blkW plugState plugBlk 26).field 0 16) true = none := by
  obtain ⟨hlib, hblock, hidle, hsnap, hroom⟩ := plugState_accepted
  exact libRefusal_none hlib hblock hidle hsnap hroom

/-! ## The reinitialisation clears the block -/

theorem plugState_start : estStart (estBegun plugState plugBlk) plugBlk = [] := by decide +kernel

/-- TRN does not run, so that only the reinitialisation takes place. -/
theorem plugState_advanced : (estAdvanced plugState plugBlk).mem.ecc = [] ∧ domainOn (estAdvanced plugState plugBlk) 1 = true
    ∧ partOffset (estAdvanced plugState plugBlk) plugBlk .xWork = 1 ∧ blkW (estAdvanced plugState plugBlk) plugBlk 4 = 0
    ∧ blkW (estAdvanced plugState plugBlk) plugBlk 24 = 0 := by decide +kernel

/-- The run returns with its sequence number cleared. -/
theorem plugState_gives : ∃ t, Gives plugState .estRun t ∧ blkW t plugBlk 24 = 0 := by
  obtain ⟨hecc, hon, hoffset, hlimit, hsequence⟩ := plugState_advanced
  obtain ⟨t, ht, hkept⟩ := estRun_afterAdvance rfl (by decide) plugState_start hecc hon hoffset hlimit
  exact ⟨t, estRun_gives plugState_ready plugState_notRefused ht, hkept.trans hsequence⟩

/-- What the statement asks of an estimate's sequence number. -/
theorem sequence_of_statement (h : Obligations.LibraryRunsComeToTheirEnd) {s : State} {blk : Nat} (hc : CallReady s 0x30000 blk)
    (haccepted : libRefusal s blk ((blkW s blk 26).field 0 16) true = none)
    (hfits : s.mem.ecc = [] ∧ domainOn s 1 = true ∧ 1 ≤ (blkW s blk 1).field 0 24
      ∧ (blkW s blk 1).field 0 24 + (blkW s blk 2).toNat ≤ 0x140000
      ∧ 0x0800000020 ≤ stageAddr s 0 ∧ stageAddr s (fGet s 0x14 0xD).toNat ≤ 0x0802800000) :
    ∃ t, Gives s .estRun t ∧ blkW t blk 24 = blkW s blk 24 + 1 := by
  obtain ⟨hclean, hon, hbase, hregion, hstage, hstaged⟩ := hfits
  have hruns := h s s hc.ready
  rw [hc.block] at hruns
  obtain ⟨hest, -⟩ := hruns ⟨hclean, hon, hc.words, hbase, hregion, hstage, hstaged⟩
  obtain ⟨t, -, ht, -, -, -, -, -, hmoved⟩ := hest hc.entry hc.copied haccepted
  exact ⟨t, ht, hmoved 24 rfl⟩

/-- Refutes O37 in its clause on `est.run`, which leaves open where the block lies: in `plugState` it lies in the plug store, and the run's
own Transit advance makes the reinitialisation that waits clear it after the sequence number has moved on. -/
theorem not_libraryRunsComeToTheirEnd : ¬ Obligations.LibraryRunsComeToTheirEnd := by
  intro h
  obtain ⟨t, ht, hmoved⟩ := sequence_of_statement h plugState_ready plugState_notRefused plugState_fits
  obtain ⟨u, hu, hcleared⟩ := plugState_gives
  have hbefore : blkW plugState plugBlk 24 = 0 := by decide +kernel
  rw [ht.blkW_unique hu, hcleared, hbefore] at hmoved
  exact absurd hmoved (by decide)

end Sys2Proof.Machine
end
